-- ==== Sys2Proof/Word.lean ====
section
/-!
DEFINITION. The word types of the TGM-4812 model: bytes, register words, and the exact numbers that the
arithmetic of chapters 04 and 08 is stated over.
-/

namespace Sys2Proof

abbrev Byte := BitVec 8
abbrev Word16 := BitVec 16
abbrev Word32 := BitVec 32
abbrev Word64 := BitVec 64

namespace Arith

/-- An exact binary number `m * 2^e`: the products, sums and terms that R81 to R85 and R182 form exactly. -/
structure Dyadic where
  m : Int
  e : Int
  deriving DecidableEq, Repr

/-- What a floating-point code stands for (Table 4.1, Table 4.2). A finite value is `± m * 2^e`; a zero keeps its sign. -/
inductive FVal where
  | nan
  | inf (neg : Bool)
  | fin (neg : Bool) (m : Nat) (e : Int)
  deriving DecidableEq, Repr

/-- Which special codes a floating-point format has (Table 4.1, columns ∞ and NaN). -/
inductive Specials where
  /-- IEEE style: the largest exponent field holds ∞ and NaN. -/
  | ieee
  /-- FP8 E4M3: no infinity; only the codes 0x7F and 0xFF are NaN. -/
  | nanOnly
  /-- MXFP6 and MXFP4 elements: every code is finite. -/
  | none
  deriving DecidableEq, Repr

/-- Sign / exponent / significand widths, bias and special codes of a format (Table 4.1). -/
structure FSpec where
  ebits : Nat
  sbits : Nat
  bias : Int
  specials : Specials
  deriving DecidableEq, Repr

/-- The formats of Table 4.1 (R74), in code order; code 0xF is reserved. -/
inductive Fmt where
  | fp32 | bf16 | binary16 | e4m3 | e5m2 | int8 | int32
  | mxfp8e4m3 | mxfp8e5m2 | mxfp6e2m3 | mxfp6e3m2 | mxfp4 | bell | fp64 | int64
  deriving DecidableEq, Repr

/-- A result together with the SATURATED flag of the producing stage (R77). -/
structure Flagged where
  code : Nat
  saturated : Bool
  deriving DecidableEq, Repr

/-- Cell modes (Table 3.2). -/
inductive CellMode where
  | mac | absdiff | sqdiff | maxIdx | minIdx
  deriving DecidableEq, Repr

/-- R94: multiplier, shift and zero point of an integer rescaling. -/
structure Rescale where
  mult : Int
  shift : Nat
  zero : Int
  deriving DecidableEq, Repr

/-- Table 3.4: the activation of an epilogue; slope and bounds are FP32 codes; in a clamp of an INT8 result the bounds
are the low bytes, as INT8 codes (log 112). -/
inductive Activation where
  | none
  | relu
  | leaky (slope : Nat)
  | clamp (lo hi : Nat)
  deriving DecidableEq, Repr

end Arith

end Sys2Proof
end

