-- ==== Sys2Proof/Syntax/Fixture.lean ====
section
/-!
DEFINITION. The fixture image as the model receives it: the header of Table 2.1 and, in decoded form, the sections of
Table 2.2 (the spec gives no byte layout of the stage graph, the memory plan, the streams, the link plan or the demands;
log 4). Chapters 02, 05, 06, 07, 08.
-/

namespace Sys2Proof

open Arith

/-! ## Places -/

/-- What a region of the plan lies in: offsets within the partition's grant of a memory (02), the bench entry of a block and
micro-batch behind its header (R96), or the vector registers of one of the partition's engines (R179). -/
inductive Space where
  | scratch | infield | outfield
  | bench (block mb : Nat)
  | vreg (engine : Nat)
  deriving DecidableEq, Repr

/-- An offset within a space. -/
structure Loc where
  space : Space
  off : Nat
  deriving DecidableEq, Repr

/-- A completion token: producer in [31:30], sequence number in [29:0] (R23, Table 2.4). -/
abbrev Token := Word32

/-! ## Stages (Table 2.3, R44, R53, R54, R58, R59, R154) -/

inductive StageKind where
  | matmul | conv | distance | compare | attention | vector | update | collective | dma
  deriving DecidableEq, Repr

inductive ReadDir where
  | row | column
  deriving DecidableEq, Repr

/-- A rectangle of tiles of one of the partition's pitches (`pitch` counts the partition's pitches in ascending order). -/
structure Rect where
  pitch : Nat
  row : Nat
  col : Nat
  h : Nat
  w : Nat
  deriving DecidableEq, Repr

/-- Table 7.3: the masks; `reserved` is code 0b11. -/
inductive AttnMask where
  | none | causal | window | reserved
  deriving DecidableEq, Repr

/-- Table 7.1. -/
structure AttnParams where
  dH : Nat
  hKv : Nat
  group : Nat
  qBlock : Nat
  qFormat : Fmt
  kvFormat : Fmt
  outFormat : Fmt
  mask : AttnMask
  window : Nat
  /-- FP32 code of SCALE. -/
  scale : Nat
  lseOut : Bool
  pool : Option Nat
  deriving DecidableEq, Repr

/-- Epilogue parameters of a stage (Table 3.4): one value, or one per output column or row, held at a place. -/
inductive Param where
  | absent
  | one (code : Nat)
  | perOutput (loc : Loc) (fmt : Fmt)
  deriving DecidableEq, Repr

structure Epilogue where
  scale : Param
  bias : Param
  act : Activation
  residual : Option (Loc × Fmt)
  out : Fmt
  /-- R94: multiplier, shift and zero point: none, one for the whole stage, or one per output column or row. -/
  rescale : List Rescale
  /-- A step outside Table 3.4 was asked of the drain row (R194). -/
  foreign : Bool
  deriving DecidableEq, Repr

/-- Diagonal reuse of a CONV stage (R58). -/
structure Diagonal where
  chain : Nat
  stride : Nat
  dilation : Nat
  deriving DecidableEq, Repr

/-- One stage of the stage graph. -/
structure Stage where
  kind : StageKind
  /-- Tile rectangles: one for a pitch stage, the pitches of an attention stage, the borrowed one of a matrix rule. -/
  rects : List Rect
  /-- Result rows of an output block (R49, R65). -/
  blockRows : Nat
  /-- The partition's vector engine (by index among its engines), for ATTENTION, VECTOR and UPDATE stages. -/
  engine : Option Nat
  /-- Link die of a COLLECTIVE stage. -/
  die : Option Nat
  /-- Half whose DMA engine a DMA stage uses. -/
  half : Option Nat
  mode : CellMode
  read : ReadDir
  fmtA : Fmt
  fmtB : Fmt
  topk : Nat
  epilogue : Epilogue
  diagonal : Option Diagonal
  attn : Option AttnParams
  /-- Most terms one accumulation of the stage can take (R184). -/
  maxTerms : Nat
  /-- Largest number of accumulators in use at once (R188), and the room its plan gives for parked images, in bytes. -/
  accumulators : Nat
  parkBytes : Nat
  parkAt : Loc
  /-- A format the module does not support was named (MXINT8, another block size; R78). -/
  badFormat : Bool
  /-- The stage's adds run in ARRIVAL mode (R217). -/
  arrival : Bool
  deriving DecidableEq, Repr

/-! ## Operations and what they compute -/

/-- Where a bell-grid tensor keeps its FP8 pool: its entries P and the bytes the plan gives the region (R88, R438). -/
structure BellPlan where
  pool : Loc
  entries : Nat
  regionBytes : Nat
  deriving DecidableEq, Repr

/-- A row-major matrix of one format; `scales` is the region of its E8M0 codes, one per 32 contraction indices. -/
structure Mat where
  loc : Loc
  fmt : Fmt
  rows : Nat
  cols : Nat
  /-- Delivered column by column (R101): the stored matrix is read transposed. -/
  byCols : Bool
  scales : Option Loc
  pool : Option BellPlan
  deriving DecidableEq, Repr

/-- Where a product's stationary operand comes from: a load, or the contents that an earlier load left in the active banks of
the stage's rectangle (R102): a matrix that one load holds whole. -/
inductive Stationary where
  | load (m : Mat)
  | left (fmt : Fmt) (rows cols : Nat)
  deriving DecidableEq, Repr

/-- A weight-gradient operation forms results of a tensor from this element on (R102, R105). -/
structure GradOf where
  tensor : Nat
  row : Nat
  col : Nat
  deriving DecidableEq, Repr

/-- A filter tap and block of 32 channels, in the contraction order that the toolchain placed (03, "Convolution"). -/
structure Tap where
  ky : Nat
  kx : Nat
  cblock : Nat
  deriving DecidableEq, Repr

structure ConvShape where
  height : Nat
  width : Nat
  channels : Nat
  outH : Nat
  outW : Nat
  filters : Nat
  kw : Nat
  stride : Nat
  dilation : Nat
  padY : Nat
  padX : Nat
  taps : List Tap
  deriving DecidableEq, Repr

/-- Two-operand vector instructions (Table 8.2). -/
inductive VecOp2 where
  | add | sub | mul | min | max | lt | le | eq | div
  deriving DecidableEq, Repr

/-- One-operand vector instructions (Table 8.2). -/
inductive VecOp1 where
  | sqrt | rsqrt | exp2 | log2 | ln | sigmoid | silu | tanh | gelu | neg
  deriving DecidableEq, Repr

/-- A vector instruction over `n` elements at places in memory (Table 8.2); accumulators are named by number. -/
inductive VecInstr where
  | op2 (op : VecOp2) (fmt : Fmt) (dst a b : Loc) (n : Nat)
  | op1 (op : VecOp1) (fmt dstFmt : Fmt) (dst a : Loc) (n : Nat)
  | fma (fmt : Fmt) (dst a b c : Loc) (n : Nat)
  | select (fmt : Fmt) (dst cond a b : Loc) (n : Nat)
  | convert (src dstFmt : Fmt) (dst a : Loc) (n : Nat)
  | mxQuantise (fmt : Fmt) (dst scales a : Loc) (n : Nat)
  | mxDecode (fmt : Fmt) (dst a scales : Loc) (n : Nat)
  | bellEncode (dst : Loc) (plan : BellPlan) (tensor : Nat) (a : Loc) (n : Nat)
  | bellDecode (dst a : Loc) (plan : BellPlan) (n : Nat)
  | rescale (r : Rescale) (dst a : Loc) (n : Nat)
  | xsumClear (acc : Nat)
  | xsumAdd (acc : Nat) (fmt : Fmt) (a : Loc) (n : Nat)
  | xsumAddProducts (acc : Nat) (a b : Loc) (n : Nat)
  | xsumScaleDown (acc s : Nat)
  | xsumScaleUp (acc s : Nat)
  | xsumCombine (acc other : Nat)
  | xsumConvert (acc : Nat) (fmt : Fmt) (dst : Loc)
  | normRow (rms : Bool) (eps : Nat) (dst gamma beta a : Loc) (n : Nat)
  | normBack (rms : Bool) (eps : Nat) (dst gamma beta a dy : Loc) (n : Nat)
  /-- R190: `lse` is where the row's log-sum-exp goes, in FP32. -/
  | softmax (dst : Loc) (lse : Option Loc) (a : Loc) (vis : List Bool)
  | softmaxBack (dst p dy : Loc) (n : Nat)
  /-- R191: the loss term of one row, added to micro-batch `mb` of the step. -/
  | lossRow (mb : Nat) (a : Loc) (vis : List Bool) (target : Nat)
  /-- R115: an FP32 gradient times 2^e, e the loss-scale exponent in force. -/
  | scaleByLoss (dst a : Loc) (n : Nat)
  /-- MATRIX: a product on the borrowed rectangle (R192): dst = a · b. -/
  | matrix (a b : Mat) (dst : Loc)
  deriving DecidableEq, Repr

/-- One sequence of an attention operation (07). -/
structure AttnSeq where
  /-- Offset of its page list in the partition's infield grant; none for a memory-plan region. -/
  list : Option Nat
  /-- New tokens appended (0 to 65 536). -/
  newTokens : Nat
  /-- Query positions of a paged sequence: the last ones once the new tokens are appended. -/
  queries : Nat
  /-- Query positions of the micro-batch before the sequence's own (R103, R164). -/
  row0 : Nat
  q : Loc
  k : Loc
  v : Loc
  out : Loc
  lse : Loc
  /-- Memory-plan form: positions written, and the (position, START) of each query position (R161). Of a paged sequence, the
  positions that dK and dV have room for. -/
  written : Nat
  rows : List (Nat × Nat)
  /-- Backward sweeps (R163): gradients of the output and of lse, D, and the gradients of Q, K and V. -/
  dOut : Loc
  gLse : Option Loc
  dD : Loc
  dQ : Loc
  dK : Loc
  dV : Loc
  deriving DecidableEq, Repr

/-- Which pass of an attention stage an operation makes. -/
inductive AttnPass where
  | forward | sweep1 | sweep2
  deriving DecidableEq, Repr

/-- Table 10.13. -/
inductive CollectiveKind where
  | reduceScatter | allReduce | allGather | broadcast | xsum | add
  deriving DecidableEq, Repr

structure Collective where
  kind : CollectiveKind
  group : Nat
  /-- Tree of the group's route-table record that carries it. -/
  tree : Nat
  /-- Number of the collective; for REDUCE_SCATTER and ALL_REDUCE that of the bucket. -/
  bucket : Nat
  /-- Member that holds the data of ALL_GATHER and BROADCAST, or the target of ADD. -/
  source : Nat
  loc : Loc
  bytes : Nat
  /-- ADD: receiving window, target format and incoming format. -/
  window : Nat
  fmt : Fmt
  /-- Links its traffic crosses. -/
  links : List Nat
  /-- XSUM: accumulators combined. -/
  acc : Nat
  deriving DecidableEq, Repr

/-- What an operation computes when it completes. -/
inductive Payload where
  /-- Work whose results the model does not hold. -/
  | idle
  /-- out = a · b under the stage's mode and epilogue, in the operation's own read direction (R46, R47); `out` is row-major. Of
  a gradient's results the masked ones are not formed (R105). -/
  | product (read : ReadDir) (a : Mat) (b : Stationary) (out : Loc) (grad : Option GradOf)
  /-- A convolution; with `grad`, its weight gradient: `a` is the image, `b` the output's gradient, one row for each position,
  contracted over positions (R102). -/
  | conv (shape : ConvShape) (read : ReadDir) (a : Mat) (b : Mat) (out : Loc) (grad : Option GradOf)
  /-- `valid` is the start of the result region, where the validity bitmap is written (13, Table 13.2). -/
  | attention (pass : AttnPass) (seqs : List AttnSeq) (valid : Option Loc)
  /-- Sub-operations in order (R195). -/
  | vector (subs : List (List VecInstr))
  /-- R105, R113: the FP32 chains at `chains` of the tensor's elements `first` to `first + n - 1` enter the bucket, those that
  its mask keeps, for micro-batch `mb`. -/
  | bucketAdd (bucket tensor first n : Nat) (chains : Loc) (mb : Nat)
  | update (layer : Nat)
  | collective (c : Collective)
  | dma (src dst : Loc) (bytes : Nat)
  deriving DecidableEq, Repr

/-- A bench entry an operation of the forward stream writes: block, micro-batch, bytes, and where the block receives its input
(R96, R97). -/
structure BenchWrite where
  block : Nat
  mb : Nat
  bytes : Nat
  src : Loc
  deriving DecidableEq, Repr

/-- Blocks of the module an operation uses (R338, R443), beside its stage's own. -/
structure Uses where
  infield : Bool
  outfield : Bool
  banks : List Nat
  deriving DecidableEq, Repr

/-- One operation of a stream, in list order (02, "Three streams"). -/
structure StreamOp where
  /-- Step it belongs to, counted from the fixture's first step. -/
  step : Nat
  mb : Nat
  stage : Nat
  layer : Nat
  waits : List Token
  payload : Payload
  reported : Bool
  bench : Option BenchWrite
  /-- Bench entry freed at its completion: the last backward operation of the block for the micro-batch (R98). -/
  frees : Option (Nat × Nat)
  uses : Uses
  /-- Its adds run in ARRIVAL mode (R17, R217). -/
  arrival : Bool
  deriving DecidableEq, Repr

/-! ## Parameter groups, tensors, buckets (Tables 6.1 to 6.3) -/

structure GroupRec where
  id : Nat
  rule : Nat
  fallback : Nat
  flags : Word16
  lrPeak : Nat
  lrEnd : Nat
  warmup : Nat
  decaySteps : Nat
  weightDecay : Nat
  beta1 : Nat
  beta2 : Nat
  eps : Nat
  clip : Nat
  matrixScale : Nat
  kronBeta : Nat
  kronDamping : Nat
  kronInterval : Nat
  kronDimMax : Nat
  /-- Reserved bytes of the record are zero. -/
  rsvdZero : Bool
  deriving DecidableEq, Repr



structure TensorRec where
  id : Nat
  group : Nat
  maskMode : Nat
  layer : Nat
  shard : Nat
  rows : Nat
  cols : Nat
  baseIndex : Nat
  /-- The mask bitmap, one bit per row or per block (R104). -/
  mask : List Bool
  /-- The module owns the tensor (R126). -/
  owned : Bool
  w : Loc
  c : Loc
  m : Loc
  v : Loc
  /-- The region its reduced gradient arrives in (binary16, unmasked elements packed). -/
  g : Loc
  mBell : BellPlan
  vBell : BellPlan
  /-- KRON: factors L, R and roots, FP32. -/
  kL : Loc
  kR : Loc
  kQL : Loc
  kQR : Loc
  deriving DecidableEq, Repr

/-- A bucket record (06), with the region its header and elements lie in. -/
structure BucketRec where
  id : Nat
  shift : Int
  first : Nat
  count : Nat
  loc : Loc
  /-- Elements it holds (R112). -/
  elements : Nat
  deriving DecidableEq, Repr

/-! ## Pools, plan, demands -/

/-- Table 7.5. -/
structure PoolRec where
  id : Nat
  kvFormat : Fmt
  hKv : Nat
  dH : Nat
  layers : Nat
  pages : Nat
  pageBytes : Nat
  base : Nat
  layerStride : Nat
  span : Nat
  rsvdZero : Bool
  deriving DecidableEq, Repr

/-- A page-list region of a pool (R167): offset in the infield grant and bytes. -/
structure ListRegion where
  pool : Nat
  off : Nat
  bytes : Nat
  deriving DecidableEq, Repr

/-- A write window that the LINK_PLAN asks for (Table 10.7). -/
structure WindowPlan where
  window : Nat
  ops : Nat
  domain : Nat
  loc : Loc
  length : Nat
  deriving DecidableEq, Repr

/-- A micro-batch: its rows and the row index of each sequence start (R110). -/
structure MicroBatch where
  step : Nat
  mb : Nat
  rows : Nat
  starts : List Nat
  deriving DecidableEq, Repr

/-- DEMANDS and LINK_PLAN: what the fixture check compares (R28, R37, R433). -/
structure Demands where
  banksWest : Nat
  banksEast : Nat
  exchangeWest : Nat
  exchangeEast : Nat
  /-- bytes -/
  infield : Nat
  outfield : Nat
  kvPages : Nat
  /-- (link, share demanded in 1/256) -/
  links : List (Nat × Nat)
  windows : List Nat
  deriving DecidableEq, Repr

/-- The parts of the memory plan that a rule names. -/
structure MemPlan where
  /-- Bench tiers in granules of 64 KiB: scratchpad and infield (R97). -/
  benchScratch : Nat
  benchInfield : Nat
  /-- Bytes of the outfield overflow region, if the plan has one (R21). -/
  benchOverflow : Option Nat
  /-- Where the three tiers start. -/
  benchAt : List Loc
  journal : Loc
  journalBytes : Nat
  deriving DecidableEq, Repr

structure Section where
  type : Nat
  offset : Nat
  length : Nat
  rsvdZero : Bool
  deriving DecidableEq, Repr

/-- Table 2.1. -/
structure FixtureHeader where
  magic : Word64
  format : Word32
  stepping : Word32
  length : Nat
  rbMin : Nat
  rbMax : Nat
  pitches : Nat
  sections : Nat
  build : Word32
  rsvdZero : Bool
  deriving DecidableEq, Repr

structure FixtureImage where
  header : FixtureHeader
  sections : List Section
  /-- Key that the image is signed with, if its signature verifies against that key. -/
  signer : Option Nat
  /-- SHA-384 of the image up to its SIGNATURE section. -/
  hash : Nat
  stages : List Stage
  plan : MemPlan
  fwd : List StreamOp
  bwd : List StreamOp
  upd : List StreamOp
  groups : List GroupRec
  tensors : List TensorRec
  buckets : List BucketRec
  pools : List PoolRec
  listRegions : List ListRegion
  windows : List WindowPlan
  demands : Demands
  /-- Layers of the early-update window, counted in backward order (R122). -/
  earlyWindow : Nat
  /-- Blocks of the STAGE_GRAPH: each writes one bench entry for each micro-batch (R96). -/
  blocks : List Nat
  /-- Step counter the fixture starts from (R125). -/
  firstStep : Nat
  microBatches : List MicroBatch
  deriving DecidableEq, Repr

end Sys2Proof
end

