-- ==== Sys2Proof/Syntax/Image.lean ====
section
/-!
DEFINITION. Schedule entries (11, Table 11.4), completed tokens (02) and snapshot images in decoded form (15, Tables 15.3 to 15.5).
-/

namespace Sys2Proof

/-- Table 11.4. -/
structure SchedEntry where
  beat : Nat
  tick : Nat
  kind : Nat
  part : Nat
  token : Token
  arg0 : Word32
  arg1 : Word64
  /-- Some reserved field is not 0. -/
  rsvd : Bool
  deriving DecidableEq, Repr

namespace Machine

/-- A completed token with its failure kind (R23, R437). -/
structure Done where
  token : Token
  failed : Option Nat
  deriving DecidableEq, Repr

/-- P1 and P2 of a group (R137), as FP64 codes. -/
structure GroupState where
  id : Nat
  p1 : Nat
  p2 : Nat
  deriving DecidableEq, Repr

/-- A section of an image (Table 15.4) in decoded form. -/
inductive SnapSection where
  | control (positions counts : List Nat) (board : List Done) (step : Nat) (scaleExp : Int)
      (clean history skips : Nat) (sums : List Nat)
  | schedule (entries : List SchedEntry)
  | lists (records : List (Nat × Nat × Nat))
  | groups (gs : List GroupState)
  | layer (layer : Nat) (spans : List (Loc × List Byte))
  | roots (layer : Nat) (spans : List (Loc × List Byte)) (valid : List Nat)
  deriving DecidableEq, Repr

/-- Table 15.5. -/
inductive SealState where
  | open_ | sealed | sealedUnverifiable | noStep
  deriving DecidableEq, Repr

/-- A snapshot image (Table 15.3). -/
structure Image where
  part : Nat
  /-- DEST of its header. -/
  dest : Nat
  /-- Destinations whose copies still exist. -/
  held : Nat
  serial : Word64
  step : Nat
  fixtureHash : Nat
  rbVersion : Nat
  /-- LENGTH of the copy at each destination: OWN, BUDDY, HOST (R355). -/
  lengths : List Nat
  sealed : SealState
  sealLoss : Nat
  sealVerdict : Nat
  sections : List SnapSection
  /-- Destination bit (0 OWN, 1 BUDDY, 2 HOST) that holds each section (R355). -/
  placed : List Nat
  /-- Own slot; some granule of the own copy lies on a retired outfield slot (R368). -/
  slot : Nat
  /-- Device address of the own copy. -/
  ownAt : Nat
  ownLost : Bool
  /-- Its seal is still to be written: the fixture has run on since the cut (R357). -/
  awaits : Bool
  hostAddr : Nat
  deriving DecidableEq, Repr

end Machine

end Sys2Proof
end

