-- ==== Sys2Proof/Syntax/Rulebook.lean ====
section
/-!
DEFINITION. The rulebook tables (12, Table 12.9) field by field, and a rulebook image in decoded form (12, R309; log 4).
Times are in ns, beats or steps as the field's own table says; powers in W; FP32 fields are codes.
-/

namespace Sys2Proof

/-- Table 11.3. -/
structure BeatConfig where
  beatNs : Nat
  beatEpoch : Nat
  edgeTol : Nat
  holdoverBeats : Nat
  noticeDelayMax : Nat
  rallyWindow : Nat
  grantRefresh : Nat
  safeGrant : Nat
  deriving DecidableEq, Repr

/-- Table 11.8. -/
structure OpEntry where
  freqMhz : Nat
  vcoreMv : Nat
  dutyStepW : Nat
  deriving DecidableEq, Repr

/-- Table 11.9. -/
structure RampRow where
  fromW : Nat
  up : Nat
  down : Nat
  deriving DecidableEq, Repr

/-- Table 11.10. -/
structure PowerControl where
  fixedMode : Bool
  fixedOp : Nat
  opDownDuty : Nat
  upMargin : Nat
  droopReleaseNs : Nat
  throttleC : Nat
  stopC : Nat
  tripC : Nat
  deriving DecidableEq, Repr

/-- Table 5.8. -/
structure LossScaleTable where
  restartExp : Int
  scaleMin : Int
  scaleMax : Int
  growth : Nat
  skipLimit : Nat
  deriving DecidableEq, Repr

/-- Table 6.5. -/
structure UpdateRulesTable where
  nsA : Nat
  nsB : Nat
  nsC : Nat
  kronIterMax : Nat
  kronTol : Nat
  deriving DecidableEq, Repr

/-- Table 9.5. -/
structure InterleaveMap where
  slotMap : List Nat
  retired : List Nat
  outSlotMap : List Nat
  outRetired : List Nat
  deriving DecidableEq, Repr

/-- Table 9.6 of 09_memory.md (`MEMORY_CONTROL`). -/
structure MemoryControl where
  scrubHours : Nat
  orderTimeout : Nat
  retrainDeferMax : Nat
  retrainAttempts : Nat
  deriving DecidableEq, Repr

/-- Table 9.9, in GiB. -/
structure OutfieldLayout where
  stagingGib : Nat
  snapshotGib : Nat
  deriving DecidableEq, Repr

/-- Table 9.15. -/
structure InfieldThermal where
  hotC : Nat
  critC : Nat
  deriving DecidableEq, Repr

/-- Table 10.12. -/
structure LinkConfig where
  enable : List Bool
  txPreset : List Nat
  minWidth : Nat
  trainRetryNs : Nat
  laneFail : Nat
  retryStorm : Nat
  starveVc0Ns : Nat
  dataStarveBeats : Nat
  badFrameLimit : Nat
  badFrameWindowNs : Nat
  forwardShare : Nat
  collectiveTimeout : Nat
  fenceGraceNs : Nat
  deriving DecidableEq, Repr

/-- The revocation list (R242 step 3). -/
structure LinkTrust where
  revoked : List Nat
  deriving DecidableEq, Repr

/-- A member of the domain: its index, its serial and, for its ports, the member and port expected at the far end. -/
structure Member where
  index : Nat
  serial : Nat
  /-- (own link, partner's member index) -/
  ports : List (Nat × Nat)
  deriving DecidableEq, Repr

/-- A tree over members: its root and, for each member, its children in fixed order (R251). -/
structure Tree where
  root : Nat
  children : List (Nat × List Nat)
  deriving DecidableEq, Repr

structure RouteGroup where
  members : List Nat
  trees : List Tree
  status : Tree
  deriving DecidableEq, Repr

/-- One hop of a path: from a member's link to the next member's link. -/
structure Hop where
  src : Nat
  outLink : Nat
  dst : Nat
  inLink : Nat
  deriving DecidableEq, Repr

/-- A logical edge: its primary link, then up to two detours (R246, Table 10.10). -/
structure Edge where
  src : Nat
  dst : Nat
  primary : Hop
  detours : List (List Hop)
  deriving DecidableEq, Repr

/-- Table 10.10. -/
structure RouteTable where
  domain : Nat
  members : List Member
  groups : List RouteGroup
  edges : List Edge
  deriving DecidableEq, Repr

/-- A promotion limit and its window in ns (Table 14.5). -/
structure Promotion where
  limit : Nat
  windowNs : Nat
  deriving DecidableEq, Repr

/-- Table 14.5. -/
structure FaultThresholds where
  timerNs : Nat
  memCorrected : Promotion
  laneFailed : Promotion
  authFailed : Promotion
  bellPool : Promotion
  precond : Promotion
  beatMismatch : Promotion
  deriving DecidableEq, Repr

inductive Cadence where
  | off | risk | rate | both
  deriving DecidableEq, Repr

/-- A destination or source of snapshots (Table 15.2). -/
inductive Dest where
  | own | buddy | host
  deriving DecidableEq, Repr

/-- Table 15.6. -/
structure SnapshotPolicy where
  cadence : Cadence
  destAuto : Nat
  slots : Nat
  gridSteps : Nat
  wMem : Nat
  wStack : Nat
  wDie : Nat
  wLane : Nat
  wRetrain : Nat
  wDroop : Nat
  forecastNs : Nat
  riskThreshold : Nat
  riskHysteresis : Nat
  guardSteps : Nat
  cFixedMs : Nat
  domainMtbfH : Nat
  priorMtbfH : Nat
  tMin : Nat
  tMax : Nat
  buddy : Option Nat
  guestGib : Nat
  order : List Dest
  deriving DecidableEq, Repr

/-- Table 5.3. -/
structure BenchControl where
  timer : Nat
  splitMax : Nat
  deriving DecidableEq, Repr

/-- Every table in force (R309). -/
structure Rulebook where
  beat : BeatConfig
  op : List OpEntry
  ramp : List RampRow
  power : PowerControl
  loss : LossScaleTable
  update : UpdateRulesTable
  interleave : InterleaveMap
  memory : MemoryControl
  outfield : OutfieldLayout
  thermal : InfieldThermal
  link : LinkConfig
  trust : LinkTrust
  route : RouteTable
  streamWait : Nat
  faults : FaultThresholds
  snapshot : SnapshotPolicy
  bench : BenchControl
  deriving DecidableEq, Repr

/-- One table of an image (Table 12.9), or a table ID that the table does not list. -/
inductive RbTable where
  | beatConfig (t : BeatConfig)
  | opTable (t : List OpEntry)
  | rampCurve (t : List RampRow)
  | powerControl (t : PowerControl)
  | lossScale (t : LossScaleTable)
  | updateRules (t : UpdateRulesTable)
  | interleaveMap (t : InterleaveMap)
  | memoryControl (t : MemoryControl)
  | outfieldLayout (t : OutfieldLayout)
  | infieldThermal (t : InfieldThermal)
  | linkConfig (t : LinkConfig)
  | linkTrust (t : LinkTrust)
  | routeTable (t : RouteTable)
  | streamWaitLimit (t : Nat)
  | faultThresholds (t : FaultThresholds)
  | snapshotPolicy (t : SnapshotPolicy)
  | benchControl (t : BenchControl)
  | unknown (id : Nat)
  deriving DecidableEq, Repr

/-- A directory entry (Table 12.8): table ID, and where the table lies in the image. -/
structure RbEntry where
  id : Nat
  offset : Nat
  length : Nat
  deriving DecidableEq, Repr

/-- A rulebook image (Table 12.8), with the tables that its directory names, in its order. -/
structure RulebookImage where
  magic : Word64
  version : Nat
  tableCount : Nat
  length : Nat
  rsvdZero : Bool
  directory : List RbEntry
  tables : List RbTable
  /-- Key that the image is signed with, if its signature verifies against that key. -/
  signer : Option Nat
  deriving DecidableEq, Repr

end Sys2Proof
end

