-- ==== Sys2Proof/Syntax/Ring.lean ====
section
/-!
DEFINITION. Entries of the command rings (13, Tables 13.1 and 13.4) (a schedule entry stands in Image.lean). A command that
names an image in staging memory carries that image in decoded form (log 4); one whose outcome an outside party decides
(a ball machine, the source of a restore) carries that outcome.
-/

namespace Sys2Proof

/-- The fields of Table 13.1 beside OPCODE and ARGS. -/
structure Hdr where
  /-- Ring the entry stands in: 0 to 3 a partition's, 4 the module's. -/
  ring : Nat
  /-- The PARTITION byte. -/
  part : Nat
  tag : Word32
  /-- Some reserved or unused byte of the entry is not 0. -/
  rsvd : Bool
  deriving DecidableEq, Repr

/-- What a ball machine run finds (R220): byte errors and the first failing channel byte address. -/
structure BallResult where
  errors : Nat
  first : Nat
  deriving DecidableEq, Repr

/-- How the copying of an image goes: whole, or broken off at a section of its table, by its CRC-64 or by a fault of the source (R365). -/
inductive CopyFate where
  | whole
  | crcBad (n : Nat)
  | failed (kind n : Nat)
  deriving DecidableEq, Repr

/-- How the source of a restore serves it (R364, R365). -/
inductive SourceOutcome where
  | good
  /-- The CRC-64 of section `n` fails, in the order of the section table. -/
  | crcBad (n : Nat)
  /-- The loss-scale state that the source returns is invalid (R119). -/
  | scaleBad
  /-- The source fails with a fault kind in section `n`. -/
  | failed (kind n : Nat)
  /-- The image that BUDDY or HOST holds at the chosen age is this one, written by another module or in an earlier power cycle;
  whether its MAGIC, FORMAT and HEADER_CRC are right, and how its copying goes. -/
  | image (headerOk : Bool) (img : Machine.Image) (fate : CopyFate)
  deriving DecidableEq, Repr

/-- The commands of Table 13.4 with their arguments. -/
inductive Cmd where
  | fixtureLoad (off len : Nat) (img : FixtureImage)
  | fixtureCheck (off len : Nat) (img : FixtureImage)
  | fixtureStart
  | fixtureStop
  | fixtureRetire
  | stepBound (s : Nat)
  | schedule (e : SchedEntry)
  | scheduleCancel (token : Token) (part : Nat)
  | listInit (off pool cap carousel : Nat)
  | listRetire (off last : Nat)
  | tableLoad (off len slot : Nat) (img : RulebookImage)
  | tableDiscard (slot : Nat)
  | budget (part row value : Nat)
  | partitionSet (part mask : Nat)
  | snapshot (mask addr : Nat)
  | restore (source addr flags : Nat) (out : SourceOutcome)
  | logRead (first count buf : Nat)
  | logClear (authoriser number code : Nat)
  | selfTest (chan pattern : Nat) (r : BallResult)
  | linkRelease (link : Nat)
  | retrain (chan : Nat)
  | abandon
  | unknown (opcode : Nat)
  deriving DecidableEq, Repr

/-- Table 13.4, column Binary / Hex. -/
def Cmd.opcode : Cmd → Nat
  | .fixtureLoad .. => 0x01
  | .fixtureCheck .. => 0x02
  | .fixtureStart => 0x03
  | .fixtureStop => 0x04
  | .fixtureRetire => 0x05
  | .stepBound .. => 0x06
  | .schedule .. => 0x08
  | .scheduleCancel .. => 0x09
  | .listInit .. => 0x10
  | .listRetire .. => 0x11
  | .tableLoad .. => 0x18
  | .tableDiscard .. => 0x19
  | .budget .. => 0x20
  | .partitionSet .. => 0x21
  | .snapshot .. => 0x28
  | .restore .. => 0x29
  | .logRead .. => 0x30
  | .logClear .. => 0x31
  | .selfTest .. => 0x38
  | .linkRelease .. => 0x39
  | .retrain .. => 0x3A
  | .abandon => 0x3F
  | .unknown op => op

/-- Column Ring of Table 13.4; LOG_READ is served from any ring (R382, log 55). -/
inductive RingKind where
  | partition | module | either
  deriving DecidableEq, Repr

def Cmd.ringKind : Cmd → RingKind
  | .fixtureLoad .. | .fixtureCheck .. | .fixtureStart | .fixtureStop | .fixtureRetire | .stepBound ..
  | .listInit .. | .listRetire .. | .snapshot .. | .restore .. => .partition
  | .schedule .. | .scheduleCancel .. | .logRead .. | .abandon | .unknown .. => .either
  | .tableLoad .. | .tableDiscard .. | .budget .. | .partitionSet .. | .logClear ..
  | .selfTest .. | .linkRelease .. | .retrain .. => .module

/-- A whole entry of a command ring. -/
structure RingCmd where
  hdr : Hdr
  cmd : Cmd
  deriving DecidableEq, Repr

end Sys2Proof
end

