-- ==== Sys2Proof/Syntax/Event.lean ====
section
/-!
DEFINITION. Operands of the rows that are no ring command: flits (10), notices (11), samples of the power controller (11),
the outcomes of self-test (17), errors that memory reads meet (09), requests to the Lodge (12, 17).
-/

namespace Sys2Proof

/-! ## Memory -/

/-- What a read of one codeword meets (Table 9.1): the codeword's address divided by 64 and its symbols in error. -/
structure CwError where
  cw : Nat
  symbols : Nat
  deriving DecidableEq, Repr

/-- What the memories do to an operation that completes: errors that its reads meet (Table 9.1), and the codewords of exchange
banks that it writes on port 1 in a cycle in which port 0 writes them (R204; log 95). -/
structure MemMet where
  errs : List CwError
  hits : List Nat
  deriving DecidableEq, Repr

/-- ISSUE_PASS: the half whose keeper runs it, and the errors that the reads of what it issues meet. -/
structure IssueRun where
  half : Nat
  errs : List CwError
  deriving DecidableEq, Repr

/-- SUB_OPERATION_COMMIT: the engine, the codewords of exchange banks that its burst writes on port 1 while port 0 does (R204; log 95), and
the errors that its reads meet (R199). -/
structure BurstEnd where
  engine : Nat
  hits : List Nat
  errs : List CwError
  deriving DecidableEq, Repr

/-- VECTOR_STOP: the engine, and whether the closing burst of a sub-operation had begun before the request (R195). -/
structure EngineStop where
  engine : Nat
  burst : Bool
  deriving DecidableEq, Repr

/-- PITCH_STOP_COMPLETE: the pitch, and how many output blocks each operation in flight had completed (R65; log 75). -/
structure PitchDone where
  pitch : Nat
  blocks : List (Token × Nat)
  deriving DecidableEq, Repr

/-- The sources of memory errors and owners of poison lists (R344). -/
inductive MemSource where
  | scratch (half : Nat)
  | infield (stack : Nat)
  | outfield (half : Nat)
  deriving DecidableEq, Repr

/-- What an outfield retrain attempt says of the packages, numbered module-wide (R439). -/
inductive PackageSign where
  | none
  /-- Every failing byte lies in the positions of one package. -/
  | positions (package : Nat)
  /-- A package does not answer training. -/
  | silent (package : Nat)
  deriving DecidableEq, Repr

/-- A memory-side add (R213): target address and format, incoming format, the codes it carries in ascending address. -/
structure AddReq where
  addr : Nat
  fmt : Arith.Fmt
  inFmt : Arith.Fmt
  values : List Nat
  /-- ORDERED mode; otherwise ARRIVAL (R214, R217). -/
  ordered : Bool
  source : Nat
  /-- Expected sources of the 2 KiB window; this add is the last of its source for the window. -/
  expected : Nat
  last : Bool
  part : Nat
  token : Token
  /-- What the read of its target meets when the add is made (R199, R203). -/
  errs : List CwError
  deriving DecidableEq, Repr

/-! ## Flits -/

/-- Table 10.3, with whether a reserved header bit is 1, and the FEC codewords that the lanes corrected up to this flit (R257); the operation
of its source, which R247 tells apart and Table 10.3 gives no bits (log 21; of a DENY, the refused operation); and the errors that memory
reads which the flit causes meet (R199). -/
structure FlitHdr where
  type : Nat
  vc : Nat
  part : Nat
  seq : Nat
  ack : Nat
  crVc : Nat
  crCount : Nat
  src : Nat
  dst : Nat
  window : Nat
  segment : Nat
  rsvd : Bool
  corrected : Nat
  op : Nat
  errs : List CwError
  deriving DecidableEq, Repr

/-- What the steps of Table 10.8 find of the partner that an AUTH flit carries. -/
structure AuthMsg where
  serial : Nat
  /-- The chain verifies to the Hudiry root (step 2). -/
  chainOk : Bool
  /-- The signature over both nonces verifies (step 6). -/
  sigOk : Bool
  /-- Member index that the partner signs for, and its own port. -/
  member : Nat
  port : Nat
  deriving DecidableEq, Repr

/-- The header of a gradient bucket and its status word (R112, R253). -/
structure BucketHdr where
  bucket : Nat
  step : Nat
  elements : Nat
  scaleExp : Nat
  maskCrc : Nat
  status : Nat
  deriving DecidableEq, Repr

/-- Table 11.6. -/
inductive NoticeKind where
  | ready
  | late (x : Nat)
  deriving DecidableEq, Repr

/-- A notice's stamp is its send moment: beat and tick. -/
structure Notice where
  barrier : Nat
  member : Nat
  kind : NoticeKind
  stampBeat : Nat
  stampTick : Nat
  deriving DecidableEq, Repr

/-- Payload of a REDUCE: the bucket's header, the first element's index, the child's binary16 partials; or marked failed. -/
structure ReduceMsg where
  hdr : BucketHdr
  first : Nat
  values : List Nat
  failed : Bool
  deriving DecidableEq, Repr

/-- The collective that a RESULT carries a segment of: kind, number (of a bucket, its BUCKET_ID) and step. DESIGN CHOICE: the spec gives the
payload of a RESULT no layout, and R16 lets no order of arrival decide (log 21). -/
structure CollName where
  kind : CollectiveKind
  number : Nat
  step : Nat
  deriving DecidableEq, Repr

/-- Payload of a RESULT: its collective, the offset of its bytes, and the bytes. -/
structure ResultMsg where
  coll : CollName
  addr : Nat
  bytes : List Byte
  /-- Last flit of the segment set of its operation. -/
  last : Bool
  deriving DecidableEq, Repr

structure StatusMsg where
  hdr : BucketHdr
  failed : Bool
  deriving DecidableEq, Repr

/-- A WRITE: byte offset in the window, and the bytes. -/
structure WriteMsg where
  domain : Nat
  off : Nat
  bytes : List Byte
  deriving DecidableEq, Repr

/-- An ADD: offset in the window and the add's fields (its source index is the sender's member index). -/
structure AddMsg where
  domain : Nat
  off : Nat
  fmt : Arith.Fmt
  inFmt : Arith.Fmt
  values : List Nat
  ordered : Bool
  expected : Nat
  last : Bool
  deriving DecidableEq, Repr

/-- What a flit carries beside its header. -/
inductive FlitBody where
  | idle
  | nak
  | auth (m : AuthMsg)
  | resize (lanes : Nat)
  | fence
  | notice (n : Notice)
  | status (m : StatusMsg)
  | reduce (m : ReduceMsg)
  | result (m : ResultMsg)
  | write (m : WriteMsg)
  | add (m : AddMsg)
  | deny
  deriving DecidableEq, Repr

structure Flit where
  hdr : FlitHdr
  body : FlitBody
  deriving DecidableEq, Repr

/-! ## Power -/

/-- Cycles of an interval in which a pitch that was RUNNING met each cause of freeze other than duty, and those of them that
the duty pattern did not mark (R61, R64). -/
structure FreezeCount where
  pitch : Nat
  feed : Nat
  bank : Nat
  drain : Nat
  unmarked : Nat
  deriving DecidableEq, Repr

/-- Cycles of an interval in which an engine issued, and in which a MATRIX instruction blocked issue (R197). -/
structure IssueCount where
  engine : Nat
  issue : Nat
  borrow : Nat
  deriving DecidableEq, Repr

/-- One interval's measurement (R272, R277), powers in W, temperatures in °C. -/
structure PowerSample where
  /-- Mean draw of everything but rally load. -/
  draw : Nat
  peak : Nat
  /-- Rally load that each unit could add: 0 to 3 the pitches, 4 to 7 the engines, 8 and 9 the halves' infield reads in class P2 (R271). -/
  fill : List (Nat × Nat)
  duty15 : Nat
  /-- The controller's corrected DUTY_STEP_W of the point in force; 0 for no correction (R274). -/
  stepW : Nat
  /-- Die sensors of the west and of the east half. -/
  west : List Int
  east : List Int
  freezes : List FreezeCount
  issues : List IssueCount
  deriving DecidableEq, Repr

/-! ## Self-test -/

/-- Unit types that ROM holds two pattern seeds and their signatures for (R398). -/
inductive UnitType where
  | tile | epilogueTile | feederDrain | engine | keeper | die | lodge
  deriving DecidableEq, Repr

/-- A unit that logic self-test runs on. -/
inductive TestUnit where
  | tile (pitch row col : Nat)
  | feeders (pitch : Nat)
  | engine (n : Nat)
  | keeper (k : Nat)
  | die (d : Nat)
  deriving DecidableEq, Repr

/-- R398: tiles of rows 31 and 32 hold an epilogue unit. -/
def TestUnit.type : TestUnit → UnitType
  | .tile _ row _ => if 31 ≤ row then .epilogueTile else .tile
  | .feeders _ => .feederDrain
  | .engine _ => .engine
  | .keeper _ => .keeper
  | .die _ => .die

/-- A run of logic self-test, the first or the second of its unit, and the signature that it compacted. -/
structure LogicRun where
  unit : TestUnit
  second : Bool
  signature : Word64
  deriving DecidableEq, Repr

/-- What the tests of Table 17.4 meet. -/
structure SelfTest where
  /-- Runs of logic self-test; those not listed match. -/
  logic : List LogicRun
  /-- Tiles, engines and keepers whose march or SRAM test fails. Tiles: pitch, row, column. -/
  tiles : List (Nat × Nat × Nat)
  feeders : List Nat
  engines : List Nat
  banks : List Nat
  keepers : List Nat
  /-- Failed lanes: link, lane. -/
  lanes : List (Nat × Nat)
  dies : List Nat
  channels : List Nat
  packages : List Nat
  pllHalves : List Nat
  railHalves : List Nat
  /-- Sensors excluded: half, sensor; halves in which fewer than half agree. -/
  sensors : List (Nat × Nat)
  sensorHalves : List Nat
  /-- Ball machine runs that found something, by channel as R323 numbers them: outfield from 384 on (R220). -/
  balls : List (Nat × BallResult)
  deriving DecidableEq, Repr

/-! ## Management and Lodge requests -/

inductive KeyClass where
  | fixture | rulebook
  deriving DecidableEq, Repr

/-- Requests of keepers to the Lodge (slots 40 to 47): a signature check, a proof for a link, a nonce. -/
inductive LodgeReq where
  | signature (cls : KeyClass) (signer : Option Nat)
  | proof (link : Nat) (m : AuthMsg)
  | nonce
  deriving DecidableEq, Repr

/-- How a keeper's frame ran: its Whistle poll came more than 2 µs after the frame's start, and the keeper wants RETAIN at its end
(Table 12.6 lets it enter, and obliges it nowhere). -/
structure FrameRun where
  late : Bool
  retain : Bool
  deriving DecidableEq, Repr

/-- Power domains that a wake event returns to ON (Table 12.6). -/
inductive WakeDomain where
  | keeper (k : Nat)
  | lodgeEngine
  deriving DecidableEq, Repr

end Sys2Proof
end

