-- ==== Sys2Proof/Syntax.lean ====
section
/-!
DEFINITION. The commands of the block: one constructor for each row of spec/opcode_table.json, in the table's order. The
table gives no row any bits; operands are those that the rows' own rules name, and what a sensor, a partner or a test
finds at that moment.
-/

namespace Sys2Proof

inductive Instr where
  -- Ring commands (13). Each row is one entry put into a command ring.
  | fixtureLoad (h : Hdr) (off len : Nat) (img : FixtureImage)
  | fixtureCheck (h : Hdr) (off len : Nat) (img : FixtureImage)
  | fixtureStart (h : Hdr)
  | fixtureStop (h : Hdr)
  | fixtureRetire (h : Hdr)
  | stepBound (h : Hdr) (s : Nat)
  | schedule (h : Hdr) (e : SchedEntry)
  | scheduleCancel (h : Hdr) (token : Token) (part : Nat)
  | listInit (h : Hdr) (off pool cap carousel : Nat)
  | listRetire (h : Hdr) (off last : Nat)
  | tableLoad (h : Hdr) (off len slot : Nat) (img : RulebookImage)
  | tableDiscard (h : Hdr) (slot : Nat)
  | budget (h : Hdr) (part row value : Nat)
  | partitionSet (h : Hdr) (part mask : Nat)
  | snapshot (h : Hdr) (mask addr : Nat)
  | restore (h : Hdr) (source addr flags : Nat) (out : SourceOutcome)
  | logRead (h : Hdr) (first count buf : Nat)
  | logClear (h : Hdr) (authoriser number code : Nat)
  | selfTest (h : Hdr) (chan pattern : Nat) (r : BallResult)
  | linkRelease (h : Hdr) (link : Nat)
  | retrain (h : Hdr) (chan : Nat)
  | abandon (h : Hdr)
  | opcodeUnknown (h : Hdr) (opcode : Nat)
  -- Host register and window traffic (12, 13, 14, 17, 18). A value is the 64-bit word written.
  | doorbellWrite (slot : Nat) (word : Word64)
  | attentionWordRead (slot : Nat)
  | doveOverrunClear (value : Word64)
  | blkClear (page : Nat) (value : Word64)
  | whClearFirst (inst : Nat) (value : Word64)
  | freezeViewWrite (page : Nat) (value : Word64)
  | ringEnableWrite (ring : Nat) (value : Word64)
  | ringSizeWrite (ring : Nat) (completion : Bool) (value : Word64)
  | cplHeadWrite (ring : Nat) (value : Word64)
  | bar2BaseWrite (value : Word64)
  | bar2CtrlWrite (value : Word64)
  | stTouchWrite (value : Word64)
  | registerWrite (page off : Nat) (value : Word64)
  | registerAccessMisaligned (page off size : Nat) (write : Bool)
  | bar2Read (off len : Nat) (errs : List CwError)
  | bar2Write (off : Nat) (bytes : List Byte) (errs : List CwError)
  -- Management channel and Lodge (11, 12, 16, 17).
  | grantMessage (word : Word64)
  | ownerKeySet (key : Nat)
  | signingKeyInstall (cls : KeyClass) (key : Nat) (signer : Option Nat)
  | debugNonceRequest
  | debugRequest (serial : Word64) (nonce level halves : Nat) (signer : Option Nat)
  | clearTokenRequest (authoriser : Nat) (signer : Option Nat)
  | lodgeRequest (r : LodgeReq)
  -- Bandstand and schedule (11).
  | beatEdge (offset : Int)
  | beatEdgeMissing
  | beatBoundary
  | ptpTime (tai : Nat)
  | holdoverExpired
  | refLost
  | refPresent (t : SelfTest)
  | tableSwap
  | mode
  | opRange
  | token
  | snapshotEntry
  | maintenance
  | barrierArrival (part barrier : Nat)
  | lateNotice (part barrier x : Nat)
  | barrierDecision
  | noticeFlit (link : Nat) (hdr : FlitHdr) (n : Notice)
  | heldNoticeExpired
  -- Power and heat (11, 09).
  | powerInterval (m : PowerSample)
  | opRaiseStart
  | droopDetected (half : Nat)
  | droopRelease (half cycles : Nat)
  | grantLapse
  | dieOvertemp (half sensor : Nat)
  | dieOvertempResume (half : Nat)
  | dieOvertrip (half sensor : Nat)
  | stackThermalChange (stack : Nat) (temp : Int) (shutdown : Bool)
  -- Memories (09).
  | retrainStart
  | retrainAttemptEnd (chan : Nat) (pass : Bool) (durationNs : Nat) (result : BallResult) (package : PackageSign)
  | dataCrcFailure (chan : Nat)
  | scrubPass (src : MemSource) (errs : List CwError)
  | memorySideAdd (a : AddReq)
  | addWindowIncomplete (window : Nat)
  | bankStateRequest (bank state : Nat)
  | bankStateEnter (bank : Nat)
  | bankWake (bank : Nat)
  | channelRetire (chan : Nat)
  | halfReturn (half : Nat) (t : SelfTest)
  -- Pitches, engines, streams (02, 03, 05, 08, 15).
  | tileFailed (pitch row col : Nat)
  | pitchStop (pitch : Nat)
  | pitchStopComplete (x : PitchDone)
  | vectorStop (x : EngineStop)
  | subOperationCommit (x : BurstEnd)
  | issuePass (x : IssueRun)
  | operationComplete (part : Nat) (tok : Token) (met : MemMet)
  | streamWaitExpired (part stream : Nat)
  | benchExhausted (part : Nat)
  | stepVerdict (part : Nat)
  | snapshotComplete (part : Nat)
  -- Links (10, 19).
  | trainRetry (link : Nat)
  | trainComplete (link lanes rttNs : Nat)
  | trainTimeout (link : Nat)
  | authFlit (link : Nat) (hdr : FlitHdr) (m : AuthMsg)
  | authTimeout (link : Nat)
  | authFailedRetry (link : Nat)
  | lockLoss (link : Nat)
  | laneFailed (link lane : Nat)
  | resizeFlit (link : Nat) (hdr : FlitHdr) (lanes : Nat)
  | laneRetrain (link lane : Nat) (trained : Bool) (m : AuthMsg)
  | flitCrcError (link : Nat) (fec : Option Nat)
  | nakFlit (link : Nat) (hdr : FlitHdr)
  | idleFlit (link : Nat) (hdr : FlitHdr)
  | malformedFlit (link : Nat) (hdr : FlitHdr)
  | vc0Starvation (link : Nat)
  | dataStarvation (link vc : Nat)
  | writeFlit (link : Nat) (hdr : FlitHdr) (m : WriteMsg) (errs : List CwError)
  | addFlit (link : Nat) (hdr : FlitHdr) (m : AddMsg) (errs : List CwError)
  | denyFlit (link : Nat) (hdr : FlitHdr)
  | reduceFlit (link : Nat) (hdr : FlitHdr) (m : ReduceMsg)
  | resultFlit (link : Nat) (hdr : FlitHdr) (m : ResultMsg)
  | statusFlit (link : Nat) (hdr : FlitHdr) (m : StatusMsg)
  | fenceFlit (link : Nat) (hdr : FlitHdr)
  | relayFlit (link : Nat) (hdr : FlitHdr) (body : FlitBody)
  | collectiveTimeout (part : Nat) (tok : Token)
  | pluggableInsert (cage : Nat)
  | pluggableRemove (cage : Nat)
  -- Faults, keepers, record, supply (12, 14, 16, 17, 19).
  | faultMessage (word : Word64)
  | halfFence (half : Nat)
  | containedTimerExpired (page : Nat)
  | keeperFrame (k : Nat) (run : FrameRun)
  | keeperWatchdogExpired (k : Nat)
  | wakeEvent (d : WakeDomain)
  | lodgeEngineOff
  | scorebookProgram
  | opHoursSave
  | inputValid
  | inputExcursion (tenthVolts lastedNs : Nat)
  | inputOvervoltage
  | perst
  | pcieLinkUp
  | pcieLinkDown
  | replySlotRead (slot : Nat)
  | holdUpEnded
  deriving DecidableEq, Repr

end Sys2Proof
end

