-- ==== Sys2Proof/Machine/Arith.lean ====
section
/-!
DEFINITION. Number formats, rounding and conversion (04, R73 to R78) and the FP32 / FP64 operations built on them.
A value's code is a natural number below 2^(width of its format).
-/

namespace Sys2Proof.Arith

/-! ## Exact binary numbers -/

def Dyadic.zero : Dyadic := ⟨0, 0⟩

/-- The sum, written over the smaller of the two exponents. -/
def Dyadic.add (a b : Dyadic) : Dyadic :=
  let e := min a.e b.e
  ⟨a.m * 2 ^ (a.e - e).toNat + b.m * 2 ^ (b.e - e).toNat, e⟩

def Dyadic.mul (a b : Dyadic) : Dyadic := ⟨a.m * b.m, a.e + b.e⟩
def Dyadic.neg (a : Dyadic) : Dyadic := ⟨-a.m, a.e⟩
def Dyadic.sub (a b : Dyadic) : Dyadic := a.add b.neg
def Dyadic.abs (a : Dyadic) : Dyadic := ⟨a.m.natAbs, a.e⟩

def Dyadic.lt (a b : Dyadic) : Bool := decide ((a.sub b).m < 0)

/-- floor(log2 |a|) of a nonzero number. -/
def Dyadic.log2 (a : Dyadic) : Int := (a.m.natAbs.log2 : Int) + a.e

/-- Rounding a natural number divided by 2^k to nearest, ties to even (R73). -/
def roundShift (m k : Nat) : Nat :=
  let q := m >>> k
  let r := m % 2 ^ k
  let half := 2 ^ k
  if 2 * r > half || (2 * r == half && q % 2 == 1) then q + 1 else q

/-- Rounding `a` to an integer multiple of 2^e, to nearest with ties to even (R73): the integer. -/
def Dyadic.roundTo (a : Dyadic) (e : Int) : Int :=
  if e ≤ a.e then a.m * 2 ^ (a.e - e).toNat
  else
    let r := roundShift a.m.natAbs (e - a.e).toNat
    if a.m < 0 then -(r : Int) else r

/-! ## The formats of Table 4.1 -/

/-- R74: the format a 4-bit code names. -/
def Fmt.ofCode : Nat → Option Fmt
  | 0x0 => some .fp32 | 0x1 => some .bf16 | 0x2 => some .binary16 | 0x3 => some .e4m3
  | 0x4 => some .e5m2 | 0x5 => some .int8 | 0x6 => some .int32 | 0x7 => some .mxfp8e4m3
  | 0x8 => some .mxfp8e5m2 | 0x9 => some .mxfp6e2m3 | 0xA => some .mxfp6e3m2 | 0xB => some .mxfp4
  | 0xC => some .bell | 0xD => some .fp64 | 0xE => some .int64 | _ => none

/-- R74: the 4-bit code of a format. -/
def Fmt.code : Fmt → Nat
  | .fp32 => 0x0 | .bf16 => 0x1 | .binary16 => 0x2 | .e4m3 => 0x3 | .e5m2 => 0x4
  | .int8 => 0x5 | .int32 => 0x6 | .mxfp8e4m3 => 0x7 | .mxfp8e5m2 => 0x8 | .mxfp6e2m3 => 0x9
  | .mxfp6e3m2 => 0xA | .mxfp4 => 0xB | .bell => 0xC | .fp64 => 0xD | .int64 => 0xE

/-- Table 4.1: widths, bias and special codes (for an MX format, of its elements; an integer format has none). -/
def Fmt.spec : Fmt → FSpec
  | .fp32 => ⟨8, 23, 127, .ieee⟩
  | .bf16 => ⟨8, 7, 127, .ieee⟩
  | .binary16 => ⟨5, 10, 15, .ieee⟩
  | .e4m3 => ⟨4, 3, 7, .nanOnly⟩
  | .e5m2 => ⟨5, 2, 15, .ieee⟩
  | .mxfp8e4m3 => ⟨4, 3, 7, .nanOnly⟩
  | .mxfp8e5m2 => ⟨5, 2, 15, .ieee⟩
  | .mxfp6e2m3 => ⟨2, 3, 1, .none⟩
  | .mxfp6e3m2 => ⟨3, 2, 3, .none⟩
  | .mxfp4 => ⟨2, 1, 1, .none⟩
  | .fp64 => ⟨11, 52, 1023, .ieee⟩
  | .bell => ⟨8, 7, 127, .ieee⟩
  | .int8 => ⟨0, 7, 0, .none⟩
  | .int32 => ⟨0, 31, 0, .none⟩
  | .int64 => ⟨0, 63, 0, .none⟩

def Fmt.isInt : Fmt → Bool
  | .int8 | .int32 | .int64 => true
  | _ => false

def Fmt.isMx : Fmt → Bool
  | .mxfp8e4m3 | .mxfp8e5m2 | .mxfp6e2m3 | .mxfp6e3m2 | .mxfp4 => true
  | _ => false

/-- Bits of one element in memory; an MXFP6 element takes an 8-bit slot (03, "Modes and formats"). -/
def Fmt.bits : Fmt → Nat
  | .fp32 | .int32 => 32
  | .bf16 | .binary16 | .bell => 16
  | .e4m3 | .e5m2 | .int8 | .mxfp8e4m3 | .mxfp8e5m2 | .mxfp6e2m3 | .mxfp6e3m2 => 8
  | .mxfp4 => 4
  | .fp64 | .int64 => 64

def FSpec.signBit (f : FSpec) : Nat := 2 ^ (f.ebits + f.sbits)

/-- The magnitude code of the largest finite value (Table 4.1). -/
def FSpec.maxFinite (f : FSpec) : Nat :=
  match f.specials with
  | .ieee => (2 ^ f.ebits - 1) * 2 ^ f.sbits - 1
  | .nanOnly => 2 ^ (f.ebits + f.sbits) - 2
  | .none => 2 ^ (f.ebits + f.sbits) - 1

/-- The positive canonical NaN (R76, Table 4.2); a format without NaN has none and answers 0. -/
def FSpec.canonicalNaN (f : FSpec) : Nat :=
  match f.specials with
  | .ieee => (2 ^ f.ebits - 1) * 2 ^ f.sbits + 2 ^ (f.sbits - 1)
  | .nanOnly => 2 ^ (f.ebits + f.sbits) - 1
  | .none => 0

/-- The code of ±∞ in an IEEE-style format (Table 4.2). -/
def FSpec.infCode (f : FSpec) (neg : Bool) : Nat :=
  (2 ^ f.ebits - 1) * 2 ^ f.sbits + (if neg then f.signBit else 0)

/-- What a code stands for (Table 4.1; R75: subnormals are values; R76: any NaN encoding is a NaN). -/
def FSpec.decode (f : FSpec) (code : Nat) : FVal :=
  let neg := code / f.signBit % 2 == 1
  let mag := code % f.signBit
  let ef := mag / 2 ^ f.sbits
  let frac := mag % 2 ^ f.sbits
  let fin : FVal :=
    if ef = 0 then .fin neg frac (1 - f.bias - f.sbits)
    else .fin neg (2 ^ f.sbits + frac) (ef - f.bias - f.sbits)
  match f.specials with
  | .ieee => if ef = 2 ^ f.ebits - 1 then (if frac = 0 then .inf neg else .nan) else fin
  | .nanOnly => if mag = 2 ^ (f.ebits + f.sbits) - 1 then .nan else fin
  | .none => fin

/-- The magnitude code of `m * 2^e` rounded by R73 with an unbounded exponent range upward; a code above
`maxFinite` says that the value overflows (R77). -/
def FSpec.roundMag (f : FSpec) (m : Nat) (e : Int) : Nat :=
  if m = 0 then 0
  else
    let top : Int := m.log2 + e
    let q : Int := max top (1 - f.bias) - f.sbits
    let r := if q ≤ e then m * 2 ^ (e - q).toNat else roundShift m (q - e).toNat
    -- a code counts units of 2^q from the start of its binade, so a carry runs into the exponent field
    if r < 2 ^ f.sbits then r else (q + f.sbits + f.bias - 1).toNat * 2 ^ f.sbits + r

/-- Table 4.3: a finite value enters a format. -/
def FSpec.encodeFin (f : FSpec) (neg : Bool) (m : Nat) (e : Int) : Flagged :=
  let s := if neg then f.signBit else 0
  let mag := f.roundMag m e
  if mag ≤ f.maxFinite then ⟨mag + s, false⟩ else ⟨f.maxFinite + s, true⟩

/-- R77, Table 4.3: a value enters a floating-point format. FP32, BF16, binary16 and FP64 overflow to ±∞; the FP8
formats saturate; the MXFP6 and MXFP4 elements saturate (their non-finite inputs are the block's, R80). -/
def Fmt.encode (t : Fmt) (v : FVal) : Flagged :=
  let f := t.spec
  match v with
  | .nan => ⟨f.canonicalNaN, false⟩
  | .inf neg =>
    match f.specials with
    | .ieee => ⟨f.infCode neg, false⟩
    | .nanOnly => ⟨f.canonicalNaN, false⟩
    | .none => ⟨0, false⟩
  | .fin neg m e =>
    let r := f.encodeFin neg m e
    match t with
    | .fp32 | .bf16 | .binary16 | .fp64 | .bell =>
      if r.saturated then ⟨f.infCode neg, false⟩ else r
    | _ => r

def Fmt.decode (t : Fmt) (code : Nat) : FVal := t.spec.decode code

/-- A finite overflow of a conversion whose target has infinities (R113, R114). -/
def Fmt.overflows (t : Fmt) (v : FVal) : Bool :=
  match v with
  | .fin neg m e => (t.spec.encodeFin neg m e).saturated
  | _ => false

/-- R77: conversion between two floating-point formats. -/
def convert (src dst : Fmt) (code : Nat) : Flagged := dst.encode (src.decode code)

/-! ## Values -/

def FVal.isNaN : FVal → Bool
  | .nan => true
  | _ => false

def FVal.isFinite : FVal → Bool
  | .fin _ _ _ => true
  | _ => false

def FVal.isZero : FVal → Bool
  | .fin _ 0 _ => true
  | _ => false

def FVal.isNeg : FVal → Bool
  | .nan => false
  | .inf n => n
  | .fin n _ _ => n

/-- The exact number of a finite value (0 for the others). -/
def FVal.dy : FVal → Dyadic
  | .fin neg m e => ⟨if neg then -(m : Int) else m, e⟩
  | _ => Dyadic.zero

/-- An exact number as a value; an exact zero is +0 unless `zneg`. -/
def FVal.ofDyadic (d : Dyadic) (zneg : Bool := false) : FVal :=
  if d.m = 0 then .fin zneg 0 0 else .fin (decide (d.m < 0)) d.m.natAbs d.e

def FVal.neg : FVal → FVal
  | .nan => .nan
  | .inf n => .inf (!n)
  | .fin n m e => .fin (!n) m e

def FVal.abs : FVal → FVal
  | .nan => .nan
  | .inf _ => .inf false
  | .fin _ m e => .fin false m e

/-- Exact sum of two values (IEEE 754: ∞ − ∞ is NaN; an exact zero sum of unlike signs is +0). -/
def FVal.add (a b : FVal) : FVal :=
  match a, b with
  | .nan, _ => .nan
  | _, .nan => .nan
  | .inf n, .inf k => if n = k then .inf n else .nan
  | .inf n, _ => .inf n
  | _, .inf k => .inf k
  | .fin n _ _, .fin k _ _ => .ofDyadic (a.dy.add b.dy) (n && k)

def FVal.sub (a b : FVal) : FVal := a.add b.neg

/-- Exact product of two values (R84: ∞ · 0 is NaN). -/
def FVal.mul (a b : FVal) : FVal :=
  match a, b with
  | .nan, _ => .nan
  | _, .nan => .nan
  | .inf n, .inf k => .inf (n != k)
  | .inf n, .fin k m _ => if m = 0 then .nan else .inf (n != k)
  | .fin n m _, .inf k => if m = 0 then .nan else .inf (n != k)
  | .fin n m e, .fin k m' e' => .fin (n != k) (m * m') (e + e')

/-- Exact multiplication by a power of two. -/
def FVal.scale (a : FVal) (k : Int) : FVal :=
  match a with
  | .fin n m e => .fin n m (e + k)
  | v => v

/-- IEEE order; false when either is a NaN. -/
def FVal.lt (a b : FVal) : Bool :=
  match a, b with
  | .nan, _ => false
  | _, .nan => false
  | .inf n, .inf k => n && !k
  | .inf n, _ => n
  | _, .inf k => !k
  | _, _ => a.dy.lt b.dy

def FVal.le (a b : FVal) : Bool :=
  match a, b with
  | .nan, _ => false
  | _, .nan => false
  | _, _ => !b.lt a

/-! ## Correctly rounded division and square root (Table 8.2, DIVROOT)

The quotient or root is taken with `guard` extra bits and a sticky bit, which is enough for one rounding to any format
of Table 4.1. -/

def guardBits : Nat := 70

/-- `n / d` as a number with a sticky last bit. -/
def divSticky (n d : Nat) : Nat × Int :=
  let k := guardBits + d.log2
  let q := (n <<< k) / d
  let r := (n <<< k) % d
  (2 * q + (if r = 0 then 0 else 1), -(k : Int) - 1)

/-- The integer square root, bit by bit from bit `b - 1` down: the largest `x` with the bits of `r` above and x² ≤ n. -/
def isqrtFrom (n : Nat) : Nat → Nat → Nat
  | 0, r => r
  | b + 1, r => isqrtFrom n b (if (r + 2 ^ b) * (r + 2 ^ b) ≤ n then r + 2 ^ b else r)

def isqrt (n : Nat) : Nat := isqrtFrom n (n.log2 / 2 + 1) 0

/-- `√m` as a number with a sticky last bit, for an even exponent. -/
def sqrtSticky (m : Nat) : Nat × Int :=
  let k := 2 * guardBits
  let s := isqrt (m <<< k)
  (2 * s + (if s * s = m <<< k then 0 else 1), -(guardBits : Int) - 1)

/-- The quotient, exact up to its sticky bit (IEEE 754: 0/0 and ∞/∞ are NaN, x/0 is ∞). -/
def FVal.div (a b : FVal) : FVal :=
  match a, b with
  | .nan, _ => .nan
  | _, .nan => .nan
  | .inf _, .inf _ => .nan
  | .inf n, .fin k _ _ => .inf (n != k)
  | .fin n _ _, .inf k => .fin (n != k) 0 0
  | .fin n m e, .fin k d e' =>
    if d = 0 then (if m = 0 then .nan else .inf (n != k))
    else
      let (q, x) := divSticky m d
      .fin (n != k) q (x + e - e')

/-- The square root, exact up to its sticky bit (IEEE 754: NaN below zero; √−0 is −0). -/
def FVal.sqrt (a : FVal) : FVal :=
  match a with
  | .nan => .nan
  | .inf n => if n then .nan else .inf false
  | .fin n m e =>
    if m = 0 then .fin n 0 0
    else if n then .nan
    else
      let (m', e') := if e % 2 = 0 then (m, e) else (2 * m, e - 1)
      let (s, x) := sqrtSticky m'
      .fin false s (x + e' / 2)

/-! ## Operations of a format: one rounding each (R73, Table 8.2) -/

def fop2 (t : Fmt) (op : FVal → FVal → FVal) (a b : Nat) : Nat := (t.encode (op (t.decode a) (t.decode b))).code

def fadd (t : Fmt) : Nat → Nat → Nat := fop2 t FVal.add
def fsub (t : Fmt) : Nat → Nat → Nat := fop2 t FVal.sub
def fmul (t : Fmt) : Nat → Nat → Nat := fop2 t FVal.mul
def fdiv (t : Fmt) : Nat → Nat → Nat := fop2 t FVal.div
def fsqrt (t : Fmt) (a : Nat) : Nat := (t.encode (t.decode a).sqrt).code

/-- FMA rounds once (Table 8.2). -/
def ffma (t : Fmt) (a b c : Nat) : Nat := (t.encode (((t.decode a).mul (t.decode b)).add (t.decode c))).code

/-- 1 / √a, correctly rounded (Table 8.2): the root is formed with guard bits, so that the quotient's sticky bit decides. -/
def frsqrt (t : Fmt) (a : Nat) : Nat :=
  match t.decode a with
  | .fin false m e =>
    if m = 0 then (t.encode (.inf false)).code
    else
      -- 1/√(m·2^e) = √(2^(2k) / (m·2^(e')))·2^…, taken from the exact quotient 2^(2k)/m
      let (m', e') := if e % 2 = 0 then (m, e) else (2 * m, e - 1)
      let k := m'.log2 + 2 * guardBits + 2
      let n := (2 ^ (2 * k)) / m'
      let s := isqrt n
      let exact := s * s * m' == 2 ^ (2 * k)
      (t.encode (.fin false (2 * s + (if exact then 0 else 1)) (-(k : Int) - 1 - e' / 2))).code
  | .fin true m _ => (t.encode (if m = 0 then .inf true else .nan)).code
  | .inf false => 0
  | _ => t.spec.canonicalNaN

def flt (t : Fmt) (a b : Nat) : Bool := (t.decode a).lt (t.decode b)

/-- The FP32 number nearest an exact number (the "FP32 values nearest the written decimals" of R181). -/
def fp32OfDyadic (d : Dyadic) : Nat := (Fmt.fp32.encode (FVal.ofDyadic d)).code

/-- FP32 or FP64 code of the integer `n`. -/
def ofInt (t : Fmt) (n : Int) : Nat := (t.encode (FVal.ofDyadic ⟨n, 0⟩)).code

/-- The code of `num / den`, rounded once. -/
def ofRatio (t : Fmt) (num : Int) (den : Nat) : Nat :=
  (t.encode ((FVal.ofDyadic ⟨num, 0⟩).div (FVal.ofDyadic ⟨den, 0⟩))).code

/-! ## Integers (Table 4.1) -/

/-- The two's-complement value of a code of `w` bits. -/
def toSigned (w code : Nat) : Int :=
  let c := code % 2 ^ w
  if c < 2 ^ (w - 1) then c else (c : Int) - 2 ^ w

/-- The code of an integer in `w` bits, wrapping. -/
def ofSigned (w : Nat) (x : Int) : Nat := (x % (2 ^ w : Int)).toNat

/-- Saturation into `w` bits with its flag (R51, R77). -/
def saturate (w : Nat) (x : Int) : Int × Bool :=
  let hi : Int := 2 ^ (w - 1) - 1
  let lo : Int := -(2 ^ (w - 1))
  if x > hi then (hi, true) else if x < lo then (lo, true) else (x, false)

end Sys2Proof.Arith
end

