-- ==== Sys2Proof/Machine/BellGrid.lean ====
section
/-!
DEFINITION. The bell grid: levels, records, encoder and decoder (04, R87 to R93, R438).
-/

namespace Sys2Proof.Arith

/-- Table 4.8: the BF16 constants of codes 0x0 to 0xE. -/
def bellLevels : List Nat :=
  [0xBFEB, 0xBFA4, 0xBF78, 0xBF3A, 0xBF06, 0xBEAE, 0xBE2C, 0x0000,
   0x3E2C, 0x3EAE, 0x3F06, 0x3F3A, 0x3F78, 0x3FA4, 0x3FEB]

def bellLevel (c : Nat) : FVal := Fmt.bf16.decode (bellLevels.getD c 0)

/-- Table 4.9: a bell-grid record with its fields apart. -/
structure BellRecord where
  codes : List Nat
  scale : Nat
  esc : Nat
  fp8 : Bool
  rsvd : Nat
  side : List Nat
  poolIndex : Nat
  tail : Nat
  deriving DecidableEq, Repr

/-- R89: the scale code X of a block of FP32 values. -/
def bellScale (vs : List Nat) : Nat :=
  let s := vs.foldl (fun s v =>
    if (Fmt.fp32.decode v).isFinite then
      let d := (convert .fp32 .fp64 v).code
      fadd .fp64 s (fmul .fp64 d d)
    else s) 0
  let r := fsqrt .fp64 (fdiv .fp64 s (ofInt .fp64 64))
  match Fmt.fp64.decode r with
  | .fin _ m e =>
    if m = 0 then 0
    else
      let up : Int := if r % 2 ^ 52 ≥ 0x6A09E667F3BCD then 1 else 0
      (max 1 (min 254 (127 + ((m.log2 : Int) + e) + up))).toNat
  | _ => 254

/-- |a| > 2.5 -/
def aboveGrid (z : FVal) : Bool := FVal.lt (.fin false 5 (-1)) z.abs

/-- R89: the level nearest to z, ties to the code nearer 0x7. -/
def nearestLevel (z : FVal) : Nat :=
  let dist (c : Nat) : Dyadic := (z.dy.sub (bellLevel c).dy).abs
  -- from 0x7 outward, so that only a strictly nearer level replaces one nearer 0x7
  let order := [7, 6, 8, 5, 9, 4, 10, 3, 11, 2, 12, 1, 13, 0, 14]
  order.foldl (fun best c => if (dist c).lt (dist best) then c else best) 7

/-- R89: value i is an escape candidate under scale X. -/
def bellEscapes (x : Nat) (v : FVal) : Bool :=
  !v.isFinite || (decide (x > 0) && aboveGrid (v.scale (127 - (x : Int))))

def bellCode (x : Nat) (v : FVal) : Nat :=
  if x = 0 then 0x7 else nearestLevel (v.scale (127 - (x : Int)))

/-- What one block encode gives: the record, an FP8 pool entry if it took one, and BELL_LOSSY (R91). -/
structure BellBlock where
  record : BellRecord
  pool : Option (Nat × List Nat)
  lossy : Bool
  deriving DecidableEq, Repr

/-- R90: the scale of the FP8 form. -/
def bellFp8Scale (vs : List FVal) : Nat :=
  match vs.foldl (fun (acc : Option Int) v => match v with
      | .fin _ m e => if m = 0 then acc else
          let x : Int := m.log2 + e
          some (match acc with | none => x | some y => max x y)
      | _ => acc) none with
  | none => 127
  | some l => (max 1 (min 254 (127 + l - 7))).toNat

/-- R89 to R91: encode 64 FP32 values; `free` is the first pool entry that may be taken, if one is left. -/
def bellEncode (vs : List Nat) (free : Option Nat) : BellBlock :=
  let vals := vs.map Fmt.fp32.decode
  let x := bellScale vs
  let cand := vals.map (bellEscapes x)
  let nEsc := (cand.filter id).length
  let pad (l : List Nat) : List Nat := (l ++ [0, 0, 0, 0]).take 4
  let sideOf (k : Nat) : List Nat :=
    pad ((((vs.zip cand).filter (·.2)).take k).map (fun p => (convert .fp32 .bf16 p.1).code))
  if nEsc ≤ 4 then
    let codes := List.zipWith (fun v c => if c then 0xF else bellCode x v) vals cand
    ⟨⟨codes, x, nEsc, false, 0, sideOf 4, 0, 0⟩, none, false⟩
  else match free with
    | some p =>
      let x8 := bellFp8Scale vals
      let entry := vals.map (fun v => (Fmt.e4m3.encode (v.scale (127 - (x8 : Int)))).code)
      ⟨⟨vs.map (fun _ => 0), x8, 0, true, 0, pad [], p, 0⟩, some (p, entry), false⟩
    | none =>
      let step (acc : List Nat × Nat) (p : FVal × Bool) : List Nat × Nat :=
        if !p.2 then (acc.1 ++ [bellCode x p.1], acc.2)
        else if acc.2 < 4 then (acc.1 ++ [0xF], acc.2 + 1)
        else if p.1.isFinite then (acc.1 ++ [if p.1.isNeg then 0x0 else 0xE], acc.2)
        else (acc.1 ++ [0x7], acc.2)
      let codes := ((vals.zip cand).foldl step ([], 0)).1
      ⟨⟨codes, x, 4, false, 0, sideOf 4, 0, 0⟩, none, true⟩

/-- Table 4.9: the 48 bytes of a record. -/
def BellRecord.bytes (r : BellRecord) : List Nat :=
  (List.range 32).map (fun j => r.codes.getD (2 * j) 7 + 16 * r.codes.getD (2 * j + 1) 7) ++
    [r.scale, r.esc + (if r.fp8 then 8 else 0) + 16 * r.rsvd] ++
    (List.range 4).flatMap (fun i => [r.side.getD i 0 % 256, r.side.getD i 0 / 256]) ++
    (List.range 4).map (fun i => r.poolIndex / 256 ^ i % 256) ++ [r.tail % 256, r.tail / 256]

def leNat (bs : List Nat) : Nat := bs.zipIdx.foldl (fun s (b : Nat × Nat) => s + b.1 * 256 ^ b.2) 0

/-- Table 4.9: a record from its 48 bytes. -/
def BellRecord.ofBytes (b : List Nat) : BellRecord :=
  { codes := (b.take 32).flatMap (fun x => [x % 16, x / 16])
    scale := b.getD 32 0
    esc := b.getD 33 0 % 8
    fp8 := b.getD 33 0 / 8 % 2 == 1
    rsvd := b.getD 33 0 / 16
    side := (List.range 4).map (fun i => leNat ((b.drop (34 + 2 * i)).take 2))
    poolIndex := leNat ((b.drop 42).take 4)
    tail := leNat ((b.drop 46).take 2) }

/-- R93: a malformed record, for a pool of `p` entries. -/
def BellRecord.malformed (r : BellRecord) (p : Nat) : Bool :=
  r.scale == 0xFF || r.rsvd != 0 || r.tail != 0 || decide (r.esc > 4) ||
    (!r.fp8 && (r.codes.filter (· == 0xF)).length != r.esc) || (r.fp8 && decide (r.poolIndex ≥ p))

/-- R92, R93: the 64 BF16 values of a record; `entry` is the FP8 pool entry it names. -/
def BellRecord.decode (r : BellRecord) (p : Nat) (entry : List Nat) : List Nat :=
  if r.malformed p then List.replicate 64 0x7FC0
  else if r.fp8 then
    entry.map (fun c => (Fmt.bf16.encode ((Fmt.e4m3.decode c).scale ((r.scale : Int) - 127))).code)
  else
    (r.codes.foldl (fun (acc : List Nat × Nat) c =>
      if c = 0xF then (acc.1 ++ [r.side.getD acc.2 0], acc.2 + 1)
      else if r.scale = 0 then (acc.1 ++ [0], acc.2)
      else (acc.1 ++ [(Fmt.bf16.encode ((bellLevel c).scale ((r.scale : Int) - 127))).code], acc.2)) ([], 0)).1

end Sys2Proof.Arith
end

