-- ==== Sys2Proof/Machine/Microscale.lean ====
section
/-!
DEFINITION. Microscaling formats: E8M0 scales, and quantisation block by block (04, R78 to R80, R83).
-/

namespace Sys2Proof.Arith

/-- R80: e_max of each element format. -/
def Fmt.emax : Fmt → Int
  | .mxfp8e4m3 => 8
  | .mxfp8e5m2 => 15
  | .mxfp6e2m3 => 2
  | .mxfp6e3m2 => 4
  | _ => 2

/-- One MX block: its E8M0 scale code, its element codes and whether an element saturated. -/
structure MxBlock where
  scale : Nat
  codes : List Nat
  saturated : Bool
  deriving DecidableEq, Repr

/-- The largest finite magnitude of a block as floor(log2 m), if a nonzero finite value is there. -/
def largestLog2 (vs : List FVal) : Option Int :=
  vs.foldl (fun acc v => match v with
    | .fin _ m e => if m = 0 then acc else
        let x : Int := m.log2 + e
        some (match acc with | none => x | some y => max x y)
    | _ => acc) none

/-- R80: quantise up to 32 values to an MX format. -/
def mxQuantise (t : Fmt) (vs : List FVal) : MxBlock :=
  let isFp8 := t == .mxfp8e4m3 || t == .mxfp8e5m2
  let nonFinite := vs.any (fun v => !v.isFinite)
  if nonFinite && !isFp8 then ⟨0xFF, vs.map (fun _ => 0), false⟩
  else
    let code : Nat := match largestLog2 vs with
      | none => 0
      | some l => (max (-127) (min 127 (l - t.emax)) + 127).toNat
    let x : Int := (code : Int) - 127
    let out := vs.map (fun v => t.encode (v.scale (-x)))
    if (largestLog2 vs).isNone && !nonFinite then ⟨0, vs.map (fun _ => 0), false⟩
    else ⟨code, out.map (·.code), out.any (·.saturated)⟩

/-- R78, R83: the value of an element under its scale. -/
def mxDecode (t : Fmt) (scale code : Nat) : FVal :=
  if scale = 0xFF then .nan else (t.decode code).scale ((scale : Int) - 127)

end Sys2Proof.Arith
end

