-- ==== Sys2Proof/Machine/Code.lean ====
section
/-!
DEFINITION. The code on every memory (R198): check bytes over GF(2^8), syndromes, and the poison pattern (R200).
-/

namespace Sys2Proof.Machine

/-- α · x in GF(2^8) with x^8 + x^4 + x^3 + x^2 + 1. -/
def gfDouble (x : Byte) : Byte := if x.getLsbD 7 then (x <<< 1) ^^^ 0x1D#8 else x <<< 1

/-- α^n · x. -/
def gfShift : Nat → Byte → Byte
  | 0, x => x
  | n + 1, x => gfDouble (gfShift n x)

/-- x · y. -/
def gfMul (x y : Byte) : Byte := (List.range 8).foldl (fun acc i => if y.getLsbD i then acc ^^^ gfShift i x else acc) 0#8

/-- A polynomial times X + α^j; coefficients stand from the highest power down. -/
def timesRoot (g : List Byte) (j : Nat) : List Byte := List.zipWith (· ^^^ ·) (g ++ [0#8]) (0#8 :: g.map (gfShift j))

/-- The generator, with roots α^0 to α^7; its leading coefficient is 1. -/
def rsGenerator : List Byte := (List.range 8).foldl timesRoot [1#8]

/-- One data byte enters the remainder of eight bytes. -/
def rsStep (r : List Byte) (d : Byte) : List Byte :=
  List.zipWith (· ^^^ ·) (r.tail ++ [0#8]) (rsGenerator.tail.map (gfMul (d ^^^ r.headD 0#8)))

/-- The 8 check bytes of 64 data bytes; the data byte of the lowest address is the coefficient of the highest power (log 94). -/
def checkBytes (data : List Byte) : List Byte := data.foldl rsStep (List.replicate 8 0#8)

/-- The word of a codeword at α^j; a word of the code has 0 at each of the eight roots. -/
def syndrome (j : Nat) (word : List Byte) : Byte := word.foldl (fun s v => gfShift j s ^^^ v) 0#8

/-- R200: the check bytes are those of the data, each inverted. -/
def poisonCheck (data : List Byte) : List Byte := (checkBytes data).map (fun v => ~~~v)

def isPoisonPattern (word : List Byte) : Bool := decide (word.drop 64 = poisonCheck (word.take 64))

end Sys2Proof.Machine
end

