-- ==== Sys2Proof/Config.lean ====
section
/-!
DEFINITION. The free values of the model (log 9) and the ROM default rulebook (12, R309; the tables of 05, 06, 09, 10, 11,
14 and 15).
-/

namespace Sys2Proof.Config

/-! ## Free values: nothing states what they are -/

/-- Outcome of a read that meets 7 or more symbols in error (R199): 0 to 2 are taken for that many errors, else detected. -/
opaque wideOutcome : Nat → BitVec 2

/-- Data of a codeword read with 7 or more symbols in error that is not detected (R199), by draw and byte. -/
opaque wideByte : Nat → Nat → Byte

/-- Bytes of a bench entry's header (R97), by block, micro-batch and byte. -/
opaque benchHeader : Nat → Nat → Nat → Byte

/-- What a byte of lost content reads as until something rewrites it (Table 9.3, Table 9.14), by draw and address. -/
opaque lostByte : Nat → Nat → Byte

/-- The Lodge's true random source (Table 12.7). -/
opaque nonceValue : Nat → BitVec 256

/-- CODE of a clear token over the serial and its two fields (R383). -/
opaque clearCode : Word64 → Nat → Nat → BitVec 64

/-- The two pattern seeds that ROM holds for a unit type, and the signature of each for Stepping B (R398). -/
opaque romSeed : UnitType → Bool → Word64
opaque romSignature : UnitType → Word64 → Word64

/-- The Lodge's ROM as its hash comes out at a power-up, the hash its fuses hold, and its two signatures (Table 17.4); by draw. -/
opaque lodgeHash : Nat → BitVec 384
opaque fusedHash : BitVec 384
opaque lodgeSignature : Nat → Bool → Word64

/-- The input monitor's reading of the bandgap reference at a power-up: its deviation in hundredths of a percent; by draw. -/
opaque inputReading : Nat → Int

/-- The device's P-384 private key, as manufacture left it (Table 12.7). -/
opaque deviceKey : Nat

/-- The device certificate, and the chain above it (Table 12.7). -/
opaque deviceCertificate : Nat
opaque deviceChain : List Nat

/-- Hudiry's root certificate, in the Lodge's ROM (Table 12.7). -/
opaque hudiryRoot : Nat

/-- IDs of the PCIe function's capability structures, of which R298 names only two that are absent. -/
opaque pcieCapabilities : List Nat

/-- The serial number in the device certificate (Table 12.12, LODGE_SERIAL). -/
opaque serialNumber : Word64

/-- Codes that a compare writes for false and true, by format (Table 8.2 states no encoding). -/
opaque compareCode : Nat → Bool → Nat

/-- min (false) and max (true) of two codes of a format where one is a NaN or both are zeros: Table 8.2 states no result. -/
opaque minMaxOpen : Bool → Nat → Nat → Nat → Nat

/-- Conversion of a floating-point code into an integer format, which R77 leaves to integer rescaling: format, code. -/
opaque toIntOpen : Nat → Nat → Nat

/-- Bytes of a section of a snapshot image that Table 15.4 gives no layout: type, number of items (log 31). -/
opaque sectionBytes : Nat → Nat → Nat

/-- Byte of a section of a snapshot image whose layout Table 15.4 does not give (log 31). -/
opaque sectionByte : Machine.SnapSection → Nat → Byte

/-- Byte of a section whose copy failed its CRC-64 or broke off (R365), by draw and place. -/
opaque tornByte : Nat → Nat → Byte

/-- State of a seal whose SEAL_CRC does not verify, by its bytes (Table 15.3 states nothing of it). -/
opaque badSeal : Nat → Nat

/-- Measured cost of a snapshot that completes before the last step in which it copied has ended (R356, R360), by draw. -/
opaque snapCost : Nat → Nat

/-- Domain members that name this module as BUDDY (R353). -/
opaque guests : List Nat

/-- Number of the write window over the guest share of a member (R353). -/
opaque guestWindow : Nat → Nat

/-- CODE of an operation that a partner's FENCE fails: R256 names no kind. -/
opaque fenceCode : Nat → Nat

/-- Mean input power, W, of the part of an interval that has not ended when a raise is decided (R278). -/
opaque partPower : Nat → Nat

/-- Code of a swap that names a slot without a staged image (Table 12.10 gives none). -/
opaque emptySwapCode : Nat → Nat

/-- A FENCED half's core rail still lies outside regulation (Table 14.4), by half and moment: no row reports it. -/
opaque railOut : Nat → Nat → Bool

/-- KEEPER_k of a keeper that failed its self-test (no table gives it), by keeper. -/
opaque failedKeeperCode : Nat → Nat

/-- Word of a request or a keeper's message in a slot, whose layout no table gives. -/
opaque slotWord : Nat → BitVec 64

/-- Word of a reply of the Lodge in slots 8 to 15: its content is stated, its layout in slot words is not. -/
opaque replyWord : Nat → BitVec 64

/-- Value of a step's verdict token in its STEP record: R23 gives it no producer; by partition and step. -/
opaque verdictToken : Nat → Nat → BitVec 32

/-! ## ROM defaults -/

/-- Table 11.3. -/
def beat : BeatConfig := ⟨100000, 0, 100, 100, 20000, 8, 10000, 1500⟩

/-- Table 11.8. -/
def opTable : List OpEntry :=
  [⟨550, 600, 43⟩, ⟨650, 625, 51⟩, ⟨750, 650, 59⟩, ⟨850, 675, 66⟩, ⟨950, 700, 74⟩, ⟨1050, 725, 82⟩, ⟨1150, 750, 90⟩,
   ⟨1250, 775, 98⟩, ⟨1300, 790, 102⟩, ⟨1350, 805, 105⟩, ⟨1400, 820, 109⟩, ⟨1500, 850, 117⟩, ⟨1600, 880, 125⟩,
   ⟨1650, 900, 129⟩, ⟨1700, 920, 133⟩, ⟨1800, 950, 141⟩]

/-- Table 11.9. -/
def ramp : List RampRow := [⟨0, 300, 300⟩, ⟨1000, 300, 300⟩, ⟨2000, 300, 300⟩, ⟨3000, 300, 300⟩]

/-- Table 11.10. -/
def power : PowerControl := ⟨false, 11, 4, 150, 1000, 95, 105, 115⟩

/-- Table 5.8. -/
def loss : LossScaleTable := ⟨16, 0, 24, 2000, 32⟩

/-- Table 6.5; the FP32 codes of 3.0, −3.2, 1.2 and 2^-10. -/
def update : UpdateRulesTable := ⟨0x40400000, 0xC04CCCCD, 0x3F99999A, 24, 0x3A800000⟩

/-- Table 9.5. -/
def interleave : InterleaveMap :=
  ⟨(List.range 384).map (fun s => s % 12 * 32 + s / 12), [], List.range 8, []⟩

/-- Table 9.6. -/
def memory : MemoryControl := ⟨24, 50, 10000, 3⟩

/-- Table 9.9. -/
def outfield : OutfieldLayout := ⟨8, 256⟩

/-- Table 9.15. -/
def thermal : InfieldThermal := ⟨85, 95⟩

/-- Table 10.12. TX_PRESET is "by port type", which the spec does not number: an empty list (log 13). -/
def link : LinkConfig :=
  ⟨List.replicate 48 true, [], 1, 1000000000, 64, 256, 200000, 100, 16, 1000000000, 32, 500, 1000000⟩

/-- `ROUTE_TABLE` and `LINK_TRUST` have no stated default content: no member, no revoked serial (log 13). -/
def route : RouteTable := ⟨0, [], [], []⟩

/-- Table 14.5. -/
def faults : FaultThresholds :=
  ⟨1000000, ⟨1024, 86400000000000⟩, ⟨4, 86400000000000⟩, ⟨3, 3600000000000⟩, ⟨64, 3600000000000⟩,
   ⟨4096, 86400000000000⟩, ⟨4, 3600000000000⟩⟩

/-- Table 15.6; weights and thresholds are FP32 codes. -/
def snapshot : SnapshotPolicy where
  cadence := .both
  destAuto := 1
  slots := 2
  gridSteps := 50
  wMem := 0x3F800000
  wStack := 0x40000000
  wDie := 0x40000000
  wLane := 0x40800000
  wRetrain := 0x41000000
  wDroop := 0x3F000000
  forecastNs := 3600000000000
  riskThreshold := 0x42C80000
  riskHysteresis := 0x41A00000
  guardSteps := 1
  cFixedMs := 0
  domainMtbfH := 0
  priorMtbfH := 1000
  tMin := 600
  tMax := 86400
  buddy := none
  guestGib := 0
  order := [.own, .buddy, .host]

/-- Table 5.3. -/
def bench : BenchControl := ⟨1000, 3⟩

/-- R309: every table at its defaults; R26 for STREAM_WAIT_LIMIT. -/
def rom : Rulebook where
  beat := beat
  op := opTable
  ramp := ramp
  power := power
  loss := loss
  update := update
  interleave := interleave
  memory := memory
  outfield := outfield
  thermal := thermal
  link := link
  trust := ⟨[]⟩
  route := route
  streamWait := 10000
  faults := faults
  snapshot := snapshot
  bench := bench

end Sys2Proof.Config
end

