-- ==== Sys2Proof/Machine/Parts/Front.lean ====
section
/-!
DEFINITION. Parts of the state: fault pages and the Whistle (14), the Scorebook (16), the rings (13), the host interface and
register views (18).
-/

namespace Sys2Proof.Machine

/-! ## Whistle -/

/-- Fault fields of a page of types 0x01 to 0x0F (Table 14.7). -/
structure FaultPage where
  message : Word64
  overflow : Bool
  corrected : Nat
  contained : Nat
  fatal : Nat
  /-- Expiry moment of a running contained timer (R337). -/
  timer : Option Nat
  /-- The timer has expired since the last acknowledgement: that acknowledgement is late (R337). -/
  expired : Bool
  quarantined : Bool
  clearRefused : Bool
  /-- Contained messages sent and not yet handled, oldest first (R341). -/
  unhandled : List Word64
  /-- Contained and fatal messages sent since the last accepted clear (their causes, Table 14.4). -/
  sent : List Word64
  deriving DecidableEq, Repr

/-- A page of Table 14.8. -/
structure WhistlePage where
  first : Word64
  promotions : Nat
  contained : Nat
  expiries : Nat
  lateAcks : Nat
  reportUs : Nat
  deriving DecidableEq, Repr

/-- A promotion window (R336): source, kind, messages counted, moment it opened. -/
structure PromoCount where
  source : Nat
  kind : Nat
  count : Nat
  opened : Nat
  deriving DecidableEq, Repr

/-- A fatal sequence of a half in progress (Table 14.6). -/
structure FatalSeq where
  at_ : Nat
  message : Word64
  /-- WH_REPORT_DONE has been written. -/
  reported : Bool
  deriving DecidableEq, Repr

/-- Why a half is FENCED: decides how it can leave that state (R340, R369, R396). -/
inductive FenceCause where
  | fatal | moduleFatal | selfTest | scan
  deriving DecidableEq, Repr

structure HalfState where
  fenced : Option FenceCause
  fatal : Option FatalSeq
  /-- Host software cleared its fatal page: the half may return (R369). -/
  cleared : Bool
  deriving DecidableEq, Repr

structure Whistle where
  /-- The fault pages, in the order of `faultPages`. -/
  pages : List FaultPage
  /-- West, east, module. -/
  wh : List WhistlePage
  moduleFirst : Word64
  promo : List PromoCount
  halves : List HalfState
  deriving DecidableEq, Repr

/-! ## Scorebook -/

/-- Table 16.2; CRC and VALID are those of a whole record. -/
structure Record where
  seq : Nat
  type : Nat
  seqOnly : Bool
  phase : Nat
  source : Nat
  opMs : Nat
  cycles : Nat
  beat : Nat
  message : Word64
  detail : List Nat
  deriving DecidableEq, Repr

structure Score where
  /-- Flash: the 128 bytes of each used record position from 0 on, and the counter store. -/
  flash : List (List Byte)
  full : Bool
  savedMs : Nat
  cycles : Nat
  clears : Nat
  /-- RAM. -/
  queue : List Record
  dropped : Nat
  corrupt : Nat
  nextSeq : Nat
  /-- The counter store has been read (R377). -/
  counterRead : Bool
  /-- Moment of the power cycle's start of operation, and hours before it. -/
  baseMs : Nat
  recovering : Bool
  /-- The Lodge is in a debug state, as the keepers see it (R377, TEST). -/
  testing : Bool
  /-- Records that board hold-up still lets the flash controller complete once the input is lost (R380). -/
  holdLeft : Nat
  deriving DecidableEq, Repr

/-! ## Rings -/

/-- What a record's DETAIL holds (R318, R323). -/
inductive Detail where
  | none
  | check (mask demanded available : Nat)
  | step (counter verdict loss flags : Nat)
  | op (flags : Nat) (partialInvalid : Bool) (invalid first : Nat)
  | counter (n : Nat)
  | snapshot (step bytes costMs slot : Nat)
  | restore (skippedLists verify : Nat)
  deriving DecidableEq, Repr

/-- Table 13.2. -/
structure CplRecord where
  tag : Word32
  opcode : Nat
  status : Nat
  phase : Bool
  kind : Nat
  code : Nat
  detail : Detail
  deriving DecidableEq, Repr

structure Ring where
  enable : Bool
  cmdBase : Nat
  cmdSize : Nat
  cmdHead : Nat
  cplBase : Nat
  cplSize : Nat
  cplHead : Nat
  cplTail : Nat
  errors : Nat
  /-- Tail announced to the module. -/
  tail : Nat
  /-- Entries that host software has put into the command ring and that the module has not read, oldest first. -/
  entries : List RingCmd
  /-- Commands accepted and not yet completed (R319). -/
  open_ : Nat
  /-- Entries read in the frame in progress (R317). -/
  reads : Nat
  held : List CplRecord
  /-- Records the module has written to the completion ring in host memory, oldest first. -/
  written : List CplRecord
  phase : Bool
  deriving DecidableEq, Repr

/-- A command accepted and not yet completed (R322). -/
structure Active where
  ring : Nat
  /-- Partition it names, or 15. -/
  key : Nat
  tag : Word32
  cmd : Cmd
  running : Bool
  /-- Asked of the Lodge for its image's signature: none where it need not wait, else whether the answer is in (R308). -/
  signed : Option Bool
  deriving DecidableEq, Repr

/-! ## Host interface -/

/-- Registers captured by FREEZE_VIEW: page, and offset and value of each. -/
structure View where
  page : Nat
  regs : List (Nat × Word64)
  deriving DecidableEq, Repr

/-- What the module last returned through an interface (log 14). -/
inductive Output where
  | none
  | word (w : Word64)
  | bytes (b : List Byte) (poisoned : Bool)
  | error
  | clearToken (token : List Byte)
  | nonce (n : Nat)
  | accepted
  | refused
  deriving DecidableEq, Repr

structure HostIf where
  bar2Base : Nat
  bar2Enable : Bool
  stagingOnly : Bool
  unmapped : Nat
  poisoned : Nat
  denied : Nat
  readBytes : Nat
  writtenBytes : Nat
  pcieUp : Bool
  /-- Interrupt Pin of the PCIe function, and the IDs of its capability structures (R298, R392). -/
  interruptPin : Nat
  capabilities : List Nat
  views : List View
  /-- BLK_SCRATCH of each page that holds a nonzero word. -/
  scratch : List (Nat × Word64)
  last : Output
  /-- Records of LOG_READ (128 bytes each) and SHARD_SUMs put into host buffers: address and content. -/
  logOut : List (Nat × List Byte)
  /-- Snapshot images, and their headers as sealed, put into host memory. -/
  snapOut : List (Nat × List Byte)
  sumsOut : List (Nat × List Nat)
  deriving DecidableEq, Repr

end Sys2Proof.Machine
end

