-- ==== Sys2Proof/Machine/Parts/Net.lean ====
section
/-!
DEFINITION. Parts of the state: links, write windows and reduction engines (10).
-/

namespace Sys2Proof.Machine

/-- Table 10.6. -/
inductive LinkState where
  | disabled | down | train | auth | up | resize | quarantine | fenced
  deriving DecidableEq, Repr

/-- A link and its registers (Table 10.14). -/
structure Link where
  state : LinkState
  /-- Lanes excluded at self-test, and lanes active. -/
  badLanes : List Nat
  lanes : List Nat
  partner : Nat
  reason : Nat
  serial : Word64
  tx : Nat
  rx : Nat
  naks : Nat
  resizes : Nat
  fecCorrected : Nat
  fecUncorrected : Nat
  malformed : Nat
  denied : Nat
  starved : Nat
  authFail : Nat
  rtt : Nat
  fwd : Nat
  /-- A cage of a copper or optical port holds a module or cable; backplane ports always do. -/
  fitted : Bool
  /-- Next SEQ to receive, and the lowest that the partner may still send again, as far as is known here (R232). -/
  rxSeq : Nat
  rxBase : Nat
  /-- Next SEQ to send; flits sent and not yet acknowledged, oldest first (R233). -/
  txSeq : Nat
  unacked : List Flit
  /-- Receiver discards every flit until the one named by its NAK arrives (R233). -/
  nakSent : Bool
  /-- Credits held for each VC (R235). -/
  credits : List Nat
  /-- Flits that wait to leave, oldest first. -/
  queued : List Flit
  /-- Data flits sent of partitions 0 to 3 and of relays; one that had none waiting does not fall behind those that have (R237). -/
  served : List Nat
  /-- For each VC, since when flits wait on it without a credit: moment and beat (R249). -/
  dryAt : List (Option (Nat × Nat))
  /-- Moment a NAK storm started the lane check that is under way (R234). -/
  laneCheck : Option Nat
  /-- Uncorrectable codewords of the last 1 ms: lane and moment (R240). -/
  fecAt : List (Nat × Nat)
  /-- Lanes that failed to train, and when (R241). -/
  laneTried : List (Nat × Nat)
  /-- Proofs asked for in the AUTH under way, and those asked for in an earlier one that the Lodge has not served (R239). -/
  proofsDue : Nat
  proofsStale : Nat
  /-- Moments of NAKs, of malformed or refused flits, of AUTH_FAILED, of entering QUARANTINE or DOWN. -/
  nakAt : List Nat
  badAt : List Nat
  authFailAt : List Nat
  since : Nat
  deriving DecidableEq, Repr

/-- Table 10.7. -/
structure Window where
  part : Nat
  ops : Nat
  valid : Bool
  domain : Nat
  base : Nat
  length : Nat
  generation : Nat
  /-- Moment a fence cleared it (R245). -/
  fencedAt : Option Nat
  deriving DecidableEq, Repr

/-- A collective at its node (R251 to R254): its own contribution, and what each child has delivered. -/
structure Reduction where
  part : Nat
  token : Token
  coll : Collective
  /-- Module-wide link die and vector engine of its stage. -/
  die : Nat
  engine : Nat
  /-- Header of the bucket (for XSUM, of the 40 bytes of an accumulator). -/
  hdr : BucketHdr
  /-- Own binary16 codes, or the bytes of the own accumulator. -/
  values : List Nat
  /-- (child, message) in the order of arrival. -/
  partials : List (Nat × ReduceMsg)
  /-- The node has sent its partial on, and waits for what comes back. -/
  sent : Bool
  /-- The operation's number among those that this module has sent flits of (R247). -/
  op : Nat
  deriving DecidableEq, Repr

/-- A segment of an operation of a source (R247): SRC, original type, operation, SEGMENT. -/
structure SegKey where
  src : Nat
  type : Nat
  op : Nat
  segment : Nat
  deriving DecidableEq, Repr

/-- What came for a collective before this node's own operation issued: partition, sender, REDUCE or RESULT, errors its write will meet. -/
structure Early where
  part : Nat
  src : Nat
  body : FlitBody
  errs : List CwError
  deriving DecidableEq, Repr

/-- Links, windows, engines. -/
structure Net where
  links : List Link
  windows : List Window
  reductions : List Reduction
  /-- Moments of lane-failed messages (R359). -/
  laneFailedAt : List Nat
  early : List Early
  /-- Segments accepted, newest first: of each source the last 2 048, as many as can be unacknowledged (R233, R247). -/
  accepted : List SegKey
  /-- Operations that this module has sent flits of. -/
  ops : Nat
  deriving DecidableEq, Repr

end Sys2Proof.Machine
end

