-- ==== Sys2Proof/Machine/Parts/Plant.lean ====
section
/-!
DEFINITION. Parts of the state: start-up (17, 19), the bandstand and schedule (11), the power controller (11), the keepers
and dovecotes (12), the Lodge (12, 17), the rulebook in force and its staging slots (12). Times are in ns since power-up.
-/

namespace Sys2Proof.Machine

/-- Table 17.1. -/
inductive StartState where
  | powering | waitRef | testing | ready | failed
  deriving DecidableEq, Repr

/-- Start-up, supply and the self-test page (Tables 17.1, 17.2, 17.6; R389, R422, R426). -/
structure Boot where
  start : StartState
  step : Nat
  /-- The input lies within 40 V to 58 V and has been valid for 10 ms (R389). -/
  inputOk : Bool
  /-- The standby rail is up (R422). -/
  standby : Bool
  /-- The core, memory and SerDes rails are up (Table 17.2, R422). -/
  rails : Bool
  /-- The input eFuse has opened (R421). -/
  eFuseOpen : Bool
  /-- Moment the input became valid. -/
  validAt : Nat
  readyMs : Nat
  /-- Table 17.4 has been run in this power cycle (R417, "from self-test"). -/
  tested : Bool
  tilesFailed : Nat
  banksUnusable : Nat
  /-- Infield channels retired at self-test. -/
  channelsOut : List Nat
  lanesFailed : Nat
  veUnusable : List Nat
  keeperFailed : List Nat
  halfFenced : List Nat
  outFailed : List Nat
  /-- Link dies that failed self-test (R399). -/
  diesFailed : List Nat
  /-- Thermal sensors excluded at self-test, half × 65 536 + sensor. -/
  sensorsOut : List Nat
  /-- ST_TOUCH: the source selected for each touchline pin. -/
  touch : List Nat
  deriving DecidableEq, Repr

/-- Table 11.2. -/
inductive BandState where
  | seeking | locked | holdover | unlocked | free
  deriving DecidableEq, Repr

/-- The bandstand (11, R258 to R262). -/
structure Clock where
  /-- ns since the input became valid (log 2). -/
  now : Nat
  refPresent : Bool
  band : BandState
  beat : Nat
  /-- Beat length fixed at lock (R262); 0 before the first lock. -/
  beatNs : Nat
  /-- Moment of the last beat boundary. -/
  beatStart : Nat
  /-- The bandstand made that boundary: it is not the lock's own (R270). -/
  made : Bool
  /-- Consecutive beats in HOLDOVER (R261). -/
  holdBeats : Nat
  /-- In SEEKING: the moment of the accepted edge that a 1588 time is compared with. -/
  edgeAt : Option Nat
  /-- The last IEEE 1588 time since REF: its moment and value. -/
  tai : Option (Nat × Nat)
  edgesRejected : Nat
  holdoverTotal : Nat
  deriving DecidableEq, Repr

/-- What the module knows of an installed barrier beside its entry (R267 to R271). -/
structure BarrierInfo where
  part : Nat
  id : Nat
  arrived : Bool
  notices : List Notice
  /-- Latest beat this module has noticed. -/
  noticed : Nat
  /-- Beat of the last decision (R269, R270). -/
  decided : Option Nat
  /-- Beat of a decision to release, whose release tick is still to come (R270). -/
  releasing : Option Nat
  deriving DecidableEq, Repr

/-- The schedule (R263, R267, R442). Entries stand in the order of their installation. -/
structure Sched where
  entries : List SchedEntry
  barriers : List BarrierInfo
  held : List Notice
  /-- Barriers that ended: identifier, partition, and beat of the decision that a later notice may come too late for (R269). -/
  closed : List (Nat × Nat × Nat)
  /-- Count of token-carrying entries of the whole module (R25). -/
  moduleCount : Nat
  /-- Tokens of whole-module entries that completed: token, failure code. -/
  moduleDone : List (Token × Nat)
  stale : Nat
  /-- End of an open MAINTENANCE window. -/
  windowEnd : Option Nat
  deriving DecidableEq, Repr

/-- A clock switch that is due (R275, R278, R285). -/
structure Switch where
  target : Nat
  dueBeat : Nat
  raise : Bool
  deriving DecidableEq, Repr

/-- Table 11.7. -/
structure BeatReport where
  beat : Nat
  pavg : Nat
  ppeak : Nat
  grant : Nat
  rally : Nat
  duty15 : Nat
  op : Nat
  fixed : Bool
  duty : Nat
  flags : Nat
  tempMax : Int
  deriving DecidableEq, Repr

/-- The power controller (R272 to R286). Sums over the beat are of value × ns. -/
structure Power where
  grant : Nat
  /-- A raise that waits for (beat, 0): watts and beat (R282). -/
  pendingRaise : Option (Nat × Nat)
  seq : Nat
  /-- Beat of the last valid grant message, and whether the lapse of R283 has been applied. -/
  grantBeat : Nat
  lapsed : Bool
  duty : Nat
  hWest : Nat
  hEast : Nat
  op : Nat
  fixed : Bool
  fixedOp : Nat
  opFloor : Nat
  opCeiling : Nat
  switch : Option Switch
  /-- Core voltage, mV (R275, R285). -/
  vcoreMv : Nat
  /-- DUTY_STEP_W as the controller has corrected it, by operating point; the table's value for any other (R274). -/
  corrected : List (Nat × Nat)
  /-- P_avg(b − 1). -/
  pavgPrev : Nat
  /-- End of the last interval, and the sums of P, duty and rally over the beat so far. -/
  lastEnd : Nat
  sumP : Nat
  sumDuty : Nat
  sumRally : Nat
  sumNs : Nat
  peak : Nat
  dutyAlwaysZero : Bool
  /-- Registers PWR_LAST and PWR_FLAGS, for the last beat. -/
  lastPavg : Nat
  lastPeak : Nat
  lastRally : Nat
  lastFlags : Nat
  /-- Flags of the beat in progress. -/
  capUnmet : Bool
  fixedConflict : Bool
  rampUnmet : Bool
  rally : Bool
  /-- Mean input power before arrival, which rally holds (R271). -/
  rallyLevel : Option Nat
  /-- Rally holds the ramp floor (R271, R277). -/
  rallyFloor : Bool
  /-- P_avg of the last beats, newest first (R271, RALLY_WINDOW). -/
  history : List Nat
  deferred : Nat
  capUnmetBeats : Nat
  deferrals : Nat
  /-- Moments of deferrals, for the forecast (R359). -/
  deferredAt : List Nat
  stretched : Nat
  /-- Droop is stretching the west, the east half's clock; last moment either half stretched. -/
  droopWest : Bool
  droopEast : Bool
  lastStretch : Option Nat
  /-- Die sensors of each half, °C, as last sampled. -/
  west : List Int
  east : List Int
  /-- Hottest sensor of the past, with the moment until which it held (R359). -/
  hotAt : List (Nat × Int)
  /-- Halves stopped at STOP_C (R286). -/
  hotStopped : List Nat
  /-- DUTY of each half as it entered FENCED (R418). -/
  fencedDuty : List Nat
  duty15 : Nat
  /-- Reports sent to the rack manager, newest first (the last one only). -/
  report : Option BeatReport
  deriving DecidableEq, Repr

inductive KeeperMode where
  | on | retain | off | restarting
  deriving DecidableEq, Repr

structure Keeper where
  mode : KeeperMode
  /-- Failed at self-test (Table 17.4). -/
  failed : Bool
  /-- Start of the last frame. -/
  frameAt : Nat
  /-- Moment of the last watchdog expiry (R296). -/
  expiredAt : Option Nat
  /-- It carries out its role for the other half as well, since a frame start of its own (R296, R399). -/
  covers : Bool
  deriving DecidableEq, Repr

/-- Keepers (R289 to R296). -/
structure Keepers where
  cores : List Keeper
  /-- 0 west, 1 east (R291). -/
  lead : Nat
  restarts : Nat
  slips : Nat
  deriving DecidableEq, Repr

structure Slot where
  word : Word64
  full : Bool
  overrun : Bool
  deriving DecidableEq, Repr

/-- What the Lodge serves in its queue: a keeper's request, the signature over a lane's new nonces (R241), or the signature check of a
ring command's image (R308). -/
inductive LodgeJob where
  | request (r : LodgeReq)
  | lane (link lane : Nat) (m : AuthMsg)
  | check (ring : Nat) (tag : Word32)
  deriving DecidableEq, Repr

/-- A request in one of the Lodge's slots (Table 12.2). -/
inductive LodgeMail where
  | ask (j : LodgeJob)
  | ownerKey (key : Nat)
  | install (cls : KeyClass) (key : Nat) (signer : Option Nat)
  | nonce
  | debug (serial : Word64) (nonce level halves : Nat) (signer : Option Nat)
  | clear (authoriser : Nat) (signer : Option Nat)
  deriving DecidableEq, Repr

/-- Dovecotes (R300 to R306). -/
structure Doves where
  slots : List Slot
  foreign : Nat
  /-- Latched wake events: keepers 0 to 7, then the Lodge request engine. -/
  wake : List Bool
  /-- Pending attention bits of slots 24 to 28. -/
  attn : List Nat
  /-- Beat in which the word of slot 32 landed in slot 0 (R304). -/
  grantBeat : Nat
  /-- What the words in the Lodge's full slots ask for, while its request engine is OFF. -/
  mail : List (Nat × LodgeMail)
  /-- Requests that the engine has taken from its slots and not served yet (R308). -/
  asks : List LodgeJob
  deriving DecidableEq, Repr

/-- The Lodge (12, Table 12.7, R308; 17, R393 to R397): a power and fault domain of its own. -/
structure Vault where
  serial : Word64
  /-- Owner root key: set once per module (WS). -/
  ownerKey : Option Nat
  fixtureKeys : List Nat
  rulebookKeys : List Nat
  /-- The last debug nonce issued and not yet used (R395). -/
  nonce : Option Nat
  debug : Bool
  level : Nat
  scanHalves : Nat
  /-- A debug state was left by the power-up under way: its DEBUG record is due (R397). -/
  exitDue : Bool
  /-- Self-test step 2 passed (R394). -/
  healthy : Bool
  engineOn : Bool
  /-- Moment since when no request has been pending (Table 12.6). -/
  idleSince : Nat
  /-- Device private key, device certificate with its chain, and Hudiry's root (Table 12.7). -/
  deviceKey : Nat
  certificate : Nat
  chain : List Nat
  root : Nat
  /-- Moments of the proofs verified in the last second (R243). -/
  proofsAt : List Nat
  /-- Nonces drawn so far: the argument of the free nonce values. -/
  drawn : Nat
  deriving DecidableEq, Repr

/-- RB_STAGED (Table 12.12). -/
inductive Staging where
  | empty
  | verifying
  | staged (img : RulebookImage)
  | refused
  deriving DecidableEq, Repr

/-- The rulebook in force (R309, R311). -/
structure Book where
  tables : Rulebook
  version : Nat
  lastResult : Nat
  staging : List Staging
  deriving DecidableEq, Repr

end Sys2Proof.Machine
end

