-- ==== Sys2Proof/Machine/Parts/Store.lean ====
section
/-!
DEFINITION. Parts of the state: the three memories, their poison lists, banks, channels, stacks, retrains, retirements
and ORDERED windows (09).
-/

namespace Sys2Proof.Machine

/-- Byte-addressed memory in one canonical form: addresses strictly rising, no cell equal to zero, what an unlisted byte
reads as (R399 zero fill; R205 a bank from OFF). -/
abbrev Memory := List Host.Cell

/-- Table 9.3. -/
inductive BankState where
  | off | retain | on | unusable
  deriving DecidableEq, Repr

structure Bank where
  state : BankState
  /-- RETAIN or OFF requested and not yet entered (R206). -/
  target : Option BankState
  deriving DecidableEq, Repr

/-- A channel of infield or outfield, by its channel number (R207, R221 to R223). -/
structure Channel where
  /-- A retrain occupies it. -/
  retraining : Bool
  /-- Every attempt failed, and the slot is not yet in RETIRED (Table 14.4). -/
  failed : Bool
  /-- Attempts begun of the retrain under way. -/
  attempts : Nat
  urgent : Bool
  startedAt : Nat
  /-- Last training: moment and stack temperature (R222). -/
  trainedAt : Nat
  trainedTemp : Option Int
  /-- Moments of CRC failures within the last 1 ms. -/
  crcAt : List Nat
  deriving DecidableEq, Repr

/-- A retrain requested and not yet started; `tag` names the `RETRAIN` command that asked (R222). -/
structure RetrainReq where
  chan : Nat
  urgent : Bool
  beat : Nat
  command : Bool
  deriving DecidableEq, Repr

/-- Table 9.15. -/
inductive ThermalLevel where
  | normal | hot | critical | shutdown
  deriving DecidableEq, Repr

/-- Registers of an infield stack or outfield controller (Table 9.17); of a scratchpad the counters only (Table 9.18). -/
structure MemCtl where
  temp : Int
  level : ThermalLevel
  corrected : Nat
  uncorrected : Nat
  retrains : Nat
  maxNs : Nat
  ordered : Nat
  timeouts : Nat
  ballErrors : Nat
  ballChannel : Nat
  ballDone : Bool
  ballFirst : Nat
  deriving DecidableEq, Repr

structure SpadCtl where
  corrected : Nat
  uncorrected : Nat
  collide : Nat
  accessBad : Nat
  wakes : Nat
  deriving DecidableEq, Repr

/-- A poison list (R344). -/
structure PoisonList where
  src : MemSource
  cws : List Nat
  ovf : Bool
  deriving DecidableEq, Repr

/-- A pending ORDERED window of 2 KiB (R214 to R216). -/
structure AddWindow where
  /-- Address of the window divided by 2 048. -/
  index : Nat
  expected : Nat
  firstBeat : Nat
  /-- Adds in the order of their arrival. -/
  adds : List AddReq
  deriving DecidableEq, Repr

/-- A retirement under way (Table 9.13): the slots join RETIRED at the next beat boundary. -/
structure Retirement where
  infield : List Nat
  outfield : List Nat
  deriving DecidableEq, Repr

/-- Content lost with slots (Table 9.14): every granule that lay on one of them, but for what has been written since. -/
structure LostSlot where
  outfield : Bool
  slots : List Nat
  /-- The retired slots of the map by which the granules lay there (R209). -/
  before : List Nat
  /-- The draw of free values its bytes read as (log 9). -/
  draw : Nat
  /-- Spans written since: address and bytes. -/
  rewritten : List (Nat × Nat)
  /-- Spans that were rebound when the map lost slots: new address, bytes, old address (Table 9.13 step 2). -/
  moved : List (Nat × Nat × Nat)
  deriving DecidableEq, Repr

/-- The memory subsystem (09). -/
structure Store where
  cells : Memory
  /-- Codewords (address ÷ 64) that hold the poison pattern, rising (R200). -/
  poison : List Nat
  lists : List PoisonList
  lost : List LostSlot
  banks : List Bank
  spad : List SpadCtl
  channels : List Channel
  outChannels : List Channel
  stackCtl : List MemCtl
  outCtl : List MemCtl
  /-- RETIRED and OUT_RETIRED (R208, R210), rising. -/
  retired : List Nat
  outRetired : List Nat
  /-- Slots of a returned half that leave RETIRED at the first boundary without a grant (R369). -/
  returning : List Nat
  outReturning : List Nat
  pendingRetire : List Retirement
  retrainQueue : List RetrainReq
  windows : List AddWindow
  /-- ORDERED adds that a full buffer holds back, in the order of their arrival (R215). -/
  heldAdds : List AddReq
  /-- Moments of urgent retrains and of mem-corrected messages, for the forecast (R359). -/
  urgentAt : List Nat
  /-- Hottest stack temperature of the past, with the moment until which it held (R359). -/
  hotAt : List (Nat × Int)
  correctedAt : List Nat
  /-- Channels for which a promotion started an urgent retrain: channel and moment (R336). -/
  promotedAt : List (Nat × Nat)
  deriving DecidableEq, Repr

end Sys2Proof.Machine
end

