-- ==== Sys2Proof/Machine/ExactSum.lean ====
section
/-!
DEFINITION. The exact-sum unit (08, R182 to R188): a 288-bit integer N of weight 2^-127 and three sticky flags.
-/

namespace Sys2Proof.Arith

/-- R182: an exact-sum accumulator. `n` is the two's-complement integer of 288 bits. -/
structure XSum where
  n : Int
  pos : Bool
  neg : Bool
  nan : Bool
  deriving DecidableEq, Repr

def XSum.zero : XSum := ⟨0, false, false, false⟩

/-- N as the 288 bits hold it, in two's complement (R182). -/
def XSum.held (n : Int) : Int := toSigned 288 (ofSigned 288 n)

/-- R183: a term enters an accumulator. -/
def XSum.add (a : XSum) (t : FVal) : XSum :=
  match t with
  | .nan => { a with nan := true }
  | .inf s => if s then { a with neg := true } else { a with pos := true }
  | .fin s m e =>
    if m = 0 then a
    else if (m.log2 : Int) + e ≥ 127 then (if s then { a with neg := true } else { a with pos := true })
    else { a with n := XSum.held (a.n + t.dy.roundTo (-127)) }

def XSum.sum (ts : List FVal) : XSum := ts.foldl XSum.add XSum.zero

/-- N fits in the 288 bits (R182). -/
def XSum.fits (n : Int) : Bool := decide (-(2 ^ 287 : Int) ≤ n) && decide (n < (2 ^ 287 : Int))

/-- R185: scaling by 2^-s, rounding the last bit by R73. -/
def XSum.scaleDown (a : XSum) (s : Nat) : XSum := { a with n := (Dyadic.mk a.n 0).roundTo s }

/-- R185: scaling by 2^s, 1 ≤ s ≤ 32; when N leaves the 288 bits, POS or NEG is set by its sign and N is cleared. -/
def XSum.scaleUp (a : XSum) (s : Nat) : XSum :=
  let n := a.n * 2 ^ s
  if XSum.fits n then { a with n := n }
  else if n < 0 then { a with n := 0, neg := true } else { a with n := 0, pos := true }

/-- R186: combining two accumulators. -/
def XSum.combine (a b : XSum) : XSum := ⟨XSum.held (a.n + b.n), a.pos || b.pos, a.neg || b.neg, a.nan || b.nan⟩

def XSum.flagged (a : XSum) : Bool := a.pos || a.neg || a.nan

/-- R187: the value an accumulator converts to, before its one rounding. -/
def XSum.value (a : XSum) : FVal :=
  if a.nan || (a.pos && a.neg) then .nan
  else if a.pos then .inf false
  else if a.neg then .inf true
  else .ofDyadic ⟨a.n, -127⟩

/-- R187: conversion with one rounding; XSUM_RANGE is `flagged`. -/
def XSum.convert (a : XSum) (t : Fmt) : Nat := (t.encode a.value).code

/-- R188: the 40-byte parked image. -/
def XSum.image (a : XSum) : List Nat :=
  let u := (a.n % (2 ^ 288 : Int)).toNat
  (List.range 36).map (fun i => u / 256 ^ i % 256) ++
    [(if a.pos then 1 else 0) + (if a.neg then 2 else 0) + (if a.nan then 4 else 0), 0, 0, 0]

/-- R188: reloading a parked image. -/
def XSum.ofImage (bytes : List Nat) : XSum :=
  let u := ((bytes.take 36).zipIdx).foldl (fun s (b : Nat × Nat) => s + b.1 * 256 ^ b.2) 0
  let f := bytes.getD 36 0
  ⟨toSigned 288 u, f % 2 == 1, f / 2 % 2 == 1, f / 4 % 2 == 1⟩

end Sys2Proof.Arith
end

