-- ==== Sys2Proof/Machine/Parts/Work.lean ====
section
/-!
DEFINITION. Parts of the state: pitches (03), vector engines (08), and partitions with their fixture, streams, bench,
loss scale, update, attention and snapshot state (02, 05, 06, 07, 15).
-/

namespace Sys2Proof.Machine

/-- PITCH_STATE.STATE and VE_STATE.STATE; FENCED follows the half. -/
inductive UnitState where
  | idle | running | stopping | stopped
  deriving DecidableEq, Repr

/-- A pitch (R43, R64, R65, R69, R70, R72). -/
structure Pitch where
  /-- SB0 and SB1: 64 bytes for each cell of a bank, by logical cell row and column (log 82). -/
  sb : Memory
  /-- The four MX scale registers of each cell of a bank. -/
  mxScale : Memory
  /-- Tiles, 32 to a row, whose active bank is SB1 (R57), rising. -/
  active : List Nat
  /-- First output block not written at the last stop, by stage (R65). -/
  unwritten : List (Nat × Nat)
  /-- Failed tiles (physical row, column) for which R69 or R70 has been applied. -/
  failed : List (Nat × Nat)
  /-- A failed tile for which neither R69 nor R70 has been applied. -/
  unrepaired : List (Nat × Nat)
  /-- Feeders or drain failed, or the engine of the same number is unusable (Table 17.4): active size 0. -/
  dead : Bool
  state : UnitState
  stopAt : Nat
  /-- The pitch was told to resume while its flush was under way: it resumes when the flush has ended. -/
  resume : Bool
  stages : Nat
  cycles : Nat
  /-- Cycles spent RUNNING since the last power interval: no cause can have frozen more of them (R64). -/
  ran : Nat
  frozen : Nat
  frzFeed : Nat
  frzBank : Nat
  frzDrain : Nat
  frzDuty : Nat
  stops : Nat
  maxNs : Nat
  deriving DecidableEq, Repr

/-- A numbered exact-sum accumulator of an engine (R182). -/
structure AccState where
  num : Nat
  x : Arith.XSum
  deriving DecidableEq, Repr

/-- An accumulator whose image is parked, and where (R188). -/
structure ParkedAcc where
  num : Nat
  loc : Loc
  deriving DecidableEq, Repr

/-- A vector engine (R182, R188, R195, R197). -/
structure Engine where
  unusable : Bool
  state : UnitState
  stopAt : Nat
  /-- The engine was told to resume while a closing burst was under way. -/
  resume : Bool
  /-- Resident accumulators, at most 4 096. -/
  accs : List AccState
  parked : List ParkedAcc
  /-- Vector registers: 64 of 4 096 lanes of 4 bytes (R179). -/
  vregs : Memory
  cycles : Nat
  issue : Nat
  borrow : Nat
  duty : Nat
  terms : Nat
  parks : Nat
  range : Nat
  deriving DecidableEq, Repr

/-- Table 2.6, with the state before any load. -/
inductive FixState where
  | empty | staged | checking | admitted | running | stopped | refused | retired
  deriving DecidableEq, Repr

/-- Table 2.5. -/
structure Quotas where
  banksWest : Nat
  banksEast : Nat
  infield : Nat
  outfield : Nat
  kvPages : Nat
  linkShare : Nat
  inflight : Nat
  deriving DecidableEq, Repr

/-- A contiguous piece of a grant: device address and bytes. -/
structure Segment where
  addr : Nat
  bytes : Nat
  deriving DecidableEq, Repr

/-- What an admitted fixture holds (R433, R244). -/
structure Grant where
  banks : List Nat
  infield : List Segment
  outfield : List Segment
  windows : List Nat
  kvPages : Nat
  deriving DecidableEq, Repr

/-- A stream (R22 to R29): position in its list, operations in flight, producer count, wait under R26. -/
structure Stream where
  pos : Nat
  count : Nat
  waitSince : Option Nat
  deriving DecidableEq, Repr

/-- An operation in flight (R27). -/
structure Flight where
  stream : Nat
  idx : Nat
  token : Token
  /-- Fault kind it fails with: a token it waited on failed (R437), or its own failure so far. -/
  failed : Option Nat
  issuedBeat : Nat
  /-- Sub-operations committed (R195). -/
  done : Nat
  /-- Output blocks written at a stop (R65, R67). -/
  blocks : Nat
  /-- Issued under this rulebook and route table (R145, R214). -/
  rule : UpdateRulesTable
  /-- Sequences whose walk has marked them invalid, by index, and flags of Table 13.2 collected so far. -/
  invalid : List Nat
  flags : Nat
  /-- Walks begun at issue: GENERATION read first, per sequence (R172). -/
  gens : List Nat
  /-- Its number among the operations that this module has sent flits of (R247). -/
  sent : Nat
  deriving DecidableEq, Repr

/-- A bench entry; tier 0 scratchpad, 1 infield, 2 outfield (R97). -/
structure BenchEntry where
  block : Nat
  mb : Nat
  tier : Nat
  /-- Granules of the tier that it takes, in order: 64 bytes of header, then its bytes. -/
  granules : List Nat
  /-- Bytes placed there: of the largest piece once the micro-batch is split (log 19). -/
  bytes : Nat
  /-- Bytes of the other pieces. -/
  rest : List Byte
  deriving DecidableEq, Repr

/-- A gradient bucket of the step (R112 to R114). -/
structure Bucket where
  id : Nat
  status : Nat
  /-- Reduced status received (R120). -/
  reduced : Option Nat
  failed : Bool
  /-- Step whose gradient its elements hold; the elements start each step at +0 (R113). -/
  filled : Option Nat
  deriving DecidableEq, Repr

/-- A layer that the journal region holds (R122), and where its copy starts in the region. -/
structure JournalEntry where
  layer : Nat
  start : Nat
  deriving DecidableEq, Repr

/-- A snapshot that was asked for and has not yet taken its cut (R350, R361). -/
structure SnapWait where
  mask : Nat
  addr : Nat
  command : Bool
  deriving DecidableEq, Repr

/-- A snapshot that is copying (R351). -/
structure SnapRun where
  image : Image
  /-- Layers whose copy has not started. -/
  layersDue : List Nat
  command : Bool
  /-- Moment of the cut, and the mean duration of the 8 steps before it, ns (R360). -/
  started : Nat
  meanNs : Nat
  deriving DecidableEq, Repr

/-- A verification that waits for the first replayed step (R370): the image's seal, the lists left as they were (Table 15.8
step 5), and the command that asked. -/
structure Verify where
  sealed : SealState
  loss : Nat
  verdict : Nat
  skipped : Nat
  ring : Nat
  tag : Word32
  cmd : Cmd
  deriving DecidableEq, Repr

/-- Snapshot state of a partition (15). -/
structure Snap where
  waiting : Option SnapWait
  run : Option SnapRun
  /-- Complete images, newest first. -/
  images : List Image
  incomplete : Bool
  guard : Bool
  /-- Verdicts since the last cut in GUARD. -/
  guardCount : Nat
  /-- Moment and step of the last cut. -/
  lastCut : Nat
  costMs : Option Nat
  /-- A complete snapshot whose last step has not ended: its cut and the mean before it (R360). -/
  costDue : Option (Nat × Nat)
  costC : Nat
  tS : Nat
  score : Nat
  snapshots : Nat
  restores : Nat
  verify : Option Verify
  result : Nat
  mismatches : Nat
  rollback : Nat
  /-- Durations of the last verdict-to-verdict steps, newest first, with whether a copy ran (R360). -/
  stepNs : List (Nat × Bool)
  lastVerdictAt : Nat
  admittedAt : Nat
  restoresSince : Nat
  deriving DecidableEq, Repr

/-- Pass state of a partition (05). -/
structure Pass where
  scaleExp : Int
  /-- Exponents that were in force for the last steps, newest first: step and e (R112, R128). -/
  scaleAt : List (Nat × Int)
  clean : Nat
  history : Nat
  step : Nat
  verdict : Nat
  skips : Nat
  skippedCount : Nat
  splitCount : Nat
  /-- Splits made of each micro-batch within the step (R111). -/
  splits : List (Nat × Nat)
  bench : List BenchEntry
  /-- Beat at which the deadlocked hold began (R108), and the micro-batch it stalls. -/
  benchHold : Option (Nat × Nat)
  buckets : List Bucket
  /-- FP64 loss terms of the rows of each micro-batch (R191). -/
  losses : List (Nat × List Nat)
  /-- Engine of the step's latest loss row. -/
  lossEngine : Option Nat
  /-- FLAGS of the STEP record so far. -/
  flags : Nat
  /-- Positions and counts of the three streams at the start of the step (R109). -/
  startPos : List Nat
  startCount : List Nat
  deriving DecidableEq, Repr

/-- Update state of a partition (06). -/
structure Upd where
  layers : Nat
  frozen : Nat
  precond : Nat
  clamped : Nat
  rolledBack : Nat
  failed : Nat
  lastGroup : Nat
  lastLayer : Nat
  groups : List GroupState
  /-- KRON tensors whose stored roots are valid (R143, R144). -/
  rootsValid : List Nat
  journal : List JournalEntry
  /-- Groups that have applied an update in the step in progress (R137), with that step. -/
  advanced : List (Nat × Nat)
  /-- Steps whose remaining updates do not issue (R123, R124). -/
  withheld : List Nat
  deriving DecidableEq, Repr

/-- Attention registers (Table 7.9) and lost pages (Table 9.14): pool, page, token slots written since. -/
structure Attn where
  walks : Nat
  invalid : Nat
  edited : Nat
  badList : Nat
  skipped : Nat
  partial_ : Nat
  reads : Nat
  empty : Nat
  nan : Nat
  lostPages : List (Nat × Nat × List Nat)
  /-- Offsets of lists that fail as malformed until host software edits them (Table 9.14). -/
  lostLists : List Nat
  /-- Offsets of initialised lists. -/
  lists : List Nat
  deriving DecidableEq, Repr



/-- A partition (02). -/
structure Partition where
  /-- Pitches owned, rising. -/
  pitches : List Nat
  quotas : Quotas
  fix : Option FixtureImage
  fstate : FixState
  /-- The fixture is STOPPED by R111 (Table 14.4, bench-split-limit). -/
  splitStopped : Bool
  grant : Grant
  /-- Streams forward, backward, update. -/
  streams : List Stream
  beatCount : Nat
  flights : List Flight
  board : List Done
  /-- Pending STEP_BOUND (R436): step, TAG, ring. -/
  bound : Option (Nat × Word32 × Nat)
  pass : Pass
  upd : Upd
  attn : Attn
  snap : Snap
  deriving DecidableEq, Repr

end Sys2Proof.Machine
end

