-- ==== Sys2Proof/Machine/State.lean ====
section
/-!
DEFINITION. The state of the module, all plain data, the reasons a step can stop, and the state right after reset: power-up
before the input is valid (17, R388, R389; log 13).
-/

namespace Sys2Proof.Machine

/-- No command of the module ends in a fault of the model: what the spec calls a fault is a message to the Whistle, an
effect on the state. Nothing raises this. -/
inductive Fault where
  deriving DecidableEq, Repr

/-- Why a command is refused by the model. -/
inductive Refusal where
  /-- An instruction without a meaning. Raised by the dispatch alone. Safe. -/
  | notModelled (mnemonic : String)
  /-- An operand names a unit that Table 1.2 or Table 18.3 does not give the module, or a field wider than its table:
  no such command can reach it. Raised by `exec` on an ill-formed command. Safe. -/
  | illFormed
  deriving DecidableEq, Repr

/-- Everything outside the Lodge. -/
structure Body where
  boot : Boot
  clock : Clock
  sched : Sched
  power : Power
  keepers : Keepers
  doves : Doves
  book : Book
  store : Store
  net : Net
  whistle : Whistle
  score : Score
  rings : List Ring
  active : List Active
  host : HostIf
  pitches : List Pitch
  engines : List Engine
  parts : List Partition
  /-- Draws made of free values (log 9). -/
  free : Nat
  deriving DecidableEq, Repr

/-- The module: the queue of waiting commands, the Lodge (a domain of its own, 12), and the rest. -/
structure State where
  pending : List Instr
  vault : Vault
  body : Body
  deriving DecidableEq, Repr

/-! ## Reset -/

/-- Table 5.10 before any fixture; RESTART_EXP of the default table. -/
def Pass.reset : Pass where
  scaleExp := Config.loss.restartExp
  scaleAt := []
  clean := 0
  history := 3
  step := 0
  verdict := 0
  skips := 0
  skippedCount := 0
  splitCount := 0
  splits := []
  bench := []
  benchHold := none
  buckets := []
  losses := []
  lossEngine := none
  flags := 0
  startPos := [0, 0, 0]
  startCount := [0, 0, 0]

/-- Table 6.8. -/
def Upd.reset : Upd := ⟨0, 0, 0, 0, 0, 0, 0, 0, [], [], [], [], []⟩

/-- Table 7.9. -/
def Attn.reset : Attn := ⟨0, 0, 0, 0, 0, 0, 0, 0, 0, [], [], []⟩

/-- Table 15.12. -/
def Snap.reset : Snap where
  waiting := none
  run := none
  images := []
  incomplete := false
  guard := false
  guardCount := 0
  lastCut := 0
  costMs := none
  costDue := none
  costC := 0
  tS := 0
  score := 0
  snapshots := 0
  restores := 0
  verify := none
  result := 0
  mismatches := 0
  rollback := 0
  stepNs := []
  lastVerdictAt := 0
  admittedAt := 0
  restoresSince := 0

def Quotas.zero : Quotas := ⟨0, 0, 0, 0, 0, 0, 0⟩

/-- R391: the full ranges of Table 2.5, with 768 operations in flight. -/
def Quotas.full : Quotas := ⟨96, 96, 1536, 1024, 2 ^ 32 - 1, 256, 768⟩

def Grant.none : Grant := ⟨[], [], [], [], 0⟩

/-- A stream before its first issue: its count is 0 and its first token will carry 1, as R25 says of beat tokens (log 10). -/
def Stream.reset : Stream := ⟨0, 0, none⟩

def Partition.reset : Partition where
  pitches := []
  quotas := Quotas.zero
  fix := none
  fstate := .empty
  splitStopped := false
  grant := Grant.none
  streams := List.replicate 3 Stream.reset
  beatCount := 0
  flights := []
  board := []
  bound := none
  pass := Pass.reset
  upd := Upd.reset
  attn := Attn.reset
  snap := Snap.reset

/-- Table 3.7. -/
def Pitch.reset : Pitch := ⟨[], [], [], [], [], [], false, .idle, 0, false, 0, 0, 0, 0, 0, 0, 0, 0, 0, 0⟩

/-- Table 8.4. -/
def Engine.reset : Engine := ⟨false, .idle, 0, false, [], [], [], 0, 0, 0, 0, 0, 0, 0⟩

/-- Table 10.14: links are DOWN. -/
def Link.reset : Link where
  state := .down
  badLanes := []
  lanes := []
  partner := 0
  reason := 0
  serial := 0
  tx := 0
  rx := 0
  naks := 0
  resizes := 0
  fecCorrected := 0
  fecUncorrected := 0
  malformed := 0
  denied := 0
  starved := 0
  authFail := 0
  rtt := 0
  fwd := 0
  fitted := true
  rxSeq := 0
  rxBase := 0
  txSeq := 0
  unacked := []
  nakSent := false
  credits := [64, 1024, 512, 256]
  queued := []
  served := [0, 0, 0, 0, 0]
  dryAt := [none, none, none, none]
  laneCheck := none
  fecAt := []
  laneTried := []
  proofsDue := 0
  proofsStale := 0
  nakAt := []
  badAt := []
  authFailAt := []
  since := 0

def Window.free : Window := ⟨0, 0, false, 0, 0, 0, 0, none⟩

/-- Table 9.17. -/
def MemCtl.reset : MemCtl := ⟨0, .normal, 0, 0, 0, 0, 0, 0, 0, 0, false, 0⟩

def Channel.reset : Channel := ⟨false, false, 0, false, 0, 0, none, []⟩

/-- R344: one poison list for each scratchpad, infield and outfield source. -/
def poisonSources : List MemSource :=
  (List.range 2).map .scratch ++ (List.range 12).map .infield ++ (List.range 2).map .outfield

def Store.reset : Store where
  cells := []
  poison := []
  lists := poisonSources.map (fun s => ⟨s, [], false⟩)
  lost := []
  banks := List.replicate 192 ⟨.off, none⟩
  spad := List.replicate 2 ⟨0, 0, 0, 0, 0⟩
  channels := List.replicate 384 Channel.reset
  outChannels := List.replicate 8 Channel.reset
  stackCtl := List.replicate 12 MemCtl.reset
  outCtl := List.replicate 2 MemCtl.reset
  retired := []
  outRetired := []
  returning := []
  outReturning := []
  pendingRetire := []
  retrainQueue := []
  windows := []
  heldAdds := []
  urgentAt := []
  hotAt := []
  correctedAt := []
  promotedAt := []

def Net.reset : Net := ⟨List.replicate 48 Link.reset, List.replicate 256 Window.free, [], [], [], [], 0⟩

/-- Table 14.7. -/
def FaultPage.reset : FaultPage := ⟨0, false, 0, 0, 0, none, false, false, false, [], []⟩

/-- Instances of the source types 0x01 to 0x0F (Table 14.2), in type order. -/
def sourceInstances : List Nat := [4, 4, 2, 12, 2, 48, 4, 2, 8, 4, 2, 1, 1, 1, 1]

def Whistle.reset : Whistle where
  pages := List.replicate (sourceInstances.foldl (· + ·) 0) FaultPage.reset
  wh := List.replicate 3 ⟨0, 0, 0, 0, 0, 0⟩
  moduleFirst := 0
  promo := []
  halves := List.replicate 2 ⟨none, none, false⟩

/-- R432: erased at manufacture. -/
def Score.reset : Score := ⟨[], false, 0, 0, 0, [], 0, 0, 0, false, 0, false, false, 9⟩

/-- Table 13.7. -/
def Ring.reset : Ring := ⟨false, 0, 16, 0, 0, 64, 0, 0, 0, 0, [], 0, 0, [], [], true⟩

/-- Table 18.5. R298: Interrupt Pin reads 0, and no capability structure is an MSI or MSI-X one (IDs 0x05 and 0x11, log 128). -/
def HostIf.reset : HostIf :=
  ⟨0, false, true, 0, 0, 0, 0, 0, true, 0, Config.pcieCapabilities.filter (fun c => decide (c ≠ 0x05 ∧ c ≠ 0x11)), [], [], .none, [], [], []⟩

def Boot.reset : Boot where
  start := .powering
  step := 1
  inputOk := false
  standby := false
  rails := false
  eFuseOpen := false
  validAt := 0
  readyMs := 0
  tested := false
  tilesFailed := 0
  banksUnusable := 0
  channelsOut := []
  lanesFailed := 0
  veUnusable := []
  keeperFailed := []
  halfFenced := []
  outFailed := []
  diesFailed := []
  sensorsOut := []
  touch := List.replicate 8 0

def Clock.reset : Clock := ⟨0, false, .seeking, 0, 0, 0, false, 0, none, none, 0, 0⟩

def Sched.reset : Sched := ⟨[], [], [], [], 0, [], 0, none⟩

def Power.reset : Power where
  grant := Config.beat.safeGrant
  pendingRaise := none
  seq := 0
  grantBeat := 0
  lapsed := false
  duty := 0
  hWest := 0
  hEast := 0
  op := Config.power.fixedOp
  fixed := Config.power.fixedMode
  fixedOp := Config.power.fixedOp
  opFloor := 0
  opCeiling := 15
  switch := none
  vcoreMv := (Config.opTable.getD Config.power.fixedOp ⟨0, 0, 1⟩).vcoreMv
  corrected := []
  pavgPrev := 0
  lastEnd := 0
  sumP := 0
  sumDuty := 0
  sumRally := 0
  sumNs := 0
  peak := 0
  dutyAlwaysZero := true
  lastPavg := 0
  lastPeak := 0
  lastRally := 0
  lastFlags := 0
  capUnmet := false
  fixedConflict := false
  rampUnmet := false
  rally := false
  rallyLevel := none
  rallyFloor := false
  history := []
  deferred := 0
  capUnmetBeats := 0
  deferrals := 0
  deferredAt := []
  stretched := 0
  droopWest := false
  droopEast := false
  lastStretch := none
  west := []
  east := []
  hotAt := []
  hotStopped := []
  fencedDuty := [0, 0]
  duty15 := 0
  report := none

def Keepers.reset : Keepers := ⟨List.replicate 8 ⟨.on, false, 0, none, false⟩, 0, 0, 0⟩

def Doves.reset : Doves := ⟨List.replicate 64 ⟨0, false, false⟩, 0, List.replicate 9 false, List.replicate 5 0, 0, [], []⟩

def Book.reset : Book := ⟨Config.rom, 1, 0, List.replicate 4 .empty⟩

def Vault.reset : Vault where
  serial := Config.serialNumber
  ownerKey := none
  fixtureKeys := []
  rulebookKeys := []
  nonce := none
  debug := false
  level := 0
  scanHalves := 0
  exitDue := false
  healthy := true
  engineOn := true
  idleSince := 0
  deviceKey := Config.deviceKey
  certificate := Config.deviceCertificate
  chain := Config.deviceChain
  root := Config.hudiryRoot
  proofsAt := []
  drawn := 0

def Body.reset : Body where
  boot := Boot.reset
  clock := Clock.reset
  sched := Sched.reset
  power := Power.reset
  keepers := Keepers.reset
  doves := Doves.reset
  book := Book.reset
  store := Store.reset
  net := Net.reset
  whistle := Whistle.reset
  score := Score.reset
  rings := List.replicate 5 Ring.reset
  active := []
  host := HostIf.reset
  pitches := List.replicate 4 Pitch.reset
  engines := List.replicate 4 Engine.reset
  parts := List.replicate 4 Partition.reset
  free := 0

/-- The module right after reset: power-up, before its input power is valid (R388, R389). -/
def State.reset : State := ⟨[], Vault.reset, Body.reset⟩

end Sys2Proof.Machine
end

