-- ==== Sys2Proof/Machine/Ops.lean ====
section
/-!
DEFINITION. Named operations that every family uses: lists of units, memory in its canonical form, and answers.
-/

namespace Sys2Proof.Machine

/-! ## FLAGS of a STEP or OPERATION record (Table 13.2; BELL_MALFORMED is log 28's) -/

def flagNotVerifiable : Nat := 1
def flagSkipped : Nat := 2
def flagSplit : Nat := 4
def flagSaturated : Nat := 8
def flagNanSeen : Nat := 16
def flagXsumRange : Nat := 32
def flagBellLossy : Nat := 64
def flagBellMalformed : Nat := 128

/-! ## Answers -/

/-- A command that acts on everything outside the Lodge. An ill-formed one is refused. -/
def onBody (ok : Bool) (s : State) (f : Body → Body) : Host.Outcome State Fault Refusal :=
  if ok then .next { s with body := f s.body } else .refused .illFormed

/-- A command that acts on the Lodge and the rest. -/
def onAll (ok : Bool) (s : State) (f : Vault → Body → Vault × Body) : Host.Outcome State Fault Refusal :=
  if ok then
    let r := f s.vault s.body
    .next { s with vault := r.1, body := r.2 }
  else .refused .illFormed

/-! ## Lists of units -/

/-- Unit `i` of a fixed number of like units, changed by `f`; nothing where there is no such unit. -/
def alter {α : Type} (i : Nat) (f : α → α) (xs : List α) : List α := xs.modify i f

/-- Set union that keeps a list rising. -/
def insertRising (x : Nat) : List Nat → List Nat
  | [] => [x]
  | y :: ys => if x < y then x :: y :: ys else if x = y then y :: ys else y :: insertRising x ys

def unionRising (xs ys : List Nat) : List Nat := xs.foldl (fun acc x => insertRising x acc) ys

/-- `x` before the first element of no smaller key. -/
def insertBy {α : Type} (key : α → Nat) (x : α) : List α → List α
  | [] => [x]
  | y :: ys => if key x ≤ key y then x :: y :: ys else y :: insertBy key x ys

/-- In ascending order of key; what has equal keys stays in order. -/
def sortBy {α : Type} (key : α → Nat) (xs : List α) : List α := xs.foldr (insertBy key) []

/-- `x` counts modulo 2^w. -/
def wrap (w x : Nat) : Nat := x % 2 ^ w

/-- A count that saturates at 2^w − 1. -/
def satInc (w x : Nat) : Nat := if x < 2 ^ w - 1 then x + 1 else x

/-- Temperatures that lie in the past, with the moment until which each held; one that a later one reaches adds nothing to a maximum. -/
def keepHot (now : Nat) (temps : List Int) (hs : List (Nat × Int)) : List (Nat × Int) :=
  match temps with
  | [] => hs
  | t :: ts => (now, ts.foldl max t) :: hs.filter (fun x => decide (ts.foldl max t < x.2))

/-- `x ÷ d` rounded to nearest, ties to even (R73). -/
def roundDiv (x d : Nat) : Nat :=
  let q := x / d
  if d < 2 * (x % d) ∨ (d = 2 * (x % d) ∧ q % 2 = 1) then q + 1 else q

/-! ## Memory (canonical list of cells; an unlisted byte reads 0) -/

/-- The byte at an address. -/
def Memory.get : Memory → Nat → Byte
  | [], _ => 0
  | (a, b) :: m, x => if a = x then b else Memory.get m x

/-- Put a cell before the first of a higher address. -/
def Memory.insert : Memory → Nat → Byte → Memory
  | [], x, v => [(x, v)]
  | (a, b) :: m, x, v => if x < a then (x, v) :: (a, b) :: m else (a, b) :: Memory.insert m x v

/-- Write one byte, keeping addresses rising and no zero listed. -/
def Memory.set (m : Memory) (x : Nat) (v : Byte) : Memory :=
  let rest := m.filter (fun c => decide (c.1 ≠ x))
  if v = 0 then rest else Memory.insert rest x v

/-- Write consecutive bytes from an address on. -/
def Memory.write : Memory → Nat → List Byte → Memory
  | m, _, [] => m
  | m, x, v :: vs => Memory.write (Memory.set m x v) (x + 1) vs

/-- Read `n` consecutive bytes. -/
def Memory.read (m : Memory) (x : Nat) : Nat → List Byte
  | 0 => []
  | n + 1 => Memory.get m x :: Memory.read m (x + 1) n

/-- The canonical form: addresses strictly rising, no listed byte equal to 0. -/
def Memory.wf : Memory → Bool
  | [] => true
  | [(_, b)] => b != 0
  | (a, b) :: (c, d) :: m => b != 0 && decide (a < c) && Memory.wf ((c, d) :: m)

/-- Remove the cells of a span: the bytes read 0. -/
def Memory.clear (m : Memory) (x n : Nat) : Memory := m.filter (fun c => decide (c.1 < x) || decide (x + n ≤ c.1))

end Sys2Proof.Machine
end

