-- ==== Sys2Proof/Machine/Record.lean ====
section
/-!
DEFINITION. Scorebook records entering the write queue (16, R375, R377, R378, R381).
-/

namespace Sys2Proof.Machine

/-- Record positions of the flash (Table 16.1). -/
def recordPositions : Nat := 2095104

/-- R377, Table 16.2: the phase in force, 1 STARTUP, 2 TEST, 3 RECOVERY, 0 SERVICE. -/
def Score.phase (k : Score) : Nat :=
  if !k.counterRead then 1 else if k.testing then 2 else if k.recovering then 3 else 0

/-- Operating hours in ms (R374). -/
def Body.opMs (b : Body) : Nat := b.score.baseMs + b.clock.now / 1000000

/-- BEAT of a record: the beat number in LOCKED or HOLDOVER, else 0 (Table 16.2). -/
def Body.recordBeat (b : Body) : Nat :=
  match b.clock.band with
  | .locked | .holdover => b.clock.beat
  | _ => 0

/-- A record as it is queued; its SEQ is given when it is programmed. -/
def Body.makeRecord (b : Body) (type source : Nat) (message : Word64) (detail : List Nat) : Record :=
  let ph := b.score.phase
  { seq := 0, type := type, seqOnly := decide (ph ≠ 0), phase := ph, source := source,
    opMs := if ph = 0 then b.opMs else 0, cycles := if ph = 0 then b.score.cycles else 0,
    beat := b.recordBeat, message := message, detail := detail }

/-- R378, R381: a record enters the queue, or is dropped and counted when the log or the queue is full. -/
def Score.enqueue (k : Score) (r : Record) : Score :=
  if k.full || decide (64 ≤ k.queue.length) then { k with dropped := satInc 32 k.dropped }
  else { k with queue := k.queue ++ [r] }

/-- Types of Table 16.3. -/
def recFault : Nat := 1
def recPower : Nat := 2
def recThermal : Nat := 3
def recRulebook : Nat := 4
def recSelfTest : Nat := 5
def recPowerUp : Nat := 6
def recDebug : Nat := 7
def recClear : Nat := 8

/-- Queue a record. -/
def Body.record (b : Body) (type source : Nat) (message : Word64) (detail : List Nat) : Body :=
  { b with score := b.score.enqueue (b.makeRecord type source message detail) }

end Sys2Proof.Machine
end

