-- ==== Sys2Proof/WellFormed.lean ====
section
/-!
DEFINITION. Well-formed commands: every operand that names a unit names one that Table 1.2, Table 12.1, Table 12.2 or
Table 18.3 gives the module, and every field of a flit header or ring entry fits the width its table gives it.
-/

namespace Sys2Proof

/-- Table 13.1: the ring exists; PARTITION is one byte. -/
def Hdr.wf (h : Hdr) : Bool := decide (h.ring < 5) && decide (h.part < 256)

/-- Table 10.3: every field within its bits. -/
def FlitHdr.wf (h : FlitHdr) : Bool :=
  decide (h.type < 256) && decide (h.vc < 4) && decide (h.part < 4) && decide (h.seq < 4096) && decide (h.ack < 4096)
    && decide (h.crVc < 4) && decide (h.crCount < 1024) && decide (h.src < 4096) && decide (h.dst < 4096)
    && decide (h.window < 256) && decide (h.segment < 65536)

/-- Register pages of Table 18.3: instances of block types 0x01 to 0x17, in type order. -/
def pageInstances : List Nat := [4, 4, 2, 12, 2, 48, 4, 2, 8, 4, 2, 1, 1, 1, 1, 4, 4, 4, 5, 3, 1, 1, 1]

/-- R410, R411: page index n lies in Table 18.3. -/
def assignedPage (n : Nat) : Bool :=
  decide (0 < n / 256) && decide (n / 256 ≤ 23) && decide (n % 256 < pageInstances.getD (n / 256 - 1) 0)

def MemSource.wf : MemSource → Bool
  | .scratch h => decide (h < 2)
  | .infield k => decide (k < 12)
  | .outfield h => decide (h < 2)

/-- R213: the target formats of an add, each with the formats that it takes values in. -/
def addFormats : Arith.Fmt → Arith.Fmt → Bool
  | .fp32, .fp32 | .fp32, .bf16 | .fp32, .binary16 => true
  | .bf16, .bf16 | .binary16, .binary16 | .int32, .int32 | .int64, .int64 => true
  | _, _ => false

def FlitBody.wf : FlitBody → Bool
  | .add m => addFormats m.fmt m.inFmt
  | _ => true

def LodgeReq.wf : LodgeReq → Bool
  | .proof link _ => decide (link < 48)
  | _ => true

def WakeDomain.wf : WakeDomain → Bool
  | .keeper k => decide (k < 8)
  | .lodgeEngine => true

/-- Field widths of what an image holds: positions and counts of the streams, 48-bit steps. -/
def Machine.SnapSection.wf : Machine.SnapSection → Bool
  | .control pos counts _ step _ _ _ skips sums =>
    decide (pos.length = 3) && decide (counts.length = 4) && counts.all (fun c => decide (c < 2 ^ 30)) && decide (step < 2 ^ 48)
      && decide (skips < 2 ^ 32) && sums.all (fun x => decide (x < 2 ^ 64))
  | .schedule es => es.all (fun e => decide (e.beat < 2 ^ 48) && decide (e.tick < 2 ^ 20))
  | .lists rs => rs.all (fun r => decide (r.2.1 < 2 ^ 32) && decide (r.2.2 < 2 ^ 64))
  | .groups gs => gs.all (fun g => decide (g.p1 < 2 ^ 64) && decide (g.p2 < 2 ^ 64))
  | .layer .. | .roots .. => true

/-- An image that another source holds: its numbers fit the fields of Table 15.3, and every section has its destination. -/
def Machine.Image.wf (i : Machine.Image) : Bool :=
  decide (i.step < 2 ^ 48) && decide (i.sealLoss < 2 ^ 64) && decide (i.sealVerdict < 2 ^ 32)
    && decide (i.placed.length = i.sections.length) && i.sections.all Machine.SnapSection.wf

def SourceOutcome.wf : SourceOutcome → Bool
  | .image _ img _ => img.wf
  | _ => true

/-- The opcodes of Table 13.4. -/
def listedOpcodes : List Nat :=
  [0x01, 0x02, 0x03, 0x04, 0x05, 0x06, 0x08, 0x09, 0x10, 0x11, 0x18, 0x19, 0x20, 0x21, 0x28, 0x29, 0x30, 0x31, 0x38,
   0x39, 0x3A, 0x3F]

/-- A channel as the commands of Table 13.4 name it reaches any 2-byte value; their own checks answer ARGS_BAD. -/
def Instr.wf : Instr → Bool
  | .fixtureLoad h .. | .fixtureCheck h .. | .fixtureStart h | .fixtureStop h | .fixtureRetire h | .stepBound h _
  | .schedule h _ | .scheduleCancel h .. | .listInit h .. | .listRetire h .. | .tableLoad h .. | .tableDiscard h _
  | .budget h .. | .partitionSet h .. | .snapshot h .. | .logRead h ..
  | .selfTest h .. | .linkRelease h _ | .retrain h _ | .abandon h => h.wf
  | .restore h _ _ _ out => h.wf && out.wf
  | .logClear h authoriser number code => h.wf && decide (authoriser < 2 ^ 32) && decide (number < 2 ^ 32) && decide (code < 2 ^ 64)
  | .opcodeUnknown h op => h.wf && !listedOpcodes.contains op
  | .doorbellWrite slot _ => decide (slot < 64)
  | .attentionWordRead slot => decide (24 ≤ slot) && decide (slot ≤ 28)
  | .doveOverrunClear _ => true
  | .blkClear page _ => decide (page < 16384)
  | .whClearFirst inst _ => decide (inst < 3)
  | .freezeViewWrite page _ => decide (page < 16384)
  | .ringEnableWrite ring _ | .ringSizeWrite ring _ _ | .cplHeadWrite ring _ => decide (ring < 5)
  | .bar2BaseWrite _ | .bar2CtrlWrite _ | .stTouchWrite _ => true
  | .registerWrite page off _ => decide (page < 16384) && decide (off < 4096) && decide (off % 8 = 0)
  | .registerAccessMisaligned page off size _ =>
    decide (page < 16384) && decide (off < 4096) && !(decide (off % 8 = 0) && decide (size = 8))
  | .bar2Read off len _ => decide (off + len ≤ 2 ^ 36)
  | .bar2Write off bytes _ => decide (off + bytes.length ≤ 2 ^ 36)
  | .grantMessage _ | .ownerKeySet _ | .signingKeyInstall .. | .debugNonceRequest => true
  | .debugRequest _ _ level halves _ => decide (level < 4) && decide (halves < 4)
  | .clearTokenRequest authoriser _ => decide (authoriser < 2 ^ 32)
  | .lodgeRequest r => r.wf
  | .beatEdge _ | .beatEdgeMissing | .beatBoundary | .ptpTime _ | .holdoverExpired | .refLost | .refPresent _
  | .tableSwap | .mode | .opRange | .token | .snapshotEntry | .maintenance => true
  | .barrierArrival part _ | .lateNotice part _ _ => decide (part < 4) || decide (part = 15)
  | .barrierDecision => true
  | .noticeFlit link h _ => decide (link < 48) && h.wf
  | .heldNoticeExpired | .powerInterval _ | .opRaiseStart => true
  | .droopDetected half | .droopRelease half _ => decide (half < 2)
  | .grantLapse => true
  | .dieOvertemp half _ | .dieOvertempResume half | .dieOvertrip half _ => decide (half < 2)
  | .stackThermalChange stack .. => decide (stack < 12)
  | .retrainStart => true
  | .retrainAttemptEnd chan .. | .dataCrcFailure chan | .channelRetire chan => decide (chan < 392)
  | .scrubPass src _ => src.wf
  | .memorySideAdd a => addFormats a.fmt a.inFmt
  | .addWindowIncomplete _ => true
  | .bankStateRequest bank state => decide (bank < 192) && decide (state < 4)
  | .bankStateEnter bank | .bankWake bank => decide (bank < 192)
  | .halfReturn half _ => decide (half < 2)
  | .tileFailed pitch row col => decide (pitch < 4) && decide (row < 33) && decide (col < 32)
  | .pitchStop pitch | .pitchStopComplete ⟨pitch, _⟩ => decide (pitch < 4)
  | .vectorStop ⟨engine, _⟩ | .subOperationCommit ⟨engine, _, _⟩ => decide (engine < 4)
  | .issuePass ⟨half, _⟩ => decide (half < 2)
  | .operationComplete part .. | .benchExhausted part | .stepVerdict part | .snapshotComplete part
  | .collectiveTimeout part _ => decide (part < 4)
  | .streamWaitExpired part stream => decide (part < 4) && decide (stream < 3)
  | .trainRetry link | .trainTimeout link | .authTimeout link | .authFailedRetry link | .lockLoss link
  | .vc0Starvation link => decide (link < 48)
  | .flitCrcError link fec => decide (link < 48) && fec.all (fun n => decide (n < 4))
  | .trainComplete link lanes _ => decide (link < 48) && decide (lanes < 16)
  | .laneFailed link lane | .laneRetrain link lane _ _ => decide (link < 48) && decide (lane < 4)
  | .dataStarvation link vc => decide (link < 48) && decide (1 ≤ vc) && decide (vc < 4)
  | .resizeFlit link h lanes => decide (link < 48) && h.wf && decide (lanes < 16)
  | .authFlit link h _ | .nakFlit link h | .idleFlit link h | .malformedFlit link h | .writeFlit link h _ _ => decide (link < 48) && h.wf
  | .addFlit link h m _ => decide (link < 48) && h.wf && addFormats m.fmt m.inFmt
  | .relayFlit link h x => decide (link < 48) && h.wf && x.wf
  | .denyFlit link h | .reduceFlit link h _ | .resultFlit link h _ | .statusFlit link h _
  | .fenceFlit link h => decide (link < 48) && h.wf
  | .pluggableInsert cage | .pluggableRemove cage => decide (cage < 8)
  | .faultMessage _ => true
  | .halfFence half => decide (half < 2)
  | .containedTimerExpired page => assignedPage page && decide (page / 256 < 16)
  | .keeperFrame k _ | .keeperWatchdogExpired k => decide (k < 8)
  | .wakeEvent d => d.wf
  | .lodgeEngineOff | .scorebookProgram | .opHoursSave | .inputValid | .inputExcursion .. | .inputOvervoltage
  | .perst | .pcieLinkUp | .pcieLinkDown => true
  | .replySlotRead slot => decide (8 ≤ slot) && decide (slot < 16)
  | .holdUpEnded => true

end Sys2Proof
end

