-- ==== Sys2Proof/Machine/Fault.lean ====
section
/-!
DEFINITION. Fault messages: their layout (R330), the page that latches them (R335, R412), promotion (R336), timers (R337) and
the start of a fatal sequence (R339, R340, R255).
-/

namespace Sys2Proof.Machine

/-! ## The message -/

/-- Table 14.3. -/
inductive FaultClass where
  | corrected | contained | fatal | reserved
  deriving DecidableEq, Repr

def FaultClass.code : FaultClass → Nat
  | .corrected => 0
  | .contained => 1
  | .fatal => 2
  | .reserved => 3

/-- R330: a message from its fields; `addr` is ADDRESS, `av` ADDR_VALID. -/
def faultWord (type inst : Nat) (cls : FaultClass) (promoted av : Bool) (kind addr : Nat) : Word64 :=
  BitVec.ofNat 64 (((type * 64 + inst) * 4 + cls.code) * 2 ^ 50 + (cond promoted 1 0) * 2 ^ 49 + (cond av 1 0) * 2 ^ 48
    + kind % 256 * 2 ^ 40 + addr % 2 ^ 40)

def msgSource (m : Word64) : Nat := (m.extractLsb' 52 12).toNat
def msgType (m : Word64) : Nat := (m.extractLsb' 58 6).toNat
def msgInst (m : Word64) : Nat := (m.extractLsb' 52 6).toNat
def msgKind (m : Word64) : Nat := (m.extractLsb' 40 8).toNat
def msgAddr (m : Word64) : Nat := (m.extractLsb' 0 40).toNat
def msgAddrValid (m : Word64) : Bool := m.getLsbD 48
def msgClass (m : Word64) : FaultClass :=
  match (m.extractLsb' 50 2).toNat with
  | 0 => .corrected
  | 1 => .contained
  | 2 => .fatal
  | _ => .reserved

/-! ## Kinds (Table 14.4) -/

def kTileFailed : Nat := 0x01
def kStreamWait : Nat := 0x02
def kBenchExhausted : Nat := 0x03
def kBenchSplit : Nat := 0x04
def kLossStuck : Nat := 0x05
def kUpdateNonfinite : Nat := 0x06
def kBellPool : Nat := 0x07
def kPrecond : Nat := 0x08
def kListMalformed : Nat := 0x09
def kListShort : Nat := 0x0A
def kPageRange : Nat := 0x0B
def kListEdited : Nat := 0x0C
def kPageLost : Nat := 0x0D
def kMemCorrected : Nat := 0x10
def kMemUncorrectable : Nat := 0x11
def kBankAccess : Nat := 0x12
def kUnmapped : Nat := 0x13
def kAddWindow : Nat := 0x14
def kChannelFailed : Nat := 0x15
def kStackShutdown : Nat := 0x16
def kPackageFailed : Nat := 0x17
def kLaneFailed : Nat := 0x20
def kLinkStarved : Nat := 0x21
def kWriteDenied : Nat := 0x22
def kCollectiveTimeout : Nat := 0x23
def kBucketMismatch : Nat := 0x24
def kAuthFailed : Nat := 0x25
def kBeatMismatch : Nat := 0x30
def kBeatLost : Nat := 0x31
def kRefLost : Nat := 0x32
def kNoticeOverdue : Nat := 0x33
def kBarrierAbsent : Nat := 0x34
def kDieOvertemp : Nat := 0x35
def kKeeperRestart : Nat := 0x40
def kKeeperRepeat : Nat := 0x80
def kDieOvertrip : Nat := 0x81
def kControlPath : Nat := 0x82
def kCoreRail : Nat := 0x83
def kLodge : Nat := 0x84
def kInputPower : Nat := 0x85
def kPackage : Nat := 0x86

/-- Source types of Table 14.2. -/
def tPitch : Nat := 1
def tEngine : Nat := 2
def tScratch : Nat := 3
def tStack : Nat := 4
def tOutfield : Nat := 5
def tLink : Nat := 6
def tDie : Nat := 7
def tDma : Nat := 8
def tKeeper : Nat := 9
def tPartition : Nat := 10
def tHalf : Nat := 11
def tBand : Nat := 12
def tLodge : Nat := 13
def tPackage : Nat := 14
def tInput : Nat := 15

/-! ## Pages -/

/-- Place of the fault page of a source in `Whistle.pages` (R412), if Table 14.2 has the source. -/
def pageSlot (type inst : Nat) : Option Nat :=
  if 1 ≤ type ∧ type ≤ 15 ∧ inst < sourceInstances.getD (type - 1) 0 then
    some ((sourceInstances.take (type - 1)).foldl (· + ·) 0 + inst)
  else none

/-- Every source of Table 14.2 with its place. -/
def allSources : List (Nat × Nat) :=
  sourceInstances.zipIdx.flatMap (fun (n, t) => (List.range n).map (fun i => (t + 1, i)))

def Body.page (b : Body) (type inst : Nat) : FaultPage :=
  match pageSlot type inst with
  | some k => b.whistle.pages.getD k FaultPage.reset
  | none => FaultPage.reset

def Whistle.alterPage (w : Whistle) (type inst : Nat) (f : FaultPage → FaultPage) : Whistle :=
  match pageSlot type inst with
  | some k => { w with pages := alter k f w.pages }
  | none => w

def Whistle.alterWh (w : Whistle) (k : Nat) (f : WhistlePage → WhistlePage) : Whistle :=
  { w with wh := alter k f w.wh }

/-- Half of the lowest-numbered pitch of a partition; none for one that owns no pitch. -/
def Body.partHalf (b : Body) (p : Nat) : Option Nat :=
  ((b.parts.getD p Partition.reset).pitches.head?).map (· / 2)

/-- Column Whistle page of Table 14.2: 0 west, 1 east, 2 module. -/
def Body.whistlePage (b : Body) (type inst : Nat) : Nat :=
  if type = tPitch ∨ type = tEngine ∨ type = tDie then inst / 2
  else if type = tScratch ∨ type = tOutfield ∨ type = tDma ∨ type = tHalf then inst
  else if type = tStack then inst / 6
  else if type = tLink then inst / 24
  else if type = tKeeper then inst / 4
  else if type = tPartition then (b.partHalf inst).getD 2
  else 2

/-- The halves a fatal message of a source takes through Table 14.6 (R339, R340). -/
def Body.fatalHalves (b : Body) (type inst : Nat) : List Nat :=
  let w := b.whistlePage type inst
  if w < 2 then [w] else [0, 1]

def Body.half (b : Body) (h : Nat) : HalfState := b.whistle.halves.getD h ⟨none, none, false⟩
def Body.fenced (b : Body) (h : Nat) : Bool := (b.half h).fenced.isSome

/-! ## Attention (R306, Table 12.5) -/

/-- Set a pending attention bit of slot 24 + i. -/
def Body.attention (b : Body) (i bit : Nat) : Body :=
  { b with doves := { b.doves with attn := alter i (fun w => w ||| 2 ^ bit) b.doves.attn } }

/-- Slot offset that a message names as it is latched: its partition, or the module for a source of the module page. The partitions that a
message of any other source touches are named by the keeper that handles it (Table 14.9; log 126). -/
def Body.attentionOf (b : Body) (m : Word64) : Option Nat :=
  if msgType m = tPartition then some (min (msgInst m) 4)
  else if b.whistlePage (msgType m) (msgInst m) = 2 then some 4
  else none

/-- FAULT in the slot that the message names, if it names one. -/
def Body.noteFault (b : Body) (m : Word64) : Body := (b.attentionOf m).elim b (fun i => b.attention i 0)

/-! ## Latching (R335, R341) -/

/-- R335: the page's first message is latched; every later one sets OVERFLOW. Counters saturate at 16 bits. -/
def FaultPage.latch (p : FaultPage) (m : Word64) (cls : FaultClass) : FaultPage :=
  let p := if p.message = 0 then { p with message := m } else { p with overflow := true }
  match cls with
  | .corrected => { p with corrected := satInc 16 p.corrected }
  | .contained => { p with contained := satInc 16 p.contained }
  | .fatal => { p with fatal := satInc 16 p.fatal }
  | .reserved => p

/-- R335: WH_FIRST of the half's or module's page, and WH_MODULE_FIRST. -/
def Whistle.first (w : Whistle) (k : Nat) (m : Word64) : Whistle :=
  let w := w.alterWh k (fun g => if g.first = 0 then { g with first := m } else g)
  { w with moduleFirst := if w.moduleFirst = 0 then m else w.moduleFirst }

def Body.latchMessage (b : Body) (m : Word64) (cls : FaultClass) : Body :=
  let w := b.whistle.alterPage (msgType m) (msgInst m) (fun p => p.latch m cls)
  { b with whistle := w.first (b.whistlePage (msgType m) (msgInst m)) m }

/-! ## Contained messages (R337, R341, R342) -/

/-- The class of what a page latches, none where it latches nothing. -/
def FaultPage.latchedClass (p : FaultPage) : Option FaultClass := if p.message = 0 then none else some (msgClass p.message)

/-- R337, R341: a contained message starts the timer if nothing, or a lower class, is latched. -/
def FaultPage.startsTimer (p : FaultPage) : Bool :=
  match p.latchedClass with
  | none | some .corrected => p.timer.isNone
  | _ => false

/-- A contained message: latch, timer, cause, record, attention. -/
def Body.contained (b : Body) (m : Word64) : Body :=
  let t := msgType m
  let i := msgInst m
  let starts := (b.page t i).startsTimer
  let until_ := b.clock.now + b.book.tables.faults.timerNs
  let b := b.latchMessage m .contained
  let w := b.whistle.alterPage t i (fun p =>
    { p with unhandled := p.unhandled ++ [m], sent := m :: p.sent, timer := if starts then some until_ else p.timer })
  let w := w.alterWh (b.whistlePage t i) (fun g => { g with contained := wrap 32 (g.contained + 1) })
  (({ b with whistle := w }).record recFault (msgSource m) m []).noteFault m

/-! ## Promotion (R336) -/

/-- Table 14.5: the promotion limits by kind. -/
def promotionOf (t : FaultThresholds) (kind : Nat) : Promotion :=
  if kind = kMemCorrected then t.memCorrected
  else if kind = kLaneFailed then t.laneFailed
  else if kind = kAuthFailed then t.authFailed
  else if kind = kBellPool then t.bellPool
  else if kind = kPrecond then t.precond
  else t.beatMismatch

/-- The count of a source and kind after one more message: a closed window opens again at this message. -/
def countPromo (ps : List PromoCount) (source kind now windowNs : Nat) : Nat × List PromoCount :=
  match ps.find? (fun p => p.source == source && p.kind == kind) with
  | some p =>
    let rest := ps.filter (fun q => !(q.source == source && q.kind == kind))
    if now - p.opened < windowNs then (p.count + 1, ⟨source, kind, p.count + 1, p.opened⟩ :: rest)
    else (1, ⟨source, kind, 1, now⟩ :: rest)
  | none => (1, ⟨source, kind, 1, now⟩ :: ps)

/-- What a corrected message adds to the inputs of the risk forecast (R359). -/
def Body.forecastInput (b : Body) (kind : Nat) : Body :=
  if kind = kMemCorrected then { b with store := { b.store with correctedAt := b.clock.now :: b.store.correctedAt } }
  else if kind = kLaneFailed then { b with net := { b.net with laneFailedAt := b.clock.now :: b.net.laneFailedAt } }
  else b

/-- A corrected message: counted, or promoted to contained when it reaches LIMIT (R336). -/
def Body.corrected (b : Body) (m : Word64) : Body :=
  let b := b.forecastInput (msgKind m)
  let lim := promotionOf b.book.tables.faults (msgKind m)
  let r := countPromo b.whistle.promo (msgSource m) (msgKind m) b.clock.now lim.windowNs
  if lim.limit ≤ r.1 then
    let rest := r.2.filter (fun q => !(q.source == msgSource m && q.kind == msgKind m))
    let m' := faultWord (msgType m) (msgInst m) .contained true (msgAddrValid m) (msgKind m) (msgAddr m)
    let w := { b.whistle with promo := rest }
    let w := w.alterWh (b.whistlePage (msgType m) (msgInst m)) (fun g => { g with promotions := wrap 32 (g.promotions + 1) })
    ({ b with whistle := w }).contained m'
  else { b with whistle := { b.whistle with promo := r.2 } }.latchMessage m .corrected

/-! ## Fatal messages (R339 time 0, R340, R341, R255) -/

/-- Timers of every page of a half are cancelled by a fatal action (R341). -/
def Body.cancelTimers (b : Body) (h : Nat) : Body :=
  let ps := (b.whistle.pages.zip allSources).map (fun (p, s) =>
    if b.whistlePage s.1 s.2 = h then { p with timer := none } else p)
  { b with whistle := { b.whistle with pages := ps } }

/-- Proofs that the Lodge has not served belong to an AUTH that is over (R239). -/
def Link.leaveAuth (l : Link) : Link := { l with proofsDue := 0, proofsStale := l.proofsStale + l.proofsDue }

/-- R255: links of a half's dies send FENCE where they are UP, one flit for each partition (log 58) as far as the credits of VC0 and the retry
buffer allow (R233, R235), and go to FENCED. What they had not sent, or not had acknowledged, takes detours once the half is fenced (R247). -/
def Link.fence (now : Nat) (l : Link) : Link :=
  let sent := match l.state with
    | .up => min 4 (min (l.credits.getD 0 0) (2048 - l.unacked.length))
    | _ => 0
  { l.leaveAuth with state := .fenced, since := now, tx := wrap 64 (l.tx + sent) }

def Body.fenceLinks (b : Body) (h : Nat) : Body :=
  let ls := b.net.links.zipIdx.map (fun (l, i) => if i / 24 = h then l.fence b.clock.now else l)
  { b with net := { b.net with links := ls } }

/-- Time 0 of Table 14.6 for one half that is not already in it. -/
def Body.startFatal (b : Body) (m : Word64) (h : Nat) : Body :=
  if (b.half h).fatal.isSome || b.fenced h then b
  else
    let w := { b.whistle with halves := alter h (fun x => { x with fatal := some ⟨b.clock.now, m, false⟩ }) b.whistle.halves }
    (({ b with whistle := w }).cancelTimers h).fenceLinks h

/-- A fatal message: latched, and the halves it names start Table 14.6. One that starts no sequence has its record and its
attention bit at once (R342). -/
def Body.fatalMessage (b : Body) (m : Word64) : Body :=
  let hs := b.fatalHalves (msgType m) (msgInst m)
  let b := b.latchMessage m .fatal
  let b := if hs.all (fun h => (b.half h).fatal.isSome || b.fenced h) then (b.record recFault (msgSource m) m []).attention 4 0 else b
  let w := b.whistle.alterPage (msgType m) (msgInst m) (fun p => { p with sent := m :: p.sent })
  hs.foldl (fun b h => b.startFatal m h) { b with whistle := w }

/-- R335: a message reaches the Whistle. A source or class that Tables 14.2 and 14.3 do not list has no page to reach. -/
def Body.message (b : Body) (m : Word64) : Body :=
  match pageSlot (msgType m) (msgInst m) with
  | none => b
  | some _ =>
    match msgClass m with
    | .corrected => b.corrected m
    | .contained => b.contained m
    | .fatal => b.fatalMessage m
    | .reserved => b

/-- A block sends a message of a kind with a detail word. -/
def Body.raise (b : Body) (type inst : Nat) (cls : FaultClass) (kind detail : Nat) : Body :=
  b.message (faultWord type inst cls false false kind detail)

/-- A block sends a message of a kind with a device address (divided by 64). -/
def Body.raiseAt (b : Body) (type inst : Nat) (cls : FaultClass) (kind cw : Nat) : Body :=
  b.message (faultWord type inst cls false true kind cw)

/-! ## FAULT_N (R426, Table 19.4) -/

/-- FAULT_N is asserted. -/
def Body.faultN (b : Body) : Bool :=
  !b.boot.standby || decide (b.boot.start = .powering ∧ b.boot.step ≤ 2) || b.fenced 0 || b.fenced 1
    || decide (b.boot.start = .failed)

end Sys2Proof.Machine
end

