-- ==== Sys2Proof/Machine/Access.lean ====
section
/-!
DEFINITION. The device address space (R202, R404, R405), the interleave map (R208, R209, R218), and reads and writes of memory
with the codeword's outcomes (R199, R200, R203, R344).
-/

namespace Sys2Proof.Machine

/-! ## Regions (Table 18.1) -/

def gib : Nat := 2 ^ 30
def infieldTop : Nat := 1536 * gib
def outfieldBase : Nat := 0x040000000000
def outfieldTop : Nat := outfieldBase + 1024 * gib
def scratchBase : Nat := 0x100000000000
def bankBytes : Nat := 0x200000
def scratchTop : Nat := scratchBase + 192 * bankBytes
def registerBase : Nat := 0x200000000000
def registerTop : Nat := registerBase + 64 * 2 ^ 20
def granuleBytes : Nat := 2048

/-- R208: LIMIT of a map of `n` slots of `size` bytes with `f` retired. -/
def mapLimit (n size f : Nat) : Nat := (n - f) * size

def Store.limit (s : Store) : Nat := mapLimit 384 (4 * gib) s.retired.length
def Store.outLimit (s : Store) : Nat := mapLimit 8 (128 * gib) s.outRetired.length

/-- What a device address lies in. -/
inductive Region where
  | infield
  | outfield
  | scratch (bank : Nat)
  | registers
  | unmapped
  deriving DecidableEq, Repr

def Store.region (s : Store) (a : Nat) : Region :=
  if a < s.limit then .infield
  else if outfieldBase ≤ a ∧ a < outfieldBase + s.outLimit then .outfield
  else if scratchBase ≤ a ∧ a < scratchTop then .scratch ((a - scratchBase) / bankBytes)
  else if registerBase ≤ a ∧ a < registerTop then .registers
  else .unmapped

/-! ## Interleave (R208, R209) -/

/-- Slot of granule `g`. -/
def slotOf (n g : Nat) : Nat := g % n

/-- Where the live-slot granule of ordinal `j` lies, counting from granule `gl` (R209). -/
def liveGranule (n : Nat) (retired : List Nat) (gl j : Nat) : Nat :=
  let live := (List.range n).filter (fun s => !retired.contains s)
  let first := live.filter (fun s => decide (gl % n ≤ s))
  if j < first.length then gl / n * n + first.getD j 0
  else
    let j' := j - first.length
    (gl / n + 1 + j' / live.length) * n + live.getD (j' % live.length) 0

/-- The granule in whose place an address below LIMIT lies: its own, or the live one it is folded into (R209). -/
def foldedGranule (n size : Nat) (retired : List Nat) (a : Nat) : Nat :=
  let g := a / granuleBytes
  let s := slotOf n g
  if retired.contains s then
    let k := (retired.filter (fun r => decide (r < s))).length
    liveGranule n retired (mapLimit n size retired.length / granuleBytes) (g / n * retired.length + k)
  else g

/-- Channel and channel byte of an address below LIMIT. -/
def locate (n size : Nat) (slotMap retired : List Nat) (a : Nat) : Nat × Nat :=
  let g' := foldedGranule n size retired a
  (slotMap.getD (slotOf n g') 0, g' / n * granuleBytes + a % granuleBytes)

/-- Infield channel of an address (R208, R209). -/
def Body.channelAt (b : Body) (a : Nat) : Nat :=
  (locate 384 (4 * gib) b.book.tables.interleave.slotMap b.store.retired a).1

/-- Outfield channel of an outfield address (R218). -/
def Body.outChannelAt (b : Body) (a : Nat) : Nat :=
  (locate 8 (128 * gib) b.book.tables.interleave.outSlotMap b.store.outRetired (a - outfieldBase)).1

/-- Slot of a channel under a slot map. -/
def slotOfChannel (slotMap : List Nat) (c : Nat) : Nat := slotMap.findIdx (· == c)

/-! ## Sources and poison (R199, R200, R344) -/

/-- The memory source of an address; where R210 and R405 report an unmapped one (log 15). -/
def Body.sourceAt (b : Body) (a : Nat) : MemSource :=
  if scratchBase ≤ a ∧ a < scratchTop then .scratch ((a - scratchBase) / bankBytes / 96)
  else if outfieldBase ≤ a ∧ a < outfieldTop then .outfield (b.outChannelAt a / 4)
  else if a < b.store.limit then .infield (b.channelAt a / 32)
  else .infield (b.book.tables.interleave.slotMap.getD (a / granuleBytes % 384) 0 / 32)

def srcType : MemSource → Nat
  | .scratch _ => tScratch
  | .infield _ => tStack
  | .outfield _ => tOutfield

def srcInst : MemSource → Nat
  | .scratch h => h
  | .infield k => k
  | .outfield h => h

def memHalf : MemSource → Nat
  | .scratch h => h
  | .infield k => k / 6
  | .outfield h => h

/-- Count a corrected or uncorrected event in the source's registers (Tables 9.17, 9.18). -/
def Store.countEvent (s : Store) (src : MemSource) (bad : Bool) : Store :=
  let ctl := fun (m : MemCtl) => if bad then { m with uncorrected := wrap 64 (m.uncorrected + 1) }
    else { m with corrected := wrap 64 (m.corrected + 1) }
  match src with
  | .scratch h => { s with spad := alter h (fun m => if bad then { m with uncorrected := wrap 64 (m.uncorrected + 1) }
      else { m with corrected := wrap 64 (m.corrected + 1) }) s.spad }
  | .infield k => { s with stackCtl := alter k ctl s.stackCtl }
  | .outfield h => { s with outCtl := alter h ctl s.outCtl }

/-- R344: an address enters the source's list, or sets POISON_OVF when a 65th entry is needed. -/
def PoisonList.enter (l : PoisonList) (cw : Nat) : PoisonList :=
  if l.cws.contains cw then l else if l.cws.length < 64 then { l with cws := l.cws ++ [cw] } else { l with ovf := true }

def Store.poisoned (s : Store) (cw : Nat) : Bool := s.poison.contains cw

/-- R200: the codeword takes the poison pattern and enters its source's list. -/
def Store.poisonCw (s : Store) (src : MemSource) (cw : Nat) : Store :=
  { s with poison := insertRising cw s.poison,
           lists := s.lists.map (fun l => if l.src = src then l.enter cw else l) }

/-- A codeword as it is stored: 64 data bytes and 8 check bytes, those of the poison pattern where it stands (R198, R200). -/
def Store.codeword (s : Store) (cw : Nat) : List Byte :=
  let d := (List.range 64).map (fun i => s.cells.get (cw * 64 + i))
  d ++ (if s.poisoned cw then poisonCheck d else checkBytes d)

/-- A whole write clears the poison and takes the address off the list (R200, R344). -/
def Store.cleanCw (s : Store) (cw : Nat) : Store :=
  { s with poison := s.poison.filter (· != cw),
           lists := s.lists.map (fun l => { l with cws := l.cws.filter (· != cw) }) }

/-! ## Bytes -/

/-- The address lay on one of the slots, under the map of that moment. -/
def LostSlot.inSlot (l : LostSlot) (a : Nat) : Bool :=
  if l.outfield then
    decide (outfieldBase ≤ a ∧ a < outfieldBase + mapLimit 8 (128 * gib) l.before.length)
      && l.slots.contains (slotOf 8 (foldedGranule 8 (128 * gib) l.before (a - outfieldBase)))
  else
    decide (a < mapLimit 384 (4 * gib) l.before.length)
      && l.slots.contains (slotOf 384 (foldedGranule 384 (4 * gib) l.before a))

/-- Where a byte stood when the slots were lost: the rebinds since, newest first, are walked back. -/
def LostSlot.origin (l : LostSlot) (a : Nat) : Nat :=
  l.moved.foldl (fun x w => if w.1 ≤ x ∧ x < w.1 + w.2.1 then x - w.1 + w.2.2 else x) a

/-- A byte that was lost with a slot and not written since (Table 9.14). -/
def LostSlot.holds (l : LostSlot) (a : Nat) : Bool :=
  l.inSlot (l.origin a) && !(l.rewritten.any (fun w => decide (w.1 ≤ a ∧ a < w.1 + w.2)))

/-- The byte at a device address: as stored, or a free value where its content was lost. -/
def Store.byte (s : Store) (a : Nat) : Byte :=
  match s.lost.find? (fun l => l.holds a) with
  | some l => Config.lostByte l.draw a
  | none => s.cells.get a

def Store.bytes (s : Store) (a n : Nat) : List Byte := (List.range n).map (fun i => s.byte (a + i))

/-- Codewords that `n` bytes from `a` touch. -/
def cwsOf (a n : Nat) : List Nat :=
  if n = 0 then [] else (List.range ((a + n - 1) / 64 - a / 64 + 1)).map (fun i => a / 64 + i)

/-- Codewords that `n` bytes from `a` cover whole. -/
def wholeCws (a n : Nat) : List Nat := (cwsOf a n).filter (fun c => decide (a ≤ c * 64 ∧ c * 64 + 64 ≤ a + n))

/-- Errors met in the codewords that an access touches. -/
def errorsIn (a n : Nat) (es : List CwError) : List CwError :=
  es.filter (fun e => decide (a / 64 ≤ e.cw ∧ e.cw * 64 < a + n))

/-- Errors met in codewords that a write covers in part, and so reads (R203). -/
def mergeErrors (a n : Nat) (es : List CwError) : List CwError :=
  (errorsIn a n es).filter (fun e => !decide (a ≤ e.cw * 64 ∧ e.cw * 64 + 64 ≤ a + n))

/-- Store bytes in whole codewords: those covered whole lose their poison, the others are merged (R203). -/
def Store.writeBytes (s : Store) (a : Nat) (vs : List Byte) : Store :=
  let s := { s with cells := s.cells.write a vs,
                    lost := s.lost.map (fun l => { l with rewritten := (a, vs.length) :: l.rewritten }) }
  (wholeCws a vs.length).foldl Store.cleanCw s

/-- Any codeword of the span is poisoned. -/
def Store.anyPoison (s : Store) (a n : Nat) : Bool := s.poison.any (fun c => decide (a / 64 ≤ c ∧ c * 64 < a + n))

/-- R200: an operation that consumed poison writes its destination codewords poisoned. -/
def Body.poisonSpan (b : Body) (a n : Nat) : Body :=
  (cwsOf a n).foldl (fun b c => { b with store := b.store.poisonCw (b.sourceAt (c * 64)) c }) b

/-! ## Read outcomes (Table 9.1) -/

/-- An event of a memory is counted; the registers of a FENCED half hold (R228). -/
def Body.countMem (b : Body) (src : MemSource) (bad : Bool) : Store :=
  if b.fenced (memHalf src) then b.store else b.store.countEvent src bad

/-- 1 or 2 symbols: corrected, rewritten, counted, and a corrected message. -/
def Body.cwCorrected (b : Body) (cw : Nat) : Body :=
  let src := b.sourceAt (cw * 64)
  ({ b with store := b.countMem src false }).raiseAt (srcType src) (srcInst src) .corrected kMemCorrected cw

/-- 3 to 6 symbols: poisoned, counted, and a contained message. -/
def Body.cwUncorrectable (b : Body) (cw : Nat) : Body :=
  let src := b.sourceAt (cw * 64)
  ({ b with store := b.countMem src true |>.poisonCw src cw }).raiseAt (srcType src) (srcInst src) .contained
    kMemUncorrectable cw

/-- Data of a codeword whose 7 or more errors pass for fewer: free values (R199, log 9). -/
def Body.cwWide (b : Body) (cw : Nat) : Body :=
  let vs := (List.range 64).map (fun i => Config.wideByte b.free i)
  { b with store := b.store.writeBytes (cw * 64) vs }

/-- A read meets errors in one codeword (Table 9.1). A poisoned codeword delivers poison without a message (R200). -/
def Body.readError (b : Body) (e : CwError) : Body :=
  if b.store.poisoned e.cw || decide (e.symbols = 0) then b
  else if e.symbols ≤ 2 then b.cwCorrected e.cw
  else if e.symbols ≤ 6 then b.cwUncorrectable e.cw
  else
    let o := Config.wideOutcome b.free
    let b' := { b with free := b.free + 1 }
    if o = 0 then { b.cwWide e.cw with free := b.free + 1 }
    else if o = 3 then b'.cwUncorrectable e.cw
    else ({ b.cwWide e.cw with free := b.free + 1 }).cwCorrected e.cw

/-- SOURCE of the memory that a codeword lies in. -/
def Body.cwSource (b : Body) (e : CwError) : Nat := srcType (b.sourceAt (e.cw * 64)) * 64 + srcInst (b.sourceAt (e.cw * 64))

/-- The errors that an access meets: all at one moment, so their messages arrive in ascending SOURCE order (R334). -/
def Body.readErrors (b : Body) (es : List CwError) : Body := (sortBy b.cwSource es).foldl Body.readError b

/-! ## Bytes and codes -/

/-- Little-endian value of bytes. -/
def leValue : List Byte → Nat
  | [] => 0
  | v :: vs => v.toNat + 256 * leValue vs

/-- `n` bytes of a value, little-endian. -/
def leBytes (x : Nat) : Nat → List Byte
  | 0 => []
  | n + 1 => BitVec.ofNat 8 (x % 256) :: leBytes (x / 256) n

/-- Read a little-endian word of `n` bytes. -/
def Store.word (s : Store) (a n : Nat) : Nat := leValue (s.bytes a n)

def Store.writeWord (s : Store) (a x n : Nat) : Store := s.writeBytes a (leBytes x n)

end Sys2Proof.Machine
end

