-- ==== Sys2Proof/Machine/Complete.lean ====
section
/-!
DEFINITION. Completion records (13, R318 to R320) and the attention bits they set (Table 12.5).
-/

namespace Sys2Proof.Machine

/-- Table 13.3. -/
def stOk : Nat := 0x00
def stRefused : Nat := 0x01
def stOpcodeUnknown : Nat := 0x02
def stArgsBad : Nat := 0x03
def stRingWrong : Nat := 0x04
def stStateWrong : Nat := 0x05
def stBusy : Nat := 0x06
def stListBusy : Nat := 0x07
def stScheduleFull : Nat := 0x08
def stSchedulePast : Nat := 0x09
def stScheduleTick : Nat := 0x0A
def stTokenBad : Nat := 0x0B
def stQuotaSum : Nat := 0x0C
def stAbandoned : Nat := 0x0D
def stFailed : Nat := 0x0E

/-- Table 13.2, KIND. -/
def kindCommand : Nat := 0
def kindStep : Nat := 1
def kindOperation : Nat := 2

/-- R319: records free in the completion ring. -/
def Ring.free (r : Ring) : Nat := r.cplSize - 1 - (r.cplTail + r.cplSize - r.cplHead % r.cplSize) % r.cplSize

/-- Records kept for `ABANDON` (R319). -/
def cplReserve : Nat := 4

/-- R318: a record is written at CPL_TAIL with the pass's PHASE; the tail wraps and PHASE flips. -/
def Ring.write (r : Ring) (c : CplRecord) : Ring :=
  let t := (r.cplTail + 1) % r.cplSize
  { r with written := r.written ++ [{ c with phase := r.phase }], cplTail := t, phase := if t = 0 then !r.phase else r.phase }

/-- STEP, OPERATION and re-check records, which R320 holds. -/
def CplRecord.held (c : CplRecord) : Bool := decide (c.kind ≠ kindCommand) || decide (c.opcode = 0)

/-- Such a record has room: the link to the host is up, and a record is free beside the reserve and those that accepted commands were
promised (R319; log 127). -/
def Ring.hasRoom (r : Ring) (pcieUp : Bool) : Bool := r.enable && pcieUp && decide (cplReserve + r.open_ < r.free)

/-- A record may be written now. A command's own record was promised its place, and `ABANDON`'s has its reserve: they wait only for the
link. -/
def Ring.roomFor (r : Ring) (pcieUp : Bool) (c : CplRecord) : Bool :=
  if c.held then r.hasRoom pcieUp else r.enable && pcieUp && decide (0 < r.free)

/-- The records of a list before the first that may be written, that one, and those after it. -/
def Ring.nextHeld (r : Ring) (pcieUp : Bool) : List CplRecord → List CplRecord → Option (CplRecord × List CplRecord)
  | _, [] => none
  | before, c :: cs => if r.roomFor pcieUp c then some (c, before ++ cs) else r.nextHeld pcieUp (before ++ [c]) cs

/-- Held records leave, the oldest that may be written first (R320, R328). -/
def Ring.flushHeld (pcieUp : Bool) : Nat → Ring → Ring
  | 0, r => r
  | n + 1, r =>
    match r.nextHeld pcieUp [] r.held with
    | none => r
    | some (c, cs) => Ring.flushHeld pcieUp n ({ r with held := cs }.write c)

/-- A record is written, or held; a STEP, OPERATION or re-check record stays behind those already held (R320). -/
def Ring.put (r : Ring) (pcieUp : Bool) (c : CplRecord) : Ring :=
  if r.roomFor pcieUp c && (r.held.isEmpty || !c.held) then r.write c else { r with held := r.held ++ [c] }

/-- `ABANDON`'s record goes into its reserved record; it waits only for the link (R319, R328). -/
def Ring.putReserved (r : Ring) (pcieUp : Bool) (c : CplRecord) : Ring :=
  if pcieUp && decide (0 < r.free) then r.write c else { r with held := c :: r.held }

/-- Records used, as Table 12.5 measures RING_HIGH: three quarters of the ring. -/
def Ring.high (r : Ring) : Bool := decide (3 * r.cplSize ≤ 4 * ((r.cplTail + r.cplSize - r.cplHead % r.cplSize) % r.cplSize))

def Body.ring (b : Body) (i : Nat) : Ring := b.rings.getD i Ring.reset

def Body.alterRing (b : Body) (i : Nat) (f : Ring → Ring) : Body := { b with rings := alter i f b.rings }

/-- RING_HIGH is set when the ring is three quarters full. -/
def Body.ringAttention (b : Body) (i : Nat) : Body := if (b.ring i).high then b.attention i 2 else b

/-- A record of any kind but `ABANDON`'s. -/
def Body.putRecord (b : Body) (i : Nat) (c : CplRecord) : Body :=
  (b.alterRing i (fun r => r.put b.host.pcieUp c)).ringAttention i

/-- The COMMAND record of a command (R321), which is then no longer open. -/
def Body.finish (b : Body) (ring : Nat) (tag : Word32) (cmd : Cmd) (status code : Nat) (d : Detail) : Body :=
  let c : CplRecord := ⟨tag, cmd.opcode, status, false, kindCommand, code, d⟩
  (b.alterRing ring (fun r => { (match cmd with
    | .abandon => r.putReserved b.host.pcieUp c
    | _ => r.put b.host.pcieUp c) with open_ := r.open_ - (match cmd with
    | .abandon => 0
    | _ => 1) })).ringAttention ring

/-- Held records counted by R320: STEP, OPERATION and re-check records. -/
def Ring.heldCount (r : Ring) : Nat := (r.held.filter CplRecord.held).length

end Sys2Proof.Machine
end

