-- ==== Sys2Proof/Machine/Units.lean ====
section
/-!
DEFINITION. Partitions and the units they own: operations and where they are placed (02, Table 2.3), stop and resume of pitches
and engines (R65 to R68, R195, R196), fixture states (Table 2.6), grants as device addresses (R433).
-/

namespace Sys2Proof.Machine

def Body.part (b : Body) (p : Nat) : Partition := b.parts.getD p Partition.reset

def Body.alterPart (b : Body) (p : Nat) (f : Partition → Partition) : Body := { b with parts := alter p f b.parts }

def Body.pitch (b : Body) (i : Nat) : Pitch := b.pitches.getD i Pitch.reset
def Body.engine (b : Body) (i : Nat) : Engine := b.engines.getD i Engine.reset

/-- The fixture is in ADMITTED, RUNNING or STOPPED (R33). -/
def Partition.holds (p : Partition) : Bool :=
  match p.fstate with
  | .admitted | .running | .stopped => true
  | _ => false

/-- Partition that owns a pitch and the engine of its number (R30, R31). -/
def Body.ownerOf (b : Body) (pitch : Nat) : Option Nat := (List.range 4).find? (fun p => (b.part p).pitches.contains pitch)

/-! ## Operations -/

def FixtureImage.stream (f : FixtureImage) (s : Nat) : List StreamOp :=
  match s with
  | 0 => f.fwd
  | 1 => f.bwd
  | _ => f.upd

def Partition.image (p : Partition) (s : Nat) : List StreamOp :=
  match p.fix with
  | some f => FixtureImage.stream f s
  | none => []

def Partition.op? (p : Partition) (fl : Flight) : Option StreamOp := (p.image fl.stream)[fl.idx]?

def Partition.stage? (p : Partition) (op : StreamOp) : Option Stage := p.fix.bind (fun f => f.stages[op.stage]?)

/-- Pitches that an operation's stage is placed on, by module number. -/
def Partition.opPitches (p : Partition) (op : StreamOp) : List Nat :=
  match p.stage? op with
  | some st => st.rects.map (fun r => p.pitches.getD r.pitch 4)
  | none => []

def Partition.opEngine (p : Partition) (op : StreamOp) : Option Nat :=
  (p.stage? op).bind (fun st => st.engine.bind (fun e => p.pitches[e]?))

/-- Some operation in flight is placed on the pitch. -/
def Partition.busyPitch (p : Partition) (i : Nat) : Bool :=
  p.flights.any (fun fl => match p.op? fl with
    | some op => (p.opPitches op).contains i
    | none => false)

def Partition.busyEngine (p : Partition) (i : Nat) : Bool :=
  p.flights.any (fun fl => match p.op? fl with
    | some op => p.opEngine op == some i
    | none => false)

/-- A unit that is not stopping or stopped runs while an operation in flight is placed on it. -/
def nextState (st : UnitState) (busy : Bool) : UnitState :=
  match st with
  | .stopping => .stopping
  | .stopped => .stopped
  | _ => if busy then .running else .idle

/-- PITCH_STATE and VE_STATE follow the operations in flight. -/
def Body.refreshUnits (b : Body) : Body :=
  { b with
    pitches := b.pitches.zipIdx.map (fun (x, i) => { x with state := nextState x.state (b.parts.any (·.busyPitch i)) }),
    engines := b.engines.zipIdx.map (fun (x, i) => { x with state := nextState x.state (b.parts.any (·.busyEngine i)) }) }

/-! ## Stop and resume -/

/-- A stop request (R65): the flush begins; a second one joins it (R68), and a resume that was waiting for its end is off. -/
def Pitch.stop (now : Nat) (x : Pitch) : Pitch :=
  match x.state with
  | .idle | .running => { x with state := .stopping, stopAt := now, resume := false }
  | .stopping => { x with resume := false }
  | .stopped => x

def Engine.stopped (now : Nat) (x : Engine) : Engine := { x with state := .stopped, stopAt := now, resume := false }

/-- A stop request takes effect at once: the sub-operation under way is discarded, those committed stay. One whose closing burst has
begun (`burst`) is finished first (R195). -/
def Engine.stop (now : Nat) (burst : Bool) (x : Engine) : Engine :=
  match x.state with
  | .idle | .running => if burst then { x with state := .stopping, stopAt := now, resume := false } else x.stopped now
  | .stopping => { x with resume := false }
  | .stopped => x

/-- R65: the first output block not written, of every stage with an operation in flight on the pitch. -/
def Body.unwrittenOn (b : Body) (i : Nat) : List (Nat × Nat) :=
  b.parts.flatMap (fun x => x.flights.filterMap (fun fl => (x.op? fl).bind (fun op =>
    if (x.opPitches op).contains i then some (op.stage, fl.blocks) else none)))

/-- Units a list of pitch numbers names are asked to stop at block and sub-operation boundaries: a pitch is STOPPED once its flush has
ended (PITCH_STOP_COMPLETE, log 12). Units of a FENCED half hold. -/
def Body.stopUnits (b : Body) (is_ : List Nat) : Body :=
  let go := fun i => is_.contains i && !b.fenced (i / 2)
  { b with
    pitches := b.pitches.zipIdx.map (fun (x, i) => if go i then x.stop b.clock.now else x),
    engines := b.engines.zipIdx.map (fun (x, i) => if go i then x.stop b.clock.now false else x) }

/-- A unit resumes: at once, or when the flush or burst under way has ended. -/
def Pitch.resumed (x : Pitch) : Pitch :=
  match x.state with
  | .stopping => { x with resume := true }
  | _ => { x with state := .idle }

def Engine.idled (x : Engine) : Engine := { x with state := .idle, resume := false }

def Engine.resumed (x : Engine) : Engine :=
  match x.state with
  | .stopping => { x with resume := true }
  | _ => x.idled

/-- Units resume (R67, R196), but for those of a half that is stopped for heat (R286). -/
def Body.resumeUnits (b : Body) (is_ : List Nat) : Body :=
  let go := fun i => is_.contains i && !(b.power.hotStopped.contains (i / 2))
  ({ b with
    pitches := b.pitches.zipIdx.map (fun (x, i) => if go i then Pitch.resumed x else x),
    engines := b.engines.zipIdx.map (fun (x, i) => if go i then Engine.resumed x else x) }).refreshUnits

/-- The fixture changes state: FIXTURE is set in the partition's attention word (Table 12.5). -/
def Body.setFix (b : Body) (p : Nat) (st : FixState) : Body :=
  if (b.part p).fstate = st then b else (b.alterPart p (fun x => { x with fstate := st })).attention p 1

/-- A snapshot that is copying is discarded; the newest complete image is kept (R361). -/
def Body.dropSnapshot (b : Body) (p : Nat) : Body := b.alterPart p (fun x => { x with snap := { x.snap with run := none } })

def isSnapshotCmd (c : Cmd) : Bool := decide (c.opcode = 0x28)

/-- The record of the partition's running `SNAPSHOT` command is written, if there is one. -/
def Body.endSnapshotCmd (b : Body) (p status code : Nat) : Body :=
  match b.active.find? (fun a => decide (a.key = p) && a.running && isSnapshotCmd a.cmd) with
  | some a => ({ b with active := b.active.erase a }).finish a.ring a.tag a.cmd status code .none
  | none => b

/-- R361: a copying snapshot is discarded; if a command asked for it, its record says FAILED with the fault kind. -/
def Body.failSnapshot (b : Body) (p kind : Nat) : Body :=
  match (b.part p).snap.run with
  | some r => let b := b.dropSnapshot p
    if r.command then b.endSnapshotCmd p stFailed kind else b
  | none => b

/-- The record of a pending verification is written. -/
def Body.endVerify (b : Body) (p status : Nat) (d : Detail) : Body :=
  match (b.part p).snap.verify with
  | some w => (b.alterPart p (fun x => { x with snap := { x.snap with verify := none } })).finish w.ring w.tag w.cmd status 0 d
  | none => b

/-- R357: images whose seal has not been written stay OPEN once the fixture stops or leaves. -/
def Snap.unsealed (s : Snap) : Snap :=
  { s with images := s.images.map (fun i => { i with awaits := false }),
           run := s.run.map (fun r => { r with image := { r.image with awaits := false } }) }

/-- A fixture leaves its partition: copying and waiting snapshots end with it. -/
def Body.endSnapshots (b : Body) (p status : Nat) : Body :=
  (((b.dropSnapshot p).alterPart p (fun x => { x with snap := { x.snap with waiting := none } })).endSnapshotCmd p status 0).endVerify
    p status .none

/-- The partition's streams stop at block boundaries (R65, R195); its fixture moves from RUNNING to STOPPED. -/
def Body.stopPartition (b : Body) (p : Nat) : Body :=
  if (b.part p).fstate = .running then ((b.stopUnits (b.part p).pitches).setFix p .stopped).alterPart p
    (fun x => { x with streams := x.streams.map (fun s => { s with waitSince := none }), pass := { x.pass with benchHold := none },
                       snap := x.snap.unsealed })
  else b

/-- A fault stops a partition's streams, and a snapshot that copies is discarded (R361). -/
def Body.faultStop (b : Body) (p kind : Nat) : Body :=
  if (b.part p).fstate = .running then (b.failSnapshot p kind).stopPartition p else b

/-! ## Grants as device addresses -/

/-- Device address of an offset in a list of segments. -/
def segAddr : List Segment → Nat → Option Nat
  | [], _ => none
  | s :: ss, off => if off < s.bytes then some (s.addr + off) else segAddr ss (off - s.bytes)

/-- Scratchpad offsets run through the bound banks in ascending bank number (R433). -/
def bankAddr (banks : List Nat) (off : Nat) : Option Nat :=
  (banks[off / bankBytes]?).map (fun k => scratchBase + k * bankBytes + off % bankBytes)

/-- Device address of a place of the memory plan. -/
def Partition.addr (p : Partition) (l : Loc) : Option Nat :=
  match l.space with
  | .scratch => bankAddr p.grant.banks l.off
  | .infield => segAddr p.grant.infield l.off
  | .outfield => segAddr p.grant.outfield l.off
  | .bench .. | .vreg _ => none

/-- Runs of consecutive device addresses that `n` bytes at a place take, by 2 KiB granule (R21, R433). -/
def Partition.runs (p : Partition) (l : Loc) : Nat → Nat → List (Nat × Nat)
  | 0, _ => []
  | fuel + 1, n =>
    if n = 0 then []
    else
      let k := min n (granuleBytes - l.off % granuleBytes)
      match p.addr l with
      | some a => (a, k) :: Partition.runs p { l with off := l.off + k } fuel (n - k)
      | none => []

/-- R97: a bench granule. -/
def benchGranule : Nat := 65536

def benchHeader : Nat := 64

def Partition.benchEntry? (p : Partition) (block mb : Nat) : Option BenchEntry :=
  p.pass.bench.find? (fun e => decide (e.block = block ∧ e.mb = mb))

/-- Where a tier of the bench starts. -/
def Partition.tierLoc (p : Partition) (tier : Nat) : Loc := ((p.fix.map (fun f => f.plan.benchAt.getD tier ⟨.scratch, 0⟩)).getD ⟨.scratch, 0⟩)

/-- Places of the entry's bytes from `lo` to below `hi`, its header counted, granule by granule. -/
def benchPieces (e : BenchEntry) (base : Loc) (lo hi : Nat) : List (Loc × Nat) :=
  e.granules.zipIdx.filterMap (fun (g, i) =>
    let a := max lo (i * benchGranule)
    let z := min hi ((i + 1) * benchGranule)
    if a < z then some ({ base with off := base.off + g * benchGranule + (a - i * benchGranule) }, z - a) else none)

/-- The places of the memory plan that `n` bytes at a place are: of a bench entry its granules, of vector registers none. -/
def Partition.places (p : Partition) (l : Loc) (n : Nat) : List (Loc × Nat) :=
  match l.space with
  | .bench block mb => match p.benchEntry? block mb with
    | some e => benchPieces e (p.tierLoc e.tier) (benchHeader + l.off) (benchHeader + min e.bytes (l.off + n))
    | none => []
  | .vreg _ => []
  | _ => [(l, n)]

/-- The memory-plan places behind a list of places. -/
def Partition.planPlaces (p : Partition) (ls : List (Loc × Nat)) : List (Loc × Nat) := ls.flatMap (fun x => p.places x.1 x.2)

def Partition.spans (p : Partition) (l : Loc) (n : Nat) : List (Nat × Nat) :=
  (p.places l n).flatMap (fun (l, n) => p.runs l (n / granuleBytes + 2) n)

/-- Device addresses of an entry whole, its header first. -/
def Partition.entrySpans (p : Partition) (e : BenchEntry) : List (Nat × Nat) :=
  (benchPieces e (p.tierLoc e.tier) 0 (benchHeader + e.bytes)).flatMap (fun (l, n) => p.runs l (n / granuleBytes + 2) n)

/-- An engine of the partition, by its index among them. -/
def Partition.engineOf (p : Partition) (e : Nat) : Nat := p.pitches.getD e 4

/-- Bytes at a place of the plan, of a bench entry past those placed (log 19), or of an engine's registers. -/
def Body.readLoc (b : Body) (p : Nat) (l : Loc) (n : Nat) : List Byte :=
  let stored := ((b.part p).spans l n).flatMap (fun (a, k) => b.store.bytes a k)
  match l.space with
  | .vreg e => (b.engine ((b.part p).engineOf e)).vregs.read l.off n
  | .bench block mb => match (b.part p).benchEntry? block mb with
    | some e => stored ++ (e.rest.drop (l.off - e.bytes)).take (n - stored.length)
    | none => stored
  | _ => stored

/-- Write bytes at a place of the plan, run by run. -/
def Store.writeRuns : Store → List (Nat × Nat) → List Byte → Store
  | s, [], _ => s
  | s, (a, k) :: rs, vs => Store.writeRuns (s.writeBytes a (vs.take k)) rs (vs.drop k)

def Body.writeLoc (b : Body) (p : Nat) (l : Loc) (vs : List Byte) : Body :=
  match l.space with
  | .vreg e => { b with engines := alter ((b.part p).engineOf e) (fun x => { x with vregs := x.vregs.write l.off vs }) b.engines }
  | _ => { b with store := b.store.writeRuns ((b.part p).spans l vs.length) vs }

/-- Some byte of the place lies in a poisoned codeword. -/
def Body.poisonAt (b : Body) (p : Nat) (l : Loc) (n : Nat) : Bool :=
  ((b.part p).spans l n).any (fun (a, k) => b.store.anyPoison a k)

def Body.poisonLoc (b : Body) (p : Nat) (l : Loc) (n : Nat) : Body :=
  ((b.part p).spans l n).foldl (fun b (a, k) => b.poisonSpan a k) b

/-! ## Quotas in use (R287) -/

/-- Use of a quota row of Table 2.5 by the partition, in its unit. -/
def Partition.use (p : Partition) (row : Nat) : Nat :=
  match row with
  | 0 => (p.grant.banks.filter (· < 96)).length
  | 1 => (p.grant.banks.filter (fun k => decide (96 ≤ k))).length
  | 2 => ((p.grant.infield.map (·.bytes)).foldl (· + ·) 0 + gib - 1) / gib
  | 3 => ((p.grant.outfield.map (·.bytes)).foldl (· + ·) 0 + gib - 1) / gib
  | 4 => p.grant.kvPages
  | 5 => if p.holds then ((p.fix.map (fun f => (f.demands.links.map (·.2)).foldl max 0)).getD 0) else 0
  | _ => p.flights.length

def Quotas.row (q : Quotas) (row : Nat) : Nat :=
  match row with
  | 0 => q.banksWest
  | 1 => q.banksEast
  | 2 => q.infield
  | 3 => q.outfield
  | 4 => q.kvPages
  | 5 => q.linkShare
  | _ => q.inflight

def Quotas.setRow (q : Quotas) (row v : Nat) : Quotas :=
  match row with
  | 0 => { q with banksWest := v }
  | 1 => { q with banksEast := v }
  | 2 => { q with infield := v }
  | 3 => { q with outfield := v }
  | 4 => { q with kvPages := v }
  | 5 => { q with linkShare := v }
  | _ => { q with inflight := v }

/-- R287: bit i of QUOTA_STATE.OVER_p: quota row i is below use. -/
def Partition.overBit (p : Partition) (row : Nat) : Bool := decide (p.quotas.row row < p.use row)

/-- The partition shows OVER_QUOTA (R42). -/
def Partition.overQuota (p : Partition) : Bool := (List.range 7).any p.overBit

end Sys2Proof.Machine
end

