-- ==== Sys2Proof/Machine/Span.lean ====
section
/-!
DEFINITION. What a cell, a chain and the drain row compute: products, exact spans, FP32 chains, compare modes, the
epilogue and integer rescaling (03, R44 to R53, R59, R431; 04, R81 to R85, R94, R95).
-/

namespace Sys2Proof.Arith

/-- R81: the exact product of one contraction index. -/
def product (mode : CellMode) (a b : FVal) : FVal :=
  match mode with
  | .absdiff => (a.sub b).abs
  | .sqdiff => let d := a.sub b; d.mul d
  | _ => a.mul b

/-- The largest floor(log2 |p|) of the nonzero finite products (R82), if there is one. -/
def maxExp (ps : List FVal) : Option Int :=
  ps.foldl (fun acc p => match p with
    | .fin _ m e => if m = 0 then acc else
        let x : Int := m.log2 + e
        match acc with
        | none => some x
        | some y => some (max x y)
    | _ => acc) none

/-- R82, R84: the span sum of the products, before any block scale and before conversion. -/
def spanSum (ps : List FVal) : FVal :=
  if ps.any FVal.isNaN then .nan
  else
    let posInf := ps.any (fun p => p == .inf false)
    let negInf := ps.any (fun p => p == .inf true)
    if posInf && negInf then .nan
    else if posInf then .inf false
    else if negInf then .inf true
    else match maxExp ps with
      | none => .fin false 0 0
      | some e =>
        let q := e - 89
        .ofDyadic ⟨ps.foldl (fun s p => s + p.dy.roundTo q) 0, q⟩

/-- R83: the exact multiplication by the two blocks' E8M0 scales; 0xFF makes the sum NaN. -/
def scaleSpan (v : FVal) (sa sb : Nat) : FVal :=
  if sa = 0xFF || sb = 0xFF then .nan else v.scale ((sa : Int) + sb - 254)

/-- R85: one conversion to FP32. -/
def spanFp32 (v : FVal) : Nat := (Fmt.fp32.encode v).code

/-- The 32-index spans of a list (R81). -/
def spansOf {α : Type} (fuel : Nat) (xs : List α) : List (List α) :=
  match fuel with
  | 0 => []
  | k + 1 => if xs.isEmpty then [] else xs.take 32 :: spansOf k (xs.drop 32)

/-- R48, R49: the running sum starts at +0 and takes the span sums in ascending order of their first index. The
rectangle, the K steps and the read direction do not appear (R50). -/
def chain (seed : Nat) (spans : List Nat) : Nat := spans.foldl (fadd .fp32) seed

/-- One floating-point output: operand values by ascending contraction index, with one scale code per 32 indices for
MX operands (R46 to R49, R79, R81 to R85). -/
def dotFp (mode : CellMode) (seed : Nat) (as bs : List FVal) (scales : List (Nat × Nat)) : Nat :=
  let ps := List.zipWith (product mode) as bs
  let spans := (spansOf (ps.length + 1) ps).map spanSum
  let scaled := if scales.isEmpty then spans
    else List.zipWith (fun v (s : Nat × Nat) => scaleSpan v s.1 s.2) spans scales
  chain seed (scaled.map spanFp32)

/-- R51: an INT8 output with its saturation flag. -/
def dotInt (mode : CellMode) (seed : Int) (as bs : List Int) : Int × Bool :=
  let one (a b : Int) : Int := match mode with
    | .absdiff => (a - b).natAbs
    | .sqdiff => (a - b) * (a - b)
    | _ => a * b
  let ps := List.zipWith one as bs
  (spansOf (ps.length + 1) ps).foldl (fun (acc : Int × Bool) span =>
    let (sp, f1) := saturate 32 (span.foldl (· + ·) 0)
    let (r, f2) := saturate 32 (acc.1 + sp)
    (r, acc.2 || f1 || f2)) (seed, false)

/-- Pieces (first index, indices) of a contraction of `n` indices whose pieces start at `starts`, the first at 0 (R110). -/
def contractionPieces (n : Nat) : List Nat → List (Nat × Nat)
  | [] => []
  | [s] => [(s, n - s)]
  | s :: t :: rest => (s, t - s) :: contractionPieces n (t :: rest)

/-- A chain summed piece by piece: each piece is seeded with the running sum of those before it (R49, R110). -/
def dotFpPieces (mode : CellMode) (starts : List Nat) (as bs : List FVal) (scales : List (Nat × Nat)) : Nat :=
  (contractionPieces as.length (0 :: starts)).foldl (fun seed (s, n) =>
    dotFp mode seed ((as.drop s).take n) ((bs.drop s).take n) ((scales.drop (s / 32)).take ((n + 31) / 32))) 0

def dotIntPieces (mode : CellMode) (starts : List Nat) (as bs : List Int) : Int × Bool :=
  (contractionPieces as.length (0 :: starts)).foldl (fun acc (s, n) =>
    let r := dotInt mode acc.1 ((as.drop s).take n) ((bs.drop s).take n)
    (r.1, acc.2 || r.2)) (0, false)

/-! ## Compare modes (R52, R53) -/

/-- One (value, index) pair of a compare stage. -/
structure Ranked where
  value : Nat
  index : Nat
  deriving DecidableEq, Repr

/-- R52: what a pair holds when no candidate wins. -/
def noWinner (mode : CellMode) : Ranked := ⟨Fmt.fp32.spec.infCode (mode == .maxIdx), 0xFFFFFFFF⟩

/-- R52: `x` is strictly better than `y`. -/
def beats (mode : CellMode) (x y : Nat) : Bool :=
  if mode == .maxIdx then flt .fp32 y x else flt .fp32 x y

/-- R53: a candidate enters the ordered list behind every pair it does not beat. -/
def insertRanked (mode : CellMode) (c : Ranked) : List Ranked → List Ranked
  | [] => [c]
  | r :: rs => if beats mode c.value r.value then c :: r :: rs else r :: insertRanked mode c rs

/-- R52, R53: the TOPK best pairs in order, and NAN_SEEN. Candidates a + b arrive in ascending index, so ties go to the
lower index; a NaN candidate never wins. -/
def compareRow (mode : CellMode) (topk : Nat) (as bs : List FVal) : List Ranked × Bool :=
  let start := List.replicate topk (noWinner mode)
  let cands := (List.zipWith (fun a b => (Fmt.fp32.encode (a.add b)).code) as bs).zipIdx
  cands.foldl (fun (acc : List Ranked × Bool) (c : Nat × Nat) =>
    if (Fmt.fp32.decode c.1).isNaN then (acc.1, true)
    else ((insertRanked mode ⟨c.1, c.2⟩ acc.1).take topk, acc.2)) (start, false)

/-! ## Integer rescaling (R94) -/

/-- round(a · M / 2^s) by R73, plus the zero point, clamped to INT8; a clamp sets SATURATED. -/
def rescale (r : Rescale) (a : Int) : Int × Bool :=
  saturate 8 ((Dyadic.mk (a * r.mult) 0).roundTo r.shift + r.zero)

/-! ## The drain-row epilogue (R59, R431, Table 3.4) -/

/-- R431. -/
def activate (act : Activation) (x : Nat) : Nat :=
  let v := Fmt.fp32.decode x
  if v.isNaN then (match act with | .none => x | _ => Fmt.fp32.spec.canonicalNaN)
  else
    let zero : FVal := .fin false 0 0
    match act with
    | .none => x
    | .relu => if zero.lt v then x else 0
    | .leaky slope => if zero.lt v then x else if v.isZero then 0 else fmul .fp32 x slope
    | .clamp lo hi => if flt .fp32 x lo then lo else if flt .fp32 hi x then hi else x

/-- The steps that one result passes (Table 3.4); an absent step is `none`. Scale, bias and residual are FP32 codes
(a BF16 bias or residual is widened exactly before). -/
structure EpilogueStep where
  scale : Option Nat := none
  bias : Option Nat := none
  act : Activation := .none
  residual : Option Nat := none
  out : Fmt := .fp32
  rescale : Option Rescale := none
  deriving DecidableEq, Repr

/-- R59: scale, bias, activation, residual add, output conversion, each in FP32 by R73. -/
def epilogueFp (s : EpilogueStep) (x : Nat) : Flagged :=
  let x := match s.scale with | some k => fmul .fp32 x k | none => x
  let x := match s.bias with | some b => fadd .fp32 x b | none => x
  let x := activate s.act x
  let x := match s.residual with | some r => fadd .fp32 x r | none => x
  convert .fp32 s.out x

/-- R95: a stage with INT32 results takes a saturating INT32 bias before rescaling and a clamp on the INT8 result, or
writes INT32 with no epilogue. DESIGN CHOICE (log 112): the bounds of the clamp are INT8 codes. -/
def epilogueInt (s : EpilogueStep) (x : Int) : Int × Bool :=
  let (x, f0) := match s.bias with
    | some b => saturate 32 (x + toSigned 32 b)
    | none => (x, false)
  match s.rescale with
  | none => (x, f0)
  | some r =>
    let (y, f1) := rescale r x
    let y := match s.act with
      | .clamp lo hi => max (toSigned 8 lo) (min (toSigned 8 hi) y)
      | _ => y
    (y, f0 || f1)

end Sys2Proof.Arith
end

