-- ==== Sys2Proof/Machine/Trans.lean ====
section
/-!
DEFINITION. exp2, log2 and ln, correctly rounded to their destination (Table 8.2, class TRANS), and the composed functions
of R181. The values are formed with 2^-240 absolute precision; an inexact value carries a sticky last bit.
-/

namespace Sys2Proof.Arith

/-- Fraction bits of the working precision. -/
def tbits : Nat := 256

/-- ln 2 · 2^256, truncated. -/
def ln2Fixed : Nat := 80260960185991308862233904206310070533990667611589946606122867505419956976171

/-- Σ t^i/i! for `t` in units of 2^-256: `k` more terms from the i-th term on. -/
def expTerms (t : Nat) : Nat → Nat → Nat → Nat → Nat
  | 0, _, _, acc => acc
  | k + 1, i, term, acc =>
    let next := ((term * t) >>> tbits) / i
    expTerms t k (i + 1) next (acc + next)

/-- 2^f for 0 ≤ f < 1, both in units of 2^-256. -/
def exp2Frac (f : Nat) : Nat :=
  expTerms ((f * ln2Fixed) >>> tbits) 64 1 (2 ^ tbits) (2 ^ tbits)

/-- 2^x, exact for an integer x and with a sticky bit otherwise; far outside every format's range the exponent is clamped. -/
def FVal.exp2 (a : FVal) : FVal :=
  match a with
  | .nan => .nan
  | .inf neg => if neg then .fin false 0 0 else .inf false
  | .fin neg m e =>
    if m = 0 then .fin false 1 0
    else if (m.log2 : Int) + e ≥ 20 then .fin false 1 (if neg then -100000 else 100000)
    else
      let d := a.dy
      -- n = floor x, f = x - n, in units of 2^-256
      let n : Int := if 0 ≤ d.e then d.m * 2 ^ d.e.toNat else d.m / 2 ^ (-d.e).toNat
      let isInt : Bool := decide (0 ≤ d.e) || d.m % 2 ^ (-d.e).toNat == 0
      if isInt then .fin false 1 n
      else
        let r : Nat := (d.m % 2 ^ (-d.e).toNat).toNat
        let k := (-d.e).toNat
        let f := if k ≤ tbits then r <<< (tbits - k) else r >>> (k - tbits)
        .fin false (2 * exp2Frac f + 1) (n - tbits - 1)

/-- Σ z^(2i+1)/(2i+1), the series of artanh, for `z` in units of 2^-256. -/
def artanhTerms (z2 : Nat) : Nat → Nat → Nat → Nat → Nat
  | 0, _, _, acc => acc
  | k + 1, i, pow, acc => artanhTerms z2 k (i + 2) ((pow * z2) >>> tbits) (acc + pow / i)

/-- ln y for y = m / 2^(log2 m) in [1, 2), in units of 2^-256. -/
def lnFrac (m : Nat) : Nat :=
  let one := 2 ^ m.log2
  let z := ((m - one) <<< tbits) / (m + one)
  2 * artanhTerms ((z * z) >>> tbits) 84 1 z 0

/-- log2 of a positive value: an integer for a power of two, else with a sticky bit. -/
def FVal.log2 (a : FVal) : FVal :=
  match a with
  | .nan => .nan
  | .inf neg => if neg then .nan else .inf false
  | .fin neg m e =>
    if m = 0 then .inf true
    else if neg then .nan
    else if m = 2 ^ m.log2 then .ofDyadic ⟨(m.log2 : Int) + e, 0⟩
    else
      let frac := (lnFrac m <<< tbits) / ln2Fixed
      .ofDyadic ⟨2 * (((m.log2 : Int) + e) * 2 ^ tbits + frac) + 1, -(tbits : Int) - 1⟩

/-- ln of a positive value. -/
def FVal.ln (a : FVal) : FVal :=
  match a with
  | .nan => .nan
  | .inf neg => if neg then .nan else .inf false
  | .fin neg m e =>
    if m = 0 then .inf true
    else if neg then .nan
    else if m = 2 ^ m.log2 && (m.log2 : Int) + e == 0 then .fin false 0 0
    else .ofDyadic ⟨2 * (((m.log2 : Int) + e) * ln2Fixed + lnFrac m) + 1, -(tbits : Int) - 1⟩

def fexp2 (src dst : Fmt) (a : Nat) : Nat := (dst.encode (src.decode a).exp2).code
def flog2 (src dst : Fmt) (a : Nat) : Nat := (dst.encode (src.decode a).log2).code
def fln (src dst : Fmt) (a : Nat) : Nat := (dst.encode (src.decode a).ln).code

/-! ## Constants: the FP32 values nearest the written decimals (R181) -/

/-- An FP32 constant written as n / 10^k. -/
def dec32 (n : Int) (k : Nat) : Nat := ofRatio .fp32 n (10 ^ k)

def log2e32 : Nat := dec32 144269504 8
def one32 : Nat := 0x3F800000
/-- ln 2 in FP64. -/
def ln2F64 : Nat := (Fmt.fp64.encode (.fin false (2 * ln2Fixed + 1) (-(tbits : Int) - 1))).code

/-! ## Composed functions, step by step in FP32 (Table 8.2, COMPOSED) -/

def exp2f (x : Nat) : Nat := fexp2 .fp32 .fp32 x
def neg32 (x : Nat) : Nat := (Fmt.fp32.encode (Fmt.fp32.decode x).neg).code

def sigmoid (x : Nat) : Nat :=
  fdiv .fp32 one32 (fadd .fp32 one32 (exp2f (fmul .fp32 (neg32 x) log2e32)))

def silu (x : Nat) : Nat := fmul .fp32 x (sigmoid x)

def tanhf (x : Nat) : Nat :=
  fsub .fp32 one32 (fdiv .fp32 0x40000000 (fadd .fp32 (exp2f (fmul .fp32 x (dec32 288539008 8))) one32))

def gelu (x : Nat) : Nat :=
  let cube := fmul .fp32 (fmul .fp32 (fmul .fp32 (dec32 44715 6) x) x) x
  let inner := fmul .fp32 (dec32 79788456 8) (fadd .fp32 x cube)
  fmul .fp32 (fmul .fp32 0x3F000000 x) (fadd .fp32 one32 (tanhf inner))

end Sys2Proof.Arith
end

