-- ==== Sys2Proof/Machine/Rows.lean ====
section
/-!
DEFINITION. Rows kept in wide precision: the attention row and its backward sweeps (07, R154 to R164), the soft maximum,
normalisation and loss of chapter 08 (R189 to R191) and their derivatives (05, R100).
-/

namespace Sys2Proof.Arith

/-- Division of an exact-sum accumulator by a count, one rounding to FP64 (R189, "exact quotient, one rounding"). -/
def XSum.mean64 (a : XSum) (n : Nat) : Nat := (Fmt.fp64.encode (a.value.div (FVal.ofDyadic ⟨n, 0⟩))).code

def toF64 (x : Nat) : Nat := (convert .fp32 .fp64 x).code
def toF32 (x : Nat) : Nat := (convert .fp64 .fp32 x).code
def val32 (x : Nat) : FVal := Fmt.fp32.decode x

/-- ceil of a finite value. -/
def FVal.ceil (a : FVal) : Int :=
  let d := a.dy
  if 0 ≤ d.e then d.m * 2 ^ d.e.toNat else -((-d.m) / 2 ^ (-d.e).toNat)

/-- R157, R160: t lies outside the range a row accepts. -/
def scoreBad (t : Nat) : Bool :=
  match val32 t with
  | .fin _ m e => m ≠ 0 && decide ((m.log2 : Int) + e ≥ 30)
  | _ => true

/-- The largest ceil of a block's scores. -/
def maxCeil (ts : List Nat) : Int :=
  match ts with
  | [] => 0
  | t :: rest => rest.foldl (fun m x => max m (val32 x).ceil) (val32 t).ceil

/-- FP32 value times 2^k, gradual underflow rounded by R73. -/
def scale32 (x : Nat) (k : Int) : Nat := (Fmt.fp32.encode ((val32 x).scale k)).code

/-! ## The attention row (R157) -/

/-- One position of a key block as a row meets it: its place in the block, whether it is visible, key and value. -/
structure KeyPos where
  slot : Nat
  visible : Bool
  key : List FVal
  value : List FVal
  deriving DecidableEq, Repr

/-- How a row ended. -/
inductive RowStatus where
  | ok | empty | nan
  deriving DecidableEq, Repr

structure RowState where
  ref : Option Int
  acc : XSum
  out : List Nat
  bad : Bool
  /-- Weights that the exact-sum unit has taken. -/
  terms : Nat
  deriving DecidableEq, Repr

structure RowResult where
  out : List Nat
  lse : Nat
  status : RowStatus
  ref : Int
  sum : Nat
  /-- Weights that the exact-sum unit took, those of blocks before a row turned NaN included (R197). -/
  terms : Nat
  deriving DecidableEq, Repr

/-- R154: c = SCALE × log2 e, formed in FP64 and rounded to FP32. log2 e is 1 / ln 2 in FP64. -/
def scoreFactor (scale : Nat) : Nat :=
  let log2e : Nat := (Fmt.fp64.encode (.fin false (2 * ((2 ^ (2 * tbits)) / ln2Fixed) + 1) (-(tbits : Int) - 1))).code
  toF32 (fmul .fp64 (toF64 scale) log2e)

/-- Table 7.2 steps 1 and 2: the score of one visible key. -/
def score (c : Nat) (q : List FVal) (k : KeyPos) : Nat := fmul .fp32 (dotFp .mac 0 q k.key []) c

/-- R157: the weight of a visible position, as FP32 code of the value rounded to `t`. -/
def weight (t : Fmt) (ref : Int) (score : Nat) : Nat :=
  fexp2 .fp32 t (fsub .fp32 score (ofInt .fp32 ref))

/-- Table 7.2 step 4, one output element: the block's 64 positions in two spans; a position not visible gives +0. -/
def blockValue (ws : List (Nat × Nat)) (elem : Nat → FVal) : Nat :=
  let ps := (List.range 64).map (fun i =>
    match ws.find? (fun p => p.1 = i) with
    | some (_, w) => (Fmt.bf16.decode w).mul (elem i)
    | none => .fin false 0 0)
  chain 0 ((spansOf 3 ps).map (fun s => spanFp32 (spanSum s)))

/-- One key block of R157. -/
def rowBlock (c : Nat) (q : List FVal) (dh : Nat) (s : RowState) (blk : List KeyPos) : RowState :=
  let vis := blk.filter (·.visible)
  if s.bad || vis.isEmpty then s
  else
    let ts := vis.map (score c q)
    if ts.any scoreBad then { s with bad := true }
    else
      let rb := maxCeil ts
      let s : RowState := match s.ref with
        | none => { s with ref := some rb }
        | some r =>
          if rb > r then
            { s with ref := some rb, acc := s.acc.scaleDown (rb - r).toNat, out := s.out.map (scale32 · (r - rb)) }
          else s
      let r := s.ref.getD rb
      let ws := List.zipWith (fun (k : KeyPos) t => (k.slot, weight .bf16 r t)) vis ts
      let elem (d i : Nat) : FVal := match vis.find? (fun k => k.slot = i) with
        | some k => k.value.getD d (.fin false 0 0)
        | none => .fin false 0 0
      { s with
        terms := s.terms + ws.length
        acc := ws.foldl (fun a (w : Nat × Nat) => a.add (Fmt.bf16.decode w.2)) s.acc
        out := (List.range dh).map (fun d => fadd .fp32 (s.out.getD d 0) (blockValue ws (elem d))) }

/-- R157, R159, R160: one query row over its key blocks in ascending order. -/
def attentionRow (c : Nat) (q : List FVal) (dh : Nat) (blocks : List (List KeyPos)) : RowResult :=
  let s := blocks.foldl (rowBlock c q dh) ⟨none, XSum.zero, List.replicate dh 0, false, 0⟩
  let nan := Fmt.fp32.spec.canonicalNaN
  if s.bad then ⟨List.replicate dh nan, nan, .nan, 0, 0, s.terms⟩
  else match s.ref with
    | none => ⟨List.replicate dh 0, 0xFF800000, .empty, 0, 0, 0⟩
    | some r =>
      let l := s.acc.convert .fp32
      let lse := toF32 (fmul .fp64 ln2F64 (fadd .fp64 (ofInt .fp64 r) (flog2 .fp64 .fp64 (toF64 l))))
      ⟨s.out.map (fun x => fdiv .fp32 x l), lse, .ok, r, l, s.terms⟩

/-! ## The backward sweeps (R163, R164) -/

/-- One row's part of sweep 2 for one visible key: the weight P and dS. -/
structure BackTerm where
  p : Nat
  ds : Nat
  deriving DecidableEq, Repr

/-- The exact sum of the products of two rows of FP32 codes. -/
def sumProducts (xs ys : List Nat) : XSum := XSum.sum (List.zipWith (fun a b => (val32 a).mul (val32 b)) xs ys)

/-- R163, sweep 1: D = fp32(exact_sum(dO ∘ out)) − g_lse. -/
def backD (dout out : List Nat) (glse : Nat) : Nat := fsub .fp32 ((sumProducts dout out).convert .fp32) glse

/-- R163, sweep 2: P := p′ / l, dP := dO · Vᵀ, dS := fp32(SCALE · P · (dP − D)), each step in FP32. -/
def backTerm (c scale : Nat) (q : List FVal) (r : RowResult) (dout : List Nat) (d : Nat) (k : KeyPos) : BackTerm :=
  let w := (convert .bf16 .fp32 (weight .bf16 r.ref (score c q k))).code
  let p := fdiv .fp32 w r.sum
  let dp := dotFp .mac 0 (dout.map val32) k.value []
  ⟨p, fmul .fp32 (fmul .fp32 scale p) (fsub .fp32 dp d)⟩

/-! ## Soft maximum outside ATTENTION (R190) -/

structure SoftState where
  ref : Option Int
  acc : XSum
  /-- p′ of each index, in FP32; an index not visible has none. -/
  ws : List (Option Nat)
  bad : Bool
  terms : Nat
  deriving DecidableEq, Repr

def softBlock (s : SoftState) (blk : List (Nat × Bool)) : SoftState :=
  let hidden : List (Option Nat) := blk.map (fun _ => none)
  let vis := blk.filter (·.2)
  if s.bad || vis.isEmpty then { s with ws := s.ws ++ hidden }
  else
    let t (x : Nat) : Nat := fmul .fp32 x log2e32
    let ts := vis.map (fun p => t p.1)
    if ts.any scoreBad then { s with bad := true, ws := s.ws ++ hidden }
    else
      let rb := maxCeil ts
      let s : SoftState := match s.ref with
        | none => { s with ref := some rb }
        | some r =>
          if rb > r then
            { s with ref := some rb, acc := s.acc.scaleDown (rb - r).toNat,
                     ws := s.ws.map (Option.map (scale32 · (r - rb))) }
          else s
      let r := s.ref.getD rb
      let new := blk.map (fun p => if p.2 then some (weight .fp32 r (t p.1)) else none)
      { s with
        terms := s.terms + vis.length
        acc := new.foldl (fun a w => match w with | some w => a.add (val32 w) | none => a) s.acc
        ws := s.ws ++ new }

/-- The blocks of 64 indices a row is taken in (R155). -/
def blocksOf64 {α : Type} (fuel : Nat) (xs : List α) : List (List α) :=
  match fuel with
  | 0 => []
  | k + 1 => if xs.isEmpty then [] else xs.take 64 :: blocksOf64 k (xs.drop 64)

/-- R190: the soft maximum of a row of FP32 values with their visibility. -/
def softmaxRow (xs : List (Nat × Bool)) : RowResult :=
  let s := (blocksOf64 (xs.length + 1) xs).foldl softBlock ⟨none, XSum.zero, [], false, 0⟩
  let nan := Fmt.fp32.spec.canonicalNaN
  if s.bad then ⟨xs.map (fun _ => nan), nan, .nan, 0, 0, s.terms⟩
  else match s.ref with
    | none => ⟨xs.map (fun _ => 0), 0xFF800000, .empty, 0, 0, 0⟩
    | some r =>
      let l := s.acc.convert .fp32
      let lse := toF32 (fmul .fp64 ln2F64 (fadd .fp64 (ofInt .fp64 r) (flog2 .fp64 .fp64 (toF64 l))))
      ⟨s.ws.map (fun w => match w with | some w => fdiv .fp32 w l | none => 0), lse, .ok, r, l, s.terms⟩

/-- How many of the sums carry a flag, and so met one when they were converted (R187). -/
def flaggedSums (xs : List XSum) : Nat := (xs.filter (·.flagged)).length

/-- R100: dx = p · (dy − Σ p · dy), the sum in the exact-sum unit; and the conversions that met a flag (R187). -/
def softmaxBack (p dy : List Nat) : List Nat × Nat :=
  let s := sumProducts p dy
  (List.zipWith (fun a b => fmul .fp32 a (fsub .fp32 b (s.convert .fp32))) p dy, flaggedSums [s])

/-! ## Normalisation (R189, R100) -/

structure NormResult where
  y : List Nat
  xhat : List Nat
  rstd : Nat
  /-- Conversions that met a flag (R187). -/
  range : Nat
  deriving DecidableEq, Repr

/-- R189: a row of n values; `rms` selects RMS mode, else LAYER mode. -/
def normRow (rms : Bool) (eps : Nat) (gamma beta x : List Nat) : NormResult :=
  let n := x.length
  let s1 := XSum.sum (x.map val32)
  let s2 := XSum.sum (x.map (fun v => (val32 v).mul (val32 v)))
  let nan32 := Fmt.fp32.spec.canonicalNaN
  if s1.flagged || s2.flagged || n == 0 then
    ⟨x.map (fun _ => nan32), x.map (fun _ => nan32), nan32, flaggedSums [s1, s2]⟩
  else
    let mu := s1.mean64 n
    let var : Nat :=
      if rms then s2.mean64 n
      else
        -- (n·S2 − S1·S1) / n², exact: S1·S1 carries weight 2^-254
        let num := (Dyadic.mk (n * s2.n) (-127)).sub (Dyadic.mk (s1.n * s1.n) (-254))
        (Fmt.fp64.encode ((FVal.ofDyadic num).div (FVal.ofDyadic ⟨n * n, 0⟩))).code
    let rstd := toF32 (fdiv .fp64 (ofInt .fp64 1) (fsqrt .fp64 (fadd .fp64 var (toF64 eps))))
    let mu32 := toF32 mu
    let xhat := x.map (fun v => if rms then fmul .fp32 v rstd else fmul .fp32 (fsub .fp32 v mu32) rstd)
    let y := (xhat.zipIdx).map (fun (h : Nat × Nat) => ffma .fp32 h.1 (gamma.getD h.2 one32) (beta.getD h.2 0))
    ⟨y, xhat, rstd, 0⟩

/-- R189: a mean over n values, formed as mu: canonical NaN where its sum carries a flag. -/
def rowMean (s : XSum) (n : Nat) : Nat := if s.flagged then Fmt.fp32.spec.canonicalNaN else toF32 (s.mean64 n)

/-- R100, R189: dx = (1/σ)(g − mean(g) − x̂ · mean(g · x̂)), g = dy · γ; the means from exact sums, as mu; and how many of the
sums carried a flag (R187). -/
def normBack (r : NormResult) (gamma dy : List Nat) : List Nat × Nat :=
  let n := dy.length
  let g := (dy.zipIdx).map (fun (d : Nat × Nat) => fmul .fp32 d.1 (gamma.getD d.2 one32))
  let s1 := XSum.sum (g.map val32)
  let s2 := sumProducts g r.xhat
  let m1 := rowMean s1 n
  let m2 := rowMean s2 n
  (List.zipWith (fun a h => fmul .fp32 r.rstd (fsub .fp32 (fsub .fp32 a m1) (fmul .fp32 h m2))) g r.xhat, flaggedSums [s1, s2])

/-! ## The loss (R191) -/

/-- ℓ = lse − x_target for one row, with lse = ln2 · (r + log2 l) in FP64. -/
def lossTerm (xs : List (Nat × Bool)) (target : Nat) : Nat :=
  let r := softmaxRow xs
  match r.status with
  | .ok =>
    let lse := fmul .fp64 ln2F64 (fadd .fp64 (ofInt .fp64 r.ref) (flog2 .fp64 .fp64 (toF64 r.sum)))
    fsub .fp64 lse (toF64 ((xs.getD target (0, false)).1))
  | .empty => fsub .fp64 (Fmt.fp64.spec.infCode true) (toF64 ((xs.getD target (0, false)).1))
  | .nan => Fmt.fp64.spec.canonicalNaN

/-- The exact sum of a micro-batch's row terms. -/
def lossSum (terms : List Nat) : XSum := XSum.sum (terms.map Fmt.fp64.decode)

/-- The loss of one micro-batch: the exact sum of its row terms divided by the row count, one rounding; no rows give +0.
DEDUCED (log 23): "with one rounding" is read of the whole quotient, as in R189. -/
def microLoss (terms : List Nat) : Nat :=
  if terms.isEmpty then 0
  else (lossSum terms).mean64 terms.length

/-- The exact sum of a step's micro-batch losses; a micro-batch with no rows adds nothing. -/
def stepSum (micro : List (List Nat)) : XSum :=
  XSum.sum ((micro.filter (fun m => !m.isEmpty)).map (fun m => Fmt.fp64.decode (microLoss m)))

/-- A step's loss: that sum converted once. -/
def stepLoss (micro : List (List Nat)) : Nat := (stepSum micro).convert .fp64

end Sys2Proof.Arith
end

