-- ==== Sys2Proof/Machine/UpdateRules.lean ====
section
/-!
DEFINITION. The arithmetic of the parameter update (06): step size, clipping, the five rules, the carry and the
counter-based generator (R128, R133, R136 to R149).
-/

namespace Sys2Proof.Arith

/-! ## Group flags (Table 6.2) -/

def gFrozen (f : Word16) : Bool := f.getLsbD 0
def gCarry (f : Word16) : Nat := (f.extractLsb' 1 2).toNat
def gCoupled (f : Word16) : Bool := f.getLsbD 3
def gNesterov (f : Word16) : Bool := f.getLsbD 4
def gClip (f : Word16) : Nat := (f.extractLsb' 5 2).toNat
def gMoment (f : Word16) : Nat := (f.extractLsb' 7 2).toNat

/-! ## Generator and carry (R148, R149) -/

/-- R149: 16 bits from shard, step and element, modulo 2^64. -/
def gen16 (shard step element : Nat) : Nat :=
  let mix (x : Word64) : Word64 := (x ^^^ (x >>> 31)) * 0xD1B54A32D192ED03#64
  let x : Word64 := (BitVec.ofNat 64 step * 0x9E3779B97F4A7C15#64) ^^^ BitVec.ofNat 64 shard
  let x := x ^^^ (BitVec.ofNat 64 element * 0xB5AD4ECEDA1CE2A9#64)
  (mix (mix (mix x)) >>> 48).toNat

/-- R148: the exponent of ulp(x) for a finite BF16 value; 2^-133 for ±0. -/
def ulpExp (w : Nat) : Int :=
  match Fmt.bf16.decode w with
  | .fin _ m e => if m = 0 then -133 else max ((m.log2 : Int) + e) (-126) - 7
  | _ => -133

structure CarryResult where
  w : Nat
  c : Int
  clamped : Bool
  nonfinite : Bool
  deriving DecidableEq, Repr

/-- R148: one element. `mode` is CARRY_MODE; `draw` is gen16's value (used in CARRY_SR only). -/
def applyCarry (mode : Nat) (draw : Nat) (w : Nat) (c : Int) (u : Nat) : CarryResult :=
  let q := ulpExp w
  let base := Fmt.bf16.decode w
  let c := if mode = 2 then 0 else c
  let a := base.add (FVal.ofDyadic ⟨c, q - 8⟩ base.isNeg)
  let t := (Fmt.fp32.encode (a.add (val32 u))).code
  let w2 := (convert .fp32 .bf16 t).code
  let tv := val32 t
  let w2v := Fmt.bf16.decode w2
  if !tv.isFinite || !w2v.isFinite then ⟨w, c, false, true⟩
  else if mode = 2 then ⟨w2, 0, false, false⟩
  else
    -- r = (t - w2) · 2^8 / ulp(w2), exact
    let r := (FVal.sub tv w2v).scale (8 - ulpExp w2)
    let d := r.dy
    let c2 : Int :=
      if mode = 0 then
        let s := d.add ⟨draw, -16⟩
        if 0 ≤ s.e then s.m * 2 ^ s.e.toNat else s.m / 2 ^ (-s.e).toNat
      else d.roundTo 0
    if c2 > 127 then ⟨w2, 127, true, false⟩ else ⟨w2, c2, false, false⟩

/-! ## Step size and clipping (R133, R138) -/

/-- R133: lr(s), formed in FP64 and rounded once to FP32. -/
def learningRate (g : GroupRec) (s : Nat) : Nat :=
  let peak := toF64 g.lrPeak
  let fin := toF64 g.lrEnd
  let n (k : Nat) : Nat := ofInt .fp64 k
  if s < g.warmup then toF32 (fdiv .fp64 (fmul .fp64 peak (n (s + 1))) (n g.warmup))
  else if g.decaySteps = 0 then g.lrPeak
  else if s < g.warmup + g.decaySteps then
    toF32 (fadd .fp64 peak (fdiv .fp64 (fmul .fp64 (fsub .fp64 fin peak) (n (s - g.warmup))) (n g.decaySteps)))
  else g.lrEnd

/-- R138: the norm n = sqrt(S), rounded once to FP32. -/
def clipNorm (s : XSum) : Nat := (Fmt.fp32.encode s.value.sqrt).code

/-- R138: the factor that a clipped gradient takes, if n > CLIP. -/
def clipFactor (clip : Nat) (s : XSum) : Option Nat :=
  let n := clipNorm s
  if flt .fp32 clip n then some (fdiv .fp32 clip n) else none

/-! ## Rules (R136, R137, R140 to R144) -/

/-- The per-group constants of one step (R136, R137). -/
structure StepConst where
  lr : Nat
  lrWd : Nat
  b1 : Nat
  b2 : Nat
  oneMinusB1 : Nat
  oneMinusB2 : Nat
  bc1 : Nat
  bc2 : Nat
  deriving DecidableEq, Repr

/-- R137: fp32(1 − P) of an FP64 running product. -/
def biasCorrection (p : Nat) : Nat := (Fmt.fp32.encode ((FVal.fin false 1 0).sub (Fmt.fp64.decode p))).code

/-- Constants for rule `rule` of a group at step s; P1 and P2 as already advanced. -/
def stepConst (g : GroupRec) (rule s p1 p2 : Nat) : StepConst :=
  let lr := learningRate g s
  { lr := lr
    lrWd := fmul .fp32 lr g.weightDecay
    b1 := g.beta1
    b2 := g.beta2
    oneMinusB1 := fsub .fp32 one32 g.beta1
    oneMinusB2 := fsub .fp32 one32 g.beta2
    bc1 := if rule = 3 then one32 else biasCorrection p1
    bc2 := if rule = 3 then one32 else biasCorrection p2 }

/-- One element's moments. -/
structure Moments where
  m : Nat
  v : Nat
  deriving DecidableEq, Repr

def advanceMomentum (k : StepConst) (x : Moments) (g : Nat) : Moments :=
  { x with m := fadd .fp32 (fmul .fp32 k.b1 x.m) g }

def advanceAdaptive (k : StepConst) (x : Moments) (g : Nat) : Moments :=
  { m := fadd .fp32 (fmul .fp32 k.b1 x.m) (fmul .fp32 k.oneMinusB1 g)
    v := fadd .fp32 (fmul .fp32 k.b2 x.v) (fmul .fp32 k.oneMinusB2 (fmul .fp32 g g)) }

def momentumDir (nesterov : Bool) (k : StepConst) (x : Moments) (g : Nat) : Nat :=
  if nesterov then fadd .fp32 g (fmul .fp32 k.b1 x.m) else x.m

def adaptiveDir (eps : Nat) (k : StepConst) (x : Moments) : Nat :=
  fdiv .fp32 (fdiv .fp32 x.m k.bc1) (fadd .fp32 (fsqrt .fp32 (fdiv .fp32 x.v k.bc2)) eps)

/-- R137: the element-wise rules 0x01 to 0x03: the moments advanced, and the direction. -/
def elementRule (gr : GroupRec) (rule : Nat) (k : StepConst) (x : Moments) (g : Nat) : Moments × Nat :=
  if rule = 1 then
    let x := advanceMomentum k x g
    (x, momentumDir (gNesterov gr.flags) k x g)
  else
    let x := advanceAdaptive k x g
    (x, adaptiveDir gr.eps k x)

/-- R144: the direction of FALLBACK_RULE from moments already advanced. -/
def fallbackDir (gr : GroupRec) (k : StepConst) (x : Moments) (g : Nat) : Nat :=
  if gr.fallback = 1 then momentumDir (gNesterov gr.flags) k x g else adaptiveDir gr.eps k x

/-- R136 step 5: u from d. -/
def finalUpdate (gr : GroupRec) (k : StepConst) (d w : Nat) : Nat :=
  let u := neg32 (fmul .fp32 k.lr d)
  if gCoupled gr.flags then u else fsub .fp32 u (fmul .fp32 k.lrWd (convert .bf16 .fp32 w).code)

/-! ### Matrices of FP32 or BF16 codes, by rows -/

abbrev Matrix32 := List (List Nat)

def mAt (x : Matrix32) (i j : Nat) : Nat := (x.getD i []).getD j 0

def mTab (r c : Nat) (f : Nat → Nat → Nat) : Matrix32 := (List.range r).map (fun i => (List.range c).map (f i))

def mTrans (r c : Nat) (x : Matrix32) : Matrix32 := mTab c r (fun i j => mAt x j i)

/-- A product of an r × k and a k × c matrix of format `t`, by the exact spans of R46 to R50. -/
def mMul (t : Fmt) (r k c : Nat) (x y : Matrix32) : Matrix32 :=
  let cols := mTrans k c y
  mTab r c (fun i j => dotFp .mac 0 ((x.getD i []).map t.decode |>.take k) ((cols.getD j []).map t.decode) [])

def toBf16 (x : Nat) : Nat := (convert .fp32 .bf16 x).code
def ofBf16 (x : Nat) : Nat := (convert .bf16 .fp32 x).code

def mMap (f : Nat → Nat) (x : Matrix32) : Matrix32 := x.map (List.map f)
def mZip (f : Nat → Nat → Nat) (x y : Matrix32) : Matrix32 := List.zipWith (List.zipWith f) x y

/-- R140: one Newton–Schulz iteration on an r × c matrix X of BF16 codes. -/
def nsStep (u : UpdateRulesTable) (r c : Nat) (x : Matrix32) : Matrix32 :=
  let a := mMap toBf16 (mMul .bf16 r c r x (mTrans r c x))
  let a2 := mMap toBf16 (mMul .bf16 r r r a a)
  let b := mZip (fun p q => toBf16 (fadd .fp32 (fmul .fp32 u.nsB (ofBf16 p)) (fmul .fp32 u.nsC (ofBf16 q)))) a a2
  let bx := mMul .bf16 r r c b x
  mZip (fun p q => toBf16 (fadd .fp32 (fmul .fp32 u.nsA (ofBf16 p)) q)) x bx

/-- R140: the exact sum of the squares of a matrix. -/
def squaresOf (n : Matrix32) : XSum := XSum.sum (n.flatten.map (fun x => (val32 x).mul (val32 x)))

/-- R140, R141: the orthogonalised direction of the matrix n (FP32), taken with no more rows than columns. -/
def orthoDir (u : UpdateRulesTable) (eps scale rows cols : Nat) (n : Matrix32) : Matrix32 :=
  let flip := decide (rows > cols)
  let (r, c) := if flip then (cols, rows) else (rows, cols)
  let nn := if flip then mTrans rows cols n else n
  let f := clipNorm (squaresOf nn)
  let den := fadd .fp32 f eps
  let x0 := mMap (fun x => toBf16 (fdiv .fp32 x den)) nn
  let x := (List.range 5).foldl (fun x _ => nsStep u r c x) x0
  let d := mMap (fun x => fmul .fp32 scale (ofBf16 x)) x
  if flip then mTrans r c d else d

/-- z^(-1/4) in FP64, rounded to FP32 (R143). -/
def invFourthRoot (z : Nat) : Nat :=
  match val32 z with
  | .fin false m e =>
    if m = 0 then Fmt.fp32.spec.infCode false
    else
      -- m · 2^e with e divisible by 4; n = 2^(4k) / m has an integer fourth root of more than 70 bits
      let sh := (e % 4).toNat
      let m := m * 2 ^ sh
      let e := e - sh
      let k := m.log2 / 4 + 90
      let n := 2 ^ (4 * k) / m
      let s := isqrt (isqrt n)
      let exact := s * s * s * s * m == 2 ^ (4 * k)
      toF32 ((Fmt.fp64.encode (.fin false (2 * s + (if exact then 0 else 1)) (-(k : Int) - 1 - e / 4))).code)
  | .inf false => 0
  | _ => Fmt.fp32.spec.canonicalNaN

def ident (i j : Nat) : Nat := if i = j then one32 else 0

def mMulF (k : Nat) (x y : Matrix32) : Matrix32 := mMul .fp32 k k k x y

/-- The coupled Newton iteration of R143: `fuel` more rounds on (X, M). -/
def newtonRoot (k tol : Nat) : Nat → Matrix32 → Matrix32 → Option Matrix32
  | 0, _, _ => none
  | fuel + 1, x, m =>
    let t := mTab k k (fun i j =>
      fdiv .fp32 (fsub .fp32 (fmul .fp32 0x40A00000 (ident i j)) (mAt m i j)) 0x40800000)
    let x := mMulF k x t
    let t2 := mMulF k t t
    let m := mMulF k (mMulF k t2 t2) m
    let worst := (List.range k).all (fun i => (List.range k).all (fun j =>
      (val32 (fsub .fp32 (mAt m i j) (ident i j))).abs.le (val32 tol)))
    if worst then some x else newtonRoot k tol fuel x m

/-- R143: the trace of a factor, an exact sum (log 24). -/
def kronTrace (k : Nat) (f : Matrix32) : XSum := XSum.sum ((List.range k).map (fun i => val32 (mAt f i i)))

/-- R143: the damped factor. -/
def kronDamped (gr : GroupRec) (k : Nat) (f : Matrix32) : Matrix32 :=
  let damp := fadd .fp32 (fdiv .fp32 (fmul .fp32 gr.kronDamping ((kronTrace k f).convert .fp32)) (ofInt .fp32 k)) gr.eps
  mTab k k (fun i j => if i = j then fadd .fp32 (mAt f i j) damp else mAt f i j)

/-- R143: the row sums of magnitudes. -/
def kronRowSums (k : Nat) (a : Matrix32) : List XSum :=
  (List.range k).map (fun i => XSum.sum ((List.range k).map (fun j => (val32 (mAt a i j)).abs)))

/-- Every exact sum that a root computation converts, with its terms. -/
def kronSums (gr : GroupRec) (k : Nat) (f : Matrix32) : List (Nat × XSum) :=
  (k, kronTrace k f) :: (kronRowSums k (kronDamped gr k f)).map (fun x => (k, x))

/-- R143: the root of a factor F of side k, if the iteration converges. -/
def kronRoot (u : UpdateRulesTable) (gr : GroupRec) (k : Nat) (f : Matrix32) : Option Matrix32 :=
  let a := kronDamped gr k f
  let rows := (kronRowSums k a).map (fun x => x.convert .fp32)
  let z := rows.foldl (fun m r => if flt .fp32 m r then r else m) 0
  let x0 := mTab k k (fun i j => if i = j then invFourthRoot z else 0)
  let m0 := mTab k k (fun i j => fdiv .fp32 (mAt a i j) z)
  newtonRoot k u.kronTol u.kronIterMax x0 m0

/-- R142: one factor's statistics from BF16 operands: F := β·F + (1 − β)·G·Gᵀ for G of k × c. -/
def kronFactor (beta k c : Nat) (f g : Matrix32) : Matrix32 :=
  let gb := mMap toBf16 g
  let p := mMul .bf16 k c k gb (mTrans k c gb)
  let om := fsub .fp32 one32 beta
  mTab k k (fun i j => fadd .fp32 (fmul .fp32 beta (mAt f i j)) (fmul .fp32 om (mAt p i j)))

/-- R144: d := MATRIX_SCALE · Q_L · (m / bc1) · Q_R, products from left to right; an identity root is none. -/
def kronDir (scale rows cols : Nat) (ql qr : Option Matrix32) (mh : Matrix32) : Matrix32 :=
  let l := match ql with
    | some q => mMul .fp32 rows rows cols (mMap (fmul .fp32 scale) q) mh
    | none => mMap (fmul .fp32 scale) mh
  match qr with
  | some q => mMul .fp32 rows cols cols l q
  | none => l

/-! ## One tensor -/

/-- A tensor's values as the rule meets them: weights (BF16), carry, moments and gradient (FP32), element by element;
`trained` is false for a masked element. -/
structure TensorData where
  w : List Nat
  c : List Int
  m : List Nat
  v : List Nat
  g : List Nat
  trained : List Bool
  factorL : Matrix32
  factorR : Matrix32
  rootL : Matrix32
  rootR : Matrix32
  rootsValid : Bool
  deriving DecidableEq, Repr

structure TensorResult where
  data : TensorData
  nonfinite : Bool
  clamped : Nat
  /-- A root computation failed in this update (R144). -/
  precond : Bool
  /-- Exact sums that the rule converted, with their terms (R187, R197). -/
  sums : List (Nat × XSum)
  deriving DecidableEq, Repr

def toRows (rows cols : Nat) (xs : List Nat) : Matrix32 :=
  (List.range rows).map (fun i => (xs.drop (i * cols)).take cols)

/-- R132, R136: the rule that a tensor takes: FALLBACK_RULE for a 1-D tensor of an ORTHO or KRON group. -/
def tensorRule (gr : GroupRec) (t : TensorRec) : Nat :=
  if (gr.rule = 4 || gr.rule = 5) && (t.rows ≤ 1 || t.cols ≤ 1) then gr.fallback else gr.rule

/-- R136 to R151: the update of one tensor at step `s`. `factor` is the clipping factor of R138, if one applies. DESIGN CHOICE: a masked
element enters the matrix products of ORTHO and KRON as 0 (log 116), and roots never computed yet are attempted (log 113). -/
def updateTensor (u : UpdateRulesTable) (gr : GroupRec) (t : TensorRec) (s p1 p2 : Nat) (factor : Option Nat)
    (x : TensorData) : TensorResult :=
  let rule := tensorRule gr t
  let adaptive := if rule = 5 then 2 else rule
  let k := stepConst gr adaptive s p1 p2
  -- FALLBACK_RULE 0x03 of a KRON tensor divides by 1 (R137)
  let kf := stepConst gr gr.fallback s p1 p2
  let n := x.w.length
  let idx := List.range n
  let at1 (l : List Nat) (i : Nat) : Nat := l.getD i 0
  let on (i : Nat) : Bool := x.trained.getD i true
  -- steps 1 to 3: gradient, clipping, coupled decay
  let g := idx.map (fun i =>
    let g := match factor with
      | some f => fmul .fp32 (at1 x.g i) f
      | none => at1 x.g i
    if gCoupled gr.flags then fadd .fp32 g (fmul .fp32 gr.weightDecay (ofBf16 (at1 x.w i))) else g)
  let gz := idx.map (fun i => if on i then at1 g i else 0)
  let advance (i : Nat) : Moments :=
    let mv : Moments := ⟨at1 x.m i, at1 x.v i⟩
    if !on i then mv
    else if rule = 1 || rule = 4 then advanceMomentum k mv (at1 g i)
    else advanceAdaptive k mv (at1 g i)
  let mvs := idx.map advance
  let mvAt (i : Nat) : Moments := mvs.getD i ⟨0, 0⟩
  let elementDirs (kk : StepConst) (r : Nat) : List Nat := idx.map (fun i =>
    if r = 1 then momentumDir (gNesterov gr.flags) kk (mvAt i) (at1 g i) else adaptiveDir gr.eps kk (mvAt i))
  let hasL := decide (t.rows ≤ gr.kronDimMax)
  let hasR := decide (t.cols ≤ gr.kronDimMax)
  let gm := toRows t.rows t.cols gz
  let fl := if rule = 5 && hasL then kronFactor gr.kronBeta t.rows t.cols x.factorL gm else x.factorL
  let fr := if rule = 5 && hasR then kronFactor gr.kronBeta t.cols t.rows x.factorR (mTrans t.rows t.cols gm)
    else x.factorR
  let attempt := rule = 5 && (s % gr.kronInterval == 0 || !x.rootsValid)
  let ql := if attempt && hasL then kronRoot u gr t.rows fl else some x.rootL
  let qr := if attempt && hasR then kronRoot u gr t.cols fr else some x.rootR
  let failed := attempt && (ql.isNone || qr.isNone)
  let valid := if attempt then !failed else x.rootsValid
  let nn := if rule = 4 then toRows t.rows t.cols (idx.map (fun i =>
      if on i then momentumDir (gNesterov gr.flags) k (mvAt i) (at1 g i) else 0)) else []
  let sums := if rule = 4 then [(n, squaresOf nn)]
    else if attempt then (if hasL then kronSums gr t.rows fl else []) ++ (if hasR then kronSums gr t.cols fr else []) else []
  let dirs : List Nat :=
    if rule = 4 then
      (orthoDir u gr.eps gr.matrixScale t.rows t.cols nn).flatten
    else if rule = 5 then
      if valid then
        let mh := toRows t.rows t.cols (idx.map (fun i => if on i then fdiv .fp32 (mvAt i).m k.bc1 else 0))
        (kronDir gr.matrixScale t.rows t.cols (if hasL then ql else none) (if hasR then qr else none) mh).flatten
      else elementDirs kf gr.fallback
    else elementDirs k rule
  let out := idx.map (fun i =>
    if on i then
      let u := finalUpdate gr k (at1 dirs i) (at1 x.w i)
      applyCarry (gCarry gr.flags) (gen16 t.shard s (t.baseIndex + i)) (at1 x.w i) (x.c.getD i 0) u
    else ⟨at1 x.w i, x.c.getD i 0, false, false⟩)
  let momentBad := idx.any (fun i => on i && (!(val32 (mvAt i).m).isFinite || !(val32 (mvAt i).v).isFinite))
  { data := { x with
      w := out.map (·.w), c := out.map (·.c), m := mvs.map (·.m), v := mvs.map (·.v)
      factorL := fl, factorR := fr
      rootL := if failed then x.rootL else ql.getD x.rootL
      rootR := if failed then x.rootR else qr.getD x.rootR
      rootsValid := if rule = 5 then valid else x.rootsValid }
    nonfinite := out.any (·.nonfinite) || momentBad
    clamped := (out.filter (·.clamped)).length
    precond := failed, sums := sums }

end Sys2Proof.Arith
end

