-- ==== Sys2Proof/Machine/Operands.lean ====
section
/-!
DEFINITION. Operand forms: vectors, matrices, microscaled and bell-grid tensors, and epilogue parameters, read from and written
to places of a partition's memory plan (03, 04, 08; R74, R78, R79, R88, R101).
-/

namespace Sys2Proof.Machine

open Arith

/-! ## Elements as bytes (R74) -/

/-- Bytes of `n` consecutive elements; two FP4 elements share a byte, the even one in bits [3:0] (log 25). -/
def bytesFor (t : Fmt) (n : Nat) : Nat :=
  match t with
  | .bell => (n + 63) / 64 * 48
  | .mxfp4 => (n + 1) / 2
  | _ => n * (t.bits / 8)

/-- `n` little-endian words of `k` bytes. -/
def wordsOf (k : Nat) : Nat → List Byte → List Nat
  | 0, _ => []
  | n + 1, bs => leValue (bs.take k) :: wordsOf k n (bs.drop k)

def codesOf (t : Fmt) (n : Nat) (bs : List Byte) : List Nat :=
  match t with
  | .mxfp4 => ((wordsOf 1 ((n + 1) / 2) bs).flatMap (fun x => [x % 16, x / 16])).take n
  | _ => wordsOf (t.bits / 8) n bs

/-- Pairs of FP4 codes as bytes. -/
def nibbles : List Nat → List Byte
  | [] => []
  | [x] => [BitVec.ofNat 8 (x % 16)]
  | x :: y :: r => BitVec.ofNat 8 (x % 16 + 16 * (y % 16)) :: nibbles r

def bytesOf (t : Fmt) (cs : List Nat) : List Byte :=
  match t with
  | .mxfp4 => nibbles cs
  | _ => cs.flatMap (fun c => leBytes c (t.bits / 8))

/-- Codes of `n` elements at a place. -/
def Body.codes (b : Body) (p : Nat) (l : Loc) (t : Fmt) (n : Nat) : List Nat := codesOf t n (b.readLoc p l (bytesFor t n))

def Body.putCodes (b : Body) (p : Nat) (l : Loc) (t : Fmt) (cs : List Nat) : Body := b.writeLoc p l (bytesOf t cs)

/-! ## Bell-grid tensors (R88 to R92, R438) -/

/-- FP8 entry `k` of a pool. -/
def Body.poolEntry (b : Body) (p : Nat) (pool : Loc) (k : Nat) : List Nat :=
  wordsOf 1 64 (b.readLoc p { pool with off := pool.off + 64 * k } 64)

def Body.bellRecord (b : Body) (p : Nat) (l : Loc) (k : Nat) : BellRecord :=
  BellRecord.ofBytes (wordsOf 1 48 (b.readLoc p { l with off := l.off + 48 * k } 48))

/-- The BF16 values of `n` bell-grid values, and whether a record was malformed (R93). -/
def Body.bellValues (b : Body) (p : Nat) (l pool : Loc) (entries n : Nat) : List Nat × Bool :=
  let rs := (List.range ((n + 63) / 64)).map (b.bellRecord p l)
  ((rs.flatMap (fun r => r.decode entries (b.poolEntry p pool r.poolIndex))).take n, rs.any (·.malformed entries))

/-- Blocks of 64 FP32 values, the last padded with +0 (R88). -/
def blocks64 (vs : List Nat) : List (List Nat) :=
  (blocksOf64 (vs.length + 1) vs).map (fun blk => blk ++ List.replicate (64 - blk.length) 0)

/-- The first pool entry from `k` on that no kept block holds (R139). -/
def freeEntry (kept : List Nat) (entries : Nat) : Nat → Nat → Option Nat
  | 0, _ => none
  | n + 1, k => if entries ≤ k then none else if kept.contains k then freeEntry kept entries n (k + 1) else some k

/-- What an encode leaves: for each block encoded its number, record and pool entry; and BELL_LOSSY. -/
structure BellEncoding where
  blocks : List (Nat × BellBlock)
  lossy : Bool
  deriving DecidableEq, Repr

/-- R89 to R91, R139: blocks encoded in ascending order, each with the next free pool entry. -/
def encodeBlocks (kept : List Nat) (entries : Nat) : Nat → List (Nat × List Nat) → BellEncoding
  | _, [] => ⟨[], false⟩
  | next, (k, vs) :: rest =>
    let blk := bellEncode vs (freeEntry kept entries (entries + 1) next)
    let next' := match blk.pool with
      | some (e, _) => e + 1
      | none => next
    let r := encodeBlocks kept entries next' rest
    ⟨(k, blk) :: r.blocks, blk.lossy || r.lossy⟩

def Body.putBellBlock (b : Body) (p : Nat) (l pool : Loc) (kb : Nat × BellBlock) : Body :=
  let b := b.writeLoc p { l with off := l.off + 48 * kb.1 } (kb.2.record.bytes.map (BitVec.ofNat 8))
  match kb.2.pool with
  | some (e, cs) => b.writeLoc p { pool with off := pool.off + 64 * e } (bytesOf .e4m3 cs)
  | none => b

def Body.putBell (b : Body) (p : Nat) (l pool : Loc) (e : BellEncoding) : Body :=
  e.blocks.foldl (fun b kb => b.putBellBlock p l pool kb) b

/-- A whole-tensor encode (R90). -/
def encodeTensor (entries : Nat) (vs : List Nat) : BellEncoding :=
  encodeBlocks [] entries 0 ((blocks64 vs).zipIdx.map (fun (v, k) => (k, v)))

/-! ## Matrices (R46 to R48, R79, R101) -/

def chop (cols : Nat) : Nat → List Nat → List (List Nat)
  | 0, _ => []
  | n + 1, xs => xs.take cols :: chop cols n (xs.drop cols)

def transposeRows (rows cols : Nat) (xs : List (List Nat)) : List (List Nat) :=
  (List.range cols).map (fun j => (List.range rows).map (fun i => (xs.getD i []).getD j 0))

/-- A matrix as a feeder delivers it: bell-grid values as BF16 (R44), transposed where it is delivered by columns (R101). -/
structure Delivered where
  fmt : Fmt
  rows : Nat
  cols : Nat
  codes : List (List Nat)
  malformed : Bool
  deriving DecidableEq, Repr

def Body.loadMat (b : Body) (p : Nat) (m : Mat) : Delivered :=
  let n := m.rows * m.cols
  let r := match m.fmt, m.pool with
    | .bell, some q => b.bellValues p m.loc q.pool q.entries n
    | .bell, none => b.bellValues p m.loc m.loc 0 n
    | t, _ => (b.codes p m.loc t n, false)
  let xs := chop m.cols m.rows r.1
  let fmt := if m.fmt = .bell then .bf16 else m.fmt
  if m.byCols then ⟨fmt, m.cols, m.rows, transposeRows m.rows m.cols xs, r.2⟩ else ⟨fmt, m.rows, m.cols, xs, r.2⟩

/-- E8M0 codes of a matrix: for each of `outer` output indices, one per span of its `k` contraction indices (R79). -/
def Body.scaleCodes (b : Body) (p : Nat) (m : Mat) (outer k : Nat) : List Nat :=
  match m.scales with
  | some l => wordsOf 1 (outer * ((k + 31) / 32)) (b.readLoc p l (outer * ((k + 31) / 32)))
  | none => []

/-- Scale codes of output index `o`, one per span. -/
def scalesOf (scales : List Nat) (k o : Nat) : List Nat := (scales.drop (o * ((k + 31) / 32))).take ((k + 31) / 32)

/-! ## Places of a vector instruction (R179, R200) -/

/-- Rows and columns of the stationary operand as the banks hold it. -/
def Stationary.shape (s : Stationary) : Nat × Nat :=
  match s with
  | .load m => if m.byCols then (m.cols, m.rows) else (m.rows, m.cols)
  | .left _ rows cols => (rows, cols)

/-- Output indices of a stationary operand in a read direction. -/
def Stationary.outs (s : Stationary) (rd : ReadDir) : Nat :=
  match rd with
  | .row => (Stationary.shape s).2
  | .column => (Stationary.shape s).1

def matRows (m : Mat) : Nat := if m.byCols then m.cols else m.rows

/-- Bytes that a matrix, its scales for each of `outer` output indices, and its pool take: what an operation reads. -/
def Mat.places (m : Mat) (outer : Nat) : List (Loc × Nat) :=
  [(m.loc, bytesFor m.fmt (m.rows * m.cols))]
  ++ (match m.scales with
      | some l => [(l, outer * ((m.rows * m.cols / max 1 outer + 31) / 32))]
      | none => [])
  ++ (match m.pool with
      | some q => [(q.pool, 64 * q.entries)]
      | none => [])

/-- Format that a one-operand instruction writes. -/
def op1Fmt (op : VecOp1) (t dst : Fmt) : Fmt :=
  match op with
  | .exp2 | .log2 | .ln => dst
  | _ => t

/-- Reads of a vector instruction. -/
def VecInstr.reads : VecInstr → List (Loc × Nat)
  | .op2 _ t _ a b n => [(a, bytesFor t n), (b, bytesFor t n)]
  | .op1 _ t _ _ a n => [(a, bytesFor t n)]
  | .fma t _ a b c n => [(a, bytesFor t n), (b, bytesFor t n), (c, bytesFor t n)]
  | .select t _ c a b n => [(c, bytesFor t n), (a, bytesFor t n), (b, bytesFor t n)]
  | .convert t _ _ a n => [(a, bytesFor t n)]
  | .mxQuantise _ _ _ a n => [(a, 4 * n)]
  | .mxDecode t _ a s n => [(a, bytesFor t n), (s, (n + 31) / 32)]
  | .bellEncode _ _ _ a n => [(a, 4 * n)]
  | .bellDecode _ a q n => [(a, bytesFor .bell n), (q.pool, 64 * q.entries)]
  | .rescale _ _ a n => [(a, 4 * n)]
  | .xsumAdd _ t a n => [(a, bytesFor t n)]
  | .xsumAddProducts _ a b n => [(a, 4 * n), (b, 4 * n)]
  | .normRow _ _ _ g be a n => [(g, 4 * n), (be, 4 * n), (a, 4 * n)]
  | .normBack _ _ _ g be a dy n => [(g, 4 * n), (be, 4 * n), (a, 4 * n), (dy, 4 * n)]
  | .softmax _ _ a vis => [(a, 4 * vis.length)]
  | .softmaxBack _ p dy n => [(p, 4 * n), (dy, 4 * n)]
  | .lossRow _ a vis _ => [(a, 4 * vis.length)]
  | .scaleByLoss _ a n => [(a, 4 * n)]
  | .matrix a b _ => Mat.places a (matRows a) ++ Mat.places b (Stationary.outs (.load b) .row)
  | .xsumClear _ | .xsumScaleDown .. | .xsumScaleUp .. | .xsumCombine .. | .xsumConvert .. => []

/-- Writes of a vector instruction. -/
def VecInstr.writes : VecInstr → List (Loc × Nat)
  | .op2 _ t d _ _ n => [(d, bytesFor t n)]
  | .op1 op t dt d _ n => [(d, bytesFor (op1Fmt op t dt) n)]
  | .fma t d _ _ _ n => [(d, bytesFor t n)]
  | .select t d _ _ _ n => [(d, bytesFor t n)]
  | .convert _ t d _ n => [(d, bytesFor t n)]
  | .mxQuantise t d s _ n => [(d, bytesFor t n), (s, (n + 31) / 32)]
  | .mxDecode _ d _ _ n => [(d, 4 * n)]
  | .bellEncode d q _ _ n => [(d, bytesFor .bell n), (q.pool, 64 * q.entries)]
  | .bellDecode d _ _ n => [(d, 2 * n)]
  | .rescale _ d _ n => [(d, n)]
  | .xsumConvert _ t d => [(d, bytesFor t 1)]
  | .normRow _ _ d _ _ _ n => [(d, 4 * n)]
  | .normBack _ _ d _ _ _ _ n => [(d, 4 * n)]
  | .softmax d lse _ vis => (d, 4 * vis.length) :: (match lse with
    | some l => [(l, 4)]
    | none => [])
  | .softmaxBack d _ _ n => [(d, 4 * n)]
  | .scaleByLoss d _ n => [(d, 4 * n)]
  | .matrix a b d => [(d, 4 * (matRows a * Stationary.outs (.load b) .row))]
  | .xsumClear _ | .xsumAdd .. | .xsumAddProducts .. | .xsumScaleDown .. | .xsumScaleUp .. | .xsumCombine .. | .lossRow .. => []

/-- Accumulators that an instruction names, in the order in which it uses them. -/
def VecInstr.accs : VecInstr → List Nat
  | .xsumClear n | .xsumAdd n .. | .xsumAddProducts n .. | .xsumScaleDown n _ | .xsumScaleUp n _ | .xsumConvert n .. => [n]
  | .xsumCombine n o => [o, n]
  | _ => []

/-! ## Accumulators (R179, R182, R188) -/

def Body.alterEngine (b : Body) (i : Nat) (f : Engine → Engine) : Body := { b with engines := alter i f b.engines }

/-- R179: accumulators an engine holds itself. -/
def residentAccs : Nat := 4096

/-- Place of an image in a stage's parking room (R188). -/
def imageLoc (park : Loc) (i : Nat) : Loc := { park with off := park.off + 40 * i }

/-- Image places of a parking room that hold nothing, the first `n` of them. -/
def Engine.freeImages (x : Engine) (park : Loc) (n : Nat) : List Loc :=
  (((List.range (x.parked.length + n)).map (imageLoc park)).filter (fun l => !x.parked.any (fun a => decide (a.loc = l)))).take n

/-- The engine holds the accumulator itself. -/
def Engine.resident (x : Engine) (n : Nat) : Bool := x.accs.any (fun a => decide (a.num = n))

def Engine.image? (x : Engine) (n : Nat) : Option Loc := (x.parked.find? (fun a => decide (a.num = n))).map (·.loc)

/-- R188: places of the images that accumulators are reloaded from, and of those that they are, or will be, parked in. -/
def Body.accPlaces (b : Body) (park : Loc) (e : Nat) (ns : List Nat) : List (Loc × Nat) × List (Loc × Nat) :=
  let x := b.engine e
  let images := (ns.eraseDups.filterMap x.image?).map (fun l => (l, 40))
  let fresh := (ns.eraseDups.filter (fun n => !x.resident n && (x.image? n).isNone)).length - (residentAccs - x.accs.length)
  (images, images ++ (x.freeImages park fresh).map (fun l => (l, 40)))

/-- An accumulator that an engine has: resident, or reloaded from its image. -/
def Body.acc? (b : Body) (p e n : Nat) : Option XSum :=
  let x := b.engine e
  match x.accs.find? (fun a => decide (a.num = n)), x.image? n with
  | some a, _ => some a.x
  | none, some l => some (XSum.ofImage (wordsOf 1 40 (b.readLoc p l 40)))
  | none, none => none

/-- One that nothing has set yet holds zero. -/
def Body.accOf (b : Body) (p e n : Nat) : XSum := (b.acc? p e n).getD XSum.zero

/-- R188: an image is parked in the scratchpad grant, and counted. -/
def Body.parkAcc (b : Body) (p e : Nat) (l : Loc) (x : XSum) : Body :=
  (b.writeLoc p l (x.image.map (BitVec.ofNat 8))).alterEngine e (fun y => { y with parks := wrap 32 (y.parks + 1) })

/-- An accumulator takes a value; beyond the resident ones its image is parked. -/
def Body.putAcc (b : Body) (p : Nat) (park : Loc) (e n : Nat) (x : XSum) : Body :=
  let g := b.engine e
  if g.resident n then b.alterEngine e (fun y => { y with accs := y.accs.map (fun a => if a.num = n then ⟨n, x⟩ else a) })
  else match g.image? n with
    | some l => b.parkAcc p e l x
    | none =>
      if g.accs.length < residentAccs then b.alterEngine e (fun y => { y with accs := y.accs ++ [⟨n, x⟩] })
      else
        let l := (g.freeImages park 1).headD park
        (b.alterEngine e (fun y => { y with parked := y.parked ++ [⟨n, l⟩] })).parkAcc p e l x

/-! ## Epilogue parameters (Table 3.4) -/

/-- A parameter for each of `n` outputs; BF16 is widened exactly. -/
def Body.params (b : Body) (p : Nat) (x : Param) (n : Nat) : List (Option Nat) :=
  match x with
  | .absent => List.replicate n none
  | .one c => List.replicate n (some c)
  | .perOutput l t => (b.codes p l t n).map (fun c => some (if t = .bf16 then (convert .bf16 .fp32 c).code else c))

/-- One residual element per result, as FP32. -/
def Body.residuals (b : Body) (p : Nat) (x : Option (Loc × Fmt)) (n : Nat) : List (Option Nat) :=
  match x with
  | none => List.replicate n none
  | some (l, t) => (b.codes p l t n).map (fun c => some (if t = .fp32 then c else (convert t .fp32 c).code))

def rescaleOf (rs : List Rescale) (j : Nat) : Option Rescale :=
  match rs with
  | [] => none
  | [r] => some r
  | _ => rs[j]?

end Sys2Proof.Machine
end

