-- ==== Sys2Proof/Machine/Adds.lean ====
section
/-!
DEFINITION. Memory-side adders (09, R213 to R217): the add itself, ORDERED windows, and their timeout.
-/

namespace Sys2Proof.Machine

open Arith

/-! ## One add (R213) -/

/-- The stored code after an incoming code is added; integers wrap, the incoming format is widened exactly. -/
def addCode (t inFmt : Fmt) (old v : Nat) : Nat :=
  match t with
  | .int32 => (old + v) % 2 ^ 32
  | .int64 => (old + v) % 2 ^ 64
  | _ => (t.encode ((t.decode old).add (inFmt.decode v))).code

/-- Bytes an add touches. -/
def addBytes (a : AddReq) : Nat := a.values.length * (a.fmt.bits / 8)

/-- The add lies whole in mapped infield or outfield. -/
def Store.addable (s : Store) (addr n : Nat) : Bool :=
  match s.region addr, s.region (addr + (n - 1)) with
  | .infield, .infield => true
  | .outfield, .outfield => true
  | _, _ => false

/-- An operation in flight, its own or one that waits here, will complete FAILED with a kind. -/
def Body.markToken (b : Body) (p : Nat) (tok : Token) (kind : Nat) : Body :=
  b.alterPart p (fun x => { x with flights := x.flights.map (fun fl =>
    if fl.token == tok && fl.failed.isNone then { fl with failed := some kind } else fl) })

/-- The values of an add enter memory. A codeword that was poisoned stays poisoned, and the operation that adds to it has consumed
poisoned data (R200). The stored values are read first, with the outcomes of Table 9.1 (R199). -/
def Body.applyAdd (b : Body) (a : AddReq) : Body :=
  let n := (addBytes a)
  let b := b.readErrors (errorsIn a.addr n a.errs)
  let bad := (cwsOf a.addr n).filter b.store.poisoned
  let old := codesOf a.fmt a.values.length (b.store.bytes a.addr n)
  let new := List.zipWith (addCode a.fmt a.inFmt) old a.values
  let b := { b with store := b.store.writeBytes a.addr (bytesOf a.fmt new) }
  let b := bad.foldl (fun b c => { b with store := b.store.poisonCw (b.sourceAt (c * 64)) c }) b
  if bad.isEmpty then b else b.markToken a.part a.token kMemUncorrectable

/-! ## ORDERED windows (R214 to R216) -/

/-- R214: adds in ascending source index, those of one source in their order of arrival. -/
def insertBySource (a : AddReq) : List AddReq → List AddReq
  | [] => [a]
  | x :: xs => if a.source < x.source then a :: x :: xs else x :: insertBySource a xs

def bySource (as_ : List AddReq) : List AddReq := as_.foldl (fun acc a => insertBySource a acc) []

/-- Sources that have delivered their last add. -/
def AddWindow.delivered (w : AddWindow) : Nat := (((w.adds.filter (·.last)).map (·.source)).eraseDups).length

/-- Counter of the controller of an address. -/
def Store.alterCtl (s : Store) (src : MemSource) (f : MemCtl → MemCtl) : Store :=
  match src with
  | .infield k => { s with stackCtl := alter k f s.stackCtl }
  | .outfield h => { s with outCtl := alter h f s.outCtl }
  | .scratch _ => s

/-- A window whose every source has delivered is applied and counted. -/
def Body.applyWindow (b : Body) (w : AddWindow) : Body :=
  let src := b.sourceAt (w.index * granuleBytes)
  let b := (bySource w.adds).foldl Body.applyAdd b
  { b with store := { b.store.alterCtl src (fun m => { m with ordered := wrap 32 (m.ordered + 1) }) with
      windows := b.store.windows.filter (fun x => decide (x.index ≠ w.index)) } }

/-- An ORDERED add joins its window. -/
def Body.takeAdd (b : Body) (a : AddReq) : Body :=
  let i := a.addr / granuleBytes
  let w : AddWindow := match b.store.windows.find? (fun x => decide (x.index = i)) with
    | some x => { x with adds := x.adds ++ [a] }
    | none => ⟨i, a.expected, b.clock.beat, [a]⟩
  let b := { b with store := { b.store with windows := b.store.windows.filter (fun x => decide (x.index ≠ i)) ++ [w] } }
  if w.expected ≤ w.delivered then b.applyWindow w else b

/-- R215: the ORDERED buffer of a controller; it holds the values of the adds that wait (log 97). -/
def orderedRoom (src : MemSource) : Nat :=
  match src with
  | .infield _ => 4 * 2 ^ 20
  | .outfield _ => 2 ^ 20
  | .scratch _ => 0

/-- Bytes of a controller's buffer in use. -/
def Body.buffered (b : Body) (src : MemSource) : Nat :=
  ((b.store.windows.filter (fun w => decide (b.sourceAt (w.index * granuleBytes) = src))).map (fun w =>
    (w.adds.map addBytes).foldl (· + ·) 0)).foldl (· + ·) 0

/-- R215: an add joins its window, or is held back while the buffer is full; none passes one of its controller that is held. -/
def Body.offerAdd (b : Body) (a : AddReq) : Body :=
  let src := b.sourceAt a.addr
  if b.store.heldAdds.any (fun x => decide (b.sourceAt x.addr = src)) || decide (orderedRoom src < b.buffered src + addBytes a) then
    { b with store := { b.store with heldAdds := b.store.heldAdds ++ [a] } }
  else b.takeAdd a

/-- Held adds are offered again, in their order, as long as some are taken. -/
def drainAdds : Nat → Body → Body
  | 0, b => b
  | n + 1, b =>
    let b' := b.store.heldAdds.foldl Body.offerAdd { b with store := { b.store with heldAdds := [] } }
    if b'.store.heldAdds.length = b.store.heldAdds.length then b' else drainAdds n b'

def Body.drain (b : Body) : Body := drainAdds b.store.heldAdds.length b

def Body.joinWindow (b : Body) (a : AddReq) : Body := (b.offerAdd a).drain

/-- R17: an add that runs in ARRIVAL mode marks the step its partition is in as not replay-verifiable. -/
def Body.markArrival (b : Body) (p : Nat) : Body :=
  b.alterPart p (fun x => match x.fix with
    | some _ => { x with pass := { x.pass with flags := x.pass.flags ||| flagNotVerifiable } }
    | none => x)

/-- R215, R216: work of a partition leaves the adders: windows that a condition names, with what waits for them, go without effect on
their targets. -/
def Body.dropAdds (b : Body) (c : AddReq → Bool) : Body :=
  ({ b with store := { b.store with
    windows := b.store.windows.filter (fun w => !w.adds.any c),
    heldAdds := b.store.heldAdds.filter (fun a => !c a) } }).drain

/-- R213 to R217: an add reaches its controller. Scratchpad has no adders; an unmapped address is reported (R210). -/
def Body.memoryAdd (b : Body) (a : AddReq) : Body :=
  if b.store.addable a.addr (addBytes a) then (if a.ordered then b.joinWindow a else (b.applyAdd a).markArrival a.part)
  else match b.store.region a.addr with
    | .unmapped =>
      let src := b.sourceAt a.addr
      b.raiseAt (srcType src) (srcInst src) .contained kUnmapped (a.addr / 64)
    | _ => b

def execMemorySideAdd (a : AddReq) (s : State) : Host.Outcome State Fault Refusal :=
  onBody (addFormats a.fmt a.inFmt) s (fun b => b.memoryAdd a)

end Sys2Proof.Machine
end

