-- ==== Sys2Proof/Machine/Crc.lean ====
section
/-!
DEFINITION. The check codes that the module computes: CRC-32 (R106, R355), CRC-64 (R355, R371; log 26) and CRC-16 (R375).
-/

namespace Sys2Proof.Arith

/-- One bit of the reflected CRC-32 of IEEE 802.3. -/
def crc32Bit (c : Word32) : Word32 := if c.getLsbD 0 then (c >>> 1) ^^^ 0xEDB88320#32 else c >>> 1

def crc32Byte (c : Word32) (x : Byte) : Word32 := (List.range 8).foldl (fun c _ => crc32Bit c) (c ^^^ x.setWidth 32)

/-- CRC-32: register of ones at the start, complemented at the end. -/
def crc32 (bs : List Byte) : Nat := (~~~(bs.foldl crc32Byte (BitVec.allOnes 32))).toNat

/-- One bit of CRC-64 with the ECMA-182 polynomial, most significant bit first. -/
def crc64Bit (c : Word64) : Word64 := if c.getLsbD 63 then (c <<< 1) ^^^ 0x42F0E1EBA9EA3693#64 else c <<< 1

def crc64Byte (c : Word64) (x : Byte) : Word64 := (List.range 8).foldl (fun c _ => crc64Bit c) (c ^^^ (x.setWidth 64 <<< 56))

/-- CRC-64: register of zeros at the start, not complemented (log 26). -/
def crc64 (bs : List Byte) : Nat := (bs.foldl crc64Byte 0#64).toNat

/-- One bit of CRC-16 with polynomial 0x1021, most significant bit first. -/
def crc16Bit (c : BitVec 16) : BitVec 16 := if c.getLsbD 15 then (c <<< 1) ^^^ 0x1021#16 else c <<< 1

def crc16Byte (c : BitVec 16) (x : Byte) : BitVec 16 := (List.range 8).foldl (fun c _ => crc16Bit c) (c ^^^ (x.setWidth 16 <<< 8))

/-- CRC-16 with initial value 0xFFFF (R375). -/
def crc16 (bs : List Byte) : Nat := (bs.foldl crc16Byte (BitVec.allOnes 16)).toNat

end Sys2Proof.Arith
end

