-- ==== Sys2Proof/Machine/Tensors.lean ====
section
/-!
DEFINITION. Tensor records: masks (R104, R105), and where a tensor's weights, carry, moments and factors lie (06, R122, R139; 15, R348).
-/

namespace Sys2Proof.Machine

open Arith

/-! ## Tensors and masks (R104, R105) -/

def TensorRec.count (t : TensorRec) : Nat := t.rows * t.cols

def FixtureImage.group? (f : FixtureImage) (id : Nat) : Option GroupRec := f.groups.find? (fun g => g.id = id)

/-- Element `i` is trained (unmasked). -/
def trainedAt (t : TensorRec) (i : Nat) : Bool :=
  let r := i / t.cols
  let c := i % t.cols
  match t.maskMode with
  | 0 => true
  | 1 => t.mask.getD r false
  | _ => t.mask.getD (r / 16 * ((t.cols + 15) / 16) + c / 16) false

def trainedList (t : TensorRec) : List Bool := (List.range (t.rows * t.cols)).map (trainedAt t)

def trainedCount (t : TensorRec) : Nat := ((trainedList t).filter id).length

/-- Packed values spread over the elements that the mask keeps; a masked element takes 0. -/
def unpack : List Bool → List Nat → List Nat
  | [], _ => []
  | true :: ms, x :: xs => x :: unpack ms xs
  | true :: ms, [] => 0 :: unpack ms []
  | false :: ms, xs => 0 :: unpack ms xs

def keepMasked {α : Type} : List Bool → List α → List α
  | true :: ms, x :: xs => x :: keepMasked ms xs
  | false :: ms, _ :: xs => keepMasked ms xs
  | _, _ => []

/-! ## Places of a layer's state (R122, R139) -/

/-- Table 6.4: the rule keeps a second moment. -/
def hasV (g : GroupRec) : Bool :=
  decide (g.rule = 2) || decide (g.rule = 3) || decide (g.rule = 5)
    || (decide (g.rule = 4) && (decide (g.fallback = 2) || decide (g.fallback = 3)))

def momentFmt (g : GroupRec) : Fmt :=
  match gMoment g.flags with
  | 0 => .bell
  | 1 => .bf16
  | _ => .fp32

/-- A moment's bytes: records and the whole pool region in bell-grid format. -/
def momentSpans (g : GroupRec) (l : Loc) (plan : BellPlan) (n : Nat) : List (Loc × Nat) :=
  match momentFmt g with
  | .bell => [(l, bytesFor .bell n), (plan.pool, plan.regionBytes)]
  | t => [(l, bytesFor t n)]

/-- CLIP of ±0 turns clipping off (Table 6.1). -/
def clipOff (g : GroupRec) : Bool := decide (g.clip % 2 ^ 31 = 0)

def hasCarry (g : GroupRec) : Bool := decide (gCarry g.flags < 2)

/-- The tensor is a matrix under KRON (R132, R142). -/
def isKron (g : GroupRec) (t : TensorRec) : Bool := decide (g.rule = 5) && decide (1 < t.rows) && decide (1 < t.cols)

/-- Weights, carry and moments of a tensor: its part of a LAYER section (Table 15.4). -/
def tensorSpans (g : GroupRec) (t : TensorRec) : List (Loc × Nat) :=
  let n := t.rows * t.cols
  [(t.w, 2 * n)] ++ (if hasCarry g then [(t.c, n)] else []) ++ momentSpans g t.m t.mBell n
    ++ (if hasV g then momentSpans g t.v t.vBell n else [])

/-- KRON factors and roots of a tensor: its part of a ROOTS section. -/
def rootSpans (g : GroupRec) (t : TensorRec) : List (Loc × Nat) :=
  if isKron g t then
    (if t.rows ≤ g.kronDimMax then [(t.kL, 4 * t.rows * t.rows), (t.kQL, 4 * t.rows * t.rows)] else [])
    ++ (if t.cols ≤ g.kronDimMax then [(t.kR, 4 * t.cols * t.cols), (t.kQR, 4 * t.cols * t.cols)] else [])
  else []

/-- Owned tensors of a layer with their groups, in tensor-record order. -/
def layerTensors (f : FixtureImage) (layer : Nat) : List (GroupRec × TensorRec) :=
  (f.tensors.filter (fun t => t.owned && decide (t.layer = layer))).filterMap (fun t =>
    (FixtureImage.group? f t.group).map (fun g => (g, t)))

def trainedTensors (f : FixtureImage) (layer : Nat) : List (GroupRec × TensorRec) :=
  (layerTensors f layer).filter (fun x => !gFrozen x.1.flags)

def layerSpans (f : FixtureImage) (layer : Nat) : List (Loc × Nat) :=
  (layerTensors f layer).flatMap (fun x => tensorSpans x.1 x.2)

def layerRoots (f : FixtureImage) (layer : Nat) : List (Loc × Nat) :=
  (layerTensors f layer).flatMap (fun x => rootSpans x.1 x.2)

/-! ## A layer's journalled state (R122) -/

def spanBytes (ss : List (Loc × Nat)) : Nat := (ss.map (·.2)).foldl (· + ·) 0

/-- What of a layer the journal copies from memory. -/
def journalSpans (f : FixtureImage) (layer : Nat) : List (Loc × Nat) :=
  (trainedTensors f layer).flatMap (fun x => tensorSpans x.1 x.2 ++ rootSpans x.1 x.2)

/-- Groups of the layer's trained tensors, rising. -/
def layerGroups (f : FixtureImage) (layer : Nat) : List Nat := unionRising ((trainedTensors f layer).map (·.1.id)) []

/-- KRON matrices of the layer: the tensors whose root validity counts. -/
def kronTensors (f : FixtureImage) (layer : Nat) : List Nat := ((trainedTensors f layer).filter (fun x => isKron x.1 x.2)).map (·.2.id)

/-- State of a window layer at its stored size: P1 and P2 are 8 bytes each, a root validity is 1 byte (log 84). -/
def layerBytes (f : FixtureImage) (layer : Nat) : Nat :=
  spanBytes (journalSpans f layer) + 16 * (layerGroups f layer).length + (kronTensors f layer).length

/-- R122: the layers of the early-update window: the first in backward order, which takes the layers in descending number. -/
def FixtureImage.early (f : FixtureImage) : List Nat := ((unionRising (f.tensors.map (·.layer)) []).reverse).take f.earlyWindow

/-- Layers in which the module owns a tensor, rising. -/
def ownedLayers (f : FixtureImage) : List Nat := unionRising ((f.tensors.filter (·.owned)).map (·.layer)) []

end Sys2Proof.Machine
end

