-- ==== Sys2Proof/Machine/Format.lean ====
section
/-!
DEFINITION. What makes a fixture image FORMAT_BAD or RULE_UNKNOWN: the header and section table (02, R19 to R21, R24), and the rules of
chapters 03 to 08 that refuse an image (R45, R54, R78, R95, R104, R122, R129, R130, R134, R135, R138, R154, R165, R175, R184, R188,
R194, R434, R438).
-/

namespace Sys2Proof.Machine

open Arith

/-! ## Header and section table (R19, R20, Table 2.1, Table 2.2) -/

def fixtureMagic : Word64 := 0x465854524D564B31

def mandatorySections : List Nat := [0x01, 0x02, 0x03, 0x04, 0x05, 0x06, 0x09, 0xFF]
def optionalSections : List Nat := [0x07, 0x08]

def imageHeaderBad (len : Nat) (h : FixtureHeader) : Bool :=
  decide (h.magic ≠ fixtureMagic) || decide (h.format ≠ 3) || decide (h.length ≠ len) || decide (2 ^ 32 < h.length)
    || !h.rsvdZero || !decide (1 ≤ h.pitches ∧ h.pitches ≤ 4) || !decide (8 ≤ h.sections ∧ h.sections ≤ 10)

def countType (ss : List Section) (t : Nat) : Nat := (ss.filter (fun s => decide (s.type = t))).length

/-- Each mandatory section once, each optional one at most once, none else; SIGNATURE is the last and ends at LENGTH. -/
def sectionsBad (h : FixtureHeader) (ss : List Section) : Bool :=
  decide (ss.length ≠ h.sections) || mandatorySections.any (fun t => decide (countType ss t ≠ 1))
    || optionalSections.any (fun t => decide (1 < countType ss t))
    || ss.any (fun s => !(mandatorySections ++ optionalSections).contains s.type || !s.rsvdZero
        || decide (s.offset < 256 + 16 * ss.length) || decide (h.length < s.offset + s.length))
    || (match ss.getLast? with
        | some s => decide (s.type ≠ 0xFF) || decide (s.offset + s.length ≠ h.length)
        | none => true)

/-! ## Streams (R21, R24) -/

def allOps (f : FixtureImage) : List StreamOp := f.fwd ++ f.bwd ++ f.upd

/-- The bench overflow region of a training fixture (R21), at most 4 waits of an operation (R24), a window for each stream (R28). -/
def streamsBad (f : FixtureImage) : Bool :=
  decide (f.demands.windows.length ≠ 3) || (!f.bwd.isEmpty && f.plan.benchOverflow.isNone) || (allOps f).any (fun o => decide (4 < o.waits.length))

/-! ## Stages (R44, R45, R54, R78, R95, R184, R188, R194) -/

/-- Rows of Table 3.2 for MAC, with the MX formats apart; a bell-grid operand runs as BF16. -/
def macRow (t : Fmt) : Nat :=
  match t with
  | .fp32 => 1
  | .bf16 | .binary16 | .bell => 2
  | .e4m3 | .e5m2 => 3
  | .mxfp8e4m3 | .mxfp8e5m2 | .mxfp6e2m3 | .mxfp6e3m2 => 4
  | .int8 => 5
  | .mxfp4 => 6
  | _ => 0

def modeRow (m : CellMode) (t : Fmt) : Nat :=
  let r := macRow t
  match m with
  | .mac => r
  | .absdiff | .sqdiff => if r = 2 ∨ r = 3 ∨ r = 5 then r else 0
  | .maxIdx | .minIdx => if r = 2 ∨ r = 3 then r else 0

/-- A stage placed on a pitch rectangle with a cell mode of its own. -/
def onPitch (st : Stage) : Bool :=
  match st.kind with
  | .matmul | .conv | .distance | .compare => true
  | _ => false

/-- Every stage with its number. -/
def stagesOf (f : FixtureImage) : List (Nat × Stage) := f.stages.zipIdx.map (fun (st, i) => (i, st))

/-- R44, Table 2.3: the cell modes of a stage's kind: a product's for MATMUL and CONV, the distance and the compare modes for their
kinds (log 89). -/
def kindModeBad (st : Stage) : Bool :=
  match st.kind, st.mode with
  | .matmul, .mac | .conv, .mac | .distance, .absdiff | .distance, .sqdiff | .compare, .maxIdx | .compare, .minIdx => false
  | .matmul, _ | .conv, _ | .distance, _ | .compare, _ => true
  | _, _ => false

def pairingBad (st : Stage) : Bool := kindModeBad st || onPitch st && (decide (modeRow st.mode st.fmtA = 0) || decide (modeRow st.mode st.fmtA ≠ modeRow st.mode st.fmtB))

/-- R95: with INT32 span results, bias and clamp alone, and only towards INT8. -/
def intEpilogueBad (st : Stage) : Bool :=
  let e := st.epilogue
  let clampOrNone := match e.act with
    | .none | .clamp .. => true
    | _ => false
  onPitch st && decide (st.fmtA = .int8) &&
    (decide (e.scale ≠ .absent) || e.residual.isSome || !clampOrNone
      || (e.rescale.isEmpty && (decide (e.bias ≠ .absent) || decide (e.act ≠ .none))))

/-- A format of Table 3.4's output conversion. -/
def outConversion (t : Fmt) : Bool :=
  match t with
  | .fp32 | .bf16 | .binary16 | .e4m3 | .e5m2 => true
  | _ => false

/-- A parameter held at a place has a format of Table 3.4. -/
def paramBad (x : Param) (ok : List Fmt) : Bool :=
  match x with
  | .perOutput _ t => !ok.contains t
  | _ => false

/-- R94: M is an INT32, s lies in 0 to 63, Z is an INT8. -/
def rescaleBad (r : Rescale) : Bool :=
  !decide (-(2 ^ 31) ≤ r.mult ∧ r.mult < 2 ^ 31) || decide (63 < r.shift) || !decide (-128 ≤ r.zero ∧ r.zero ≤ 127)

/-- R59, R94, R95, R194, Table 3.4: a step, format or parameter that the drain row does not have. DESIGN CHOICE: a residual operand is FP32, BF16
or binary16; Tables 3.3 and 3.4 give its lanes and list no formats (log 89). -/
def epilogueBad (st : Stage) : Bool :=
  let e := st.epilogue
  let int := decide (st.fmtA = .int8)
  onPitch st && (e.foreign || e.rescale.any rescaleBad || paramBad e.scale [.fp32] || paramBad e.bias (if int then [.int32] else [.fp32, .bf16])
    || (match e.residual with
        | some (_, t) => !([Fmt.fp32, .bf16, .binary16].contains t)
        | none => false)
    || (!int && (!outConversion e.out || !e.rescale.isEmpty)))

/-- R58: reuse chains at most 16 cell rows and takes dilation 1 to 4; with a stride above 1 the stage runs with reuse off. -/
def diagonalBad (st : Stage) : Bool :=
  match st.diagonal with
  | some d => decide (16 < d.chain) || (decide (d.stride ≤ 1) && !decide (1 ≤ d.dilation ∧ d.dilation ≤ 4))
  | none => false

def stageBad (st : Stage) : Bool :=
  epilogueBad st || diagonalBad st || pairingBad st || intEpilogueBad st || st.badFormat || (decide (st.kind = .compare) && !decide (1 ≤ st.topk ∧ st.topk ≤ 8))
    || decide (2 ^ 32 ≤ st.maxTerms) || decide (st.parkBytes < 40 * (st.accumulators - 4096))

/-- Read directions that an operation of a stage uses on its rectangle: its own; a backward sweep forms dP by COLUMN read (R163), ORTHO
reads the other orientation so (R140); the other borrowed products run ROW read (log 89). -/
def opReadDirs (f : FixtureImage) (op : StreamOp) : List ReadDir :=
  match op.payload with
  | .product rd .. | .conv _ rd .. => [rd]
  | .attention .sweep2 .. => [.row, .column]
  | .attention .. => [.row]
  | .update layer => if (layerTensors f layer).any (fun x => decide (x.1.rule = 4)) then [.row, .column] else [.row]
  | .vector .. => [.row]
  | _ => []

/-- A rectangle of a stage and the read directions used on it. -/
structure Placement where
  rect : Rect
  reads : List ReadDir
  deriving DecidableEq, Repr

/-- Every rectangle of the fixture. -/
def placements (f : FixtureImage) : List Placement :=
  (stagesOf f).flatMap (fun (i, st) =>
    let ds := ((allOps f).filter (fun o => decide (o.stage = i))).flatMap (opReadDirs f)
    let own := match st.kind with
      | .matmul | .conv | .distance | .compare => [st.read]
      | _ => []
    st.rects.map (fun r => ⟨r, own ++ ds⟩))

def meetRows (a b : Rect) : Bool := decide (a.row < b.row + b.h ∧ b.row < a.row + a.h)
def meetCols (a b : Rect) : Bool := decide (a.col < b.col + b.w ∧ b.col < a.col + a.w)

/-- R54 for two placements. -/
def clash (x y : Placement) : Bool :=
  decide (x.rect.pitch = y.rect.pitch) && ((meetRows x.rect y.rect && meetCols x.rect y.rect)
    || (meetRows x.rect y.rect && x.reads.contains .row && y.reads.contains .row)
    || (meetCols x.rect y.rect && x.reads.contains .column && y.reads.contains .column))

def clashes : List Placement → Bool
  | [] => false
  | x :: xs => xs.any (clash x) || clashes xs

def columnBad (x : Placement) : Bool := x.reads.contains .column && !decide (x.rect.col % 2 = 0 ∧ x.rect.w % 2 = 0)

/-- R54: every pitch asked for holds 1 to 8 stages; overlaps and read directions. -/
def placementBad (f : FixtureImage) : Bool :=
  let ps := placements f
  let held := fun (i : Nat) => (ps.filter (fun x => decide (x.rect.pitch = i))).length
  (List.range 4).any (fun i => decide (8 < held i)) || (List.range f.header.pitches).any (fun i => decide (held i = 0))
    || clashes ps || ps.any columnBad

/-! ## Groups, tensors, buckets (Tables 6.1 to 6.3, 5.2) -/

/-- A non-negative FP32 code between two; −0 is 0. -/
def codeIn (lo hi code : Nat) : Bool := decide (lo ≤ code ∧ code ≤ hi) || (decide (lo = 0) && decide (code = 0x80000000))

def fpOne : Nat := 0x3F800000
/-- The largest FP32 value not above 0.999 999. -/
def fpNearOne : Nat := 0x3F7FFFEF

def groupBad (i : Nat) (g : GroupRec) : Bool :=
  decide (g.id ≠ i) || !decide (1 ≤ g.fallback ∧ g.fallback ≤ 3) || decide (g.flags.extractLsb' 9 7 ≠ 0)
    || decide (gCarry g.flags = 3) || decide (gClip g.flags = 3) || decide (gMoment g.flags = 3)
    || !codeIn 0 fpOne g.lrPeak || !codeIn 0 (if g.lrPeak = 0x80000000 then 0 else g.lrPeak) g.lrEnd
    || decide (2 ^ 32 ≤ g.warmup) || decide (2 ^ 32 ≤ g.decaySteps) || !codeIn 0 fpOne g.weightDecay
    || !codeIn 0 fpNearOne g.beta1 || !codeIn 0 fpNearOne g.beta2 || !codeIn 0x00800000 fpOne g.eps || !codeIn 0 0x5F800000 g.clip
    || !codeIn 0x35800000 0x49800000 g.matrixScale || !codeIn 0 fpNearOne g.kronBeta || !codeIn 0 fpOne g.kronDamping
    || !decide (1 ≤ g.kronInterval ∧ g.kronInterval ≤ 10000)
    || !decide (128 ≤ g.kronDimMax ∧ g.kronDimMax ≤ 8192 ∧ g.kronDimMax % 32 = 0) || !g.rsvdZero

def groupsBad (f : FixtureImage) : Bool :=
  !decide (1 ≤ f.groups.length ∧ f.groups.length ≤ 4096) || f.groups.zipIdx.any (fun (g, i) => groupBad i g)

/-- The mask keeps nothing. -/
def maskZero (t : TensorRec) : Bool := decide (t.maskMode ≠ 0) && t.mask.all (!·)

def bellPlanBad (n : Nat) (q : BellPlan) : Bool := decide ((n + 63) / 64 < q.entries) || decide (q.regionBytes < 64 * q.entries)

/-- R438: the plan of each moment that is kept in bell-grid format. -/
def tensorBellBad (g : GroupRec) (t : TensorRec) : Bool :=
  t.owned && decide (momentFmt g = .bell) && (bellPlanBad (t.rows * t.cols) t.mBell || (hasV g && bellPlanBad (t.rows * t.cols) t.vBell))

/-- A tensor record: its mask mode, its group, and the bucket its gradient comes in: exactly one for a trained tensor, none for one whose
mask is all zero, at most one for a frozen one (R150, R434). -/
def tensorBad (f : FixtureImage) (i : Nat) (t : TensorRec) : Bool :=
  let inBuckets := (f.buckets.filter (fun k => decide (k.first ≤ i ∧ i < k.first + k.count))).length
  decide (3 ≤ t.maskMode) || (match FixtureImage.group? f t.group with
    | some g => tensorBellBad g t || (if maskZero t then decide (inBuckets ≠ 0) else if gFrozen g.flags then decide (1 < inBuckets)
        else decide (inBuckets ≠ 1))
    | none => true)

/-- R112: a bucket's elements and its shift. -/
def bucketBad (k : BucketRec) : Bool :=
  !decide (524288 ≤ k.elements ∧ k.elements ≤ 33554432) || !decide (-24 ≤ k.shift ∧ k.shift ≤ 24)

/-! ## The early window (R122, R138) -/

/-- A trained tensor of the layer belongs to a group that is clipped as a group. -/
def groupClipped (f : FixtureImage) (layer : Nat) : Bool :=
  f.tensors.any (fun t => decide (t.layer = layer) && (match FixtureImage.group? f t.group with
    | some g => !gFrozen g.flags && decide (gClip g.flags = 2) && !clipOff g
    | none => false))

def earlyBad (f : FixtureImage) : Bool :=
  decide (64 < f.earlyWindow) || (FixtureImage.early f).any (groupClipped f)
    || decide (f.plan.journalBytes < (((FixtureImage.early f).map (layerBytes f)).foldl (· + ·) 0))

/-- R135: an UPDATE of a layer with an ORTHO or KRON group stands on an engine and a rectangle. -/
def matrixLayer (f : FixtureImage) (layer : Nat) : Bool :=
  (layerTensors f layer).any (fun x => decide (x.1.rule = 4) || decide (x.1.rule = 5))

/-- The rectangle lies on a pitch that the fixture asks for. -/
def rectPlaced (f : FixtureImage) (r : Rect) : Bool :=
  decide (r.pitch < f.header.pitches) && decide (1 ≤ r.h ∧ r.row + r.h ≤ 32) && decide (1 ≤ r.w ∧ r.col + r.w ≤ 32)

def updatePlaceBad (f : FixtureImage) : Bool :=
  f.upd.any (fun o => match o.payload with
    | .update layer => matrixLayer f layer && (match f.stages[o.stage]? with
      | some st => !st.engine.any (fun e => decide (e < f.header.pitches)) || st.rects.isEmpty || !st.rects.all (rectPlaced f)
      | none => true)
    | _ => false)

/-! ## Operations (R44, R45, R58, R74, R96, R102, R181, R189, R438) -/

def sameRow (st : Stage) (t u : Fmt) : Bool := decide (modeRow st.mode t ≠ 0) && decide (modeRow st.mode t = modeRow st.mode u)

/-- A matrix of a bell-grid format has a pool that R438 allows; one of an MX format, and no other, has scales (R79). -/
def matBad (m : Mat) : Bool :=
  (m.fmt.isMx != m.scales.isSome) || decide (m.fmt = .bell) && (match m.pool with
    | some q => bellPlanBad (m.rows * m.cols) q
    | none => true)

/-- Both operands of a product come from the row of Table 3.2 that the stage runs. -/
def pairBad (st : Stage) (a b : Fmt) : Bool := !(sameRow st a st.fmtA && sameRow st a b)

/-- Left contents fit the one load that the rectangle holds (R102). -/
def leftBad (st : Stage) (t : Fmt) (rows cols : Nat) : Bool :=
  let r := st.rects.headD ⟨4, 0, 0, 0, 0⟩
  let k := match t.bits with
    | 4 => 128
    | 8 => 64
    | _ => 32
  decide (16 * r.h * k < rows) || decide (16 * r.w < cols) || decide (t = .bell)

def isFloat32or64 (t : Fmt) : Bool := decide (t = .fp32) || decide (t = .fp64)

/-- R74, R77, R181, R183, R185, R187, R189: an instruction of Table 8.2 outside its formats, an INT8 that no integer rescaling makes, a scaling
count or EPS outside its range (log 89). -/
def vecBad (i : VecInstr) : Bool :=
  let plain := fun (t : Fmt) => !t.isMx && decide (t ≠ .bell) && decide (t ≠ .int64)
  match i with
  | .op2 _ t .. | .fma t .. | .select t .. => !isFloat32or64 t
  | .op1 op t dt .. =>
    match op with
    | .exp2 | .log2 | .ln => decide (t ≠ .fp32) || !(decide (dt = .fp32) || decide (dt = .bf16))
    | .sqrt | .rsqrt | .neg => !isFloat32or64 t
    | _ => decide (t ≠ .fp32)
  | .convert s t .. => !plain s || !plain t || decide (t = .int8)
  | .mxQuantise t .. | .mxDecode t .. => !t.isMx
  | .bellEncode _ q _ _ n | .bellDecode _ _ q n => bellPlanBad n q
  | .rescale r .. => rescaleBad r
  | .xsumAdd _ t .. => !(isFloat32or64 t || decide (t = .bf16) || decide (t = .binary16))
  | .xsumConvert _ t _ => !isFloat32or64 t
  | .xsumScaleDown _ s => decide (288 < s)
  | .xsumScaleUp _ s => !decide (1 ≤ s ∧ s ≤ 32)
  | .normRow _ eps .. | .normBack _ eps .. => !codeIn 0 fpOne eps
  | .matrix a b _ => matBad a || matBad b || decide (modeRow .mac a.fmt = 0) || decide (modeRow .mac a.fmt ≠ modeRow .mac b.fmt)
  | _ => false

/-- R179: vector registers end at 1 MiB (64 of 4 096 lanes of 4 bytes). -/
def vregBad (ps : List (Loc × Nat)) : Bool :=
  ps.any (fun (l, n) => match l.space with
    | .vreg _ => decide (2 ^ 20 < l.off + n)
    | _ => false)

/-- Accumulators that an operation names (R188). -/
def opAccs (o : StreamOp) : List Nat :=
  match o.payload with
  | .vector subs => subs.flatten.flatMap VecInstr.accs
  | .collective c => if c.kind = .xsum then [c.acc] else []
  | _ => []

/-- R188: a stage has room for the images that its accumulators may need beyond the 4 096 that its engine holds for all its stages. -/
def parkBad (f : FixtureImage) : Bool :=
  let of := fun (c : Stage → Bool) => unionRising ((allOps f).flatMap (fun o => if (f.stages[o.stage]?).any c then opAccs o else [])) []
  f.stages.zipIdx.any (fun (st, i) => match st.engine with
    | some e =>
      let own := unionRising ((allOps f).flatMap (fun o => if o.stage = i then opAccs o else [])) []
      decide (st.parkBytes < 40 * min own.length ((of (fun x => decide (x.engine = some e))).length - 4096))
    | none => false)

/-- DESIGN CHOICE: a bell-grid operand that a ROW read streams is admitted and expanded like any other; R44 and R92 name the north feeder and the
vector engines as those that expand it, and say nothing of refusing one at the west feeder (log 89). -/
def opBad (f : FixtureImage) (o : StreamOp) : Bool :=
  match f.stages[o.stage]? with
  | none => decide (o.payload ≠ .idle)
  | some st =>
    match o.payload with
    | .product _ a (.load b) _ _ => !onPitch st || decide (st.kind = .conv) || matBad a || matBad b || pairBad st a.fmt b.fmt
    | .product _ a (.left t rows cols) _ _ =>
      !onPitch st || decide (st.kind = .conv) || matBad a || pairBad st a.fmt t || leftBad st t rows cols
    | .conv c _ a b _ _ => decide (st.kind ≠ .conv) || matBad a || matBad b || pairBad st a.fmt b.fmt
        || st.diagonal.any (fun d => decide (d.stride ≠ c.stride) || decide (d.dilation ≠ c.dilation))
    | .vector subs => subs.flatten.any (fun i => vecBad i || vregBad (VecInstr.reads i ++ VecInstr.writes i))
    | .dma src dst n => vregBad [(src, n), (dst, n)]
    | .collective c => decide (c.kind = .add) && !addFormats c.fmt c.fmt
    | _ => false

/-- R96: the forward stream of a training fixture writes one entry for each block and micro-batch, and no other. -/
def benchBad (f : FixtureImage) : Bool :=
  let ws := f.fwd.filterMap (fun o => o.bench.map (fun w => (o.step, w.block, w.mb)))
  !f.bwd.isEmpty && (f.microBatches.any (fun m => f.blocks.any (fun k => decide ((ws.filter (fun w => decide (w = (m.step, k, m.mb)))).length ≠ 1)))
    || ws.any (fun w => !f.blocks.contains w.2.1 || !f.microBatches.any (fun m => decide (m.step = w.1 ∧ m.mb = w.2.2))))
/-! ## Attention and pools (R154, R165, R175) -/

def poolBad (infield : Nat) (q : PoolRec) : Bool :=
  let page := 2 * q.hKv * 16 * q.dH * (q.kvFormat.bits / 8)
  !decide (q.id < 64) || !decide (1 ≤ q.hKv ∧ q.hKv ≤ 64) || !decide (32 ≤ q.dH ∧ q.dH ≤ 256) || !decide (1 ≤ q.layers ∧ q.layers ≤ 4096)
    || !decide (1 ≤ q.pages ∧ q.pages < 2 ^ 32) || decide (q.pageBytes ≠ (page + 2047) / 2048 * 2048) || decide (2 ^ 20 < q.pageBytes)
    || decide (q.base % 2048 ≠ 0) || decide (infield < q.base + q.layers * q.layerStride) || decide (q.layerStride < q.pages * q.pageBytes)
    || !(decide (q.span = 0) || decide (q.span % 16 = 0 ∧ 32 ≤ q.span ∧ q.span ≤ 1048576)) || !q.rsvdZero

def isHalfFmt (t : Fmt) : Bool := decide (t = .bf16) || decide (t = .binary16)

/-- The pool record agrees with the stage; a carousel takes MASK WINDOW with WINDOW ≤ W − 15. -/
def poolMismatch (a : AttnParams) (q : PoolRec) : Bool :=
  decide (q.kvFormat ≠ a.kvFormat) || decide (q.hKv ≠ a.hKv) || decide (q.dH ≠ a.dH)
    || (decide (q.span ≠ 0) && !(decide (a.mask = .window) && decide (a.window + 15 ≤ q.span)))

def attnBad (f : FixtureImage) (a : AttnParams) : Bool :=
  !decide (32 ≤ a.dH ∧ a.dH ≤ 256 ∧ a.dH % 32 = 0) || !decide (1 ≤ a.hKv ∧ a.hKv ≤ 64) || !decide (1 ≤ a.group ∧ a.group ≤ 64)
    || !decide (16 ≤ a.qBlock ∧ a.qBlock ≤ 512 ∧ a.qBlock % 16 = 0) || !isHalfFmt a.qFormat
    || !(isHalfFmt a.kvFormat || decide (a.kvFormat = .e4m3) || decide (a.kvFormat = .e5m2))
    || !(isHalfFmt a.outFormat || decide (a.outFormat = .fp32)) || decide (a.mask = .reserved)
    || (decide (a.mask = .window) && !decide (1 ≤ a.window ∧ a.window ≤ 1048576)) || !codeIn 0x37800000 0x47800000 a.scale
    || (match a.pool with
        | none => false
        | some k => match f.pools.find? (fun q => decide (q.id = k)) with
          | some q => poolMismatch a q
          | none => true)

def attentionBad (f : FixtureImage) : Bool :=
  f.pools.any (poolBad f.demands.infield) || f.stages.any (fun st => decide (st.kind = .attention) && (match st.attn with
    | some a => attnBad f a
    | none => true))

/-! ## Windows (R244, Table 10.7) -/

/-- Bytes of a grant that a fixture demands in a space. -/
def windowRegion (f : FixtureImage) (s : Space) : Nat :=
  match s with
  | .infield => f.demands.infield
  | .outfield => f.demands.outfield
  | .scratch => (f.demands.banksWest + f.demands.exchangeWest + f.demands.banksEast + f.demands.exchangeEast) * bankBytes
  | _ => 0

def windowBad (f : FixtureImage) (w : WindowPlan) : Bool :=
  !decide (w.window < 256) || !decide (w.ops < 16) || decide (w.loc.off % 2048 ≠ 0) || decide (w.length % 2048 ≠ 0)
    || decide (windowRegion f w.loc.space < w.loc.off + w.length)

/-! ## The checks -/

/-- Code 0x02 of Table 2.7. -/
def formatBad (_off len : Nat) (f : FixtureImage) : Bool :=
  imageHeaderBad len f.header || sectionsBad f.header f.sections || streamsBad f || f.stages.any stageBad || placementBad f
    || groupsBad f || f.tensors.zipIdx.any (fun (t, i) => tensorBad f i t) || earlyBad f || updatePlaceBad f || attentionBad f
    || f.buckets.any bucketBad || f.windows.any (windowBad f) || (allOps f).any (opBad f) || parkBad f || benchBad f

/-- Code 0x05: a RULE that Table 6.4 does not list. -/
def ruleUnknown (f : FixtureImage) : Bool := f.groups.any (fun g => !decide (1 ≤ g.rule ∧ g.rule ≤ 5))

end Sys2Proof.Machine
end

