-- ==== Sys2Proof/Machine/Check.lean ====
section
/-!
DEFINITION. The availability map, the fixture check and the re-check (02, R34 to R41, R433, Table 2.7), and what admission binds.
-/

namespace Sys2Proof.Machine

/-! ## Active size (R69, R70) -/

/-- Failed tiles of a column. -/
def Pitch.failedIn (x : Pitch) (c : Nat) : Nat := (x.failed.filter (fun t => t.2 = c)).length

/-- A column with a second failed tile goes, with its pair (R70). -/
def Pitch.pairRetired (x : Pitch) (k : Nat) : Bool := decide (2 ≤ x.failedIn (2 * k)) || decide (2 ≤ x.failedIn (2 * k + 1))

def Pitch.pairs (x : Pitch) : Nat := ((List.range 16).filter x.pairRetired).length

/-- ACTIVE_COLS: 32 − 2q, or 0 for a pitch that self-test took out (Table 17.4). -/
def Pitch.activeCols (x : Pitch) : Nat := if x.dead then 0 else 32 - 2 * x.pairs

/-- Active columns of a pitch as the map counts them: none on a FENCED half (R37). -/
def Body.mapCols (b : Body) (i : Nat) : Nat := if b.fenced (i / 2) then 0 else (b.pitch i).activeCols

/-! ## Availability (R37) -/

def isExchange (bank : Nat) : Bool := decide (88 ≤ bank % 96)

/-- Banks granted to partitions other than `p`. -/
def Body.banksOfOthers (b : Body) (p : Nat) : List Nat :=
  (List.range 4).flatMap (fun q => if q = p then [] else (b.part q).grant.banks)

/-- A bank that the map counts and no other partition holds. -/
def Body.bankFree (b : Body) (p : Nat) (k : Nat) : Bool :=
  decide ((b.store.banks.getD k ⟨.unusable, none⟩).state ≠ .unusable) && !b.fenced (k / 96)
    && !(b.banksOfOthers p).contains k

def Body.freeBanks (b : Body) (p half : Nat) : List Nat := (List.range' (96 * half) 96).filter (b.bankFree p)

def sumBytes (ss : List Segment) : Nat := (ss.map (·.bytes)).foldl (· + ·) 0

/-- Infield slots that the map does not count: retired ones, and those of channels in a FENCED half. -/
def Body.infieldSlotsGone (b : Body) : Nat :=
  ((List.range 384).filter (fun s => b.store.retired.contains s
    || b.fenced (b.book.tables.interleave.slotMap.getD s 0 / 192))).length

def Body.outSlotsGone (b : Body) : Nat :=
  ((List.range 8).filter (fun s => b.store.outRetired.contains s
    || b.fenced (b.book.tables.interleave.outSlotMap.getD s 0 / 4))).length

/-- Bytes of the fixed outfield regions (R219). -/
def Body.fixedOutfield (b : Body) : Nat := (b.book.tables.outfield.stagingGib + b.book.tables.outfield.snapshotGib) * gib

def Body.heldByOthers (b : Body) (p : Nat) (f : Grant → List Segment) : Nat :=
  ((List.range 4).map (fun q => if q = p then 0 else sumBytes (f (b.part q).grant))).foldl (· + ·) 0

def Body.infieldAvail (b : Body) (p : Nat) : Nat := (384 - b.infieldSlotsGone) * (4 * gib) - b.heldByOthers p (·.infield)

def Body.outfieldAvail (b : Body) (p : Nat) : Nat :=
  (8 - b.outSlotsGone) * (128 * gib) - b.fixedOutfield - b.heldByOthers p (·.outfield)

/-! ## Links (R37, R247) -/

def Body.link (b : Body) (l : Nat) : Link := b.net.links.getD l Link.reset

/-- A link that self-test leaves no lane, or whose die failed (Table 17.4). -/
def Body.linkDead (b : Body) (l : Nat) : Bool := decide ((b.link l).badLanes.length = 4) || b.boot.diesFailed.contains (l / 12)

/-- UP at any width; a resize keeps the link up. -/
def Body.linkUp (b : Body) (l : Nat) : Bool := decide ((b.link l).state = .up) || decide ((b.link l).state = .resize)

/-- The module's own member index in the table in force. -/
def Body.ownMember (b : Body) (serial : Word64) : Option Nat :=
  (b.book.tables.route.members.find? (fun m => decide (m.serial = serial.toNat))).map (·.index)

def Body.self (b : Body) : Option Nat := b.ownMember Config.serialNumber

/-- Every hop of a detour that begins or ends at this module is UP; hops between other members are not known here (R247, log 101). -/
def Body.detourUp (b : Body) (d : List Hop) : Bool :=
  !d.isEmpty && d.all (fun h => (decide (some h.src ≠ b.self) || b.linkUp h.outLink) && (decide (some h.dst ≠ b.self) || b.linkUp h.inLink))

/-- Some edge of the module leaves by the link, and the table gives it a detour that is UP (R37, R247). -/
def Body.routeAround (b : Body) (l : Nat) : Bool :=
  b.book.tables.route.edges.any (fun e => decide (some e.src = b.self) && decide (e.primary.outLink = l) && e.detours.any b.detourUp)

/-! ## The check -/

/-- One failing code with its demanded and available amounts. -/
structure Failing where
  code : Nat
  demanded : Nat
  available : Nat
  deriving DecidableEq, Repr

def failIf (c : Bool) (code demanded available : Nat) : List Failing := if c then [⟨code, demanded, available⟩] else []

/-- Versions that the active version would take by swaps already scheduled (code 0x04). -/
def Body.scheduledVersions (b : Body) : List Nat :=
  b.sched.entries.filterMap (fun e => if e.kind = 4 then
      match b.book.staging.getD (e.arg0.toNat % 4) .empty with
      | .staged img => some img.version
      | _ => none
    else none)

def versionOutside (img : FixtureImage) (v : Nat) : Bool := decide (v < img.header.rbMin) || decide (img.header.rbMax < v)

/-- A stage whose rectangle does not fit its pitch (code 0x09): columns wanted and active. -/
def Body.tilesShort (b : Body) (owned : List Nat) (img : FixtureImage) : Option (Nat × Nat) :=
  (img.stages.flatMap (·.rects)).findSome? (fun r =>
    let cols := match owned[r.pitch]? with
      | some i => b.mapCols i
      | none => 0
    if cols < r.col + r.w ∨ 32 < r.row + r.h then some (r.col + r.w, cols) else none)

/-- A stage or bank demand that falls on a FENCED half (code 0x16). -/
def Body.onFenced (b : Body) (owned : List Nat) (img : FixtureImage) : Bool :=
  (img.stages.any (fun st =>
    st.rects.any (fun r => (owned[r.pitch]?).any (fun i => b.fenced (i / 2)))
      || (match st.engine with
          | some e => (owned[e]?).any (fun i => b.fenced (i / 2))
          | none => false)
      || (match st.die with
          | some d => b.fenced (d / 2)
          | none => false)
      || (match st.half with
          | some h => b.fenced h
          | none => false)))
  || (b.fenced 0 && decide (0 < img.demands.banksWest + img.demands.exchangeWest))
  || (b.fenced 1 && decide (0 < img.demands.banksEast + img.demands.exchangeEast))

/-- Groups of the admitted fixtures of other partitions. -/
def Body.groupsOfOthers (b : Body) (p : Nat) : Nat :=
  ((List.range 4).map (fun q => if q = p ∨ !(b.part q).holds then 0 else
    ((b.part q).fix.map (fun f => f.groups.length)).getD 0)).foldl (· + ·) 0

/-- Checks 0x03 to 0x0E, 0x15 and 0x16: those that a re-check repeats, but for PARTITION_OCCUPIED (R39). DESIGN CHOICE (log 90): the demanded
and available amounts of checks to which Table 2.5 gives no unit are 0, or counts of pitches, tile columns, down links and groups; an
infield or outfield demand names no half, so that it falls on a FENCED half exactly where one is FENCED and the check is short. -/
def Body.mapChecks (b : Body) (p : Nat) (img : FixtureImage) : List Failing :=
  let d := img.demands
  let owned := (b.part p).pitches
  let west := b.freeBanks p 0
  let east := b.freeBanks p 1
  let xw := west.filter isExchange
  let xe := east.filter isExchange
  let down := (d.links.map (·.1)).filter (fun l => !b.linkUp l && !b.routeAround l)
  let infShort := decide (b.infieldAvail p < d.infield)
  let outShort := decide (b.outfieldAvail p < d.outfield)
  failIf (decide (img.header.stepping ≠ 0x0000000B)) 0x03 0 0
  ++ failIf (versionOutside img b.book.version || b.scheduledVersions.any (versionOutside img)) 0x04 0 0
  ++ failIf (ruleUnknown img) 0x05 0 0
  ++ failIf owned.isEmpty 0x06 0 0
  ++ failIf (decide (owned.length < img.header.pitches)) 0x08 img.header.pitches owned.length
  ++ (match b.tilesShort owned img with
      | some (w, a) => [⟨0x09, w, a⟩]
      | none => [])
  ++ failIf (decide (west.length < d.banksWest + d.exchangeWest) || decide (xw.length < d.exchangeWest)) 0x0A
      (if west.length < d.banksWest + d.exchangeWest then d.banksWest + d.exchangeWest else d.exchangeWest)
      (if west.length < d.banksWest + d.exchangeWest then west.length else xw.length)
  ++ failIf (decide (east.length < d.banksEast + d.exchangeEast) || decide (xe.length < d.exchangeEast)) 0x0B
      (if east.length < d.banksEast + d.exchangeEast then d.banksEast + d.exchangeEast else d.exchangeEast)
      (if east.length < d.banksEast + d.exchangeEast then east.length else xe.length)
  ++ failIf infShort 0x0C d.infield (b.infieldAvail p)
  ++ failIf outShort 0x0D d.outfield (b.outfieldAvail p)
  ++ failIf (!down.isEmpty) 0x0E down.length 0
  ++ failIf (decide (4096 < img.groups.length + b.groupsOfOthers p)) 0x15 img.groups.length (4096 - b.groupsOfOthers p)
  ++ failIf (b.onFenced owned img || ((b.fenced 0 || b.fenced 1) && (infShort || outShort))) 0x16 0 0

/-- R165: KV pages demanded: at least the pages of all pools together, a page number counted once for the layers that share it (log 88). -/
def kvDemand (img : FixtureImage) : Nat := max img.demands.kvPages ((img.pools.map (·.pages)).foldl (· + ·) 0)

/-- Checks that a load runs and a re-check does not: occupation, quotas, windows, OVER_QUOTA. -/
def Body.loadChecks (b : Body) (p : Nat) (img : FixtureImage) : List Failing :=
  let d := img.demands
  let q := (b.part p).quotas
  let w := d.banksWest + d.exchangeWest
  let e := d.banksEast + d.exchangeEast
  let share := (d.links.map (·.2)).foldl max 0
  let win := d.windows.foldl (· + ·) 0
  let kv := kvDemand img
  failIf (b.part p).holds 0x07 0 0
  ++ failIf (decide (q.banksWest < w) || decide (q.banksEast < e)) 0x0F
      (if q.banksWest < w then w else e) (if q.banksWest < w then q.banksWest else q.banksEast)
  ++ failIf (decide (q.infield * gib < d.infield)) 0x10 d.infield (q.infield * gib)
  ++ failIf (decide (q.outfield * gib < d.outfield)) 0x11 d.outfield (q.outfield * gib)
  ++ failIf (decide (q.kvPages < kv)) 0x12 kv q.kvPages
  ++ failIf (decide (q.linkShare < share)) 0x13 share q.linkShare
  ++ failIf (d.windows.any (fun x => decide (x < 16)) || decide (q.inflight < win)) 0x14 win q.inflight
  ++ failIf (b.part p).overQuota 0x17 0 0

/-- The Lodge verifies an image's signature against its fixture-signing keys; in a debug state it refuses (R35, R308). -/
def Vault.verifies (v : Vault) (keys : List Nat) (signer : Option Nat) : Bool :=
  !v.debug && (match signer with
    | some k => keys.contains k
    | none => false)

def Vault.keys (v : Vault) (cls : KeyClass) : List Nat :=
  match cls with
  | .fixture => v.fixtureKeys
  | .rulebook => v.rulebookKeys

/-- R35: signature, then format, then every other check. -/
def Body.check (b : Body) (v : Vault) (p off len : Nat) (img : FixtureImage) : List Failing :=
  if !v.verifies v.fixtureKeys img.signer then [⟨0x01, 0, 0⟩]
  else if formatBad off len img then [⟨0x02, 0, 0⟩]
  else b.mapChecks p img ++ b.loadChecks p img

/-- The failure mask: bit n for each failing code n (R35). -/
def maskOf (fs : List Failing) : Nat := (List.range 32).foldl (fun m n => if fs.any (fun f => f.code = n) then m + 2 ^ n else m) 0

/-- The lowest-numbered failing check (R36). -/
def lowest (fs : List Failing) : Failing := fs.foldl (fun a f => if a.code = 0 ∨ f.code < a.code then f else a) ⟨0, 0, 0⟩

def checkDetail (fs : List Failing) : Detail := .check (maskOf fs) (lowest fs).demanded (lowest fs).available

/-! ## Binding (R433, log 16) -/

/-- R433: the exchange demand from the exchange banks, the rest from single-port banks, then remaining exchange banks. -/
def chooseBanks (free : List Nat) (exchange other : Nat) : List Nat :=
  let xs := (free.filter isExchange).take exchange
  let rest := free.filter (fun k => !isExchange k) ++ (free.filter isExchange).drop exchange
  (unionRising xs []) |> unionRising (rest.take other)

/-- Segments of the free space between `lo` and `hi` that the held ones leave, lowest first, until `need` bytes are found. -/
def allocate (held : List Segment) (hi : Nat) : Nat → Nat → Nat → List Segment
  | 0, _, _ => []
  | fuel + 1, lo, need =>
    if need = 0 ∨ hi ≤ lo then []
    else match held.find? (fun s => decide (s.addr ≤ lo ∧ lo < s.addr + s.bytes)) with
      | some s => allocate held hi fuel (s.addr + s.bytes) need
      | none =>
        let next := (held.filter (fun s => decide (lo < s.addr))).foldl (fun m s => min m s.addr) hi
        let k := min need (next - lo)
        ⟨lo, k⟩ :: allocate held hi fuel next (need - k)

/-- Whole granules that a demand takes. -/
def roundGranule (n : Nat) : Nat := (n + granuleBytes - 1) / granuleBytes * granuleBytes

def Body.allGrants (b : Body) : List Grant := b.parts.map (·.grant)

def Body.bindInfield (b : Body) (need : Nat) : List Segment :=
  let held := b.allGrants.flatMap (·.infield)
  allocate held b.store.limit (2 * held.length + 2) 0 (roundGranule need)

def Body.bindOutfield (b : Body) (need : Nat) : List Segment :=
  let held := b.allGrants.flatMap (·.outfield)
  allocate held (outfieldBase + b.store.outLimit) (2 * held.length + 2) (outfieldBase + b.fixedOutfield) (roundGranule need)

/-- A bank is brought to ON before it is bound: from OFF every codeword is zero (R205, R37). -/
def Store.bankOn (s : Store) (k : Nat) : Store :=
  match (s.banks.getD k ⟨.unusable, none⟩).state with
  | .off =>
    let base := scratchBase + k * bankBytes
    let outside := fun (c : Nat) => decide (c < base / 64) || decide ((base + bankBytes) / 64 ≤ c)
    { s with cells := Memory.clear s.cells base bankBytes,
             poison := s.poison.filter outside,
             lists := s.lists.map (fun l => { l with cws := l.cws.filter outside }),
             banks := alter k (fun x => { x with state := .on, target := none }) s.banks }
  | .retain => { s with banks := alter k (fun x => { x with state := .on, target := none }) s.banks }
  | .on => { s with banks := alter k (fun x => { x with target := none }) s.banks }
  | .unusable => s

/-- Bytes from a device address to the end of the piece of the grant, or of the run of banks, that it lies in. -/
def Partition.runFrom (x : Partition) (a : Nat) : Nat :=
  let g := x.grant
  match (g.infield ++ g.outfield).find? (fun s => decide (s.addr ≤ a ∧ a < s.addr + s.bytes)) with
  | some s => s.addr + s.bytes - a
  | none =>
    let k := (a - scratchBase) / bankBytes
    scratchBase + (k + ((List.range' k 192).takeWhile g.banks.contains).length) * bankBytes - a

/-- R244: the windows of the LINK_PLAN are granted; GENERATION counts each grant. A window lies inside the grant: one that would run past
the piece of the grant that it starts in ends there (log 99). -/
def Body.grantWindow (b : Body) (p : Nat) (w : WindowPlan) : Body :=
  match (b.part p).addr w.loc with
  | some a => { b with net := { b.net with windows := alter w.window (fun x =>
      { x with part := p, ops := w.ops % 16, valid := true, domain := w.domain, base := a, length := min w.length ((b.part p).runFrom a),
               generation := wrap 32 (x.generation + 1), fencedAt := none }) b.net.windows } }
  | none => b

/-- Windows of a partition are cleared (R244); by a fence, their grace starts (R245, R256). -/
def Body.clearWindows (b : Body) (p : Nat) (fence : Bool) : Body :=
  let f := fun (w : Window) =>
    if w.valid && decide (w.part = p) then { w with valid := false, fencedAt := if fence then some b.clock.now else w.fencedAt }
    else w
  { b with net := { b.net with windows := b.net.windows.map f } }

/-- Grants are released without clearing their contents (Table 13.5). -/
def Body.releaseGrants (b : Body) (p : Nat) (fence : Bool) : Body :=
  (b.clearWindows p fence).alterPart p (fun x => { x with grant := Grant.none })

/-- R72: stages that a fixture places on each pitch of its partition. -/
def Body.placeStages (b : Body) (p : Nat) (img : FixtureImage) : Body :=
  (b.part p).pitches.zipIdx.foldl (fun b (i, k) =>
    let n := (img.stages.filter (fun st => st.rects.any (fun r => decide (r.pitch = k)))).length
    { b with pitches := alter i (fun x => { x with stages := n }) b.pitches }) b

/-- Everything an admitted fixture asked for is bound (R37, R433, R244). -/
def Body.bindGrants (b : Body) (p : Nat) (img : FixtureImage) : Body :=
  let d := img.demands
  let banks := unionRising (chooseBanks (b.freeBanks p 0) d.exchangeWest d.banksWest)
    (chooseBanks (b.freeBanks p 1) d.exchangeEast d.banksEast)
  let inf := b.bindInfield d.infield
  let out := b.bindOutfield d.outfield
  let b := { b with store := banks.foldl Store.bankOn b.store }
  let b := b.alterPart p (fun x => { x with grant := ⟨banks, inf, out, img.windows.map (·.window), kvDemand img⟩ })
  let b := b.placeStages p img
  img.windows.foldl (fun b w => b.grantWindow p w) b

end Sys2Proof.Machine
end

