-- ==== Sys2Proof/Machine/Wire.lean ====
section
/-!
DEFINITION. What leaves by a link (10): flit types (Table 10.4), credits and SEQ (R233, R235), the order in which waiting flits leave
(R237, Table 10.5), and how long they wait without a credit (R249).
-/

namespace Sys2Proof.Machine

/-! ## Types (Table 10.4) -/

def fIdle : Nat := 0x00
def fNak : Nat := 0x01
def fAuth : Nat := 0x02
def fResize : Nat := 0x03
def fFence : Nat := 0x04
def fNotice : Nat := 0x05
def fStatus : Nat := 0x06
def fReduce : Nat := 0x10
def fResult : Nat := 0x11
def fWrite : Nat := 0x20
def fAdd : Nat := 0x21
def fDeny : Nat := 0x22

/-- The RELAY code that stands for a type (R246). -/
def relayOf (t : Nat) : Option Nat :=
  if t = fReduce then some 0x30
  else if t = fResult then some 0x31
  else if t = fWrite then some 0x32
  else if t = fAdd then some 0x33
  else if t = fDeny then some 0x34
  else if t = fNotice then some 0x35
  else if t = fStatus then some 0x36
  else none

def isRelay (t : Nat) : Bool := decide (0x30 ≤ t ∧ t ≤ 0x36)

/-- A header of the module's own. -/
def ownHdr (type vc part own dst window segment : Nat) : FlitHdr := ⟨type, vc, part, 0, 0, 0, 0, own, dst, window, segment, false, 0, 0, []⟩

/-! ## Sending -/

/-- What the sender of a link goes by: the shares of partitions 0 to 3 and FORWARD_SHARE, the moment and the beat. -/
structure Arb where
  weights : List Nat
  now : Nat
  beat : Nat
  deriving DecidableEq, Repr

def Body.arb (b : Body) : Arb := ⟨b.parts.map (·.quotas.linkShare) ++ [b.book.tables.link.forwardShare], b.clock.now, b.clock.beat⟩

/-- IDLE and NAK take no SEQ (log 34). -/
def seqless (t : Nat) : Bool := decide (t = fIdle) || decide (t = fNak)

/-- A flit may leave: its VC has a credit, the retry buffer has room, and the link carries it; in RESIZE traffic is held but for RESIZE
itself and the NAK of a flit that a failing lane spoilt (R233, R235, R238). -/
def Link.canSend (g : Link) (f : Flit) : Bool :=
  decide (0 < g.credits.getD f.hdr.vc 0) && (seqless f.hdr.type || decide (g.unacked.length < 2048))
    && (match g.state with
      | .up => true
      | .resize => decide (f.hdr.type = fResize) || decide (f.hdr.type = fNak)
      | _ => false)

/-- A flit leaves: it takes a credit and a SEQ, and is kept until it is acknowledged. -/
def Link.transmit (g : Link) (f : Flit) : Link :=
  let g := { g with tx := wrap 64 (g.tx + 1), credits := g.credits.modify f.hdr.vc (· - 1) }
  if seqless f.hdr.type then g
  else { g with txSeq := (g.txSeq + 1) % 4096,
                unacked := g.unacked ++ [{ f with hdr := { f.hdr with seq := g.txSeq, ack := (g.rxSeq + 4095) % 4096 } }] }

/-- Whose share a data flit is charged to: its partition's, or that of relays. -/
def Flit.charge (f : Flit) : Nat := if isRelay f.hdr.type then 4 else f.hdr.part

/-- R237: of two that wait, the one goes first that has had less for its share; on a tie the lower. A share of 0 waits for all others. -/
def Arb.before (a : Arb) (served : List Nat) (i j : Nat) : Bool :=
  decide ((served.getD i 0 + 1) * a.weights.getD j 0 < (served.getD j 0 + 1) * a.weights.getD i 0)

/-- The next data flit: the oldest that may leave of the partition, or of the relays, that is due (log 103). -/
def Link.nextData (a : Arb) (g : Link) : Option Flit :=
  (List.range 5).foldl (fun (best : Option Flit) i =>
    match g.queued.find? (fun f => decide (f.hdr.vc ≠ 0) && decide (Flit.charge f = i) && g.canSend f), best with
    | some f, some x => if a.before g.served i (Flit.charge x) then some f else some x
    | some f, none => some f
    | none, x => x) none

/-- VC0 first, always (Table 10.5). -/
def Link.next (a : Arb) (g : Link) : Option Flit :=
  match g.queued.find? (fun f => decide (f.hdr.vc = 0) && g.canSend f) with
  | some f => some f
  | none => g.nextData a

/-- Waiting flits leave as long as one may. -/
def flushQueue (a : Arb) : Nat → Link → Link
  | 0, g => g
  | n + 1, g =>
    match g.next a with
    | some f =>
      let served := if f.hdr.vc = 0 then g.served else g.served.modify (Flit.charge f) (· + 1)
      flushQueue a n (({ g with queued := g.queued.erase f, served := served }).transmit f)
    | none => g

/-- R237: who had nothing waiting starts level with whoever is due, so that it takes back nothing that it left to others. -/
def Link.join (a : Arb) (g : Link) (f : Flit) : Link :=
  let i := Flit.charge f
  if f.hdr.vc = 0 ∨ g.queued.any (fun x => decide (x.hdr.vc ≠ 0 ∧ Flit.charge x = i)) then g
  else
    let waiting := (List.range 5).filter (fun j => g.queued.any (fun x => decide (x.hdr.vc ≠ 0 ∧ Flit.charge x = j)))
    match waiting.foldl (fun (best : Option Nat) j => match best with
      | some k => if a.before g.served j k then some j else some k
      | none => some j) none with
    | some j =>
      let level := if a.weights.getD j 0 = 0 then 0 else g.served.getD j 0 * a.weights.getD i 0 / a.weights.getD j 0
      { g with served := g.served.modify i (max level) }
    | none => g

/-- Flits of a VC wait without a credit. -/
def Link.dry (g : Link) (vc : Nat) : Bool := g.queued.any (fun f => decide (f.hdr.vc = vc)) && decide (g.credits.getD vc 0 = 0)

/-- R249: since when each VC is dry. -/
def Link.noteDry (a : Arb) (g : Link) : Link :=
  { g with dryAt := (List.range 4).map (fun vc => if g.dry vc then some ((g.dryAt.getD vc none).getD (a.now, a.beat)) else none),
           served := if g.queued.isEmpty then [0, 0, 0, 0, 0] else g.served }

def Link.flush (a : Arb) (g : Link) : Link := (flushQueue a g.queued.length g).noteDry a

/-- A flit goes to a link's partner: at once, or when its turn comes. -/
def Link.send (a : Arb) (g : Link) (f : Flit) : Link := (let g := g.join a f
   { g with queued := g.queued ++ [f] }).flush a

end Sys2Proof.Machine
end

