-- ==== Sys2Proof/Machine/Recheck.lean ====
section
/-!
DEFINITION. Leaving a fixture: refusal by a re-check (R39 to R41), records of a pending STEP_BOUND (R436), and the fence of a
partition's traffic (R256).
-/

namespace Sys2Proof.Machine

/-- R436: the record of a pending bound is written with a status and the step counter. -/
def Body.endBound (b : Body) (p status : Nat) : Body :=
  match (b.part p).bound with
  | some (st, tag, ring) =>
    (b.alterPart p (fun x => { x with bound := none })).finish ring tag (.stepBound st) status 0
      (if status = stOk then .counter (b.part p).pass.step else .none)
  | none => b

/-- R256: FENCE naming the partition leaves on every link that is UP, and its own queued flits are discarded; those that are relayed for
another module's partition stay. -/
def Body.sendFence (b : Body) (p : Nat) : Body :=
  let own := b.self
  let gone := fun (x : Flit) => decide (x.hdr.part = p) && decide (some x.hdr.src = own)
  let f := fun (l : Link) =>
    let l := { l with queued := l.queued.filter (fun x => !gone x) }
    match l.state with
    | .up => l.send b.arb (Flit.mk (ownHdr 0x04 0 p (own.getD 0) l.partner 0 0) .fence)
    | _ => l
  { b with net := { b.net with links := b.net.links.map f } }

/-- Work of a partition in other units ends: its ORDERED windows are discarded with their targets unchanged, and its
reductions leave the engines (Table 13.5 step 2, R216). -/
def Body.dropWork (b : Body) (p : Nat) : Body :=
  let b := b.dropAdds (fun a => decide (a.part = p))
  { b with net := { b.net with
             reductions := b.net.reductions.filter (fun r => decide (r.part ≠ p)),
             early := b.net.early.filter (fun e => decide (e.1 ≠ p)) } }

/-- A fixture leaves its partition: streams stopped, nothing in flight, grants and accumulators released. -/
def Body.leaveFixture (b : Body) (p : Nat) (st : FixState) (fence : Bool) : Body :=
  let b := b.stopUnits (b.part p).pitches
  let own := (b.part p).pitches
  let free := fun (x : Engine × Nat) => if own.contains x.2 then { x.1 with accs := [], parked := [] } else x.1
  let b := { b with
    pitches := b.pitches.zipIdx.map (fun (y : Pitch × Nat) => if own.contains y.2 then { y.1 with stages := 0 } else y.1),
    engines := b.engines.zipIdx.map free }
  let b := ((b.dropWork p).releaseGrants p fence).setFix p st
  b.alterPart p (fun x => { x with flights := [], fix := none, splitStopped := false, snap := x.snap.unsealed, pass := { x.pass with bench := [], benchHold := none },
                                   streams := x.streams.map (fun s => { s with waitSince := none }) })

/-- R41: the record of a re-check refusal. -/
def recheckRecord (fs : List Failing) : CplRecord :=
  ⟨0xFFFFFFFF, 0x00, stRefused, false, kindCommand, (lowest fs).code, checkDetail fs⟩

/-- Write windows stand where the memory plan has their region under the grants in force (R40, R244). -/
def Body.rebaseWindows (b : Body) : Body :=
  let base := fun (w : Window) (k : Nat) =>
    match (b.part w.part).fix.bind (fun f => f.windows.find? (fun (x : WindowPlan) => decide (x.window = k))) with
    | some x => { w with base := ((b.part w.part).addr x.loc).getD w.base }
    | none => w
  { b with net := { b.net with windows := b.net.windows.zipIdx.map (fun (w, k) => if w.valid then base w k else w) } }

/-- R40: every bound bank that is still available stays; each lost one is replaced by the rule of R433. DESIGN CHOICE (log 91): the regions
are laid anew into the new set in ascending number, so that a bank that stays may change its offset; its contents do not move. -/
def Body.rebindBanks (b : Body) (p : Nat) (img : FixtureImage) : Body :=
  let d := img.demands
  let old := (b.part p).grant.banks
  let side := fun (h ex other : Nat) =>
    let free := b.freeBanks p h
    let kept := old.filter free.contains
    let needX := ex - (kept.filter isExchange).length
    let fresh := free.filter (fun k => !kept.contains k)
    unionRising kept (chooseBanks fresh needX (ex + other - kept.length - needX))
  let banks := unionRising (side 0 d.exchangeWest d.banksWest) (side 1 d.exchangeEast d.banksEast)
  if banks = old then b
  else
    let b := { b with store := (banks.filter (fun k => !old.contains k)).foldl Store.bankOn b.store }
    (b.alterPart p (fun x => { x with grant := { x.grant with banks := banks } })).rebaseWindows

/-- R39 to R41 for one partition. -/
def Body.recheckPart (b : Body) (p : Nat) : Body :=
  match (b.part p).holds, (b.part p).fix with
  | true, some img =>
    let fs := b.mapChecks p img
    if fs.isEmpty then b.rebindBanks p img
    else ((((b.endSnapshots p stStateWrong).leaveFixture p .refused false).endBound p stStateWrong).putRecord p (recheckRecord fs))
  | _, _ => b

/-- R39: every fixture is re-checked in ascending partition order; what a refusal releases is free for the next. -/
def Body.recheck (b : Body) : Body := (List.range 4).foldl Body.recheckPart b

end Sys2Proof.Machine
end

