-- ==== Sys2Proof/Machine/Commands.lean ====
section
/-!
DEFINITION. The ring commands on fixtures, partitions and quotas (13, Table 13.4, R324 to R327, R436; 02).
-/

namespace Sys2Proof.Machine

/-- How a command ends: with its record, running on, or with its record left to a later event and no longer holding back
other commands (R436). -/
inductive CmdEnd where
  | done (status code : Nat) (d : Detail)
  | running
  | deferred
  deriving DecidableEq, Repr

def ok (d : Detail := .none) : CmdEnd := .done stOk 0 d
def fail (status : Nat) : CmdEnd := .done status 0 .none

/-! ## FIXTURE_LOAD, FIXTURE_CHECK (R19, R34 to R37) -/

/-- R19: offset and length that the staging region can hold. -/
def Body.stagingArgs (b : Body) (off len : Nat) : Bool :=
  decide (off % 4096 = 0) && decide (len ≤ 4 * gib) && decide (off + len ≤ b.book.tables.outfield.stagingGib * gib)

def FP64one : Nat := 0x3FF0000000000000

/-- State of a partition whose fixture has just been admitted without a restore (R24, R119, R125, R137, R147, R153, R178). -/
def Partition.admitted (x : Partition) (img : FixtureImage) (restartExp : Int) (now : Nat) : Partition :=
  { x with fix := some img, splitStopped := false, streams := List.replicate 3 Stream.reset, beatCount := 0, flights := [],
           board := [], bound := none, upd := { Upd.reset with groups := img.groups.map (fun g => ⟨g.id, FP64one, FP64one⟩) },
           attn := Attn.reset,
           pass := { Pass.reset with scaleExp := restartExp, step := img.firstStep,
                                     buckets := img.buckets.map (fun k => ⟨k.id, 0, none, false, none⟩) },
           snap := { x.snap with waiting := none, run := none, guard := false, guardCount := 0,
                                 costMs := none, costDue := none, verify := none, admittedAt := now, restoresSince := 0, lastCut := now,
                                 stepNs := [], lastVerdictAt := now } }

/-- R147: carry is 0 at admission without a restore. -/
def Body.zeroCarry (b : Body) (p : Nat) (img : FixtureImage) : Body :=
  img.tensors.foldl (fun b t =>
    if t.owned && (FixtureImage.group? img t.group).any hasCarry then b.writeLoc p t.c (List.replicate (t.rows * t.cols) 0) else b) b

def cmdFixtureLoad (v : Vault) (p off len : Nat) (img : FixtureImage) (b : Body) : Body × CmdEnd :=
  if !b.stagingArgs off len then (b, fail stArgsBad)
  else
    let fs := b.check v p off len img
    if fs.isEmpty then
      let b := b.alterPart p (fun x => x.admitted img b.book.tables.loss.restartExp b.clock.now)
      let b := ((b.bindGrants p img).setFix p .admitted).zeroCarry p img
      (b, ok (checkDetail []))
    else
      let b' := if (b.part p).holds then b else b.setFix p .refused
      (b', .done stRefused (lowest fs).code (checkDetail fs))

def cmdFixtureCheck (v : Vault) (p off len : Nat) (img : FixtureImage) (b : Body) : Body × CmdEnd :=
  if !b.stagingArgs off len then (b, fail stArgsBad)
  else
    let fs := b.check v p off len img
    if fs.isEmpty then (b, ok (checkDetail [])) else (b, .done stRefused (lowest fs).code (checkDetail fs))

/-! ## FIXTURE_START, FIXTURE_STOP, FIXTURE_RETIRE -/

/-- R338: the partition's pass page shows QUARANTINED. -/
def Body.quarantined (b : Body) (p : Nat) : Bool := (b.page tPartition p).quarantined

def cmdFixtureStart (p : Nat) (b : Body) : Body × CmdEnd :=
  match (b.part p).fstate with
  | .admitted | .stopped =>
    if b.quarantined p || (b.part p).snap.incomplete then (b, fail stStateWrong)
    else
      let b := (b.setFix p .running).alterPart p (fun x =>
        { x with splitStopped := false, streams := x.streams.map (fun s => { s with waitSince := none }) })
      (b.resumeUnits (b.part p).pitches, ok)
  | _ => (b, fail stStateWrong)

def cmdFixtureStop (p : Nat) (b : Body) : Body × CmdEnd :=
  if (b.part p).fstate = .running then (b.stopPartition p, ok) else (b, fail stStateWrong)

def cmdFixtureRetire (p : Nat) (b : Body) : Body × CmdEnd :=
  match (b.part p).fstate with
  | .admitted | .stopped => (((b.endSnapshots p stStateWrong).leaveFixture p .retired false).endBound p stStateWrong, ok)
  | _ => (b, fail stStateWrong)

/-! ## STEP_BOUND (R436) -/

def cmdStepBound (p ring : Nat) (tag : Word32) (st : Nat) (b : Body) : Body × CmdEnd :=
  if 2 ^ 48 ≤ st then (b, fail stArgsBad)
  else if st = 0 then (b.endBound p stStateWrong, ok)
  else if !(b.part p).holds then (b, fail stStateWrong)
  else if st ≤ (b.part p).pass.step then (b, fail stArgsBad)
  else ((b.endBound p stStateWrong).alterPart p (fun x => { x with bound := some (st, tag, ring) }), .deferred)

/-! ## BUDGET, PARTITION_SET (R30 to R32, R42, R287) -/

/-- Upper end of a quota row's range (Table 2.5). -/
def quotaMax (row : Nat) : Nat := Quotas.full.row row

/-- Sum of the in-flight quotas with one of them set to `value` (R27). -/
def Body.inflightSum (b : Body) (p value : Nat) : Nat :=
  ((List.range 4).map (fun q => if q = p then value else (b.part q).quotas.inflight)).foldl (· + ·) 0

def cmdBudget (p row value : Nat) (b : Body) : Body × CmdEnd :=
  if 4 ≤ p ∨ 7 ≤ row ∨ quotaMax row < value then (b, fail stArgsBad)
  else if row = 6 ∧ 768 < b.inflightSum p value then (b, fail stQuotaSum)
  else (b.alterPart p (fun x => { x with quotas := x.quotas.setRow row value }), ok)

def cmdPartitionSet (p mask : Nat) (b : Body) : Body × CmdEnd :=
  if 4 ≤ p ∨ 16 ≤ mask then (b, fail stArgsBad)
  else
    let want := (List.range 4).filter (fun i => mask.testBit i)
    if want.any (fun i => (List.range 4).any (fun q => q != p && (b.part q).pitches.contains i)) then (b, fail stArgsBad)
    else if decide (want ≠ (b.part p).pitches) && (b.part p).holds then (b, fail stStateWrong)
    else (b.alterPart p (fun x => { x with pitches := want }), ok)

/-! ## ABANDON (R324 to R328, Table 13.5) -/

/-- Steps 1 to 4 of Table 13.5. -/
def Body.abandonFixture (b : Body) (p : Nat) : Body :=
  let b := b.stopUnits (b.part p).pitches
  let b := b.sendFence p
  let b := { b with sched := { b.sched with entries := b.sched.entries.filter (fun e => decide (e.part ≠ p)),
                                            barriers := b.sched.barriers.filter (fun k => decide (k.part ≠ p)) } }
  let b := (b.dropSnapshot p).alterPart p (fun x => { x with snap := { x.snap with waiting := none } })
  b.leaveFixture p .retired true

/-- Commands of the partition that `ABANDON` overtakes complete ABANDONED, after its own record (R324, Table 13.6). -/
def Body.abandonCommands (b : Body) (p : Nat) : Body :=
  let gone := b.active.filter (fun a => decide (a.key = p))
  let b := { b with active := b.active.filter (fun a => decide (a.key ≠ p)) }
  gone.foldl (fun b a => b.finish a.ring a.tag a.cmd stAbandoned 0 .none) b

/-- `ABANDON` of partition `p` by a command on `ring` with `tag`, its record included. -/
def cmdAbandon (p ring : Nat) (tag : Word32) (b : Body) : Body :=
  let b := if (b.part p).holds then b.abandonFixture p else b
  let b := b.finish ring tag .abandon stOk 0 .none
  ((b.abandonCommands p).endBound p stAbandoned).endVerify p stAbandoned .none

end Sys2Proof.Machine
end

