-- ==== Sys2Proof/Machine/ModuleCmds.lean ====
section
/-!
DEFINITION. The ring commands on the schedule, page lists, the rulebook, the Scorebook and maintenance (13, Table 13.4; 07, 09,
10, 11, 12, 16).
-/

namespace Sys2Proof.Machine

/-! ## SCHEDULE, SCHEDULE_CANCEL (R25, R263, R266, R267, R392) -/

/-- Beat length that a TICK is held against: the locked one, or the table's before any lock. -/
def Body.beatNs (b : Body) : Nat := if b.clock.beatNs = 0 then b.book.tables.beat.beatNs else b.clock.beatNs

def mkToken (producer seq : Nat) : Token := BitVec.ofNat 32 (producer * 2 ^ 30 + seq % 2 ^ 30)
def tokProducer (t : Token) : Nat := (t.extractLsb' 30 2).toNat
def tokSeq (t : Token) : Nat := (t.extractLsb' 0 30).toNat

/-- KIND and PARTITION that Tables 11.4 and 11.5 list. -/
def entryListed (e : SchedEntry) : Bool := decide (1 ≤ e.kind ∧ e.kind ≤ 7) && (decide (e.part < 4) || decide (e.part = 15))

/-- Kinds that Table 11.5 fixes at tick 0. -/
def tickFixed (kind : Nat) : Bool := decide (kind = 4) || decide (kind = 7) || decide (kind = 3)

def Body.tickBad (b : Body) (e : SchedEntry) : Bool :=
  e.rsvd || decide (2 ^ 48 ≤ e.beat) || decide (b.beatNs ≤ e.tick) || (tickFixed e.kind && decide (e.tick ≠ 0))

/-- ARG0 of a BARRIER entry (R267). -/
def barrierId (e : SchedEntry) : Nat := (e.arg0.extractLsb' 0 16).toNat
def barrierSlack (e : SchedEntry) : Nat := (e.arg0.extractLsb' 16 8).toNat
def barrierGroup (e : SchedEntry) : Nat := (e.arg0.extractLsb' 24 6).toNat

/-- R267: the group exists in the table in force and lists this module. -/
def Body.groupOk (b : Body) (serial : Word64) (g : Nat) : Bool :=
  match b.book.tables.route.groups[g]?, b.ownMember serial with
  | some grp, some m => grp.members.contains m
  | _, _ => false

/-- Count of token-carrying entries that an entry's TOKEN must follow (R25). -/
def Body.beatCountOf (b : Body) (part : Nat) : Nat := if part < 4 then (b.part part).beatCount else b.sched.moduleCount

/-- R25: 0 for accepted, else the status of the token check. -/
def Body.tokenCheck (b : Body) (e : SchedEntry) : Nat :=
  if e.token = 0 then 0
  else if e.part < 4 ∧ !(b.part e.part).holds then stStateWrong
  else if tokProducer e.token = 3 ∧ tokSeq e.token = (b.beatCountOf e.part + 1) % 2 ^ 30 then 0
  else stArgsBad

/-- An entry is installed: its token is counted and not complete; a barrier takes the notices held for it (R442). -/
def Body.install (b : Body) (e : SchedEntry) : Body :=
  let b := if e.token = 0 then b
    else if e.part < 4 then b.alterPart e.part (fun x =>
      { x with beatCount := (x.beatCount + 1) % 2 ^ 30, board := x.board.filter (fun d => d.token != e.token) })
    else { b with sched := { b.sched with moduleCount := (b.sched.moduleCount + 1) % 2 ^ 30 } }
  let sc := { b.sched with entries := b.sched.entries ++ [e] }
  let sc := if e.kind = 2 then
      { sc with barriers := sc.barriers ++ [⟨e.part, barrierId e, false,
                  sc.held.filter (fun n => decide (n.barrier = barrierId e)), 0, none, none⟩],
                held := sc.held.filter (fun n => decide (n.barrier ≠ barrierId e)) }
    else sc
  { b with sched := sc }

def cmdSchedule (v : Vault) (e : SchedEntry) (b : Body) : Body × CmdEnd :=
  if !entryListed e then (b, fail stArgsBad)
  else if b.clock.band = .seeking then (b, fail stStateWrong)
  else if b.tickBad e then (b, fail stScheduleTick)
  else if e.beat < b.clock.beat + 2 then (b, fail stSchedulePast)
  else if b.tokenCheck e ≠ 0 then (b, fail (b.tokenCheck e))
  else if e.kind = 2 ∧ !b.groupOk v.serial (barrierGroup e) then (b, fail stArgsBad)
  else if 1024 ≤ b.sched.entries.length then (b, fail stScheduleFull)
  else (b.install e, ok)

/-- An entry leaves the schedule; a barrier's notices go with it. -/
def Sched.remove (sc : Sched) (e : SchedEntry) : Sched :=
  { sc with entries := sc.entries.erase e,
            barriers := if e.kind = 2 then sc.barriers.filter (fun k => !(decide (k.part = e.part) && decide (k.id = barrierId e)))
                        else sc.barriers }

def cmdScheduleCancel (tok : Token) (part : Nat) (b : Body) : Body × CmdEnd :=
  match b.sched.entries.find? (fun e => e.token == tok && tok != 0 && decide (e.part = part)) with
  | none => (b, fail stArgsBad)
  | some e => if e.beat < b.clock.beat + 2 then (b, fail stSchedulePast) else ({ b with sched := b.sched.remove e }, ok)

/-! ## LIST_INIT, LIST_RETIRE (R167, R171) -/

def payloadLists : Payload → List Nat
  | .attention _ seqs _ => seqs.filterMap (·.list)
  | _ => []

/-- Some operation in flight names the list (R169, R171). -/
def Partition.listBusy (x : Partition) (off : Nat) : Bool :=
  x.flights.any (fun fl => match x.op? fl with
    | some op => (payloadLists op.payload).contains off
    | none => false)

def poolOf (img : FixtureImage) (id : Nat) : Option PoolRec := img.pools.find? (fun q => q.id = id)

/-- A list of `cap` entries at `off` lies, 64-byte aligned, in a page-list region (R167). -/
def listFits (img : FixtureImage) (pool : Option Nat) (off cap : Nat) : Bool :=
  decide (off % 64 = 0) && img.listRegions.any (fun r =>
    (match pool with
      | some q => decide (r.pool = q)
      | none => true) && decide (r.off ≤ off ∧ off + 64 + 4 * cap ≤ r.off + r.bytes))

/-- Table 7.6: the 64-byte header. -/
def listHeader (gen flags entries cap tokens pool : Nat) : List Byte :=
  leBytes gen 4 ++ leBytes flags 4 ++ leBytes entries 4 ++ leBytes cap 4 ++ leBytes tokens 8 ++ leBytes pool 2
    ++ List.replicate 38 0

def cmdListInit (p off pool cap carousel : Nat) (b : Body) : Body × CmdEnd :=
  match (b.part p).holds, (b.part p).fix with
  | true, some img =>
    if (poolOf img pool).isNone || decide (cap = 0 ∨ 65536 < cap) || decide (1 < carousel) || !listFits img (some pool) off cap
    then (b, fail stArgsBad)
    else if (b.part p).listBusy off then (b, fail stListBusy)
    else
      let b := b.writeLoc p ⟨.infield, off⟩ (listHeader 0 carousel 0 cap 0 pool)
      (b.alterPart p (fun x => { x with attn := { x.attn with lists := insertRising off x.attn.lists,
                                                              lostLists := x.attn.lostLists.filter (· != off) } }), ok)
  | _, _ => (b, fail stArgsBad)

def cmdListRetire (p off _last : Nat) (b : Body) : Body × CmdEnd :=
  match (b.part p).holds, (b.part p).fix with
  | true, some img =>
    if !listFits img none off 0 then (b, fail stArgsBad)
    else if (b.part p).listBusy off then (b, fail stListBusy)
    else
      let b := b.writeLoc p ⟨.infield, off⟩ (List.replicate 64 0)
      (b.alterPart p (fun x => { x with attn := { x.attn with lists := x.attn.lists.filter (· != off) } }), ok)
  | _, _ => (b, fail stArgsBad)

/-! ## LOG_READ, LOG_CLEAR (R382 to R386) -/

/-- FLAGS of a record. -/
def Record.flags (r : Record) : Nat := (if r.seqOnly then 1 else 0) + 2 * (r.phase % 4)

/-- Bytes 0x00 to 0x7B of Table 16.2; each number of DETAIL takes 4 bytes (log 37). -/
def Record.body (r : Record) : List Byte :=
  leBytes r.seq 4 ++ leBytes r.type 1 ++ leBytes r.flags 1 ++ leBytes r.source 2 ++ leBytes r.opMs 8 ++ leBytes r.cycles 4 ++ leBytes 0 4
    ++ leBytes r.beat 8 ++ leBytes r.message.toNat 8
    ++ (r.detail.flatMap (fun x => leBytes x 4) ++ List.replicate 84 0).take 84

/-- R375, R376: a record as its 128 bytes, VALID last. -/
def Record.bytes (r : Record) : List Byte := r.body ++ leBytes (Arith.crc16 r.body) 2 ++ leBytes 0 1 ++ leBytes 0xA5 1

/-- A used position whose VALID byte was never programmed (R376, R379). -/
def isTorn (q : List Byte) : Bool := q.getD 0x7F 0 != 0xA5

def crcRight (q : List Byte) : Bool := decide (leValue ((q.drop 0x7C).take 2) = Arith.crc16 (q.take 0x7C))

/-- R376: VALID stands and the CRC is right. -/
def isRecord (q : List Byte) : Bool := !isTorn q && crcRight q

/-- VALID stands, and the CRC fails. -/
def isCorrupt (q : List Byte) : Bool := !isTorn q && !crcRight q

/-- SEQ of a record in flash. -/
def recordSeq (q : List Byte) : Nat := leValue (q.take 4)

/-- Positions after the last record below `first`: a read from `first` on passes these (R382, log 132). -/
def logTail (first : Nat) (ps : List (List Byte)) : List (List Byte) :=
  (ps.reverse.takeWhile (fun q => !(isRecord q && decide (recordSeq q < first)))).reverse

/-- Corrupt positions that a read of `count` records skips on its way. -/
def corruptSkipped : Nat → List (List Byte) → Nat
  | _, [] => 0
  | n, q :: qs => if n = 0 then 0 else if isRecord q then corruptSkipped (n - 1) qs else (if isCorrupt q then 1 else 0) + corruptSkipped n qs

def cmdLogRead (first count buf : Nat) (b : Body) : Body × CmdEnd :=
  if count = 0 ∨ 65536 < count then (b, fail stArgsBad)
  else
    let rs := ((b.score.flash.filter isRecord).filter (fun q => decide (first ≤ recordSeq q))).take count
    ({ b with host := { b.host with logOut := (buf, rs.flatMap id) :: b.host.logOut },
              score := { b.score with corrupt := wrap 32 (b.score.corrupt + corruptSkipped count (logTail first b.score.flash)) } },
     ok (.counter rs.length))

/-- R376, R379, R381: one queued record is programmed at the next position with the next SEQ; the last position fills the
log, and what is still queued is dropped. -/
def Score.program (k : Score) : Score :=
  match k.queue with
  | [] => k
  | r :: rs =>
    let flash := k.flash ++ [Record.bytes { r with seq := k.nextSeq }]
    if flash.length = recordPositions then
      { k with flash := flash, nextSeq := k.nextSeq + 1, queue := [], full := true,
               dropped := min (2 ^ 32 - 1) (k.dropped + rs.length) }
    else { k with flash := flash, nextSeq := k.nextSeq + 1, queue := rs }

def Score.programAll : Nat → Score → Score
  | 0, k => k
  | n + 1, k => Score.programAll n k.program

/-- R385 steps 2 to 5 and R386. -/
def Body.clearLog (b : Body) (authoriser number : Nat) : Body :=
  let k := Score.programAll b.score.queue.length b.score
  let r := b.makeRecord recClear (tLodge * 64) 0
    [authoriser, number, (k.flash.filter isRecord).length, k.dropped, (k.flash.filter isTorn).length]
  { b with score := { k with flash := [Record.bytes { r with seq := 0 }], nextSeq := 1, queue := [], dropped := 0, full := false,
                             clears := wrap 32 (k.clears + 1) } }

/-- The Lodge checks the token; in a debug state it refuses (R308). -/
def cmdLogClear (v : Vault) (authoriser number code : Nat) (b : Body) : Body × CmdEnd :=
  if !v.debug ∧ code = (Config.clearCode v.serial authoriser number).toNat ∧ number = wrap 32 (b.score.clears + 1) then
    (b.clearLog authoriser number, ok)
  else (b, fail stTokenBad)

/-! ## SELF_TEST, LINK_RELEASE, RETRAIN (R220, R222, R238, R243) -/

/-- A channel as Table 13.4 names it: 0 to 383 infield, 384 + n for outfield channel n (0x100 to 0x107; log 17). -/
def cmdChannel (c : Nat) : Option Nat :=
  if 0x100 ≤ c ∧ c ≤ 0x107 then some (384 + (c - 0x100)) else if c < 384 then some c else none

/-- Half of a channel numbered as `cmdChannel` numbers it. -/
def chanHalf (c : Nat) : Nat := if c < 384 then c / 192 else (c - 384) / 4

/-- The channel's slot is in RETIRED or OUT_RETIRED. -/
def Body.chanRetired (b : Body) (c : Nat) : Bool :=
  if c < 384 then b.store.retired.contains (slotOfChannel b.book.tables.interleave.slotMap c)
  else b.store.outRetired.contains (slotOfChannel b.book.tables.interleave.outSlotMap (c - 384))

/-- Some admitted fixture's grant touches the channel: a grant spreads over every channel of the map (R220). -/
def Body.chanGranted (b : Body) (c : Nat) : Bool :=
  !b.chanRetired c && b.parts.any (fun x => x.holds && (if c < 384 then !x.grant.infield.isEmpty else !x.grant.outfield.isEmpty))

/-- INF_BALL of a run (Table 9.17). -/
def MemCtl.ball (m : MemCtl) (chan : Nat) (r : BallResult) : MemCtl :=
  { m with ballErrors := min 0xFFFF r.errors, ballChannel := chan, ballDone := true, ballFirst := r.first / 64 % 2 ^ 36 }

/-- The registers of a FENCED half hold (R227, R228). -/
def Body.ballResult (b : Body) (c : Nat) (r : BallResult) : Body :=
  if b.fenced (chanHalf c) then b
  else if c < 384 then { b with store := { b.store with stackCtl := alter (c / 32) (fun m => m.ball (c % 32) r) b.store.stackCtl } }
  else { b with store := { b.store with outCtl := alter (chanHalf c) (fun m => m.ball ((c - 384) % 4) r) b.store.outCtl } }

/-- Content of slots is lost: their bytes read as free values until something rewrites them (Table 9.14; R220). -/
def Body.loseSlots (b : Body) (outfield : Bool) (slots : List Nat) : Body :=
  let before := if outfield then b.store.outRetired else b.store.retired
  { b with store := { b.store with lost := ⟨outfield, slots, before, b.free, [], []⟩ :: b.store.lost }, free := b.free + 1 }

def Body.chanSlot (b : Body) (c : Nat) : Nat :=
  if c < 384 then slotOfChannel b.book.tables.interleave.slotMap c
  else slotOfChannel b.book.tables.interleave.outSlotMap (c - 384)

def cmdSelfTest (chan pattern : Nat) (r : BallResult) (b : Body) : Body × CmdEnd :=
  match cmdChannel chan with
  | none => (b, fail stArgsBad)
  | some c =>
    if 3 < pattern then (b, fail stArgsBad)
    else if b.chanGranted c then (b, fail stBusy)
    else
      let b := b.ballResult c r
      (if pattern = 3 then b else b.loseSlots (decide (384 ≤ c)) [b.chanSlot c], ok (.counter r.errors))

def Body.alterLink (b : Body) (l : Nat) (f : Link → Link) : Body :=
  { b with net := { b.net with links := alter l f b.net.links } }

def cmdLinkRelease (l : Nat) (b : Body) : Body × CmdEnd :=
  if 48 ≤ l then (b, fail stArgsBad)
  else if (b.link l).state = .quarantine then
    (b.alterLink l (fun x => { x with state := .train, reason := 0, since := b.clock.now }), ok)
  else (b, fail stStateWrong)

def cmdRetrain (chan : Nat) (b : Body) : Body × CmdEnd :=
  match cmdChannel chan with
  | none => (b, fail stArgsBad)
  | some c =>
    if b.chanRetired c || b.fenced (chanHalf c) then (b, fail stStateWrong)
    else ({ b with store := { b.store with retrainQueue := b.store.retrainQueue ++ [⟨c, false, b.clock.beat, true⟩] } }, .running)

end Sys2Proof.Machine
end

