-- ==== Sys2Proof/Machine/Steps.lean ====
section
/-!
DEFINITION. Tokens and the scoreboard (R23 to R25, R437), the step an operation belongs to (R121 to R124), and abandoning and
replaying a step (R109 to R111).
-/

namespace Sys2Proof.Machine

/-! ## Tokens -/

/-- The producer's current count c (R24, R25). -/
def Partition.countOf (x : Partition) (producer : Nat) : Nat :=
  if producer < 3 then (x.streams.getD producer Stream.reset).count else x.beatCount

/-- The scoreboard entry of a token. -/
def Partition.bit? (x : Partition) (t : Token) : Option Done := x.board.find? (fun d => d.token == t)

/-- R24: where a token stands against its producer's count. -/
inductive TokenAge where
  | ahead | issued | old
  deriving DecidableEq, Repr

def tokenAge (c t : Nat) : TokenAge :=
  let ahead := (t + 2 ^ 30 - c % 2 ^ 30) % 2 ^ 30
  let behind := (c + 2 ^ 30 - t % 2 ^ 30) % 2 ^ 30
  if 1 ≤ ahead ∧ ahead ≤ 2 ^ 28 then .ahead else if behind ≤ 2 ^ 29 then .issued else .old

/-- R24: the token is complete. -/
def Partition.tokenDone (x : Partition) (t : Token) : Bool :=
  match tokenAge (x.countOf (tokProducer t)) (tokSeq t) with
  | .ahead => false
  | .issued => (x.bit? t).isSome
  | .old => true

/-- R437: the fault kind a completed token failed with. -/
def Partition.tokenFailed (x : Partition) (t : Token) : Option Nat :=
  match tokenAge (x.countOf (tokProducer t)) (tokSeq t) with
  | .issued => (x.bit? t).bind (·.failed)
  | _ => none

/-- A completion sets its token's bit (R23, R437). -/
def Partition.complete (x : Partition) (t : Token) (failed : Option Nat) : Partition :=
  { x with board := ⟨t, failed⟩ :: x.board.filter (fun d => d.token != t) }

/-- Completes a beat token: of a partition on its scoreboard, of the whole module in the module's own list (R25). -/
def Body.completeBeat (b : Body) (part : Nat) (t : Token) (failed : Option Nat) : Body :=
  if t = 0 then b
  else if part < 4 then b.alterPart part (fun x => x.complete t failed)
  else { b with sched := { b.sched with moduleDone := (t, failed.getD 0) :: b.sched.moduleDone.filter (fun d => d.1 != t) } }

/-! ## Steps -/

/-- The step counter value of the step an operation belongs to. -/
def Partition.stepOf (x : Partition) (op : StreamOp) : Nat := ((x.fix.map (·.firstStep)).getD 0) + op.step

/-- A serving fixture's STREAM_BWD holds no operations (R96). -/
def FixtureImage.serving (f : FixtureImage) : Bool := f.bwd.isEmpty

/-- The operation is an UPDATE of a layer of the early window (R122). -/
def FixtureImage.isEarly (f : FixtureImage) (op : StreamOp) : Bool :=
  match op.payload with
  | .update layer => (FixtureImage.early f).contains layer
  | _ => false

/-! ## Splitting a micro-batch (R110, R111) -/

/-- R110: the split point of `rows` rows whose sequences start at `starts`. -/
def splitPoint (starts : List Nat) (rows : Nat) : Option Nat :=
  let cand := starts.filter (fun s => decide (0 < s) && decide (s % 32 = 0) && decide (s < rows))
  let below := cand.filter (fun s => decide (s ≤ rows / 2))
  let above := cand.filter (fun s => decide (rows / 2 < s))
  match below.max? with
  | some s => some s
  | none => above.min?

/-- Pieces (first row, rows) of a micro-batch. DESIGN CHOICE: a micro-batch that is split again is split in the first of its largest pieces; R110
and R111 do not say which piece is (log 19). -/
def splitPieces (starts : List Nat) (ps : List (Nat × Nat)) : Option (List (Nat × Nat)) :=
  let big := ps.foldl (fun m p => max m p.2) 0
  match ps.find? (fun p => decide (p.2 = big)) with
  | none => none
  | some (lo, n) =>
    (splitPoint ((starts.filter (fun s => decide (lo ≤ s))).map (· - lo)) n).map (fun s =>
      ps.flatMap (fun p => if p = (lo, n) then [(lo, s), (lo + s, n - s)] else [p]))

/-- The pieces after `d` splits. -/
def piecesAfter (m : MicroBatch) : Nat → Option (List (Nat × Nat))
  | 0 => some [(0, m.rows)]
  | d + 1 => (piecesAfter m d).bind (splitPieces m.starts)

def Pass.depth (x : Pass) (mb : Nat) : Nat := ((x.splits.find? (fun s => s.1 = mb)).map (·.2)).getD 0

def Partition.microBatch? (x : Partition) (mb : Nat) : Option MicroBatch :=
  x.fix.bind (fun f => f.microBatches.find? (fun m => decide (m.mb = mb ∧ f.firstStep + m.step = x.pass.step)))

/-- Bytes of a bench entry of micro-batch `mb`: of its largest piece once it is split (log 19). -/
def Partition.entryBytes (x : Partition) (w : BenchWrite) : Nat :=
  match x.pass.depth w.mb, x.microBatch? w.mb with
  | 0, _ => w.bytes
  | d, some m =>
    match piecesAfter m d with
    | some ps => if m.rows = 0 then w.bytes else (w.bytes * (ps.foldl (fun k p => max k p.2) 0) + m.rows - 1) / m.rows
    | none => w.bytes
  | _, none => w.bytes

/-- R97: granules of 64 KiB that an entry takes with its 64-byte header. -/
def benchGranules (bytes : Nat) : Nat := (bytes + 64 + 65535) / 65536

/-! ## Abandoning a step (R109 steps 1 to 3) -/

/-- The operation belongs to the step in progress and to the forward or backward stream. -/
def Partition.inStep (x : Partition) (fl : Flight) : Bool :=
  decide (fl.stream < 2) && (match x.op? fl with
    | some op => decide (x.stepOf op = x.pass.step)
    | none => true)

/-- A token of the forward or backward stream that the replay issues again. -/
def Partition.replayed (x : Partition) (t : Token) : Bool :=
  let p := tokProducer t
  let from_ := x.pass.startCount.getD p 0
  let n := (x.countOf p + 2 ^ 30 - from_) % 2 ^ 30
  let d := (tokSeq t + 2 ^ 30 - from_) % 2 ^ 30
  decide (p < 2) && decide (n ≤ 2 ^ 29) && decide (1 ≤ d) && decide (d ≤ n)

/-- Bytes of a bucket's data: its elements, padded with +0 to a multiple of 2 KiB (R112). -/
def bucketBytes (k : BucketRec) : Nat := (2 * k.elements + 2047) / 2048 * 2048

/-- The bucket holds gradients of a step. -/
def Pass.fills (x : Pass) (id step : Nat) : Bool := x.buckets.any (fun k => decide (k.id = id) && decide (k.filled = some step))

/-- The gradient chains of a step: where its operations form them (R103, R109, R123). -/
def stepChains (f : FixtureImage) (x : Partition) (step : Nat) : List (Loc × Nat) :=
  (f.fwd ++ f.bwd ++ f.upd).filterMap (fun o => match o.payload with
    | .bucketAdd _ _ _ n chains _ => if x.stepOf o = step then some (chains, 4 * n) else none
    | _ => none)

/-- Buckets and gradient chains of a step start again at +0 (R109, R113, R123); what belongs to another step stays. -/
def Body.clearBuckets (b : Body) (p step : Nat) : Body :=
  match (b.part p).fix with
  | none => b
  | some img =>
    let b := (img.buckets.filter (fun k => (b.part p).pass.fills k.id step)).foldl (fun b k =>
      b.writeLoc p k.loc (List.replicate (64 + bucketBytes k) 0)) b
    let b := (stepChains img (b.part p) step).foldl (fun b (l, n) => b.writeLoc p l (List.replicate n 0)) b
    b.alterPart p (fun x => { x with pass := { x.pass with buckets := x.pass.buckets.map (fun k =>
      if k.filled = some step then { k with status := 0, reduced := none, failed := false, filled := none } else k) } })

/-- Flags of the STEP record that a replay does not take back: what was split, and what ran in the step that cannot be verified (R17). -/
def keptFlags (flags : Nat) : Nat := flags &&& (flagSplit ||| flagNotVerifiable)

/-- Streams 0 and 1 stand again where the step began. -/
def Partition.rewound (x : Partition) : Partition :=
  let gone := x.flights.filter x.inStep
  let back := fun (i : Nat) (s : Stream) =>
    if i < 2 ∧ x.pass.startPos.getD i 0 ≤ s.pos then
      { s with pos := x.pass.startPos.getD i 0, count := x.pass.startCount.getD i 0, waitSince := none }
    else s
  { x with flights := x.flights.filter (fun f => !gone.contains f),
           streams := x.streams.zipIdx.map (fun (s, i) => back i s),
           board := x.board.filter (fun d => !x.replayed d.token),
           pass := { x.pass with bench := [], benchHold := none, losses := [], lossEngine := none, flags := keptFlags x.pass.flags } }

/-- R109 steps 1 to 3: what the discarded operations hold elsewhere ends with them. -/
def Body.abandonStep (b : Body) (p : Nat) : Body :=
  let x := b.part p
  let gone := (x.flights.filter x.inStep).map (·.token)
  let b := b.dropAdds (fun a => decide (a.part = p) && gone.contains a.token)
  let b := { b with
    net := { b.net with reductions := b.net.reductions.filter (fun r => !(decide (r.part = p) && gone.contains r.token)) } }
  (b.alterPart p Partition.rewound).clearBuckets p x.pass.step

/-- R109: the step is abandoned and replayed; its units stop at block boundaries and go on (R65, R67). -/
def Body.replayStep (b : Body) (p : Nat) : Body :=
  let us := (b.part p).pitches
  let running := decide ((b.part p).fstate = .running)
  let b := (b.stopUnits us).abandonStep p
  if running then b.resumeUnits us else b

/-- R110: micro-batch `mb` is split once more for the replay. -/
def Partition.split (x : Partition) (mb : Nat) : Partition :=
  { x with pass := { x.pass with splits := (mb, x.pass.depth mb + 1) :: x.pass.splits.filter (fun s => decide (s.1 ≠ mb)),
                                 splitCount := wrap 32 (x.pass.splitCount + 1), flags := x.pass.flags ||| flagSplit } }

/-- The micro-batch can be split once more (R110, R111). -/
def Body.canSplit (b : Body) (p mb : Nat) : Bool :=
  let x := b.part p
  decide (x.pass.depth mb < b.book.tables.bench.splitMax) && (match x.microBatch? mb with
    | some m => (piecesAfter m (x.pass.depth mb + 1)).isSome
    | none => false)

end Sys2Proof.Machine
end

