-- ==== Sys2Proof/Machine/Layers.lean ====
section
/-!
DEFINITION. Layer state and its update: buckets (R105, R106, R112 to R114), the journal (R122, R123), and the UPDATE of one layer (R126 to R152).
-/

namespace Sys2Proof.Machine

open Arith

def Body.copySpans (b : Body) (p : Nat) (ss : List (Loc × Nat)) : List (Loc × List Byte) :=
  ss.map (fun s => (s.1, b.readLoc p s.1 s.2))

def Body.putSpans (b : Body) (p : Nat) (ss : List (Loc × List Byte)) : Body := ss.foldl (fun b s => b.writeLoc p s.1 s.2) b

/-! ## The journal (R122, R123, R152) -/

def setGroup (gs : List GroupState) (g : GroupState) : List GroupState := gs.map (fun x => if x.id = g.id then g else x)

/-- Place of byte `i` of the journal region. -/
def journalLoc (f : FixtureImage) (i : Nat) : Loc := { f.plan.journal with off := f.plan.journal.off + i }

/-- R122: the copy of a layer as its bytes: the spans in order, P1 and P2 of its groups, one byte of root validity for each KRON tensor
(log 84). -/
def Body.journalBytes (b : Body) (p : Nat) (f : FixtureImage) (layer : Nat) : List Byte :=
  let u := (b.part p).upd
  (journalSpans f layer).flatMap (fun s => b.readLoc p s.1 s.2)
    ++ (layerGroups f layer).flatMap (fun id =>
        let g := (u.groups.find? (fun g => decide (g.id = id))).getD ⟨id, 0, 0⟩
        leBytes g.p1 8 ++ leBytes g.p2 8)
    ++ (kronTensors f layer).map (fun id => if u.rootsValid.contains id then 1 else 0)

/-- Bytes of the journal region taken by the layers that it holds. -/
def journalUsed (f : FixtureImage) (js : List JournalEntry) : Nat := (js.map (fun j => layerBytes f j.layer)).foldl (· + ·) 0

/-- R122: before an early layer is updated it is copied into the journal region. -/
def Body.journalEntry (b : Body) (p : Nat) (f : FixtureImage) (layer : Nat) : Body :=
  let start := journalUsed f (b.part p).upd.journal
  (b.writeLoc p (journalLoc f start) (b.journalBytes p f layer)).alterPart p (fun x =>
    { x with upd := { x.upd with journal := ⟨layer, start⟩ :: x.upd.journal } })

/-- Spans take back consecutive bytes of the region from byte `i` on. -/
def Body.unjournal (b : Body) (p : Nat) (f : FixtureImage) : Nat → List (Loc × Nat) → Body
  | _, [] => b
  | i, (l, n) :: rest => (b.writeLoc p l (b.readLoc p (journalLoc f i) n)).unjournal p f (i + n) rest

/-- One layer goes back to its bits before the step (R123, R152): weights, carry, moments, factors and roots, P1 and P2, root validity. -/
def Body.undoLayer (b : Body) (p : Nat) (f : FixtureImage) (j : JournalEntry) : Body :=
  let spans := journalSpans f j.layer
  let ids := layerGroups f j.layer
  let ks := kronTensors f j.layer
  let g0 := j.start + spanBytes spans
  let word := fun (i : Nat) => leValue (b.readLoc p (journalLoc f (g0 + 8 * i)) 8)
  let groups := ids.zipIdx.map (fun (id, i) => (⟨id, word (2 * i), word (2 * i + 1)⟩ : GroupState))
  let valid := ks.zipIdx.filter (fun (_, i) => b.readLoc p (journalLoc f (g0 + 16 * ids.length + i)) 1 == [1])
  (b.unjournal p f j.start spans).alterPart p (fun x => { x with upd := { x.upd with
    groups := groups.foldl setGroup x.upd.groups,
    rootsValid := unionRising (valid.map (·.1)) (x.upd.rootsValid.filter (fun id => !ks.contains id)),
    rolledBack := wrap 32 (x.upd.rolledBack + 1) } })

/-- R123: the journal is copied back over every layer updated in the step, the newest first. -/
def Body.rollback (b : Body) (p : Nat) : Body :=
  let js := (b.part p).upd.journal
  let b := match (b.part p).fix with
    | some f => js.foldl (fun (c : Body) j => c.undoLayer p f j) b
    | none => b
  b.alterPart p (fun x => { x with upd := { x.upd with
    journal := [],
    advanced := x.upd.advanced.filter (fun a => decide (a.2 ≠ x.pass.step)) } })

/-! ## Buckets (R106, R112 to R114) -/

def bucketTensors (f : FixtureImage) (k : BucketRec) : List TensorRec := (f.tensors.drop k.first).take k.count

/-- R106: a bitmap, bit i in byte i div 8 at position i mod 8. -/
def packBits : Nat → List Bool → List Byte
  | 0, _ => []
  | n + 1, bs =>
    if bs.isEmpty then [] else
      BitVec.ofNat 8 (((bs.take 8).zipIdx.map (fun (x, i) => if x then 2 ^ i else 0)).foldl (· + ·) 0) :: packBits n (bs.drop 8)

def maskCrc (f : FixtureImage) (k : BucketRec) : Nat :=
  crc32 ((bucketTensors f k).flatMap (fun t => if t.maskMode = 0 then [] else packBits (t.mask.length + 1) t.mask))

/-- Loss-scale exponent that was in force for a step. -/
def Pass.scaleOf (x : Pass) (step : Nat) : Int :=
  if step = x.step then x.scaleExp else ((x.scaleAt.find? (fun s => s.1 = step)).map (·.2)).getD x.scaleExp

/-- R112: SCALE_EXP of a bucket is e + g. -/
def bucketHdr (f : FixtureImage) (x : Pass) (k : BucketRec) (step status : Nat) : BucketHdr :=
  ⟨k.id, step, k.elements, ofSigned 8 (x.scaleOf step + k.shift), maskCrc f k, status⟩

/-- Table 5.4: the 64 bytes of a header. -/
def hdrBytes (h : BucketHdr) : List Byte :=
  leBytes h.bucket 4 ++ leBytes h.elements 4 ++ leBytes h.step 8 ++ leBytes h.scaleExp 1 ++ leBytes 2 1 ++ leBytes 0 2
    ++ leBytes h.status 4 ++ leBytes h.maskCrc 4 ++ List.replicate 36 0

/-- R113: round16(b + v · 2^g), with its bits of Table 5.5; an element that is ∞ or NaN stays so. -/
def bucketElement (g : Int) (old v : Nat) : Nat × Nat :=
  let o := Fmt.binary16.decode old
  let x := o.add ((val32 v).scale g)
  let n := if o.isFinite then (Fmt.binary16.encode x).code else if o.isNaN then Fmt.binary16.spec.canonicalNaN else old
  (n, (if (Fmt.binary16.decode n).isFinite then 0 else 1) ||| (if o.isFinite && Fmt.binary16.overflows x then 2 else 0))

def Pass.alterBucket (x : Pass) (id : Nat) (f : Bucket → Bucket) : Pass :=
  { x with buckets := x.buckets.map (fun k => if k.id = id then f k else k) }

def Pass.bucket? (x : Pass) (id : Nat) : Option Bucket := x.buckets.find? (fun k => k.id = id)

/-- Where elements `first` to `first + n - 1` of a tensor lie in a bucket that packs the trained elements of its tensors (R105): the
bucket element they start at, and how many of them it holds. -/
def bucketRange (f : FixtureImage) (id tensor first n : Nat) : Option (Nat × Nat) :=
  match f.buckets.find? (fun k => decide (k.id = id)) with
  | none => none
  | some k =>
    let ts := bucketTensors f k
    match ts.find? (fun t => decide (t.id = tensor)) with
    | none => none
    | some t =>
      let before := ((ts.takeWhile (fun u => decide (u.id ≠ tensor))).map trainedCount).foldl (· + ·) 0
      let on := trainedList t
      some (before + ((on.take first).filter (fun x => x)).length, (((on.drop first).take n).filter (fun x => x)).length)

/-- Where element `i` of a bucket lies. -/
def elementLoc (k : BucketRec) (i : Nat) : Loc := { k.loc with off := k.loc.off + 64 + 2 * i }

/-- The bucket starts the step: every element +0, PARTIAL by its tensors' masks (R113, R114). -/
def Body.startBucket (b : Body) (p : Nat) (f : FixtureImage) (k : BucketRec) (step : Nat) : Body :=
  if ((b.part p).pass.bucket? k.id).any (fun x => x.filled = some step) then b
  else
    let partial_ := if (bucketTensors f k).any (fun t => decide (t.maskMode ≠ 0)) then 4 else 0
    (b.writeLoc p (elementLoc k 0) (List.replicate (bucketBytes k) 0)).alterPart p (fun x =>
      { x with pass := x.pass.alterBucket k.id (fun y => { y with status := partial_, filled := some step, failed := false }) })

/-- R105, R113: of a tensor's chains from element `first` on, those of its trained elements enter a bucket; the header follows the
status. -/
def Body.addToBucket (b : Body) (p : Nat) (id tensor first : Nat) (chains : List Nat) (step : Nat) : Body :=
  match (b.part p).fix with
  | none => b
  | some f =>
    match f.buckets.find? (fun k => k.id = id), f.tensors.find? (fun t => decide (t.id = tensor)),
      bucketRange f id tensor first chains.length with
    | some k, some t, some (lo, n) =>
      let b := b.startBucket p f k step
      let old := b.codes p (elementLoc k lo) .binary16 n
      let new := List.zipWith (bucketElement k.shift) old (keepMasked ((trainedList t).drop first) chains)
      let b := b.putCodes p (elementLoc k lo) .binary16 (new.map (·.1))
      let b := b.alterPart p (fun x => { x with pass := x.pass.alterBucket id (fun y =>
        { y with status := new.foldl (fun s e => s ||| e.2) y.status }) })
      let st := (((b.part p).pass.bucket? id).map (·.status)).getD 0
      b.writeLoc p k.loc (hdrBytes (bucketHdr f (b.part p).pass k step st))
    | _, _, _ => b

/-! ## The update of a layer -/

/-- SCALE_EXP of the bucket that carries a tensor's gradient (R128). -/
def gradientExp (f : FixtureImage) (x : Pass) (t : TensorRec) (step : Nat) : Int :=
  let shift := ((f.buckets.find? (fun k => (bucketTensors f k).any (fun u => decide (u.id = t.id)))).map (·.shift)).getD 0
  x.scaleOf step + shift

/-- R128: the gradient in FP32, element by element. -/
def Body.gradient (b : Body) (p : Nat) (f : FixtureImage) (t : TensorRec) (step : Nat) : List Nat :=
  let e := gradientExp f (b.part p).pass t step
  unpack (trainedList t) ((b.codes p t.g .binary16 (trainedCount t)).map (fun c =>
    (Fmt.fp32.encode ((Fmt.binary16.decode c).scale (-e))).code))

/-- A stored moment as FP32 codes, and whether a bell-grid record was malformed. -/
def Body.moment (b : Body) (p : Nat) (g : GroupRec) (l : Loc) (plan : BellPlan) (n : Nat) : List Nat × Bool :=
  match momentFmt g with
  | .bell =>
    let r := b.bellValues p l plan.pool plan.entries n
    (r.1.map ofBf16, r.2)
  | .bf16 => ((b.codes p l .bf16 n).map ofBf16, false)
  | t => (b.codes p l t n, false)

def Body.square (b : Body) (p : Nat) (l : Loc) (k : Nat) : Matrix32 := chop k k (b.codes p l .fp32 (k * k))

/-- A tensor's values as the rule meets them. -/
def Body.tensorData (b : Body) (p : Nat) (f : FixtureImage) (g : GroupRec) (t : TensorRec) (step : Nat) : TensorData × Bool :=
  let n := t.rows * t.cols
  let m := b.moment p g t.m t.mBell n
  let v := if hasV g then b.moment p g t.v t.vBell n else (List.replicate n 0, false)
  let sq := fun (l : Loc) (k : Nat) => if isKron g t && decide (k ≤ g.kronDimMax) then b.square p l k else []
  ({ w := b.codes p t.w .bf16 n
     c := if hasCarry g then (b.codes p t.c .int8 n).map (toSigned 8) else List.replicate n 0
     m := m.1, v := v.1, g := b.gradient p f t step, trained := trainedList t
     factorL := sq t.kL t.rows, factorR := sq t.kR t.cols, rootL := sq t.kQL t.rows, rootR := sq t.kQR t.cols
     rootsValid := (b.part p).upd.rootsValid.contains t.id }, m.2 || v.2)

/-- Blocks of 64 values that hold an element updated in the operation (R139). -/
def touchedBlocks (trained : List Bool) : List Nat :=
  ((blocksOf64 (trained.length + 1) trained).zipIdx.filter (fun x => x.1.any id)).map (·.2)

/-- R139: the blocks of a bell-grid moment that hold an updated element, encoded again. -/
def Body.momentBlocks (b : Body) (p : Nat) (l : Loc) (plan : BellPlan) (trained : List Bool) (vs : List Nat) : BellEncoding :=
  let touched := touchedBlocks trained
  let blks := blocks64 vs
  let kept := ((List.range blks.length).filter (fun k => !touched.contains k)).filterMap (fun k =>
    let r := b.bellRecord p l k
    if r.fp8 then some r.poolIndex else none)
  encodeBlocks kept plan.entries 0 (touched.map (fun k => (k, blks.getD k [])))

def Body.putMomentBell (b : Body) (p : Nat) (l : Loc) (plan : BellPlan) (trained : List Bool) (vs : List Nat) : Body × Bool :=
  let e := b.momentBlocks p l plan trained vs
  (b.putBell p l plan.pool e, e.lossy)

/-- R151: a moment of m or v as it would be stored is not finite: rounded to BF16, or as its bell-grid block decodes. DESIGN CHOICE: factors and
roots of KRON are no stored moments here (log 114). -/
def Body.momentBad (b : Body) (p : Nat) (g : GroupRec) (l : Loc) (plan : BellPlan) (trained : List Bool) (vs : List Nat) : Bool :=
  let on := fun (i : Nat) => trained.getD i false
  match momentFmt g with
  | .bell =>
    (b.momentBlocks p l plan trained vs).blocks.any (fun (k, blk) =>
      (blk.record.decode plan.entries ((blk.pool.map (·.2)).getD [])).zipIdx.any (fun (c, i) =>
        on (64 * k + i) && !(Fmt.bf16.decode c).isFinite))
  | t => vs.zipIdx.any (fun (x, i) => on i && !(val32 (if t = .bf16 then ofBf16 (toBf16 x) else x)).isFinite)

/-- A moment is stored; a masked element of a BF16 or FP32 moment keeps its bits. -/
def Body.putMoment (b : Body) (p : Nat) (g : GroupRec) (l : Loc) (plan : BellPlan) (trained : List Bool) (vs : List Nat) :
    Body × Bool :=
  match momentFmt g with
  | .bell => b.putMomentBell p l plan trained vs
  | .bf16 =>
    let old := b.codes p l .bf16 vs.length
    (b.putCodes p l .bf16 (List.zipWith (fun (x : Nat × Nat) on => if on then toBf16 x.1 else x.2) (vs.zip old) trained), false)
  | t => (b.putCodes p l t vs, false)

/-- What one tensor's update leaves. -/
structure TensorStep where
  group : GroupRec
  rec_ : TensorRec
  result : TensorResult
  bad : Bool
  malformed : Bool
  deriving DecidableEq, Repr

/-- The group's tensors that this module owns. -/
def ownedOf (f : FixtureImage) (id : Nat) : List TensorRec := f.tensors.filter (fun t => t.owned && decide (t.group = id))

/-- R138: the sum of squares that a group's clipping uses: of the layer, or of the whole group, whose owners' sums a collective
has combined in the accumulator numbered as the group (log 27). -/
def Body.clipSum (b : Body) (p : Nat) (f : FixtureImage) (layer step : Nat) (engine : Option Nat) (g : GroupRec) : Option XSum :=
  let squares := fun (ts : List TensorRec) => XSum.sum (ts.flatMap (fun t =>
    (keepMasked (trainedList t) (b.gradient p f t step)).map (fun x => (val32 x).mul (val32 x))))
  match gClip g.flags with
  | 1 => some (squares (((trainedTensors f layer).filter (fun x => decide (gClip x.1.flags = 1))).map (·.2)))
  | 2 =>
    match engine.bind (fun e => b.acc? p e g.id) with
    | some x => some x
    | none => some (squares (ownedOf f g.id))
  | _ => none

/-- Groups that clip a layer's tensors as groups. -/
def clipGroups (f : FixtureImage) (layer : Nat) : List Nat :=
  unionRising (((trainedTensors f layer).filter (fun x => !clipOff x.1 && decide (gClip x.1.flags = 2))).map (·.1.id)) []

/-- The exact sums that a layer's clipping converts, each once, with the terms that the UPDATE itself takes into them. -/
def Body.clipSums (b : Body) (p : Nat) (f : FixtureImage) (layer step : Nat) (engine : Option Nat) : List (Nat × XSum) :=
  let ts := (trainedTensors f layer).filter (fun x => !clipOff x.1)
  let count := fun (xs : List (GroupRec × TensorRec)) => (xs.map (fun x => trainedCount x.2)).foldl (· + ·) 0
  let one := fun (g : GroupRec) (n : Nat) => ((b.clipSum p f layer step engine g).map (fun x => (n, x))).toList
  (match ts.find? (fun x => decide (gClip x.1.flags = 1)) with
    | some x => one x.1 (count ((trainedTensors f layer).filter (fun y => decide (gClip y.1.flags = 1))))
    | none => [])
  ++ (clipGroups f layer).flatMap (fun id =>
    match ts.find? (fun x => decide (x.1.id = id)) with
    | some x => one x.1 (if (engine.bind (fun e => b.acc? p e id)).isSome then 0 else ((ownedOf f id).map trainedCount).foldl (· + ·) 0)
    | none => [])

/-- R137: P1 and P2 of a group are advanced once a step, before its first layer is updated. -/
def Upd.advance (u : Upd) (step : Nat) (g : GroupRec) : Upd :=
  if u.advanced.contains (g.id, step) then u
  else { u with advanced := (g.id, step) :: u.advanced.filter (fun a => decide (a.1 ≠ g.id)),
                groups := u.groups.map (fun x => if x.id = g.id then
                  ⟨g.id, fmul .fp64 x.p1 (toF64 g.beta1), fmul .fp64 x.p2 (toF64 g.beta2)⟩ else x) }

def Upd.group (u : Upd) (id : Nat) : GroupState := (u.groups.find? (fun g => g.id = id)).getD ⟨id, 0, 0⟩

/-- The update of one trained tensor, computed and not yet written. -/
def Body.stepTensor (b : Body) (p : Nat) (f : FixtureImage) (rule : UpdateRulesTable) (layer step : Nat) (engine : Option Nat)
    (x : GroupRec × TensorRec) : TensorStep :=
  let d := b.tensorData p f x.1 x.2 step
  let gs := (b.part p).upd.group x.1.id
  let factor := if clipOff x.1 then none else (b.clipSum p f layer step engine x.1).bind (clipFactor x.1.clip)
  let r := updateTensor rule x.1 x.2 step gs.p1 gs.p2 factor d.1
  let on := d.1.trained
  ⟨x.1, x.2, r, r.nonfinite || b.momentBad p x.1 x.2.m x.2.mBell on r.data.m
    || (hasV x.1 && b.momentBad p x.1 x.2.v x.2.vBell on r.data.v), d.2⟩

/-- One tensor's result is written; the flag says that an encode was lossy. -/
def Body.writeTensor (b : Body) (p : Nat) (s : TensorStep) : Body × Nat :=
  let g := s.group
  let t := s.rec_
  let d := s.result.data
  let b := b.putCodes p t.w .bf16 d.w
  let b := if hasCarry g then b.putCodes p t.c .int8 (d.c.map (ofSigned 8)) else b
  let m := b.putMoment p g t.m t.mBell d.trained d.m
  let v := if hasV g then m.1.putMoment p g t.v t.vBell d.trained d.v else (m.1, false)
  let put := fun (b : Body) (l : Loc) (k : Nat) (x : Matrix32) =>
    if isKron g t && decide (k ≤ g.kronDimMax) then b.putCodes p l .fp32 x.flatten else b
  let b := put (put (put (put v.1 t.kL t.rows d.factorL) t.kR t.cols d.factorR) t.kQL t.rows d.rootL) t.kQR t.cols d.rootR
  let b := b.alterPart p (fun y => { y with upd := { y.upd with
    rootsValid := if d.rootsValid then insertRising t.id y.upd.rootsValid else y.upd.rootsValid.filter (· != t.id),
    precond := if s.result.precond then wrap 32 (y.upd.precond + 1) else y.upd.precond,
    clamped := wrap 32 (y.upd.clamped + s.result.clamped),
    lastGroup := g.id } })
  (b, (if m.2 then 1 else 0) + (if v.2 then 1 else 0))

/-- R91: one message for each lossy encode. -/
def Body.bellMessages (b : Body) (engine : Nat) (tensor : Nat) : Nat → Body
  | 0 => b
  | n + 1 => (b.raise tEngine engine .corrected kBellPool tensor).bellMessages engine tensor n

/-- R187, R197: an engine's exact sums: their terms, and the conversions that met a flag. -/
def Body.countSums (b : Body) (e : Nat) (sums : List (Nat × XSum)) : Body :=
  { b with engines := alter e (fun x => { x with
      terms := wrap 64 (x.terms + (sums.map (·.1)).foldl (· + ·) 0),
      range := wrap 32 (x.range + (sums.filter (·.2.flagged)).length) }) b.engines }

/-- R150: a frozen tensor's gradient region takes +0, and the tensor is counted. DESIGN CHOICE: one that is in no bucket (R434) receives no
gradient, and its place takes +0 all the same (log 120). -/
def Body.frozenTensor (b : Body) (p : Nat) (t : TensorRec) : Body :=
  (b.writeLoc p t.g (List.replicate (2 * trainedCount t) 0)).alterPart p (fun x =>
    { x with upd := { x.upd with frozen := wrap 32 (x.upd.frozen + 1) } })

/-- R127, R136 to R152: the UPDATE of a layer. Answers the fault kind it fails with, and flags. DESIGN CHOICE: UPD_LAYERS and UPD_LAST take in
no layer that failed (log 115). -/
def Body.updateLayer (b : Body) (p layer step : Nat) (rule : UpdateRulesTable) (engine : Option Nat) : Body × Option Nat × Nat :=
  match (b.part p).fix with
  | none => (b, none, 0)
  | some f =>
    let frozen := (layerTensors f layer).filter (fun x => gFrozen x.1.flags)
    let b := frozen.foldl (fun b x => b.frozenTensor p x.2) b
    let ts := trainedTensors f layer
    let advance := fun (b : Body) => b.alterPart p (fun x => { x with upd := ts.foldl (fun u y => u.advance step y.1) x.upd })
    let steps := ts.map ((advance b).stepTensor p f rule layer step engine)
    let sums := b.clipSums p f layer step engine ++ steps.flatMap (·.result.sums)
    let flags := (if steps.any (·.malformed) then flagBellMalformed else 0)
      ||| (if sums.any (·.2.flagged) then flagXsumRange else 0)
    let e := engine.getD 4
    let b := b.countSums e sums
    if steps.any (·.bad) then
      let b := b.alterPart p (fun x => { x with upd := { x.upd with failed := wrap 32 (x.upd.failed + 1) } })
      (b.raise tPartition p .contained kUpdateNonfinite layer, some kUpdateNonfinite, flags)
    else
      let early := (FixtureImage.early f).contains layer && !ts.isEmpty && decide (step = (b.part p).pass.step)
      let b := advance (if early then b.journalEntry p f layer else b)
      let r := steps.foldl (fun (acc : Body × Nat) s =>
        let w := acc.1.writeTensor p s
        let b := w.1.bellMessages e s.rec_.id w.2
        (if s.result.precond then b.raise tEngine e .corrected kPrecond layer else b, acc.2 + w.2)) (b, 0)
      (r.1.alterPart p (fun x => { x with upd := { x.upd with layers := wrap 32 (x.upd.layers + 1), lastLayer := layer } }),
       none, flags ||| (if 0 < r.2 then flagBellLossy else 0))

end Sys2Proof.Machine
end

