-- ==== Sys2Proof/Machine/Attend.lean ====
section
/-!
DEFINITION. Attention (07): visibility (R161), query and key blocks (R155, R162), rows over a memory-plan region or a page list,
the walk of a list (R167 to R175), and the backward sweeps (R163, R164).
-/

namespace Sys2Proof.Machine

open Arith

/-! ## Visibility and blocks -/

/-- R161, Table 7.3. -/
def visibleTo (a : AttnParams) (written q start k : Nat) : Bool :=
  decide (start ≤ k) && decide (k < written) && (match a.mask with
    | .causal => decide (k ≤ q)
    | .window => decide (k ≤ q) && decide (q - k < a.window)
    | _ => true)

/-- Key and value of one position for one key-value head. -/
structure KeyVal where
  pos : Nat
  key : List FVal
  value : List FVal
  deriving DecidableEq, Repr

/-- Key blocks of 64 positions of a sequence that begins at START: block j holds START + 64j on (R155, R156). -/
def keyBlocks (written start : Nat) : List Nat := List.range ((written - start + 63) / 64)

/-- Positions of a key block. -/
def blockAt (start j : Nat) : List Nat := List.range' (start + 64 * j) 64

/-- The keys that a row meets, by key block of its sequence in ascending order (R155, R157). -/
def rowKeys (a : AttnParams) (written : Nat) (row : Nat × Nat) (kvs : List KeyVal) : List (List KeyPos) :=
  (keyBlocks written row.2).map (fun j =>
    (kvs.filter (fun x => (blockAt row.2 j).contains x.pos)).map (fun x =>
      ⟨(x.pos - row.2) % 64, visibleTo a written row.1 row.2 x.pos, x.key, x.value⟩))

/-- Query blocks of one key-value head: its rows, cut by Q_BLOCK; GROUP heads of a position are adjacent (R155). DESIGN CHOICE: they are cut
anew for each sequence (AttnSeq) of an operation; R155 does not say whether a block ends with one (log 118). -/
def queryBlocks (a : AttnParams) (rows : List (Nat × Nat)) : List (List (Nat × Nat)) :=
  let all := rows.flatMap (fun r => List.replicate a.group r)
  (List.range ((all.length + a.qBlock - 1) / max 1 a.qBlock)).map (fun i => (all.drop (i * a.qBlock)).take a.qBlock)

/-- Some row sees some position of key block `j` of the sequence that begins at `start`. -/
def blockSeen (a : AttnParams) (written : Nat) (rows : List (Nat × Nat)) (start j : Nat) : Bool :=
  rows.any (fun r => (blockAt start j).any (visibleTo a written r.1 r.2))

/-- Every row sees all 64 positions. -/
def blockFull (a : AttnParams) (written : Nat) (rows : List (Nat × Nat)) (start j : Nat) : Bool :=
  rows.all (fun r => (blockAt start j).all (visibleTo a written r.1 r.2))

/-- Pairs of a query block with the key blocks of the sequences that its rows belong to; each with its rows of that sequence, START and
number. -/
def blockPairs (a : AttnParams) (written : Nat) (rows : List (Nat × Nat)) : List (List (Nat × Nat) × Nat × Nat) :=
  (queryBlocks a rows).flatMap (fun qb => (qb.map (·.2)).eraseDups.flatMap (fun start =>
    (keyBlocks written start).map (fun j => (qb.filter (fun r => decide (r.2 = start)), start, j))))

/-- R162: block pairs skipped and compared entry by entry, over every key-value head. -/
def blockCounts (a : AttnParams) (written : Nat) (rows : List (Nat × Nat)) : Nat × Nat :=
  let pairs := blockPairs a written rows
  let skipped := (pairs.filter (fun x => !blockSeen a written x.1 x.2.1 x.2.2)).length
  let full := (pairs.filter (fun x => blockFull a written x.1 x.2.1 x.2.2)).length
  (a.hKv * skipped, a.hKv * (pairs.length - skipped - full))

/-! ## Rows -/

/-- Elements of a row-major array of `d`-vectors. -/
def Body.vectorAt (b : Body) (p : Nat) (l : Loc) (t : Fmt) (i d : Nat) : List Nat :=
  b.codes p { l with off := l.off + bytesFor t (i * d) } t d

/-- What the sequencer has of a sequence: positions written, rows (position, START), and keys and values by head. -/
structure SeqView where
  written : Nat
  rows : List (Nat × Nat)
  heads : List (List KeyVal)
  deriving DecidableEq, Repr

/-- A memory-plan region: positions × H_KV × D_H, keys and values alike (log 4). -/
def Body.planView (b : Body) (p : Nat) (a : AttnParams) (s : AttnSeq) : SeqView :=
  { written := s.written
    rows := s.rows
    heads := (List.range a.hKv).map (fun h => (List.range s.written).map (fun k =>
      ⟨k, (b.vectorAt p s.k a.kvFormat (k * a.hKv + h) a.dH).map a.kvFormat.decode,
        (b.vectorAt p s.v a.kvFormat (k * a.hKv + h) a.dH).map a.kvFormat.decode⟩)) }

/-- Query vector of row (position index `i`, query head `h`). -/
def Body.query (b : Body) (p : Nat) (a : AttnParams) (s : AttnSeq) (i h : Nat) : List FVal :=
  (b.vectorAt p s.q a.qFormat (i * (a.hKv * a.group) + h) a.dH).map a.qFormat.decode

/-- Rows of a sequence: position index and query head, with the row's (position, START). -/
def rowList (a : AttnParams) (w : SeqView) : List (Nat × Nat × Nat × Nat) :=
  w.rows.zipIdx.flatMap (fun (r, i) => (List.range (a.hKv * a.group)).map (fun h => (i, h, r.1, r.2)))

def Body.rowOf (b : Body) (p : Nat) (a : AttnParams) (s : AttnSeq) (w : SeqView) (x : Nat × Nat × Nat × Nat) : RowResult :=
  attentionRow (scoreFactor a.scale) (b.query p a s x.1 x.2.1) a.dH
    (rowKeys a w.written (x.2.2.1, x.2.2.2) (w.heads.getD (x.2.1 / max 1 a.group) []))

/-- R158: outputs in OUT_FORMAT, log-sum-exps in FP32 where LSE_OUT is 1. -/
def Body.writeRow (b : Body) (p : Nat) (a : AttnParams) (s : AttnSeq) (x : Nat × Nat × Nat × Nat) (r : RowResult) : Body :=
  let k := x.1 * (a.hKv * a.group) + x.2.1
  let b := b.putCodes p { s.out with off := s.out.off + bytesFor a.outFormat (k * a.dH) } a.outFormat
    (r.out.map (fun c => (convert .fp32 a.outFormat c).code))
  if a.lseOut then b.putCodes p { s.lse with off := s.lse.off + 4 * k } .fp32 [r.lse] else b

/-- R162: the block pairs of a pass are counted once for each key-value head. -/
def Body.countBlocks (b : Body) (p : Nat) (a : AttnParams) (w : SeqView) : Body :=
  let blk := blockCounts a w.written w.rows
  b.alterPart p (fun x => { x with attn := { x.attn with
    skipped := wrap 32 (x.attn.skipped + blk.1), partial_ := wrap 32 (x.attn.partial_ + blk.2) } })

/-- Weights that the exact-sum unit takes over all rows (R157, R197). -/
def weightTerms (rs : List ((Nat × Nat × Nat × Nat) × RowResult)) : Nat := (rs.map (·.2.terms)).foldl (· + ·) 0

/-- VE_XSUM counts terms. -/
def Body.countTerms (b : Body) (e n : Nat) : Body :=
  { b with engines := alter e (fun x => { x with terms := wrap 64 (x.terms + n) }) b.engines }

/-- Rows written, with ATTN_ROWS and the block counts; the flag is NAN_SEEN. -/
def Body.forwardRows (b : Body) (p : Nat) (a : AttnParams) (e : Nat) (s : AttnSeq) (w : SeqView) : Body × Nat :=
  let rs := (rowList a w).map (fun x => (x, b.rowOf p a s w x))
  let empty := (rs.filter (fun y => decide (y.2.status = .empty))).length
  let nan := (rs.filter (fun y => decide (y.2.status = .nan))).length
  let b := ((rs.foldl (fun b y => b.writeRow p a s y.1 y.2) b).countBlocks p a w).countTerms e (weightTerms rs)
  (b.alterPart p (fun x => { x with attn := { x.attn with
    empty := wrap 32 (x.attn.empty + empty), nan := wrap 32 (x.attn.nan + nan) } }),
   if 0 < nan then flagNanSeen else 0)

/-! ## The backward sweeps (R163, R164, Table 7.4) -/

/-- dO of a row. The formats of dO, of g_lse and D, and of dQ, dK and dV in memory are FP32: DESIGN CHOICE (log 85). -/
def Body.dOutOf (b : Body) (p : Nat) (a : AttnParams) (s : AttnSeq) (x : Nat × Nat × Nat × Nat) : List Nat :=
  b.vectorAt p s.dOut .fp32 (x.1 * (a.hKv * a.group) + x.2.1) a.dH

def Body.gLseOf (b : Body) (p : Nat) (a : AttnParams) (s : AttnSeq) (x : Nat × Nat × Nat × Nat) : Nat :=
  match s.gLse with
  | some l => (b.vectorAt p l .fp32 (x.1 * (a.hKv * a.group) + x.2.1) 1).headD 0
  | none => 0

/-- Sweep 1: D of every row; XSUM_RANGE where an exact sum of D met a flag (R187). -/
def Body.sweep1 (b : Body) (p : Nat) (a : AttnParams) (e : Nat) (s : AttnSeq) (w : SeqView) : Body × Nat :=
  let rs := (rowList a w).map (fun x => (x, b.rowOf p a s w x))
  let sums := rs.map (fun y => (a.dH, sumProducts (b.dOutOf p a s y.1) y.2.out))
  let b' := rs.foldl (fun b' y =>
    b'.putCodes p { s.dD with off := s.dD.off + 4 * (y.1.1 * (a.hKv * a.group) + y.1.2.1) } .fp32
      [backD (b.dOutOf p a s y.1) y.2.out (b.gLseOf p a s y.1)]) b
  (((b'.countBlocks p a w).countTerms e (weightTerms rs)).countSums e sums, if sums.any (·.2.flagged) then flagXsumRange else 0)

/-- P and dS of a row for one position: none for a position not visible, or a row that sees nothing; NaN for a NaN row. -/
def Body.termOf (b : Body) (p : Nat) (a : AttnParams) (s : AttnSeq) (w : SeqView) (x : Nat × Nat × Nat × Nat) (r : RowResult)
    (kv : KeyVal) : Option BackTerm :=
  if !visibleTo a w.written x.2.2.1 x.2.2.2 kv.pos then none
  else match r.status with
    | .empty => none
    | .nan => some ⟨Fmt.fp32.spec.canonicalNaN, Fmt.fp32.spec.canonicalNaN⟩
    | .ok =>
      let d := (b.vectorAt p s.dD .fp32 (x.1 * (a.hKv * a.group) + x.2.1) 1).headD 0
      some (backTerm (scoreFactor a.scale) a.scale (b.query p a s x.1 x.2.1) r (b.dOutOf p a s x) d
        ⟨(kv.pos - x.2.2.2) % 64, true, kv.key, kv.value⟩)

/-- A chain over terms (coefficient, vector), one output element per place of the vector: an absent term forms no product. -/
def chainTerms (d : Nat) (ts : List (Option Nat × List FVal)) : List Nat :=
  (List.range d).map (fun e =>
    let ps := ts.map (fun t => match t.1 with
      | some c => (val32 c).mul (t.2.getD e (.fin false 0 0))
      | none => .fin false 0 0)
    chain 0 (((spansOf (ps.length + 1) ps).map spanSum).map spanFp32))

/-- R164: chains over query rows count them within the micro-batch: the products of the rows before the sequence's own in their span. -/
def rowsBefore (a : AttnParams) (s : AttnSeq) : List (Option Nat × List FVal) := List.replicate (s.row0 * a.group % 32) (none, [])

/-- Sweep 2: dQ by row, over the positions of its own sequence, dK and dV by position and key-value head. DESIGN CHOICE: positions of a key
block that every query block skips take +0 in the memory-plan form, and are left as they are in the page-list form, whose walk does not read
them (log 118). -/
def Body.sweep2 (b : Body) (p : Nat) (a : AttnParams) (s : AttnSeq) (w : SeqView) : Body :=
  let rows := (rowList a w).map (fun x => (x, b.rowOf p a s w x))
  let hq := a.hKv * a.group
  let b1 := rows.foldl (fun b' y =>
    let kvs := (w.heads.getD (y.1.2.1 / max 1 a.group) []).filter (fun kv => decide (y.1.2.2.2 ≤ kv.pos))
    b'.putCodes p { s.dQ with off := s.dQ.off + 4 * ((y.1.1 * hq + y.1.2.1) * a.dH) } .fp32
      (chainTerms a.dH (kvs.map (fun kv => ((b.termOf p a s w y.1 y.2 kv).map (·.ds), kv.key))))) b
  (List.range a.hKv).foldl (fun b' h =>
    let mine := rows.filter (fun y => decide (y.1.2.1 / max 1 a.group = h))
    (w.heads.getD h []).foldl (fun b' kv =>
      let ts := mine.map (fun y => (y.1, b.termOf p a s w y.1 y.2 kv))
      let off := 4 * ((kv.pos * a.hKv + h) * a.dH)
      let b' := b'.putCodes p { s.dK with off := s.dK.off + off } .fp32
        (chainTerms a.dH (rowsBefore a s ++ ts.map (fun t => (t.2.map (·.ds), b.query p a s t.1.1 t.1.2.1))))
      b'.putCodes p { s.dV with off := s.dV.off + off } .fp32
        (chainTerms a.dH (rowsBefore a s ++ ts.map (fun t => (t.2.map (·.p), (b.dOutOf p a s t.1).map val32))))) b')
    (b1.countBlocks p a w)

/-- The rows of one pass over a sequence: what they leave, and flags. -/
def Body.runPass (b : Body) (p : Nat) (a : AttnParams) (pass : AttnPass) (e : Nat) (s : AttnSeq) (w : SeqView) : Body × Nat :=
  match pass with
  | .forward => b.forwardRows p a e s w
  | .sweep1 => b.sweep1 p a e s w
  | .sweep2 => (b.sweep2 p a s w, 0)

/-! ## Page lists (R167, R168, R172) -/

/-- Table 7.6, as a walk reads it. -/
structure ListHeader where
  generation : Nat
  flags : Nat
  entries : Nat
  capacity : Nat
  tokens : Nat
  tokensRsvd : Nat
  pool : Nat
  rsvd : Bool
  deriving DecidableEq, Repr

def Body.listHeaderAt (b : Body) (p off : Nat) : ListHeader :=
  let bs := b.readLoc p ⟨.infield, off⟩ 64
  let w := fun (i n : Nat) => leValue ((bs.drop i).take n)
  ⟨w 0 4, w 4 4, w 8 4, w 12 4, w 16 6, w 22 2, w 24 2, (bs.drop 26).any (fun x => decide (x ≠ 0))⟩

/-- R168. -/
def slotOfToken (q : PoolRec) (t : Nat) : Nat := if q.span = 0 then t / 16 else t / 16 % (q.span / 16)

def Body.listEntry (b : Body) (p off k : Nat) : Nat := leValue (b.readLoc p ⟨.infield, off + 64 + 4 * k⟩ 4)

/-- R172: the header checks. -/
def headerBad (q : PoolRec) (h : ListHeader) : Bool :=
  decide (h.pool ≠ q.id) || decide (h.capacity = 0 ∨ 65536 < h.capacity) || decide (h.capacity < h.entries)
    || decide (2 ≤ h.flags) || decide (h.tokensRsvd ≠ 0) || h.rsvd
    || decide ((h.flags % 2 = 1) ≠ (q.span ≠ 0)) || (decide (h.flags % 2 = 1) && decide (h.capacity ≠ q.span / 16))

def elemBytes (t : Fmt) : Nat := t.bits / 8

/-- Place of page `page` of layer `layer` of a pool (R165). -/
def pageOff (q : PoolRec) (layer page : Nat) : Nat := q.base + layer * q.layerStride + page * q.pageBytes

/-- Place of token slot `i` of a page for head `h`: a key, or with `value` its value. -/
def tokenOff (q : PoolRec) (layer page h i : Nat) (value : Bool) : Nat :=
  let e := elemBytes q.kvFormat
  pageOff q layer page + (if value then q.hKv * 16 * q.dH * e else 0) + (h * 16 + i) * q.dH * e

/-- How a walk ended: the fault kind, if any; whether its output is written. -/
structure WalkEnd where
  fault : Option Nat
  writes : Bool
  advanced : Bool
  deriving DecidableEq, Repr

/-- A page's token slot takes a token: a lost page counts it (Table 9.14). -/
def Attn.wroteSlot (x : Attn) (pool page slot : Nat) : Attn :=
  { x with lostPages := (x.lostPages.map (fun l =>
      if l.1 = pool ∧ l.2.1 = page then (l.1, l.2.1, insertRising slot l.2.2) else l)).filter (fun l => decide (l.2.2.length < 16)) }

/-- Token `t` of the new ones is written into its page: key and value of every head. -/
def Body.appendToken (b : Body) (p : Nat) (q : PoolRec) (layer : Nat) (s : AttnSeq) (off t i : Nat) : Body :=
  let page := b.listEntry p off (slotOfToken q t)
  let n := q.dH * elemBytes q.kvFormat
  let b := (List.range q.hKv).foldl (fun b h =>
    let at_ := (i * q.hKv + h) * n
    let key := b.readLoc p { s.k with off := s.k.off + at_ } n
    let value := b.readLoc p { s.v with off := s.v.off + at_ } n
    (b.writeLoc p ⟨.infield, tokenOff q layer page h (t % 16) false⟩ key).writeLoc p
      ⟨.infield, tokenOff q layer page h (t % 16) true⟩ value) b
  b.alterPart p (fun x => { x with attn := x.attn.wroteSlot q.id page (t % 16) })

/-- Query rows of a paged sequence: its last positions (R161). -/
def pagedRows (written queries : Nat) : List (Nat × Nat) := (List.range' (written - queries) (min queries written)).map (fun k => (k, 0))

/-- Slots that the walk reads, each once: those of key blocks not skipped that hold tokens below `written` (R172). -/
def slotsRead (a : AttnParams) (q : PoolRec) (written : Nat) (rows : List (Nat × Nat)) : List Nat :=
  let blks := (keyBlocks written 0).filter (blockSeen a written rows 0)
  ((blks.flatMap (fun j => (List.range' (4 * j) 4).filter (fun s => decide (16 * s < written)))).map (fun s =>
    if q.span = 0 then s else s % (q.span / 16))).eraseDups

/-- Keys and values of a paged sequence, from the pages that its blocks name, each slot as it stands after the appends (R172). -/
def Body.pagedView (b : Body) (p : Nat) (a : AttnParams) (q : PoolRec) (layer off written : Nat) (rows : List (Nat × Nat)) : SeqView :=
  let seen := (keyBlocks written 0).filter (blockSeen a written rows 0)
  let ks := seen.flatMap (fun j => (List.range' (64 * j) 64).filter (fun k => decide (k < written)))
  { written := written
    rows := rows
    heads := (List.range q.hKv).map (fun h => ks.map (fun k =>
      let page := b.listEntry p off (slotOfToken q k)
      let rd := fun v => (b.codes p ⟨.infield, tokenOff q layer page h (k % 16) v⟩ q.kvFormat q.dH).map q.kvFormat.decode
      ⟨k, rd false, rd true⟩)) }

/-- The first fault of R172 before any write, in its order. -/
def Body.walkCheck (b : Body) (p : Nat) (q : PoolRec) (off n : Nat) : Option Nat :=
  let h := b.listHeaderAt p off
  if (b.part p).attn.lostLists.contains off || headerBad q h then some kListMalformed
  else (List.range' h.tokens n).findSome? (fun t =>
    if h.entries ≤ slotOfToken q t then some kListShort
    else if q.pages ≤ b.listEntry p off (slotOfToken q t) then some kPageRange
    else none)

/-- A walk's counters: walks, invalid sequences, edits, bad lists. -/
def Body.countWalk (b : Body) (p : Nat) (e : WalkEnd) (slices : Nat) : Body :=
  b.alterPart p (fun x => { x with attn := { x.attn with
    walks := if e.writes then wrap 32 (x.attn.walks + 1) else x.attn.walks,
    invalid := if e.fault.isSome then wrap 32 (x.attn.invalid + 1) else x.attn.invalid,
    edited := if e.fault = some kListEdited then wrap 32 (x.attn.edited + 1) else x.attn.edited,
    badList := if !e.writes then wrap 32 (x.attn.badList + 1) else x.attn.badList,
    reads := wrap 48 (x.attn.reads + slices) } })

/-- A walk fails at once (Table 7.7). -/
def Body.failWalk (b : Body) (p off kind slices : Nat) : Body × Bool × Nat :=
  ((b.countWalk p ⟨some kind, false, false⟩ slices).raise tPartition p .contained kind (off / 64), true, 0)

/-- R172 to R174: the walk of one sequence; `g0` is the GENERATION read at its start. Answers whether the sequence is invalid,
and flags. -/
def Body.walk (b : Body) (p : Nat) (a : AttnParams) (q : PoolRec) (layer : Nat) (pass : AttnPass) (e : Nat) (s : AttnSeq) (off g0 : Nat) :
    Body × Bool × Nat :=
  match b.walkCheck p q off s.newTokens with
  | some kind => b.failWalk p off kind 0
  | none =>
    let h := b.listHeaderAt p off
    let written := h.tokens + s.newTokens
    let b := (List.range s.newTokens).foldl (fun b i => b.appendToken p q layer s off (h.tokens + i) i) b
    let rows := pagedRows written s.queries
    let pages := (slotsRead a q written rows).map (b.listEntry p off)
    if pages.any (fun e => decide (q.pages ≤ e)) then
      b.failWalk p off kPageRange (2 * q.hKv * (pages.takeWhile (fun e => decide (e < q.pages))).length)
    else
      let w := b.pagedView p a q layer off written rows
      let r := b.runPass p a pass e s w
      let b := r.1
      let lost := (pages.filter (fun e => (b.part p).attn.lostPages.any (fun l => decide (l.1 = q.id ∧ l.2.1 = e)))).head?
      let edited := decide (g0 % 2 = 1) || decide ((b.listHeaderAt p off).generation ≠ g0)
      let b := b.writeLoc p ⟨.infield, off + 16⟩ (leBytes written 8)
      let b := match lost with
        | some page => b.raise tPartition p .contained kPageLost (q.id + 256 * page)
        | none => b
      let b := if edited then b.raise tPartition p .contained kListEdited (off / 64) else b
      let fault := if edited then some kListEdited else if lost.isSome then some kPageLost else none
      (b.countWalk p ⟨fault, true, true⟩ (2 * q.hKv * pages.length), fault.isSome, r.2)

/-- One sequence of an attention operation. -/
def Body.attendSeq (b : Body) (p : Nat) (a : AttnParams) (layer : Nat) (pass : AttnPass) (e g0 : Nat) (s : AttnSeq) : Body × Bool × Nat :=
  match s.list, a.pool.bind (fun id => (b.part p).fix.bind (fun f => poolOf f id)) with
  | some off, some q => b.walk p a q layer pass e s off g0
  | _, _ =>
    let r := b.runPass p a pass e s (b.planView p a s)
    (r.1, false, r.2)

/-- R176, R177: the sequences of a batch in batch order: indices marked invalid, and flags. -/
def Body.attend (b : Body) (p : Nat) (a : AttnParams) (layer : Nat) (pass : AttnPass) (e : Nat) (gens : List Nat) (seqs : List AttnSeq) :
    Body × List Nat × Nat :=
  seqs.zipIdx.foldl (fun acc (s, i) =>
    let r := acc.1.attendSeq p a layer pass e (gens.getD i 0) s
    (r.1, if r.2.1 then acc.2.1 ++ [i] else acc.2.1, acc.2.2 ||| r.2.2)) (b, [], 0)

/-- GENERATION of each sequence's list, read as the walks begin (R172). -/
def Body.generations (b : Body) (p : Nat) (seqs : List AttnSeq) : List Nat :=
  seqs.map (fun s => match s.list with
    | some off => (b.listHeaderAt p off).generation
    | none => 0)

end Sys2Proof.Machine
end

