-- ==== Sys2Proof/Machine/Banks.lean ====
section
/-!
DEFINITION. Stationary banks of a pitch (03, R43 to R47, R57, R66, R102): what a load puts into the cells of a rectangle, and what the
active banks hold (log 82).
-/

namespace Sys2Proof.Machine

open Arith

/-- A matrix as banks take it: rows of codes, and its E8M0 codes, one run for each output index (R79). -/
structure Held where
  fmt : Fmt
  rows : Nat
  cols : Nat
  codes : List (List Nat)
  scales : List Nat
  deriving DecidableEq, Repr

/-- Contraction indices, or output indices in COLUMN read, that one cell row covers (03, "Modes and formats"). -/
def cellSlots (t : Fmt) : Nat :=
  match t.bits with
  | 4 => 128
  | 8 => 64
  | _ => 32

def bankSize : Nat := 512 * 512 * 64

def scaleBankSize : Nat := 512 * 512 * 4

/-- First byte of a cell in a bank, by its cell row and column. -/
def cellBase (bank y x : Nat) : Nat := bank * bankSize + (y * 512 + x) * 64

def scaleReg (bank y x i : Nat) : Nat := bank * scaleBankSize + (y * 512 + x) * 4 + i

/-- A cell takes its values; in FP32 the two banks join, the upper halves in SB1. -/
def putCell (m : Memory) (t : Fmt) (bank y x : Nat) (vs : List Nat) : Memory :=
  if t.bits = 32 then
    (m.write (cellBase 0 y x) (vs.flatMap (fun v => leBytes v 2))).write (cellBase 1 y x) (vs.flatMap (fun v => leBytes (v / 65536) 2))
  else m.write (cellBase bank y x) (bytesOf t vs)

/-- The first `n` values of a cell. -/
def getCell (m : Memory) (t : Fmt) (bank y x n : Nat) : List Nat :=
  if t.bits = 32 then
    List.zipWith (fun lo hi => lo + 65536 * hi) (wordsOf 2 n (m.read (cellBase 0 y x) (2 * n))) (wordsOf 2 n (m.read (cellBase 1 y x) (2 * n)))
  else codesOf t n (m.read (cellBase bank y x) (bytesFor t n))

/-- Tiles of a rectangle, 32 to a row. -/
def rectTiles (r : Rect) : List Nat := (List.range r.h).flatMap (fun i => (List.range r.w).map (fun j => (r.row + i) * 32 + (r.col + j)))

/-- The bank that the rectangle's cells compute with: 0 for SB0. -/
def Pitch.activeBank (x : Pitch) (r : Rect) : Nat := if x.active.contains (r.row * 32 + r.col) then 1 else 0

/-- R57: the cells of the rectangle swap banks. -/
def Pitch.swapBanks (x : Pitch) (r : Rect) : Pitch :=
  let ts := rectTiles r
  { x with active := if x.activeBank r = 0 then unionRising ts x.active else x.active.filter (fun t => !ts.contains t) }

/-- Where the scale register of output index `o` and span `g` lies: in ROW read in the cells of column `o`, in COLUMN read in
those of the strip that the span covers, register j div 32 of cell j mod 32 for slot j. -/
def scalePlace (rd : ReadDir) (t : Fmt) (bank : Nat) (r : Rect) (o g : Nat) : Nat :=
  let n := cellSlots t
  match rd with
  | .row => scaleReg bank (16 * r.row + g / (n / 32)) (16 * r.col + o) (g % (n / 32))
  | .column => scaleReg bank (16 * r.row + o / n) (16 * r.col + 32 * g + o % n % 32) (o % n / 32)

/-- Output indices and contraction length of a matrix in a read direction. -/
def Held.outs (h : Held) (rd : ReadDir) : Nat := match rd with
  | .row => h.cols
  | .column => h.rows

def Held.depth (h : Held) (rd : ReadDir) : Nat := match rd with
  | .row => h.rows
  | .column => h.cols

/-- One load into the inactive bank of the rectangle, and the swap (R57). -/
def Pitch.load (x : Pitch) (rd : ReadDir) (r : Rect) (h : Held) : Pitch :=
  let n := cellSlots h.fmt
  let bank := 1 - x.activeBank r
  let cells := (List.range ((h.rows + n - 1) / n)).flatMap (fun y => (List.range h.cols).map (fun c => (y, c)))
  let sb := cells.foldl (fun m (y, c) =>
    putCell m h.fmt bank (16 * r.row + y) (16 * r.col + c) (((h.codes.drop (y * n)).take n).map (fun row => row.getD c 0))) x.sb
  let spans := (h.depth rd + 31) / 32
  let mx := h.scales.zipIdx.foldl (fun (m : Memory) (s, i) =>
    m.set (scalePlace rd h.fmt bank r (i / max 1 spans) (i % max 1 spans)) (BitVec.ofNat 8 s)) x.mxScale
  let x := { x with sb := sb, mxScale := mx }
  if h.fmt.bits = 32 then x else x.swapBanks r

/-- Part of a matrix: rows from `i`, columns from `j`, with the scales of its outputs and spans. -/
def Held.part (h : Held) (rd : ReadDir) (i j rows cols : Nat) : Held :=
  let spans := (h.depth rd + 31) / 32
  let (o, g) := match rd with
    | .row => (j, i / 32)
    | .column => (i, j / 32)
  let codes := ((h.codes.drop i).take rows).map (fun row => (row.drop j).take cols)
  let h' : Held := ⟨h.fmt, min rows (h.rows - i), min cols (h.cols - j), codes, []⟩
  { h' with scales := if h.scales.isEmpty then [] else (List.range (h'.outs rd)).flatMap (fun k =>
      ((h.scales.drop ((o + k) * spans)).drop g).take ((h'.depth rd + 31) / 32)) }

/-- The loads of an operation (R49): for each block of outputs that the rectangle holds, its K steps in ascending order. -/
def Held.loads (h : Held) (rd : ReadDir) (r : Rect) : List Held :=
  let n := 16 * r.h * cellSlots h.fmt
  let m := 16 * r.w
  let rows := (List.range ((h.rows + n - 1) / max 1 n)).map (· * n)
  let cols := (List.range ((h.cols + m - 1) / max 1 m)).map (· * m)
  match rd with
  | .row => cols.flatMap (fun j => rows.map (fun i => h.part rd i j n m))
  | .column => rows.flatMap (fun i => cols.map (fun j => h.part rd i j n m))

/-- What the active banks of a rectangle hold, as a matrix of a format (R102). -/
def Pitch.left (x : Pitch) (rd : ReadDir) (r : Rect) (t : Fmt) (rows cols : Nat) : Held :=
  let n := cellSlots t
  let bank := x.activeBank r
  let cell := fun (y c : Nat) => getCell x.sb t bank (16 * r.row + y) (16 * r.col + c) n
  let bands := (List.range ((rows + n - 1) / n)).map (fun y => (List.range cols).map (cell y))
  let codes := (List.range rows).map (fun k => ((bands.getD (k / n) []).map (fun c => c.getD (k % n) 0)))
  let h : Held := ⟨t, rows, cols, codes, []⟩
  let spans := (h.depth rd + 31) / 32
  { h with scales := if t.isMx then (List.range (h.outs rd * spans)).map (fun i =>
      (x.mxScale.get (scalePlace rd t bank r (i / max 1 spans) (i % max 1 spans))).toNat) else [] }

/-- The rectangle of a pitch stage and the pitch it lies on. -/
def Partition.stageRect (x : Partition) (st : Stage) : Rect × Nat :=
  let r := st.rects.headD ⟨4, 0, 0, 0, 0⟩
  (r, x.pitches.getD r.pitch 4)

/-- The stage's rectangle takes the loads of a matrix. -/
def Body.loadRect (b : Body) (p : Nat) (st : Stage) (rd : ReadDir) (h : Held) : Body :=
  let r := (b.part p).stageRect st
  { b with pitches := alter r.2 (fun x => (h.loads rd r.1).foldl (fun x k => x.load rd r.1 k) x) b.pitches }

end Sys2Proof.Machine
end

