-- ==== Sys2Proof/Machine/Compute.lean ====
section
/-!
DEFINITION. What an operation computes when it completes: products (03, R46 to R53, R58, R59; 04), convolutions (03), vector
instructions (08, Table 8.2), bucket additions (05, R103, R113), with the poison and the bank rules of chapter 09.
-/

namespace Sys2Proof.Machine

open Arith

/-! ## Operands of a product -/

/-- A stationary operand as a product meets it: one vector of contraction values for each output index, with its scales. -/
structure Stationed where
  fmt : Fmt
  k : Nat
  vecs : List (List Nat)
  scales : List Nat
  malformed : Bool
  deriving DecidableEq, Repr

/-- R46, R47: the same bank contents give outputs by their columns in ROW read and by their rows in COLUMN read. -/
def stationed (rd : ReadDir) (h : Held) (malformed : Bool) : Stationed :=
  match rd with
  | .row => ⟨h.fmt, h.rows, transposeRows h.rows h.cols h.codes, h.scales, malformed⟩
  | .column => ⟨h.fmt, h.cols, h.codes, h.scales, malformed⟩

/-- A matrix in memory as the banks take it. -/
def Body.heldMat (b : Body) (p : Nat) (rd : ReadDir) (m : Mat) : Held × Bool :=
  let d := b.loadMat p m
  let scales := match rd with
    | .row => b.scaleCodes p m d.cols d.rows
    | .column => b.scaleCodes p m d.rows d.cols
  (⟨d.fmt, d.rows, d.cols, d.codes, scales⟩, d.malformed)

/-- The stationary operand: loaded now, or what an earlier load left in the rectangle's active banks (R102). -/
def Body.stationary (b : Body) (p : Nat) (st : Stage) (rd : ReadDir) (s : Stationary) : Held × Bool :=
  match s with
  | .load m => b.heldMat p rd m
  | .left t rows cols =>
    let r := (b.part p).stageRect st
    ((b.pitch r.2).left rd r.1 t rows cols, false)

/-- The banks after the operation: its loads, if it makes any. -/
def Body.afterLoads (b : Body) (p : Nat) (st : Stage) (rd : ReadDir) (s : Stationary) (h : Held) : Body :=
  match s with
  | .load _ => b.loadRect p st rd h
  | .left .. => b

/-! ## Results of a stage -/

/-- A result of a stage before it is stored, and its flags (Table 13.2). -/
structure CellOut where
  codes : List Nat
  flags : Nat
  deriving DecidableEq, Repr

def flagIf (c : Bool) (f : Nat) : Nat := if c then f else 0

/-- The epilogue's steps for output `j` with residual element `r`. -/
def epilogueAt (e : Epilogue) (scale bias : Option Nat) (j : Nat) (r : Option Nat) : EpilogueStep :=
  { scale := scale, bias := bias, act := e.act, residual := r, out := e.out, rescale := rescaleOf e.rescale j }

/-- One output: streamed values `a`, stationary values `w` (R46 to R53, R59, R95). Its chain is summed piece by piece of the
micro-batch, each seeded with the sum so far (R49, R110). A compare stage's epilogue works on the values of its pairs. -/
def cellOutput (st : Stage) (step : EpilogueStep) (fa fb : Fmt) (starts : List Nat) (a w : List Nat) (scales : List (Nat × Nat)) : CellOut :=
  match st.mode with
  | .maxIdx | .minIdx =>
    let r := compareRow st.mode (max 1 st.topk) (a.map fa.decode) (w.map fb.decode)
    let es := r.1.map (fun x => (epilogueFp step x.value, x.index))
    ⟨es.flatMap (fun x => [x.1.code, x.2]), flagIf r.2 flagNanSeen ||| flagIf (es.any (·.1.saturated)) flagSaturated⟩
  | m =>
    if fa.isInt then
      let r := dotIntPieces m starts (a.map (toSigned 8)) (w.map (toSigned 8))
      let e := epilogueInt step r.1
      ⟨[ofSigned (if step.rescale.isSome then 8 else 32) e.1], flagIf (r.2 || e.2) flagSaturated⟩
    else
      let e := epilogueFp step (dotFpPieces m starts (a.map fa.decode) (w.map fb.decode) scales)
      ⟨[e.code], flagIf e.saturated flagSaturated⟩

/-- Format of a stage's stored results; a compare stage stores 32-bit words, a value's code and an index for each pair (log 29). -/
def outFmt (st : Stage) (fa : Fmt) : Fmt :=
  match st.mode with
  | .maxIdx | .minIdx => .int32
  | _ => if fa.isInt then (if st.epilogue.rescale.isEmpty then .int32 else .int8) else st.epilogue.out

/-- Stored elements of one output. -/
def outWidth (st : Stage) : Nat :=
  match st.mode with
  | .maxIdx | .minIdx => 2 * max 1 st.topk
  | _ => 1

/-- Scale codes of the spans (R83). An FP8 operand beside an MX one has no blocks, and each of its spans the scale 2^0. -/
def spanScales (sa sb : List Nat) : List (Nat × Nat) :=
  match sa, sb with
  | [], [] => []
  | [], _ => sb.map (fun s => (127, s))
  | _, [] => sa.map (fun s => (s, 127))
  | _, _ => sa.zip sb

/-- Every output of a product: rows of streamed values against the stationary vectors, in row-major order. -/
def productOutputs (st : Stage) (b : Body) (p : Nat) (fa : Fmt) (starts : List Nat) (rows : List (List Nat × List Nat)) (s : Stationed) :
    List CellOut :=
  let n := s.vecs.length
  let scale := b.params p st.epilogue.scale n
  let bias := b.params p st.epilogue.bias n
  let res := b.residuals p st.epilogue.residual (rows.length * n)
  rows.zipIdx.flatMap (fun (a, i) => s.vecs.zipIdx.map (fun (w, j) =>
    let sb := scalesOf s.scales s.k j
    let step := epilogueAt st.epilogue (scale.getD j none) (bias.getD j none) j (res.getD (i * n + j) none)
    cellOutput st step fa s.fmt starts a.1 w (spanScales a.2 sb)))

/-- R105: of a gradient's results, row by row of `n`, the ones of trained elements are formed. An empty list forms every result. -/
def gradMask (f : FixtureImage) (g : Option GradOf) (rows n : Nat) : List Bool :=
  match g with
  | none => []
  | some g => match f.tensors.find? (fun t => decide (t.id = g.tensor)) with
    | none => []
    | some t => (List.range (rows * n)).map (fun k => trainedAt t ((g.row + k / max 1 n) * t.cols + (g.col + k % max 1 n)))

/-- Results that the mask keeps are stored, of output blocks `lo` to below `hi` (R65, R67) of `per` outputs each; a result that is not
formed leaves its place as it was (R105). -/
def Body.storeOutputs (b : Body) (p : Nat) (l : Loc) (t : Fmt) (width : Nat) (mask : List Bool) (per lo : Nat) (hi : Option Nat)
    (os : List CellOut) : Body × Nat :=
  let from_ := min os.length (lo * per)
  let upTo := match hi with
    | some h => min os.length (h * per)
    | none => os.length
  let on := fun k => mask.isEmpty || mask.getD (from_ + k) false
  let part := (os.take upTo).drop from_
  let at_ := { l with off := l.off + bytesFor t (from_ * width) }
  let old := if mask.isEmpty then [] else b.codes p at_ t (part.length * width)
  let new := part.zipIdx.flatMap (fun (o, k) => if on k then o.codes else (old.drop (k * width)).take width)
  let flags := part.zipIdx.foldl (fun f (o, k) => if on k then f ||| o.flags else f) 0
  (b.putCodes p at_ t new, flags)

/-- What carrying out an operation leaves: a fault kind it failed with, flags of Table 13.2, sequences marked invalid. -/
structure Effect where
  body : Body
  failed : Option Nat
  flags : Nat
  invalid : List Nat
  deriving DecidableEq, Repr

def Effect.done (b : Body) (flags : Nat) : Effect := ⟨b, none, flags, []⟩

/-- Output blocks that a run of an operation writes: from the first not yet written, up to a stop. -/
structure BlockRange where
  lo : Nat
  hi : Option Nat
  deriving DecidableEq, Repr

/-- Where a product stage takes its operation: partition, stage, the micro-batch's piece starts (R110), the blocks to write. -/
structure ProdCtx where
  part : Nat
  stage : Stage
  starts : List Nat
  blocks : BlockRange
  deriving DecidableEq, Repr

/-- The results of a product or convolution stored, with the flags of its blocks. -/
def Body.storeProduct (b : Body) (x : ProdCtx) (fa : Fmt) (n : Nat) (out : Loc) (mask : List Bool) (os : List CellOut) : Body × Nat :=
  b.storeOutputs x.part out (outFmt x.stage fa) (outWidth x.stage) mask (max 1 x.stage.blockRows * n) x.blocks.lo x.blocks.hi os

/-- A MATMUL, DISTANCE or COMPARE operation. -/
def Body.runProduct (b : Body) (x : ProdCtx) (rd : ReadDir) (a : Mat) (s : Stationary) (out : Loc) (mask : Nat → Nat → List Bool) : Effect :=
  let p := x.part
  let d := b.loadMat p a
  let h := b.stationary p x.stage rd s
  let w := stationed rd h.1 h.2
  let sa := b.scaleCodes p a d.rows d.cols
  let rows := d.codes.zipIdx.map (fun (r, i) => (r, scalesOf sa d.cols i))
  let os := productOutputs x.stage b p d.fmt x.starts rows w
  let r := b.storeProduct x d.fmt w.vecs.length out (mask rows.length w.vecs.length) os
  Effect.done (r.1.afterLoads p x.stage rd s h.1) (r.2 ||| flagIf (d.malformed || w.malformed) flagBellMalformed)

/-! ## Convolution (03, R58) -/

/-- The image row of a tap at output pixel (oy, ox); none outside the image. -/
def tapPixel (c : ConvShape) (oy ox : Nat) (t : Tap) : Option Nat :=
  let y := (oy * c.stride + t.ky * c.dilation : Int) - c.padY
  let x := (ox * c.stride + t.kx * c.dilation : Int) - c.padX
  if 0 ≤ y ∧ y < c.height ∧ 0 ≤ x ∧ x < c.width then some (y.toNat * c.width + x.toNat) else none

/-- Streamed values of output pixel (oy, ox): 32 channels for each tap in the toolchain's order; zero outside the image. -/
def convRow (c : ConvShape) (codes : List (List Nat)) (scales : List Nat) (oy ox : Nat) : List Nat × List Nat :=
  let vals := c.taps.flatMap (fun t => match tapPixel c oy ox t with
    | some i => (List.range 32).map (fun k => (codes.getD i []).getD (32 * t.cblock + k) 0)
    | none => List.replicate 32 0)
  let ss := if scales.isEmpty then [] else c.taps.map (fun t => match tapPixel c oy ox t with
    | some i => (scalesOf scales c.channels i).getD t.cblock 127
    | none => 127)
  (vals, ss)

/-- The rows of taps of every output position in ascending order. -/
def convRows (c : ConvShape) (codes : List (List Nat)) (scales : List Nat) : List (List Nat × List Nat) :=
  (List.range (c.outH * c.outW)).map (fun q => convRow c codes scales (q / max 1 c.outW) (q % max 1 c.outW))

/-- A CONV operation: the image has a row for each pixel, the filters a column for each filter, in contraction order; diagonal reuse
leaves the results as they are (R58). The weight gradient contracts over output positions, the taps of a position in its row (R102); the blocks
of its streamed operand then lie along positions, for each element of the taps (R79, log 83). -/
def Body.runConv (b : Body) (x : ProdCtx) (c : ConvShape) (rd : ReadDir) (a w : Mat) (out : Loc) (grad : Bool)
    (mask : Nat → Nat → List Bool) : Effect :=
  let p := x.part
  let d := b.loadMat p a
  let h := b.heldMat p rd w
  let taps := convRows c d.codes (if grad then [] else b.scaleCodes p a d.rows d.cols)
  let sg := b.scaleCodes p a (32 * c.taps.length) taps.length
  let rows := if grad then (transposeRows taps.length (32 * c.taps.length) (taps.map (·.1))).zipIdx.map (fun (r, i) =>
    (r, scalesOf sg taps.length i)) else taps
  let v := stationed rd h.1 h.2
  let os := productOutputs x.stage b p d.fmt x.starts rows v
  let r := b.storeProduct x d.fmt v.vecs.length out (mask rows.length v.vecs.length) os
  Effect.done (r.1.loadRect p x.stage rd h.1) (r.2 ||| flagIf (d.malformed || h.2) flagBellMalformed)

/-! ## Vector instructions (Table 8.2) -/

/-- R76: a result that is a NaN is the canonical one. -/
def quietNaN (t : Fmt) (a : Nat) : Nat := if (t.decode a).isNaN then t.spec.canonicalNaN else a

/-- Two-operand arithmetic on codes; a compare writes the model's code for its truth value (log 30). -/
def vecOp2 (op : VecOp2) (t : Fmt) (a b : Nat) : Nat :=
  let x := t.decode a
  let y := t.decode b
  let open_ := x.isNaN || y.isNaN || (x.isZero && y.isZero && decide (a ≠ b))
  match op with
  | .add => fadd t a b
  | .sub => fsub t a b
  | .mul => fmul t a b
  | .div => fdiv t a b
  | .min => if open_ then quietNaN t (Config.minMaxOpen false t.code a b) else if y.lt x then b else a
  | .max => if open_ then quietNaN t (Config.minMaxOpen true t.code a b) else if x.lt y then b else a
  | .lt => Config.compareCode t.code (x.lt y)
  | .le => Config.compareCode t.code (x.le y)
  | .eq => Config.compareCode t.code (x.le y && y.le x)

/-- One-operand instructions; TRANS rounds to its destination, COMPOSED works in FP32. -/
def vecOp1 (op : VecOp1) (t dst : Fmt) (a : Nat) : Nat :=
  match op with
  | .sqrt => fsqrt t a
  | .rsqrt => frsqrt t a
  | .exp2 => fexp2 t dst a
  | .log2 => flog2 t dst a
  | .ln => fln t dst a
  | .sigmoid => sigmoid a
  | .silu => silu a
  | .tanh => tanhf a
  | .gelu => gelu a
  | .neg => (t.encode (t.decode a).neg).code

/-- CONVERT between formats (R77). A float that enters an integer format has no stated result (log 30). -/
def vecConvert (src dst : Fmt) (a : Nat) : Flagged :=
  if dst.isInt then
    if src.isInt then
      let r := saturate dst.bits (toSigned src.bits a)
      ⟨ofSigned dst.bits r.1, r.2⟩
    else ⟨Config.toIntOpen dst.code a, false⟩
  else if src.isInt then dst.encode (FVal.ofDyadic ⟨toSigned src.bits a, 0⟩)
  else convert src dst a

/-- R187: a conversion that meets a flag is counted and sets XSUM_RANGE. -/
def Body.rangeMet (b : Body) (e met : Nat) : Body × Nat :=
  if met = 0 then (b, 0) else (b.alterEngine e (fun x => { x with range := wrap 32 (x.range + met) }), flagXsumRange)

/-- Context of a vector operation: partition, engine, step and stage. -/
structure VecCtx where
  part : Nat
  engine : Nat
  step : Nat
  stage : Stage
  deriving DecidableEq, Repr

def f32s (b : Body) (p : Nat) (l : Loc) (n : Nat) : List Nat := b.codes p l .fp32 n

/-- MX quantisation of `n` values in blocks of 32 (R80). -/
def mxBlocks (t : Fmt) (vs : List FVal) : List MxBlock := (spansOf (vs.length + 1) vs).map (mxQuantise t)

/-- The element-wise classes ARITH, DIVROOT, TRANS, COMPOSED. -/
def Body.runElementwise (b : Body) (p : Nat) (i : VecInstr) : Body :=
  match i with
  | .op2 op t dst x y n => b.putCodes p dst t (List.zipWith (vecOp2 op t) (b.codes p x t n) (b.codes p y t n))
  | .op1 op t dt dst x n => b.putCodes p dst (op1Fmt op t dt) ((b.codes p x t n).map (vecOp1 op t dt))
  | .fma t dst x y z n =>
    b.putCodes p dst t (List.zipWith (fun (xy : Nat × Nat) w => ffma t xy.1 xy.2 w) ((b.codes p x t n).zip (b.codes p y t n))
      (b.codes p z t n))
  | .select t dst c x y n =>
    b.putCodes p dst t (List.zipWith (fun k (xy : Nat × Nat) => quietNaN t (if k = Config.compareCode t.code false then xy.2 else xy.1))
      (b.codes p c t n) ((b.codes p x t n).zip (b.codes p y t n)))
  | _ => b

/-- Class CONVERT. -/
def Body.runConvert (b : Body) (x : VecCtx) (i : VecInstr) : Body × Nat :=
  let p := x.part
  match i with
  | .convert s t dst a n =>
    let r := (b.codes p a s n).map (vecConvert s t)
    (b.putCodes p dst t (r.map (·.code)), flagIf (r.any (·.saturated)) flagSaturated)
  | .mxQuantise t dst sc a n =>
    let bs := mxBlocks t ((f32s b p a n).map val32)
    ((b.putCodes p dst t (bs.flatMap (·.codes))).writeLoc p sc (bs.flatMap (fun k => leBytes k.scale 1)),
     flagIf (bs.any (·.saturated)) flagSaturated)
  | .mxDecode t dst a sc n =>
    let ss := wordsOf 1 ((n + 31) / 32) (b.readLoc p sc ((n + 31) / 32))
    let vs := (b.codes p a t n).zipIdx.map (fun (c, k) => (Fmt.fp32.encode (mxDecode t (ss.getD (k / 32) 0xFF) c)).code)
    (b.putCodes p dst .fp32 vs, 0)
  | .bellEncode dst q tensor a n =>
    let e := encodeTensor q.entries (f32s b p a n)
    ((b.putBell p dst q.pool e).bellMessages x.engine tensor (if e.lossy then 1 else 0), flagIf e.lossy flagBellLossy)
  | .bellDecode dst a q n =>
    let r := b.bellValues p a q.pool q.entries n
    (b.putCodes p dst .bf16 r.1, flagIf r.2 flagBellMalformed)
  | .rescale r dst a n =>
    let vs := (b.codes p a .int32 n).map (fun c => rescale r (toSigned 32 c))
    (b.putCodes p dst .int8 (vs.map (fun v => ofSigned 8 v.1)), flagIf (vs.any (·.2)) flagSaturated)
  | _ => (b, 0)

/-- Class XSUM (R182 to R188). DESIGN CHOICE: R185 gives 0 to 288 and 1 to 32 as the counts of a scaling; a fixture with another is refused
(`vecBad`, log 89). -/
def Body.runXsum (b : Body) (x : VecCtx) (i : VecInstr) : Body × Nat :=
  let p := x.part
  let e := x.engine
  let acc := b.accOf p e
  let set := b.putAcc p x.stage.parkAt e
  match i with
  | .xsumClear n => (set n XSum.zero, 0)
  | .xsumAdd n t a k => ((set n (((b.codes p a t k).map t.decode).foldl XSum.add (acc n))).countTerms e k, 0)
  | .xsumAddProducts n a c k =>
    ((set n ((List.zipWith (fun u w => (val32 u).mul (val32 w)) (f32s b p a k) (f32s b p c k)).foldl XSum.add (acc n))).countTerms e k, 0)
  | .xsumScaleDown n s => (set n ((acc n).scaleDown s), 0)
  | .xsumScaleUp n s => (set n ((acc n).scaleUp s), 0)
  | .xsumCombine n o => (set n ((acc n).combine (acc o)), 0)
  | .xsumConvert n t dst => (b.putCodes p dst t [(acc n).convert t]).rangeMet e (flaggedSums [acc n])
  | _ => (b, 0)

/-- Wide-precision rows (R100, R189 to R191) and the loss head's gradient (R115). -/
def Body.runRow (b : Body) (x : VecCtx) (i : VecInstr) : Body × Nat :=
  let p := x.part
  let e := x.engine
  match i with
  | .normRow rms eps dst g be a n =>
    let r := normRow rms eps (f32s b p g n) (f32s b p be n) (f32s b p a n)
    ((b.putCodes p dst .fp32 r.y).countTerms e (2 * n)).rangeMet e r.range
  | .normBack rms eps dst g be a dy n =>
    let r := normRow rms eps (f32s b p g n) (f32s b p be n) (f32s b p a n)
    let d := normBack r (f32s b p g n) (f32s b p dy n)
    ((b.putCodes p dst .fp32 d.1).countTerms e (4 * n)).rangeMet e (r.range + d.2)
  | .softmax dst lse a vis =>
    let r := softmaxRow ((f32s b p a vis.length).zip vis)
    let b := b.putCodes p dst .fp32 r.out
    let b := match lse with
      | some l => b.putCodes p l .fp32 [r.lse]
      | none => b
    (b.countTerms e r.terms, flagIf (decide (r.status = .nan)) flagNanSeen)
  | .softmaxBack dst pr dy n =>
    let d := softmaxBack (f32s b p pr n) (f32s b p dy n)
    ((b.putCodes p dst .fp32 d.1).countTerms e n).rangeMet e d.2
  | .lossRow mb a vis target =>
    let xs := (f32s b p a vis.length).zip vis
    let l := lossTerm xs target
    let put := fun (ls : List (Nat × List Nat)) =>
      if ls.any (fun y => decide (y.1 = mb)) then ls.map (fun y => if y.1 = mb then (mb, y.2 ++ [l]) else y) else ls ++ [(mb, [l])]
    let row := softmaxRow xs
    ((b.alterPart p (fun y => { y with pass := { y.pass with losses := put y.pass.losses, lossEngine := some e } })).countTerms e (row.terms + 1),
     flagIf (decide (row.status = .nan)) flagNanSeen)
  | .scaleByLoss dst a n =>
    (b.putCodes p dst .fp32 ((f32s b p a n).map (fun c => scale32 c ((b.part p).pass.scaleOf x.step))), 0)
  | _ => (b, 0)

/-- MATRIX: a product on the borrowed rectangle (R192), its FP32 or INT32 results stored as they leave the chain. -/
def Body.runMatrix (b : Body) (x : VecCtx) (a w : Mat) (dst : Loc) : Body × Nat :=
  let st := { x.stage with mode := .mac, read := .row, epilogue := ⟨.absent, .absent, .none, none, .fp32, [], false⟩ }
  let r := b.runProduct ⟨x.part, st, [], ⟨0, none⟩⟩ .row a (.load w) dst (fun _ _ => [])
  (r.body, r.flags)

/-- One vector instruction and its flags. -/
def Body.runVec (b : Body) (x : VecCtx) (i : VecInstr) : Body × Nat :=
  match i with
  | .op2 .. | .op1 .. | .fma .. | .select .. => (b.runElementwise x.part i, 0)
  | .convert .. | .mxQuantise .. | .mxDecode .. | .bellEncode .. | .bellDecode .. | .rescale .. => b.runConvert x i
  | .xsumClear _ | .xsumAdd .. | .xsumAddProducts .. | .xsumScaleDown .. | .xsumScaleUp .. | .xsumCombine .. | .xsumConvert .. =>
    b.runXsum x i
  | .normRow .. | .normBack .. | .softmax .. | .softmaxBack .. | .lossRow .. | .scaleByLoss .. => b.runRow x i
  | .matrix a w dst => b.runMatrix x a w dst

/-- R195: the instructions of one sub-operation, whose results are committed together. -/
def Body.runSub (b : Body) (x : VecCtx) (is_ : List VecInstr) : Body × Nat :=
  is_.foldl (fun acc i =>
    let r := acc.1.runVec x i
    (r.1, acc.2 ||| r.2)) (b, 0)

/-! ## Places an operation reads and writes (R200, R206) -/

def Param.places (x : Param) (n : Nat) : List (Loc × Nat) :=
  match x with
  | .perOutput l t => [(l, bytesFor t n)]
  | _ => []

def Epilogue.places (e : Epilogue) (n outs : Nat) : List (Loc × Nat) :=
  Param.places e.scale n ++ Param.places e.bias n ++ (match e.residual with
    | some (l, t) => [(l, bytesFor t outs)]
    | none => [])



/-- Indices of a convolution's streamed operand that have their own blocks of 32 contraction indices (R79): pixels, along whose channels a
forward pass contracts, or the taps' elements of a weight gradient, which contracts along positions (R102). -/
def convOuter (c : ConvShape) (a : Mat) (grad : Bool) : Nat := if grad then 32 * c.taps.length else matRows a

/-- Result rows of a convolution: output positions, or the taps' elements of its weight gradient. -/
def convResults (c : ConvShape) (grad : Bool) : Nat := if grad then 32 * c.taps.length else c.outH * c.outW

/-- Places of one sequence: queries, new keys and values or the plan's positions, the list, and the pages its blocks name. -/
def Body.seqReads (b : Body) (p : Nat) (a : AttnParams) (layer : Nat) (s : AttnSeq) : List (Loc × Nat) :=
  let hq := a.hKv * a.group
  let row := bytesFor a.kvFormat (a.hKv * a.dH)
  match s.list, a.pool.bind (fun id => (b.part p).fix.bind (fun f => poolOf f id)) with
  | some off, some q =>
    let h := b.listHeaderAt p off
    let written := h.tokens + s.newTokens
    let pages := (slotsRead a q written (pagedRows written s.queries)).map (b.listEntry p off)
    [(s.q, bytesFor a.qFormat (s.queries * hq * a.dH)), (s.k, s.newTokens * row), (s.v, s.newTokens * row),
     (⟨.infield, off⟩, 64 + 4 * min h.entries 65536)]
    ++ (pages.filter (fun e => decide (e < q.pages))).map (fun e => (⟨.infield, pageOff q layer e⟩, q.pageBytes))
  | _, _ =>
    [(s.q, bytesFor a.qFormat (s.rows.length * hq * a.dH)), (s.k, s.written * row), (s.v, s.written * row)]

/-- Rows of a sequence. -/
def AttnSeq.rowCount (s : AttnSeq) : Nat := if s.list.isSome then s.queries else s.rows.length

/-- Gradients that the backward sweeps read. -/
def seqBackReads (a : AttnParams) (pass : AttnPass) (s : AttnSeq) : List (Loc × Nat) :=
  let n := AttnSeq.rowCount s * (a.hKv * a.group)
  match pass with
  | .forward => []
  | .sweep1 => [(s.dOut, 4 * n * a.dH)] ++ (match s.gLse with
    | some l => [(l, 4 * n)]
    | none => [])
  | .sweep2 => [(s.dOut, 4 * n * a.dH), (s.dD, 4 * n)]

/-- What the walk of a page list writes: its new tokens' places in their pages, and TOKENS. -/
def Body.walkWrites (b : Body) (p : Nat) (a : AttnParams) (layer : Nat) (s : AttnSeq) : List (Loc × Nat) :=
  match s.list, a.pool.bind (fun id => (b.part p).fix.bind (fun f => poolOf f id)) with
  | some off, some q =>
    let h := b.listHeaderAt p off
    (⟨.infield, off + 16⟩, 8) :: (List.range' h.tokens s.newTokens).flatMap (fun t =>
      let page := b.listEntry p off (slotOfToken q t)
      if q.pages ≤ page then []
      else (List.range q.hKv).flatMap (fun k => [false, true].map (fun v =>
        (⟨.infield, tokenOff q layer page k (t % 16) v⟩, q.dH * elemBytes q.kvFormat))))
  | _, _ => []

/-- What a sequence's operation writes. -/
def seqWrites (a : AttnParams) (pass : AttnPass) (s : AttnSeq) : List (Loc × Nat) :=
  let n := AttnSeq.rowCount s * (a.hKv * a.group)
  match pass with
  | .forward => [(s.out, bytesFor a.outFormat (n * a.dH))] ++ (if a.lseOut then [(s.lse, 4 * n)] else [])
  | .sweep1 => [(s.dD, 4 * n)]
  | .sweep2 => [(s.dQ, 4 * n * a.dH), (s.dK, 4 * s.written * a.hKv * a.dH), (s.dV, 4 * s.written * a.hKv * a.dH)]

/-- Places of a layer's update, and the gradient regions it reads. -/
def updatePlaces (f : FixtureImage) (layer : Nat) : List (Loc × Nat) :=
  (trainedTensors f layer).flatMap (fun x => tensorSpans x.1 x.2 ++ rootSpans x.1 x.2)

def updateReads (f : FixtureImage) (layer : Nat) : List (Loc × Nat) :=
  updatePlaces f layer ++ (trainedTensors f layer).map (fun x => (x.2.g, 2 * trainedCount x.2))

/-- Where the bucket elements of a bucketAdd lie. -/
def bucketPlaces (f : FixtureImage) (id tensor first n : Nat) : List (Loc × Nat) :=
  match f.buckets.find? (fun k => k.id = id), bucketRange f id tensor first n with
  | some k, some (lo, m) => [(elementLoc k lo, 2 * m)]
  | _, _ => []

/-- The bench entry that a forward operation writes: the block's input, and where it goes (R96). -/
def Body.benchPlaces (b : Body) (p : Nat) (op : StreamOp) : List (Loc × Nat) × List (Loc × Nat) :=
  match op.bench with
  | some w => match (b.part p).benchEntry? w.block w.mb with
    | some e => ([(w.src, w.bytes)], [(⟨.bench w.block w.mb, 0⟩, e.bytes)])
    | none => ([], [])
  | none => ([], [])

/-- Every place that a payload reads. -/
def Body.payloadReads (b : Body) (p : Nat) (f : FixtureImage) (st : Stage) (op : StreamOp) : List (Loc × Nat) :=
  match op.payload with
  | .idle | .collective _ => []
  | .product rd a s _ _ =>
    let w := match s with
      | .load m => Mat.places m (Stationary.outs s rd)
      | .left .. => []
    let n := Stationary.outs s rd
    Mat.places a (matRows a) ++ w ++ Epilogue.places st.epilogue n (matRows a * n)
  | .conv c rd a w _ g =>
    let n := Stationary.outs (.load w) rd
    Mat.places a (convOuter c a g.isSome) ++ Mat.places w n ++ Epilogue.places st.epilogue n (convResults c g.isSome * n)
  | .attention pass seqs _ =>
    match st.attn with
    | some a => seqs.flatMap (fun s => b.seqReads p a op.layer s ++ seqBackReads a pass s)
    | none => []
  | .vector subs => subs.flatten.flatMap VecInstr.reads
    ++ (b.accPlaces st.parkAt (((b.part p).opEngine op).getD 4) (subs.flatten.flatMap VecInstr.accs)).1
  | .bucketAdd id t first n chains _ => (chains, 4 * n) :: bucketPlaces f id t first n
  | .update layer => updateReads f layer ++ (b.accPlaces st.parkAt (((b.part p).opEngine op).getD 4) (clipGroups f layer)).1
  | .dma src _ n => [(src, n)]

/-- Every place that a payload writes. -/
def Body.payloadWrites (b : Body) (p : Nat) (f : FixtureImage) (st : Stage) (op : StreamOp) : List (Loc × Nat) :=
  match op.payload with
  | .idle | .collective _ => []
  | .product rd a s out _ => [(out, bytesFor (outFmt st a.fmt) (matRows a * Stationary.outs s rd * outWidth st))]
  | .conv c rd a w out g =>
    [(out, bytesFor (outFmt st a.fmt) (convResults c g.isSome * Stationary.outs (.load w) rd * outWidth st))]
  | .attention pass seqs _ =>
    match st.attn with
    | some a => seqs.flatMap (fun s => seqWrites a pass s ++ b.walkWrites p a op.layer s)
    | none => []
  | .vector subs => subs.flatten.flatMap VecInstr.writes
    ++ (b.accPlaces st.parkAt (((b.part p).opEngine op).getD 4) (subs.flatten.flatMap VecInstr.accs)).2
  | .bucketAdd id t first n _ _ => bucketPlaces f id t first n
  | .update layer => updatePlaces f layer
  | .dma _ dst n => [(dst, n)]

/-- Every place that an operation reads, or writes, as places of the memory plan. -/
def Body.opReads (b : Body) (p : Nat) (f : FixtureImage) (st : Stage) (op : StreamOp) : List (Loc × Nat) :=
  (b.part p).planPlaces (b.payloadReads p f st op ++ (b.benchPlaces p op).1)

def Body.opWrites (b : Body) (p : Nat) (f : FixtureImage) (st : Stage) (op : StreamOp) : List (Loc × Nat) :=
  (b.part p).planPlaces (b.payloadWrites p f st op ++ (b.benchPlaces p op).2)

/-! ## Banks (R205, R206) -/

/-- Offsets of the banks, in the partition's scratchpad grant, that places touch. -/
def bankOffsets (ps : List (Loc × Nat)) : List Nat :=
  unionRising (ps.flatMap (fun (l, n) => match l.space with
    | .scratch => if n = 0 then [] else (List.range ((l.off + n - 1) / bankBytes - l.off / bankBytes + 1)).map (fun i => l.off / bankBytes + i)
    | _ => [])) []

/-- SP_EVENTS and SP_WAKES of a half. -/
def Store.alterSpad (s : Store) (h : Nat) (f : SpadCtl → SpadCtl) : Store := { s with spad := alter h f s.spad }

/-- Registers of a FENCED half hold (R228). -/
def Store.alterSpadOf (s : Store) (fenced : Nat → Bool) (h : Nat) (f : SpadCtl → SpadCtl) : Store :=
  if fenced h then s else s.alterSpad h f

/-- R206: a request to a bank in RETAIN returns it to ON; the banks of a FENCED half stay as they are (R228). -/
def Body.wakeBank (b : Body) (k : Nat) : Body :=
  match b.fenced (k / 96), (b.store.banks.getD k ⟨.unusable, none⟩).state with
  | false, .retain =>
    { b with store := { (b.store.bankOn k).alterSpad (k / 96) (fun m => { m with wakes := wrap 64 (m.wakes + 1) }) with
                        banks := alter k (fun x => { x with state := .on, target := none }) b.store.banks } }
  | _, _ => b

/-- R206: a request that is dropped: counted, and bank-access-bad. -/
def Body.bankBad (b : Body) (k : Nat) : Body :=
  ({ b with store := b.store.alterSpadOf b.fenced (k / 96) (fun m => { m with accessBad := wrap 32 (m.accessBad + 1) }) }).raise
    tScratch (k / 96) .contained kBankAccess k

/-- Banks of the grant that are OFF or UNUSABLE among those an operation touches. -/
def Body.badBanks (b : Body) (p : Nat) (ps : List (Loc × Nat)) : List Nat :=
  ((bankOffsets ps).filterMap (fun i => (b.part p).grant.banks[i]?)).filter (fun k =>
    match (b.store.banks.getD k ⟨.unusable, none⟩).state with
    | .off | .unusable => true
    | _ => false)

/-- Some scratchpad place lies outside the partition's bound banks. -/
def Body.bankOutside (b : Body) (p : Nat) (ps : List (Loc × Nat)) : Bool :=
  (bankOffsets ps).any (fun i => decide ((b.part p).grant.banks.length ≤ i))

/-- Device addresses of places that lie at or above LIMIT (R210). -/
def Body.unmappedAt (b : Body) (p : Nat) (ps : List (Loc × Nat)) : Option Nat :=
  (ps.flatMap (fun (l, n) => match l.space with
    | .scratch => []
    | _ => (b.part p).spans l n)).findSome? (fun (a, _) => match b.store.region a with
      | .unmapped => some a
      | _ => none)

/-! ## Carrying out an operation -/

/-- R200: the operation fails and its destinations are poisoned. -/
def Body.failPoisoned (b : Body) (p : Nat) (ws : List (Loc × Nat)) (kind : Nat) : Effect :=
  ⟨ws.foldl (fun b (l, n) => b.poisonLoc p l n) b, some kind, 0, []⟩

/-- Errors of Table 9.1 met in the codewords that the places read touch, and in those that the places written cover in part (R203). -/
def Body.meetErrors (b : Body) (p : Nat) (rs ws : List (Loc × Nat)) (errs : List CwError) : Body :=
  let spans := fun (ps : List (Loc × Nat)) => ps.flatMap (fun (l, n) => (b.part p).spans l n)
  b.readErrors (errs.filter (fun e => (spans rs).any (fun (a, k) => !(errorsIn a k [e]).isEmpty)
    || (spans ws).any (fun (a, k) => !(mergeErrors a k [e]).isEmpty)))

/-- R204: a codeword of an exchange bank that both ports write in one cycle keeps what port 0 stored: of an operation's writes on port 1
nothing is left there, and the discard is counted (log 95). -/
def Body.collide (before : Store) (b : Body) (cw : Nat) : Body :=
  match before.region (cw * 64) with
  | .scratch k =>
    if isExchange k then
      let s := b.store.writeBytes (cw * 64) (before.bytes (cw * 64) 64)
      let s := if before.poisoned cw then s.poisonCw (.scratch (k / 96)) cw else s
      { b with store := s.alterSpadOf b.fenced (k / 96) (fun m => { m with collide := wrap 32 (m.collide + 1) }) }
    else b
  | _ => b

/-- Collisions among the codewords that the places written touch. -/
def Body.collisions (before b : Body) (p : Nat) (ws : List (Loc × Nat)) (hits : List Nat) : Body :=
  let cws := ws.flatMap (fun (l, n) => ((before.part p).spans l n).flatMap (fun (a, k) => cwsOf a k))
  (hits.eraseDups.filter cws.contains).foldl (Body.collide before.store) b

/-- Banks in RETAIN that the places touch return to ON (R206). -/
def Body.wakePlaces (b : Body) (p : Nat) (ps : List (Loc × Nat)) : Body :=
  ((bankOffsets ps).filterMap (fun i => (b.part p).grant.banks[i]?)).foldl Body.wakeBank b

/-- Banks and addresses that an operation may not use: the kind it fails with (R206, R210). -/
def Body.accessFault (b : Body) (p : Nat) (rs ws : List (Loc × Nat)) : Option (Nat × Body) :=
  match b.badBanks p (rs ++ ws) with
  | k :: ks => some (kBankAccess, (k :: ks).foldl Body.bankBad b)
  | [] =>
    if b.bankOutside p (rs ++ ws) then some (kBankAccess, b.bankBad (96 * (b.partHalf p).getD 0))
    else (b.unmappedAt p (rs ++ ws)).map (fun a =>
      (kUnmapped, b.raiseAt (srcType (b.sourceAt a)) (srcInst (b.sourceAt a)) .contained kUnmapped (a / 64)))

/-- Starts of the pieces of an operation's micro-batch after the first (R110). -/
def Partition.pieceStarts (x : Partition) (op : StreamOp) : List Nat :=
  match x.microBatch? op.mb with
  | some m => (((piecesAfter m (x.pass.depth op.mb)).getD []).map (·.1)).drop 1
  | none => []

/-- Only a weight gradient contracts over the rows of the micro-batch (R103). -/
def contractsRows (op : StreamOp) : Bool :=
  match op.payload with
  | .product _ _ _ _ g | .conv _ _ _ _ _ g => g.isSome
  | _ => false

def Partition.prodCtx (x : Partition) (p : Nat) (fl : Flight) (op : StreamOp) (st : Stage) : ProdCtx :=
  ⟨p, st, if contractsRows op then x.pieceStarts op else [], ⟨fl.blocks, none⟩⟩

def Partition.gradMask (x : Partition) (g : Option GradOf) (rows n : Nat) : List Bool :=
  match x.fix with
  | some f => Sys2Proof.Machine.gradMask f g rows n
  | none => []

/-- The payload itself, its operands sound. -/
def Body.carryOut (b : Body) (p : Nat) (x : Partition) (fl : Flight) (op : StreamOp) (st : Stage) : Effect :=
  let step := x.stepOf op
  let engine := x.opEngine op
  match op.payload with
  | .idle => Effect.done b 0
  | .product rd a s out g => b.runProduct (x.prodCtx p fl op st) rd a s out (x.gradMask g)
  | .conv c rd a w out g => b.runConv (x.prodCtx p fl op st) c rd a w out g.isSome (x.gradMask g)
  | .attention pass seqs _ =>
    match st.attn with
    | some a =>
      let r := b.attend p a op.layer pass (engine.getD 4) fl.gens seqs
      ⟨r.1, none, r.2.2, r.2.1⟩
    | none => Effect.done b 0
  | .vector subs =>
    let r := (subs.drop fl.done).foldl (fun (acc : Body × Nat) is_ =>
      let r := acc.1.runSub ⟨p, engine.getD 0, step, st⟩ is_
      (r.1, acc.2 ||| r.2)) (b, 0)
    Effect.done r.1 r.2
  | .bucketAdd id t first n chains _ => Effect.done (b.addToBucket p id t first (b.codes p chains .fp32 n) step) 0
  | .update layer =>
    let r := b.updateLayer p layer step fl.rule engine
    ⟨r.1, r.2.1, r.2.2, []⟩
  | .dma src dst n => Effect.done (b.writeLoc p dst (b.readLoc p src n)) 0
  | .collective _ => Effect.done b 0

/-- What an operation leaves when it completes (R199, R200, R206, R210). -/
def Body.compute (b : Body) (p : Nat) (fl : Flight) (op : StreamOp) (errs : List CwError) (hits : List Nat) : Effect :=
  match (b.part p).fix, (b.part p).stage? op with
  | some f, some st =>
    let rs := b.opReads p f st op
    let ws := b.opWrites p f st op
    let b := b.wakePlaces p (rs ++ ws)
    match b.accessFault p rs ws with
    | some (kind, b) => b.failPoisoned p ws kind
    | none =>
      let b := b.meetErrors p rs ws errs
      let e := if rs.any (fun (l, n) => b.poisonAt p l n) then b.failPoisoned p ws kMemUncorrectable
        else b.carryOut p (b.part p) fl op st
      { e with body := b.collisions e.body p ws hits }
  | _, _ => Effect.done b 0

end Sys2Proof.Machine
end

