-- ==== Sys2Proof/Machine/Flags.lean ====
section
/-!
DEFINITION. Flag and status words computed from the state: causes of Table 14.4, the fault bits of BLK_STATUS (Table 14.7), the
FLAGS of the beat report (Table 11.7), and codes of states in registers.
-/

namespace Sys2Proof.Machine

/-- One bit. -/
def bit (c : Bool) : Nat := if c then 1 else 0

/-- A field of a register: `x` cut to `w` bits at bit `k`. -/
def field (k w x : Nat) : Nat := x % 2 ^ w * 2 ^ k

/-! ## Causes (Table 14.4) -/

/-- A sensor of the half reads above THROTTLE_C − 5 °C. -/
def Body.halfWarm (b : Body) (h : Nat) : Bool :=
  (if h = 0 then b.power.west else b.power.east).any (fun t => decide ((b.book.tables.power.throttleC : Int) - 5 < t))

def Body.poisonList (b : Body) (src : MemSource) : PoisonList :=
  (b.store.lists.find? (fun l => decide (l.src = src))).getD ⟨src, [], false⟩

def sourceOfPage (type inst : Nat) : MemSource :=
  if type = tScratch then .scratch inst else if type = tStack then .infield inst else .outfield inst

/-- All 32 slots of a stack's channels are in RETIRED. -/
def Body.stackRetired (b : Body) (k : Nat) : Bool :=
  (List.range 32).all (fun c => b.store.retired.contains (slotOfChannel b.book.tables.interleave.slotMap (32 * k + c)))

def Body.halfOutRetired (b : Body) (h : Nat) : Bool :=
  (List.range 4).all (fun c => b.store.outRetired.contains (slotOfChannel b.book.tables.interleave.outSlotMap (4 * h + c)))

/-- The condition of a message's kind holds; a kind without a lasting condition, while a message of it is unhandled. -/
def Body.causeOf (b : Body) (p : FaultPage) (m : Word64) : Bool :=
  let t := msgType m
  let i := msgInst m
  let k := msgKind m
  if k = kTileFailed then !(b.pitch i).unrepaired.isEmpty
  else if k = kBenchSplit then (b.parts.getD i Partition.reset).splitStopped
  else if k = kPageLost then
    (b.parts.getD i Partition.reset).attn.lostPages.any (fun x => decide (x.1 = msgAddr m % 64 ∧ x.2.1 = msgAddr m / 256))
  else if k = kMemUncorrectable then
    let l := b.poisonList (sourceOfPage t i)
    !l.cws.isEmpty || l.ovf
  else if k = kChannelFailed then
    if t = tStack then !b.store.retired.contains (slotOfChannel b.book.tables.interleave.slotMap (msgAddr m))
    else !b.store.outRetired.contains (slotOfChannel b.book.tables.interleave.outSlotMap (msgAddr m))
  else if k = kStackShutdown then
    decide ((b.store.stackCtl.getD i MemCtl.reset).level = .shutdown) && !b.stackRetired i
  else if k = kPackageFailed then !b.halfOutRetired i
  else if k = kLinkStarved then decide ((b.link i).state = .quarantine)
  else if k = kBeatLost then decide (b.clock.band = .unlocked)
  else if k = kRefLost then decide (b.clock.band = .free)
  else if k = kDieOvertemp ∨ k = kDieOvertrip then b.halfWarm i
  else if k = kKeeperRestart then decide ((b.keepers.cores.getD i ⟨.on, false, 0, none, false⟩).mode = .restarting)
  else if k = kKeeperRepeat then !b.fenced (i / 4)
  else if k = kControlPath then !b.fenced i
  else if k = kCoreRail then !b.fenced i || Config.railOut i b.clock.now
  else if k = kLodge ∨ k = kPackage then true
  else if k = kInputPower then !b.boot.inputOk
  else if k = kMemCorrected ∨ k = kLaneFailed ∨ k = kAuthFailed ∨ k = kBellPool ∨ k = kPrecond ∨ k = kBeatMismatch then false
  else p.unhandled.any (fun x => decide (msgKind x = k))

/-- BLK_STATUS.CAUSE: a cause is present for some kind the block has sent since its last accepted clear. -/
def Body.cause (b : Body) (type inst : Nat) : Bool :=
  let p := b.page type inst
  p.sent.any (b.causeOf p)

/-- BLK_STATUS.TIMER. -/
def FaultPage.timing (p : FaultPage) : Bool := p.timer.isSome

/-! ## Codes of states -/

def BandState.code : BandState → Nat
  | .seeking => 0
  | .locked => 1
  | .holdover => 2
  | .unlocked => 3
  | .free => 4

def LinkState.code : LinkState → Nat
  | .disabled => 0
  | .down => 1
  | .train => 2
  | .auth => 3
  | .up => 4
  | .resize => 5
  | .quarantine => 6
  | .fenced => 7

def BankState.code : BankState → Nat
  | .off => 0
  | .retain => 1
  | .on => 2
  | .unusable => 3

def ThermalLevel.code : ThermalLevel → Nat
  | .normal => 0
  | .hot => 1
  | .critical => 2
  | .shutdown => 3

def KeeperMode.code : KeeperMode → Nat
  | .on => 0
  | .retain => 1
  | .off => 2
  | .restarting => 3

def Staging.code : Staging → Nat
  | .empty => 0
  | .verifying => 1
  | .staged _ => 2
  | .refused => 3

def StartState.code : StartState → Nat
  | .powering => 0
  | .waitRef => 1
  | .testing => 2
  | .ready => 3
  | .failed => 4

def SealState.code : SealState → Nat
  | .open_ => 0
  | .sealed => 1
  | .sealedUnverifiable => 2
  | .noStep => 3

def UnitState.code : UnitState → Nat
  | .idle => 0
  | .running => 1
  | .stopping => 2
  | .stopped => 3

/-! ## Power flags (Table 11.7) -/

/-- FLAGS of the beat in progress. DESIGN CHOICE (log 121): DROOP_ACTIVE and HOLDOVER are taken as they stand at the beat's end. -/
def Body.powerFlags (b : Body) : Nat :=
  field 0 1 (bit b.power.capUnmet) + field 1 1 (bit b.power.fixedConflict) + field 2 1 (bit b.power.rampUnmet)
    + field 3 1 (bit (b.power.droopWest || b.power.droopEast)) + field 4 1 (bit b.power.rally)
    + field 5 1 (bit (decide (b.clock.band = .holdover)))


/-! ## Two's complement -/

/-- An integer in `w` bits. -/
def signedBits (w : Nat) (x : Int) : Nat := (x % (2 ^ w : Int)).toNat

end Sys2Proof.Machine
end

