-- ==== Sys2Proof/Machine/Images.lean ====
section
/-!
DEFINITION. Snapshot images (15, R348, R352 to R355): sections and their sizes, destinations, and the bytes an image is written as.
-/

namespace Sys2Proof.Machine

open Arith

/-! ## Sections and sizes (Tables 15.1, 15.3, 15.4) -/

/-- KRON tensors of a layer, whose validity a ROOTS section holds. -/
def rootTensors (f : FixtureImage) (layer : Nat) : List TensorRec :=
  ((layerTensors f layer).filter (fun x => isKron x.1 x.2)).map (·.2)

/-- Shards that the partition's replicas (tensors it does not own) belong to, rising. -/
def replicaShards (f : FixtureImage) : List Nat := unionRising ((f.tensors.filter (fun t => !t.owned)).map (·.shard)) []

def ownedShards (f : FixtureImage) : List Nat := unionRising ((f.tensors.filter (·.owned)).map (·.shard)) []

/-- R371: CRC-64 over a shard's BF16 weights in tensor-record order. -/
def Body.shardSum (b : Body) (p : Nat) (f : FixtureImage) (shard : Nat) : Nat :=
  crc64 ((f.tensors.filter (fun t => decide (t.shard = shard))).flatMap (fun t => b.readLoc p t.w (2 * (t.rows * t.cols))))

/-- Layers that have a ROOTS section. -/
def rootLayers (f : FixtureImage) : List Nat := (ownedLayers f).filter (fun l => !(rootTensors f l).isEmpty)

/-- Pending schedule entries of a partition. -/
def Body.entriesOf (b : Body) (p : Nat) : List SchedEntry := b.sched.entries.filter (fun e => decide (e.part = p))

/-- Bytes of every section, in the order of Table 15.4. -/
def Body.sectionSizes (b : Body) (p : Nat) (f : FixtureImage) : List Nat :=
  [Config.sectionBytes 1 (replicaShards f).length, 32 * (b.entriesOf p).length, 20 * (b.part p).attn.lists.length, 16 * f.groups.length]
  ++ (ownedLayers f).map (fun l => spanBytes (layerSpans f l))
  ++ (rootLayers f).map (fun l => spanBytes (layerRoots f l) + Config.sectionBytes 0x11 (rootTensors f l).length)

/-- Header and section table of `n` sections. -/
def imageHead (n : Nat) : Nat := 128 + 32 * n

/-- R354: bytes of a full snapshot. -/
def Body.snapSize (b : Body) (p : Nat) : Nat :=
  match (b.part p).fix with
  | some f =>
    let ss := b.sectionSizes p f
    imageHead ss.length + ss.foldl (· + ·) 0
  | none => 0

/-! ## The header (Table 15.3) -/

/-- Bytes 0x00 to 0x5F of the header at destination `d`; LENGTH is that of its own copy. -/
def Image.headBytes (i : Image) (d : Nat) : List Byte :=
  leBytes 0x534E41504D564B31 8 ++ leBytes 1 4 ++ leBytes i.part 1 ++ leBytes i.dest 1 ++ leBytes 0 2 ++ leBytes i.serial.toNat 8
    ++ leBytes i.step 8 ++ leBytes i.fixtureHash 48 ++ leBytes i.rbVersion 4 ++ leBytes i.sections.length 4 ++ leBytes (i.lengths.getD d 0) 8

/-- Bytes 0x60 to 0x73. -/
def Image.sealBytes (i : Image) : List Byte :=
  leBytes i.sealed.code 1 ++ leBytes 0 7 ++ leBytes i.sealLoss 8 ++ leBytes i.sealVerdict 4

/-- The header at destination `d`. -/
def Image.header (i : Image) (d : Nat) : List Byte :=
  i.headBytes d ++ i.sealBytes ++ leBytes (crc32 i.sealBytes) 4 ++ leBytes (crc64 (i.headBytes d)) 8

/-- R355: the own copy's header verifies. The seal is outside HEADER_CRC. -/
def Body.ownHeader (b : Body) (i : Image) : Bool :=
  !b.store.anyPoison i.ownAt 128 && decide (b.store.bytes i.ownAt 0x60 = i.headBytes 0)
    && decide (b.store.bytes (i.ownAt + 0x78) 8 = leBytes (crc64 (i.headBytes 0)) 8)

/-- A seal state of Table 15.5. -/
def sealOf (code : Nat) : SealState :=
  match code with
  | 0 => .open_
  | 1 => .sealed
  | 2 => .sealedUnverifiable
  | _ => .noStep

/-- The seal that an own copy holds. What one reads as whose SEAL_CRC does not verify, or whose state Table 15.5 does not list, is not stated
(log 129). -/
def Body.ownSeal (b : Body) (i : Image) : Image :=
  let x := b.store.bytes (i.ownAt + 0x60) 20
  let c := leValue (x.take 1)
  let known := decide (c < 4) && decide (b.store.bytes (i.ownAt + 0x74) 4 = leBytes (crc32 x) 4)
  { i with sealed := sealOf (if known then c else Config.badSeal (leValue x) % 4), sealLoss := leValue ((x.drop 8).take 8),
           sealVerdict := leValue ((x.drop 16).take 4) }

/-- An image loses its copy at a destination: nothing is left of it if a section stood there. -/
def Image.lose (i : Image) (bit : Nat) : Option Image :=
  if !i.held.testBit bit then some i
  else if i.placed.contains bit then none
  else if i.held = 2 ^ bit then none
  else some { i with held := i.held - 2 ^ bit }

/-- R355: the complete images of a partition, newest first. An own copy whose header does not verify does not exist. -/
def Body.images (b : Body) (p : Nat) : List Image :=
  (b.part p).snap.images.filterMap (fun i => if i.held.testBit 0 && !b.ownHeader i then i.lose 0 else some i)

/-! ## Destinations (R352 to R355) -/

/-- Bytes of one own slot: the share, by outfield quota, of a partition that holds a fixture in the region below the guest share, cut into
SLOTS. -/
def Body.ownSlotBytes (b : Body) (p : Nat) : Nat :=
  if !(b.part p).holds then 0
  else
    let t := b.book.tables
    let region := (t.outfield.snapshotGib - t.snapshot.guestGib) * gib
    let sum := (b.parts.map (fun x => if x.holds then x.quotas.outfield else 0)).foldl (· + ·) 0
    region * (b.part p).quotas.outfield / max 1 sum / max 1 t.snapshot.slots

/-- R352: the slot of a new own snapshot: a free one, else the oldest, never that of the newest complete image. -/
def Body.ownSlot (b : Body) (p : Nat) : Option Nat :=
  let own := (b.images p).filter (fun i => i.held.testBit 0)
  let newest := (b.images p).head?.bind (fun i => if i.held.testBit 0 then some i.slot else none)
  let cand := (List.range b.book.tables.snapshot.slots).filter (fun s => decide (newest ≠ some s))
  match cand.find? (fun s => !own.any (fun i => decide (i.slot = s))) with
  | some s => some s
  | none => (own.reverse.find? (fun i => cand.contains i.slot)).map (·.slot)

/-- Room of a destination for sections; none where it has no limit (log 32). -/
def Body.destSpace (b : Body) (p bit head : Nat) : Option Nat :=
  match bit with
  | 0 => if (b.ownSlot p).isSome then some (b.ownSlotBytes p - head) else some 0
  | 1 => if b.book.tables.snapshot.buddy.isSome then some (b.book.tables.snapshot.guestGib * gib - head) else some 0
  | _ => none

/-- The first destination from the head on that has room for `n` bytes, and the room left from it on. -/
def fitFrom : List (Nat × Option Nat) → Nat → Option (Nat × List (Nat × Option Nat))
  | [], _ => none
  | (d, none) :: ds, _ => some (d, (d, none) :: ds)
  | (d, some k) :: ds, n => if n ≤ k then some (d, (d, some (k - n)) :: ds) else fitFrom ds n

/-- R355: sections in order fill OWN, then BUDDY, then HOST. -/
def placeSections : List Nat → List (Nat × Option Nat) → Option (List Nat)
  | [], _ => some []
  | n :: ns, ds => (fitFrom ds n).bind (fun r => (placeSections ns r.2).map (r.1 :: ·))

/-- R354: where each section would go, or none if they do not fit the mask. -/
def Body.placement (b : Body) (p mask : Nat) (f : FixtureImage) : Option (List Nat) :=
  let ss := b.sectionSizes p f
  let ds := (List.range 3).filter (fun d => mask.testBit d)
  if ds.any (fun d => b.destSpace p d 0 = some 0) then none
  else placeSections ss (ds.map (fun d => (d, b.destSpace p d (imageHead ss.length))))

/-- LENGTH of each destination's copy: header and section table, and the sections placed there. -/
def Body.copyLengths (b : Body) (p mask : Nat) (f : FixtureImage) (placed : List Nat) : List Nat :=
  let ss := b.sectionSizes p f
  (List.range 3).map (fun d => if mask.testBit d then
    imageHead ss.length + (((placed.zip ss).filter (fun x => decide (x.1 = d))).map (·.2)).foldl (· + ·) 0 else 0)

/-- Bytes of the own slots of the partitions before `p` in the snapshot region (R352). -/
def Body.ownBase (b : Body) (p : Nat) : Nat :=
  outfieldBase + b.book.tables.outfield.stagingGib * gib
    + ((List.range p).map (fun q => b.ownSlotBytes q * b.book.tables.snapshot.slots)).foldl (· + ·) 0

/-! ## The bytes of an image (R355, Tables 15.3 and 15.4; log 31) -/

/-- A schedule entry as its 32 bytes (Table 11.4). -/
def entryBytes (e : SchedEntry) : List Byte :=
  leBytes e.beat 8 ++ leBytes e.tick 4 ++ leBytes e.kind 1 ++ leBytes e.part 1 ++ leBytes 0 2 ++ leBytes e.token.toNat 4
    ++ leBytes e.arg0.toNat 4 ++ leBytes e.arg1.toNat 8

/-- TYPE of Table 15.4. -/
def SnapSection.type : SnapSection → Nat
  | .control .. => 0x01
  | .schedule _ => 0x02
  | .lists _ => 0x03
  | .groups _ => 0x04
  | .layer .. => 0x10
  | .roots .. => 0x11

def SnapSection.layerNo : SnapSection → Nat
  | .layer l _ => l
  | .roots l _ _ => l
  | _ => 0

/-- `n` bytes of a section that Table 15.4 gives no layout. -/
def openBytes (s : SnapSection) (n : Nat) : List Byte := (List.range n).map (Config.sectionByte s)

/-- Content of a section (Table 15.4). -/
def SnapSection.bytes (f : FixtureImage) (s : SnapSection) : List Byte :=
  match s with
  | .control _ _ _ _ _ _ _ _ sums => openBytes s (Config.sectionBytes 1 sums.length)
  | .schedule es => es.flatMap entryBytes
  | .lists rs => rs.flatMap (fun r => leBytes r.1 8 ++ leBytes r.2.1 4 ++ leBytes r.2.2 8)
  | .groups gs => gs.flatMap (fun g => leBytes g.p1 8 ++ leBytes g.p2 8)
  | .layer _ ss => ss.flatMap (·.2)
  | .roots l ss _ => ss.flatMap (·.2) ++ openBytes s (Config.sectionBytes 0x11 (rootTensors f l).length)

/-- A section with the destination that holds it, its place in that destination's image, and its bytes. -/
structure Placed where
  dest : Nat
  off : Nat
  sec : SnapSection
  bytes : List Byte
  deriving DecidableEq, Repr

def bytesAt (d : Nat) (xs : List Placed) : Nat := ((xs.filter (fun x => decide (x.dest = d))).map (fun x => x.bytes.length)).foldl (· + ·) 0

/-- Each section follows the sections before it at its destination. -/
def layOut (head : Nat) (f : FixtureImage) (xs : List (Nat × SnapSection)) : List Placed :=
  xs.foldl (fun acc x => acc ++ [⟨x.1, head + bytesAt x.1 acc, x.2, x.2.bytes f⟩]) []

def Image.placedSections (i : Image) (f : FixtureImage) : List Placed := layOut (imageHead i.sections.length) f (i.placed.zip i.sections)

/-- An entry of the section table; DEST is the bit of Table 15.2. -/
def Placed.entry (x : Placed) : List Byte :=
  leBytes x.sec.type 1 ++ leBytes (2 ^ x.dest) 1 ++ leBytes 0 2 ++ leBytes x.sec.layerNo 4 ++ leBytes x.off 8 ++ leBytes x.bytes.length 8
    ++ leBytes (crc64 x.bytes) 8

/-- The image that destination `d` receives: header, section table, and the sections placed there. -/
def Image.copyBytes (i : Image) (f : FixtureImage) (d : Nat) : List Byte :=
  let xs := i.placedSections f
  i.header d ++ xs.flatMap Placed.entry ++ (xs.filter (fun x => decide (x.dest = d))).flatMap (·.bytes)

/-- Bytes go to the own and the host destination of an image; the buddy's copy leaves over the links (log 78). -/
def Body.writeImage (b : Body) (i : Image) (bytes : Nat → List Byte) : Body :=
  let b := if i.dest.testBit 0 then { b with store := b.store.writeBytes i.ownAt (bytes 0) } else b
  if i.dest.testBit 2 then { b with host := { b.host with snapOut := (i.hostAddr, bytes 2) :: b.host.snapOut } } else b

/-- What reading back the own copy meets: poison, or bytes that are no longer those of a section. -/
def Body.ownReads (b : Body) (f : FixtureImage) (i : Image) : Option CopyFate :=
  let xs := (i.placedSections f).zipIdx.filter (fun x => decide (x.1.dest = 0))
  xs.findSome? (fun x =>
    if b.store.anyPoison (i.ownAt + x.1.off) x.1.bytes.length then some (.failed kMemUncorrectable x.2)
    else if b.store.bytes (i.ownAt + x.1.off) x.1.bytes.length ≠ x.1.bytes then some (.crcBad x.2)
    else none)

end Sys2Proof.Machine
end

