-- ==== Sys2Proof/Machine/Rulebooks.lean ====
section
/-!
DEFINITION. Staging and swapping rulebook images (12, R309 to R311, Table 12.10; R38, R117, R145, R210, R250, R274, R358,
R435).
-/

namespace Sys2Proof.Machine

open Arith

/-- Table 12.10. -/
def rbOk : Nat := 0x0
def rbSignatureBad : Nat := 0x1
def rbFormatBad : Nat := 0x2
def rbVersionOld : Nat := 0x3
def rbFieldRange : Nat := 0x4
def rbStagingFull : Nat := 0x5
def rbFixtureRange : Nat := 0x6
def rbRetiredSubset : Nat := 0x7
def rbLayoutBusy : Nat := 0x8

/-- Table 12.9: the ID of a table. -/
def tableId : RbTable → Nat
  | .beatConfig _ => 0x01
  | .opTable _ => 0x02
  | .rampCurve _ => 0x03
  | .powerControl _ => 0x04
  | .lossScale _ => 0x05
  | .updateRules _ => 0x06
  | .interleaveMap _ => 0x07
  | .memoryControl _ => 0x08
  | .outfieldLayout _ => 0x09
  | .infieldThermal _ => 0x0A
  | .linkConfig _ => 0x0B
  | .linkTrust _ => 0x0C
  | .routeTable _ => 0x0D
  | .streamWaitLimit _ => 0x0E
  | .faultThresholds _ => 0x0F
  | .snapshotPolicy _ => 0x10
  | .benchControl _ => 0x11
  | .unknown id => id

def tableListed : RbTable → Bool
  | .unknown _ => false
  | _ => true

/-- A table comes into force. -/
def putTable (r : Rulebook) : RbTable → Rulebook
  | .beatConfig t => { r with beat := t }
  | .opTable t => { r with op := t }
  | .rampCurve t => { r with ramp := t }
  | .powerControl t => { r with power := t }
  | .lossScale t => { r with loss := t }
  | .updateRules t => { r with update := t }
  | .interleaveMap t => { r with interleave := t }
  | .memoryControl t => { r with memory := t }
  | .outfieldLayout t => { r with outfield := t }
  | .infieldThermal t => { r with thermal := t }
  | .linkConfig t => { r with link := t }
  | .linkTrust t => { r with trust := t }
  | .routeTable t => { r with route := t }
  | .streamWaitLimit t => { r with streamWait := t }
  | .faultThresholds t => { r with faults := t }
  | .snapshotPolicy t => { r with snapshot := t }
  | .benchControl t => { r with bench := t }
  | .unknown _ => r

/-- The rulebook as it would stand with every table of the image in force. -/
def withImage (r : Rulebook) (img : RulebookImage) : Rulebook := img.tables.foldl putTable r

def within (lo x hi : Nat) : Bool := decide (lo ≤ x) && decide (x ≤ hi)
def withinI (lo x hi : Int) : Bool := decide (lo ≤ x) && decide (x ≤ hi)

/-- An FP32 field within two integers. -/
def within32 (lo : Int) (code : Nat) (hi : Int) : Bool :=
  let v := Fmt.fp32.decode code
  v.isFinite && !(v.lt (FVal.ofDyadic ⟨lo, 0⟩)) && !((FVal.ofDyadic ⟨hi, 0⟩).lt v)

/-! ## Range rules (the range columns of the tables) -/

/-- R274. -/
def opTableOk (t : List OpEntry) : Bool :=
  decide (t.length = 16) && t.all (fun e => within 550 e.freqMhz 1800 && within 1 e.dutyStepW 3400)
    && (t.zip (t.drop 1)).all (fun (a, c) => decide (a.freqMhz < c.freqMhz) && decide (a.vcoreMv ≤ c.vcoreMv))

/-- Table 11.9: 4 rows, FROM_W ascending from 0. -/
def rampOk (t : List RampRow) : Bool :=
  decide (t.length = 4) && decide ((t.head?.map (·.fromW)) = some 0)
    && (t.zip (t.drop 1)).all (fun (a, c) => decide (a.fromW < c.fromW))
    && t.all (fun r => within 10 r.up 100000 && within 10 r.down 100000)

def permutation (xs : List Nat) (n : Nat) : Bool := decide (xs.length = n) && (List.range n).all xs.contains

def subsetOf (xs ys : List Nat) : Bool := xs.all ys.contains

/-- Members of a tree from its root down, level by level; a cycle goes on for as many levels as are asked for. -/
def treeLevels (t : Tree) : Nat → List Nat → List Nat
  | 0, _ => []
  | n + 1, ms => ms ++ treeLevels t n (ms.flatMap (fun m => (t.children.filter (fun c => decide (c.1 = m))).flatMap (·.2)))

def noRepeats (ms : List Nat) : Bool := decide (ms.eraseDups.length = ms.length)

/-- R435: the tree reaches every member of the group exactly once, and names no other. -/
def treeOk (ms : List Nat) (t : Tree) : Bool :=
  let xs := treeLevels t ms.length [t.root]
  noRepeats ms && decide (xs.length = ms.length) && ms.all xs.contains && noRepeats (t.children.map (·.1))
    && t.children.all (fun c => xs.contains c.1 && within 0 c.2.length 8)

def routeOk (t : RouteTable) : Bool :=
  decide (t.domain < 2 ^ 32) && within 1 t.members.length 4096 && within 1 t.groups.length 64
    && t.groups.all (fun g => g.trees.all (treeOk g.members) && treeOk g.members g.status)
    && t.edges.all (fun e => decide (e.detours.length ≤ 2) && e.detours.all (fun d => within 2 d.length 4))

def promotionOk (p : Promotion) : Bool := within 1 p.limit 65535 && within 60000000000 p.windowNs (168 * 3600000000000)

/-- A table's own range rules; R210's superset rule reads the module's sets, R358's the region of the rulebook to come. -/
def tableOk (s : Store) (after : Rulebook) : RbTable → Bool
  | .beatConfig t => within 20000 t.beatNs 1000000 && decide (t.beatNs % 1000 = 0) && within 10 t.edgeTol 1000
      && within 1 t.holdoverBeats 10000 && within 5000 t.noticeDelayMax 500000 && decide (t.noticeDelayMax ≤ t.beatNs)
      && within 1 t.rallyWindow 64 && within 100 t.grantRefresh 1000000 && within 620 t.safeGrant 3400
  | .opTable t => opTableOk t
  | .rampCurve t => rampOk t
  | .powerControl t => within 0 t.fixedOp 15 && within 1 t.opDownDuty 15 && within 0 t.upMargin 1000
      && within 100 t.droopReleaseNs 10000 && within 80 t.throttleC 100 && within (t.throttleC + 5) t.stopC 110
      && within (t.stopC + 5) t.tripC 120
  | .lossScale t => withinI (-64) t.restartExp 63 && withinI (-64) t.scaleMin 63 && withinI (-64) t.scaleMax 63
      && decide (t.scaleMin ≤ t.restartExp) && decide (t.restartExp ≤ t.scaleMax) && within 1 t.growth 1048576
      && within 1 t.skipLimit 1000
  | .updateRules t => within32 0 t.nsA 8 && within32 (-8) t.nsB 0 && within32 0 t.nsC 8 && within 1 t.kronIterMax 64
      && within 0x35800000 t.kronTol 0x3D800000
      && (let d := (((Fmt.fp32.decode t.nsA).add (Fmt.fp32.decode t.nsB)).add (Fmt.fp32.decode t.nsC)).sub (.fin false 1 0)
          !(FVal.lt (.fin false 1 (-10)) d.abs))
  | .interleaveMap t => permutation t.slotMap 384 && permutation t.outSlotMap 8 && t.retired.all (· < 384)
      && t.outRetired.all (· < 8) && subsetOf s.retired t.retired && subsetOf s.outRetired t.outRetired
  | .memoryControl t => within 1 t.scrubHours 168 && within 1 t.orderTimeout 10000 && within 10 t.retrainDeferMax 100000
      && within 1 t.retrainAttempts 8
  | .outfieldLayout t => within 4 t.stagingGib 64 && within 0 t.snapshotGib 768
  | .infieldThermal t => within 70 t.hotC 100 && within (t.hotC + 5) t.critC 105
  | .linkConfig t => decide (t.enable.length = 48) && t.txPreset.all (· < 16) && within 1 t.minWidth 4
      && within 10000000 t.trainRetryNs 10000000000 && within 1 t.laneFail 65535 && within 16 t.retryStorm 65535
      && within 10000 t.starveVc0Ns 100000000 && within 2 t.dataStarveBeats 100000 && within 1 t.badFrameLimit 65535
      && within 1000000 t.badFrameWindowNs 60000000000 && within 0 t.forwardShare 256
      && within 10 t.collectiveTimeout 100000 && within 100000 t.fenceGraceNs 10000000
  | .linkTrust _ => true
  | .routeTable t => routeOk t
  | .streamWaitLimit t => within 100 t 1000000
  | .faultThresholds t => within 50000 t.timerNs 100000000
      && [t.memCorrected, t.laneFailed, t.authFailed, t.bellPool, t.precond, t.beatMismatch].all promotionOk
  | .snapshotPolicy t => decide (t.destAuto < 8) && within 1 t.slots 4 && within 1 t.gridSteps 65535
      && [t.wMem, t.wStack, t.wDie, t.wLane, t.wRetrain, t.wDroop].all (fun w => within32 0 w 1000)
      && within 60000000000 t.forecastNs 86400000000000 && within32 1 t.riskThreshold 1000000
      && within32 0 t.riskHysteresis 1000000 && !(flt .fp32 t.riskThreshold t.riskHysteresis) && within 1 t.guardSteps 1000
      && within 0 t.cFixedMs 3600000 && within 0 t.domainMtbfH 100000 && within 1 t.priorMtbfH 100000
      && within 60 t.tMin 86400 && within 60 t.tMax 86400 && decide (t.tMin ≤ t.tMax) && t.buddy.all (· < 4096)
      && decide (t.order.length = 3) && [Dest.own, .buddy, .host].all t.order.contains
      && decide (t.guestGib ≤ 768) && decide (t.guestGib ≤ after.outfield.snapshotGib)
  | .benchControl t => within 10 t.timer 100000 && within 1 t.splitMax 4
  | .unknown _ => false

/-- R250: DATA_STARVE stays above ORDER_TIMEOUT in the rulebook as it will stand. -/
def starveOk (r : Rulebook) : Bool := decide (r.memory.orderTimeout < r.link.dataStarveBeats)

/-! ## Staging (R310) -/

/-- Each entry names its table, whose bytes lie between the directory and the signature (log 125). -/
def directoryOk (img : RulebookImage) : Bool :=
  decide (img.directory.length = img.tableCount) && decide (img.directory.map (·.id) = img.tables.map tableId)
    && img.directory.all (fun e => decide (0x40 + 16 * img.tableCount ≤ e.offset) && decide (e.offset + e.length + 104 ≤ img.length))

/-- Table 12.8: header, directory, unknown or repeated table IDs, reserved bits. -/
def rbFormatOk (len : Nat) (img : RulebookImage) : Bool :=
  decide (img.magic = 0x52424F4F4B4D564B) && decide (img.length = len) && within 1 img.tableCount 16
    && decide (img.tableCount = img.tables.length) && img.rsvdZero && directoryOk img && img.tables.all tableListed
    && decide ((img.tables.map tableId).eraseDups.length = img.tables.length)

/-- The first failure sets the code (R310). -/
def Body.stageCode (b : Body) (v : Vault) (len : Nat) (img : RulebookImage) : Nat :=
  if !v.verifies v.rulebookKeys img.signer then rbSignatureBad
  else if !rbFormatOk len img then rbFormatBad
  else if img.version ≤ b.book.version then rbVersionOld
  else
    let after := withImage b.book.tables img
    if img.tables.all (tableOk b.store after) && starveOk after then rbOk else rbFieldRange

/-- A staging or swap result is recorded: LAST_RESULT and the RULEBOOK attention bit (Tables 12.5, 12.12). -/
def Body.rbResult (b : Body) (code : Nat) : Body := ({ b with book := { b.book with lastResult := code } }).attention 4 3

def Body.setStaging (b : Body) (slot : Nat) (x : Staging) : Body :=
  { b with book := { b.book with staging := alter slot (fun _ => x) b.book.staging } }

def stagingFree : Staging → Bool
  | .empty | .refused => true
  | _ => false

def cmdTableLoad (v : Vault) (off len slot : Nat) (img : RulebookImage) (b : Body) : Body × CmdEnd :=
  if 4 ≤ slot ∨ 64 * 2 ^ 20 < len ∨ b.book.tables.outfield.stagingGib * gib < off + len then (b, fail stArgsBad)
  else if !stagingFree (b.book.staging.getD slot .empty) then (b.rbResult rbStagingFull, .done stRefused rbStagingFull .none)
  else
    let c := b.stageCode v len img
    if c = rbOk then ((b.setStaging slot (.staged img)).rbResult rbOk, ok)
    else ((b.setStaging slot .refused).rbResult c, .done stRefused c .none)

/-- A pending TABLE_SWAP names the slot. -/
def Body.swapNames (b : Body) (slot : Nat) : Bool :=
  b.sched.entries.any (fun e => decide (e.kind = 4) && decide (e.arg0.toNat % 4 = slot))

def cmdTableDiscard (slot : Nat) (b : Body) : Body × CmdEnd :=
  if 4 ≤ slot then (b, fail stArgsBad)
  else if decide (b.book.staging.getD slot .empty = .verifying) || b.swapNames slot then (b, fail stStateWrong)
  else (b.setStaging slot .empty, ok)

/-! ## Swap (R311, R38) -/

def imageInterleave (img : RulebookImage) : Option InterleaveMap :=
  img.tables.findSome? (fun t => match t with
    | .interleaveMap m => some m
    | _ => none)

def imageLayout (img : RulebookImage) : Option OutfieldLayout :=
  img.tables.findSome? (fun t => match t with
    | .outfieldLayout l => some l
    | _ => none)

/-- The checks of a swap, in code order (R311): 0x4, 0x6, 0x7, 0x8. -/
def Body.swapCode (b : Body) (img : RulebookImage) : Nat :=
  if !starveOk (withImage b.book.tables img) then rbFieldRange
  else if b.parts.any (fun x => x.holds && (match x.fix with
      | some f => versionOutside f img.version
      | none => false)) then rbFixtureRange
  else if (match imageInterleave img with
      | some m => !(subsetOf b.store.retired m.retired && subsetOf b.store.outRetired m.outRetired)
      | none => false) then rbRetiredSubset
  else if (match imageLayout img with
      | some l => decide (l ≠ b.book.tables.outfield) && b.parts.any (·.holds)
      | none => false)
    || (match imageInterleave img with
      | some m => decide (m.slotMap ≠ b.book.tables.interleave.slotMap) && b.parts.any (fun x => !x.grant.infield.isEmpty)
      | none => false) then rbLayoutBusy
  else rbOk

end Sys2Proof.Machine
end

