-- ==== Sys2Proof/Machine/Snapshot.lean ====
section
/-!
DEFINITION. Snapshots and restores (15): the cut, copying, seals, the automatic triggers, and the restore of a partition.
-/

namespace Sys2Proof.Machine

open Arith

/-! ## The cut (R349, R350) -/

def SnapSection.ofLayer (b : Body) (p : Nat) (f : FixtureImage) (l : Nat) : SnapSection :=
  .layer l (b.copySpans p (layerSpans f l))

def SnapSection.ofRoots (b : Body) (p : Nat) (f : FixtureImage) (l : Nat) : SnapSection :=
  .roots l (b.copySpans p (layerRoots f l))
    ((b.part p).upd.rootsValid.filter (fun id => (rootTensors f l).any (fun t => decide (t.id = id))))

/-- Position of the first operation of a list at step counter `step` or later. -/
def firstOf (f : FixtureImage) (s step : Nat) : Nat :=
  (FixtureImage.stream f s).findIdx (fun o => decide (step ≤ f.firstStep + o.step))

/-- Operations of earlier steps that a stream has not issued yet: the restored step starts after them (R349). -/
def Partition.gap (x : Partition) (f : FixtureImage) (s step : Nat) : Nat := firstOf f s step - ((x.streams.getD s Stream.reset).pos)

/-- Tokens of those operations, complete from the restored step's view. -/
def Partition.dueTokens (x : Partition) (f : FixtureImage) (s step : Nat) : List Done :=
  (List.range (x.gap f s step)).map (fun i => ⟨mkToken s ((x.streams.getD s Stream.reset).count + 1 + i), none⟩)

/-- Positions, counts and scoreboard from which step `step` starts. -/
def Partition.streamState (x : Partition) (f : FixtureImage) (step : Nat) : List Nat × List Nat × List Done :=
  let due := (List.range 3).flatMap (fun s => x.dueTokens f s step)
  let flying := (x.flights.filter (fun fl => !x.inStep fl)).map (fun fl => (⟨fl.token, none⟩ : Done))
  let keep := x.board.filter (fun d => !(x.replayed d.token) && !(due.any (fun e => e.token == d.token)))
  let c := (x.streams.getD 2 Stream.reset).count
  ([x.pass.startPos.getD 0 0, x.pass.startPos.getD 1 0, (x.streams.getD 2 Stream.reset).pos + x.gap f 2 step],
   [x.pass.startCount.getD 0 0, x.pass.startCount.getD 1 0, (c + x.gap f 2 step) % 2 ^ 30, x.beatCount],
   due ++ flying ++ keep)

/-- A serving fixture's stream state: as it stands. -/
def Partition.streamNow (x : Partition) : List Nat × List Nat × List Done :=
  (x.streams.map (·.pos), x.streams.map (·.count) ++ [x.beatCount], x.board)

def Body.controlSection (b : Body) (p : Nat) (f : FixtureImage) : SnapSection :=
  let x := b.part p
  let st := if FixtureImage.serving f then x.streamNow else x.streamState f x.pass.step
  .control st.1 st.2.1 st.2.2 x.pass.step x.pass.scaleExp x.pass.clean x.pass.history x.pass.skips ((replicaShards f).map (b.shardSum p f))

/-- Every section as it stands; layers still due are left empty. -/
def Body.sections (b : Body) (p : Nat) (f : FixtureImage) (due : List Nat) : List SnapSection :=
  [b.controlSection p f, .schedule (b.entriesOf p),
   .lists ((b.part p).attn.lists.map (fun off =>
     (off, leValue (b.readLoc p ⟨.infield, off⟩ 4), leValue (b.readLoc p ⟨.infield, off + 16⟩ 8)))),
   .groups (b.part p).upd.groups]
  ++ (ownedLayers f).map (fun l => if due.contains l then .layer l [] else SnapSection.ofLayer b p f l)
  ++ (rootLayers f).map (fun l => if due.contains l then .roots l [] [] else SnapSection.ofRoots b p f l)

/-- Mean duration of the last 8 steps, ns. -/
def Snap.mean (s : Snap) : Nat :=
  let xs := (s.stepNs.take 8).map (·.1)
  if xs.isEmpty then 0 else xs.foldl (· + ·) 0 / xs.length

/-- A snapshot takes its cut: none where its sections do not fit. `step` is the STEP it holds; `due` the layers whose UPDATE
of that step has not completed. -/
def Body.cut (b : Body) (v : Vault) (p : Nat) (w : SnapWait) (st : SealState) (step : Nat) (due : List Nat) : Option Body :=
  match (b.part p).fix with
  | none => none
  | some f =>
    (b.placement p w.mask f).map (fun placed =>
      let slot := (b.ownSlot p).getD 0
      let src := if st = .noStep && !FixtureImage.serving f then b.rollback p else b
      let img : Image :=
        { part := p, dest := w.mask, held := w.mask, serial := v.serial, step := step, fixtureHash := f.hash, rbVersion := b.book.version,
          lengths := b.copyLengths p w.mask f placed, sealed := st, sealLoss := 0, sealVerdict := 0, sections := src.sections p f due,
          placed := placed, slot := slot,
          ownAt := b.ownBase p + slot * b.ownSlotBytes p, ownLost := false, awaits := decide (st = .open_), hostAddr := w.addr }
      b.alterPart p (fun x => { x with snap := { x.snap with
        run := some ⟨img, due, w.command, b.clock.now, x.snap.mean⟩,
        images := if w.mask.testBit 0 then x.snap.images.filterMap (fun i => if i.held.testBit 0 ∧ i.slot = slot then i.lose 0 else some i)
                  else x.snap.images,
        waiting := none, lastCut := b.clock.now } }))

/-! ## Copying and completion (R351, R356) -/

/-- Groups of a GROUPS section that have advanced for the cut's step stand at their values of that step (R137, R139). -/
def Upd.groupsAt (u : Upd) (step : Nat) (gs : List GroupState) : List GroupState :=
  gs.map (fun g => if u.advanced.contains (g.id, step) then (u.groups.find? (fun x => decide (x.id = g.id))).getD g else g)

def replaceSection (b : Body) (p : Nat) (f : FixtureImage) (step layer : Nat) (s : SnapSection) : SnapSection :=
  match s with
  | .groups gs => .groups ((b.part p).upd.groupsAt step gs)
  | .layer l old => if l = layer then SnapSection.ofLayer b p f l else .layer l old
  | .roots l old va => if l = layer then SnapSection.ofRoots b p f l else .roots l old va
  | s => s

/-- Layers whose UPDATE of a step, or of one before it, is still to complete, and is not withheld. -/
def Partition.layersDue (x : Partition) (f : FixtureImage) (step : Nat) : List Nat :=
  let pos := (x.streams.getD 2 Stream.reset).pos
  let flying := (x.flights.filter (fun fl => decide (fl.stream = 2))).filterMap x.op?
  let due := (f.upd.drop pos ++ flying).filter (fun o => decide (x.stepOf o ≤ step) && !x.upd.withheld.contains (x.stepOf o))
  unionRising (due.filterMap (fun o => match o.payload with
    | .update l => if (ownedLayers f).contains l then some l else none
    | _ => none)) []

/-- The last UPDATE of `layer` up to the cut's step has completed: its copy is made, with P1 and P2 that the UPDATE applied (R139). -/
def Body.copyLayer (b : Body) (p layer step : Nat) : Body :=
  match (b.part p).snap.run, (b.part p).fix with
  | some r, some f =>
    if r.layersDue.contains layer && decide (step ≤ r.image.step) && !((b.part p).layersDue f r.image.step).contains layer then
      let img := { r.image with sections := r.image.sections.map (replaceSection b p f r.image.step layer) }
      b.alterPart p (fun x => { x with snap := { x.snap with run := some { r with image := img, layersDue := r.layersDue.filter (· != layer) } } })
    else b
  | _, _ => b

/-- A cost in ms from ns. -/
def costOf (spent mean : Nat) : Nat := (spent - mean) / 1000000

/-- An image is complete: older copies at the buddy, and at the same host address, are gone. Its cost is known once the step has ended in
which the last copy ran; where no step runs, copies ran in none, and it is 0 (R360). -/
def Snap.complete (s : Snap) (r : SnapRun) (steps : Bool) : Snap :=
  let img := r.image
  let older := s.images.filterMap (fun i =>
    ((if img.held.testBit 1 then i.lose 1 else some i).bind (fun i =>
      if img.held.testBit 2 && decide (i.hostAddr = img.hostAddr) then i.lose 2 else some i)))
  { s with run := none, images := img :: older, snapshots := wrap 32 (s.snapshots + 1), costMs := if steps then s.costMs else some 0,
           costDue := if steps then some (r.started, r.meanNs) else none }

/-- The bytes of an image go to its destinations. -/
def Body.storeImage (b : Body) (p : Nat) (i : Image) : Body :=
  match (b.part p).fix with
  | some f => b.writeImage i (i.copyBytes f)
  | none => b

/-- C in force in ms, if there is one (R360). -/
def Body.costC (b : Body) (p : Nat) : Option Nat :=
  if b.book.tables.snapshot.cFixedMs ≠ 0 then some b.book.tables.snapshot.cFixedMs else (b.part p).snap.costMs

/-- floor of a finite FP64 code. -/
def floor64 (c : Nat) : Nat :=
  let d := (Fmt.fp64.decode c).dy
  if 0 ≤ d.e then (d.m * 2 ^ d.e.toNat).toNat else (d.m / 2 ^ (-d.e).toNat).toNat

/-- M in hours, in FP64. -/
def Body.mtbf (b : Body) (p : Nat) : Nat :=
  let q := b.book.tables.snapshot
  if q.domainMtbfH ≠ 0 then ofInt .fp64 q.domainMtbfH
  else
    let h := ofRatio .fp64 (b.clock.now - (b.part p).snap.admittedAt : Nat) 3600000000000
    fdiv .fp64 (fadd .fp64 (ofInt .fp64 q.priorMtbfH) h) (ofInt .fp64 (1 + (b.part p).snap.restoresSince : Nat))

/-- T in seconds (R360). -/
def Body.intervalT (b : Body) (p : Nat) : Nat :=
  let q := b.book.tables.snapshot
  match b.costC p with
  | none => q.tMin
  | some c =>
    let cs := fdiv .fp64 (ofInt .fp64 c) (ofInt .fp64 1000)
    let ms := fmul .fp64 (b.mtbf p) (ofInt .fp64 3600)
    min q.tMax (max q.tMin (floor64 (fsqrt .fp64 (fmul .fp64 (fmul .fp64 (ofInt .fp64 2) cs) ms))))

/-- C and T in force, as SNAP_COST shows them (R372). -/
def Body.refreshCost (b : Body) (p : Nat) : Body :=
  b.alterPart p (fun x => { x with snap := { x.snap with costC := (b.costC p).getD 0, tS := b.intervalT p } })

/-- The partition runs steps: those in which a snapshot copies have a duration. -/
def Partition.runsSteps (x : Partition) : Bool :=
  decide (x.fstate = .running) && (match x.fix with
    | some f => !f.upd.isEmpty
    | none => false)

/-- The snapshot that copies completes, if every layer has been copied. DETAIL counts the bytes of every destination's copy; the cost of one
that copies while a step runs is not known before the step has ended, and stays open (R356; log 130). -/
def Body.finishSnapshot (b : Body) (p : Nat) : Option (Body × SnapRun × Detail) :=
  match (b.part p).snap.run with
  | some r =>
    if r.layersDue.isEmpty then
      let steps := (b.part p).runsSteps
      let c := if steps then Config.snapCost b.free else 0
      let b := (b.storeImage p r.image).alterPart p (fun x => { x with snap := x.snap.complete r steps })
      some ({ b.refreshCost p with free := b.free + 1 }, r, .snapshot r.image.step (r.image.lengths.foldl (· + ·) 0) c r.image.slot)
    else none
  | none => none

/-! ## Requests (R350, R354, R361) -/

/-- The cut is the moment the snapshot starts: a serving fixture, or one in STOPPED (R349). A layer whose UPDATE the stop has held up is
copied once that has completed. -/
def Partition.cutsNow (x : Partition) : Bool :=
  decide (x.fstate = .stopped) || (match x.fix with
    | some f => f.upd.isEmpty
    | none => false)

/-- Requests for the same cut join: their destinations together. -/
def SnapWait.join (a c : SnapWait) : SnapWait := ⟨a.mask ||| c.mask, if c.mask.testBit 2 then c.addr else a.addr, a.command || c.command⟩

/-- What becomes of a request. -/
inductive SnapAnswer where
  | started | waits | noFit | refused
  deriving DecidableEq, Repr

/-- A request by command or by schedule entry. -/
def Body.requestSnapshot (b : Body) (v : Vault) (p : Nat) (w : SnapWait) : Body × SnapAnswer :=
  let x := b.part p
  match x.holds, x.fix with
  | true, some f =>
    if (b.placement p w.mask f).isNone then (b, .noFit)
    else if x.snap.run.isSome && x.snap.waiting.isSome then (b, .refused)
    else if x.cutsNow && x.snap.run.isNone then
      match b.cut v p w .noStep (x.pass.step - 1) (x.layersDue f (x.pass.step - 1)) with
      | some b => (b, .started)
      | none => (b, .noFit)
    else
      let w' := match x.snap.waiting with
        | some o => o.join w
        | none => w
      (b.alterPart p (fun y => { y with snap := { y.snap with waiting := some w' } }), .waits)
  | _, _ => (b, .refused)

def cmdSnapshot (v : Vault) (p mask addr : Nat) (b : Body) : Body × CmdEnd :=
  if mask = 0 ∨ 8 ≤ mask then (b, fail stArgsBad)
  else match b.requestSnapshot v p ⟨mask, addr, true⟩ with
    | (b, .started) => (b, .running)
    | (b, .waits) => (b, .running)
    | (_, .noFit) => (b, fail stArgsBad)
    | (_, .refused) => (b, fail stStateWrong)

/-! ## Triggers at a verdict (R359, R360) -/

/-- Moments within the last window, as a rate per hour in FP32. -/
def ratePerHour (ts : List Nat) (now window : Nat) : Nat :=
  let n := (ts.filter (fun t => decide (now ≤ t + window))).length
  ofRatio .fp32 (n * 3600000000000) (max 1 window)

/-- max(0, hottest − limit) in FP32. -/
def excess (temps : List Int) (limit : Int) : Nat :=
  match temps with
  | [] => 0
  | t :: ts => ofInt .fp32 (max 0 (ts.foldl max t - limit))

/-- The forecast F over the last FORECAST_WINDOW, summed in the order of the table in FP32 (log 33). -/
def Body.forecast (b : Body) : Nat :=
  let t := b.book.tables
  let q := t.snapshot
  let rate := fun ts => ratePerHour ts b.clock.now q.forecastNs
  let hot := fun (now : List Int) (hs : List (Nat × Int)) => now ++ (hs.filter (fun x => decide (b.clock.now ≤ x.1 + q.forecastNs))).map (·.2)
  let xs := [(q.wMem, rate b.store.correctedAt),
    (q.wStack, excess (hot (b.store.stackCtl.map (·.temp)) b.store.hotAt) ((t.thermal.hotC : Int) - 10)),
    (q.wDie, excess (hot (b.power.west ++ b.power.east) b.power.hotAt) ((t.power.throttleC : Int) - 10)), (q.wLane, rate b.net.laneFailedAt),
    (q.wRetrain, rate b.store.urgentAt), (q.wDroop, rate b.power.deferredAt)]
  xs.foldl (fun s wx => fadd .fp32 s (fmul .fp32 wx.1 wx.2)) 0

def cadenceRisk (c : Cadence) : Bool := decide (c = .risk) || decide (c = .both)
def cadenceRate (c : Cadence) : Bool := decide (c = .rate) || decide (c = .both)

/-- R359: GUARD after a verdict, its count, and whether a snapshot is due. -/
def Body.riskTrigger (b : Body) (p f : Nat) : Bool × Nat × Bool :=
  let q := b.book.tables.snapshot
  let s := (b.part p).snap
  if !cadenceRisk q.cadence then (false, 0, false)
  else if s.guard then
    if flt .fp32 f (fsub .fp32 q.riskThreshold q.riskHysteresis) then (false, 0, false)
    else if q.guardSteps ≤ s.guardCount + 1 then (true, 0, true) else (true, s.guardCount + 1, false)
  else if !flt .fp32 f q.riskThreshold then (true, 0, true) else (false, 0, false)

/-- R360: the verdict of step `step` is on the grid and T has passed. -/
def Body.rateTrigger (b : Body) (p step : Nat) : Bool :=
  let q := b.book.tables.snapshot
  cadenceRate q.cadence && decide (step % max 1 q.gridSteps = 0)
    && decide ((b.part p).snap.lastCut + b.intervalT p * 1000000000 ≤ b.clock.now)

/-- Durations and costs at a verdict, then the forecast and T in force (R359, R360). -/
def Body.snapMeasure (b : Body) (p : Nat) : Body :=
  let now := b.clock.now
  let s := (b.part p).snap
  let cost := match s.costDue with
    | some (at_, mean) => some (costOf (now - at_) mean)
    | none => s.costMs
  let b := b.alterPart p (fun x => { x with snap := { x.snap with
    costMs := cost, costDue := none, stepNs := (now - s.lastVerdictAt, s.run.isSome || s.costDue.isSome) :: s.stepNs.take 15,
    lastVerdictAt := now, score := b.forecast } })
  b.refreshCost p

/-- A request that waited and no longer fits at its cut: nothing is copied, and a command completes ARGS_BAD (R354). -/
def Body.dropWaiting (b : Body) (p : Nat) : Body :=
  match (b.part p).snap.waiting with
  | some w =>
    let b := b.alterPart p (fun x => { x with snap := { x.snap with waiting := none } })
    if w.command then b.endSnapshotCmd p stArgsBad 0 else b
  | none => b

/-- R349, R350, R359 to R361: what the verdict of step `step` (already advanced past) does about snapshots. -/
def Body.snapAtVerdict (b : Body) (v : Vault) (p step : Nat) : Body :=
  match (b.part p).fix with
  | none => b
  | some f =>
    let b := b.snapMeasure p
    let s := (b.part p).snap
    let r := b.riskTrigger p s.score
    let auto := r.2.2 || b.rateTrigger p step
    let b := b.alterPart p (fun x => { x with snap := { x.snap with guard := r.1, guardCount := r.2.1 } })
    if s.run.isSome then b
    else
      let own : SnapWait := ⟨b.book.tables.snapshot.destAuto, 0, false⟩
      let want := match s.waiting, auto with
        | some w, true => some (w.join own)
        | some w, false => some w
        | none, true => some own
        | none, false => none
      match want with
      | none => b
      | some w =>
        let st := if f.upd.isEmpty then SealState.noStep else .open_
        (b.cut v p w st step ((b.part p).layersDue f step)).getD
          ((b.cut v p ((s.waiting).getD w) st step ((b.part p).layersDue f step)).getD (b.dropWaiting p))

/-- An image of the snapshot of the step before `step` whose fixture has run on since (R357). -/
def Image.takesSeal (i : Image) (step : Nat) : Bool := decide (i.sealed = .open_) && i.awaits && decide (i.step + 1 = step)

/-- R357: the seal of step `step` goes into every image of the snapshot of the step before. -/
def Image.seal_ (i : Image) (step loss verdict : Nat) (verifiable : Bool) : Image :=
  if i.takesSeal step then
    (if verifiable then { i with sealed := .sealed, sealLoss := loss, sealVerdict := verdict, awaits := false }
     else { i with sealed := .sealedUnverifiable, awaits := false })
  else i

def Body.sealImages (b : Body) (p step loss verdict : Nat) (verifiable : Bool) : Body :=
  let b := ((b.images p).filter (fun i => i.takesSeal step)).foldl (fun (b : Body) i =>
    b.writeImage i (i.seal_ step loss verdict verifiable).header) b
  b.alterPart p (fun x => { x with snap := { x.snap with
    images := x.snap.images.map (fun i => i.seal_ step loss verdict verifiable),
    run := x.snap.run.map (fun r => { r with image := r.image.seal_ step loss verdict verifiable }) } })

/-! ## Restoring (R362 to R365, R371) -/

/-- Images a destination holds, newest first. -/
def Body.imagesAt (b : Body) (p bit : Nat) : List Image := (b.images p).filter (fun i => i.held.testBit bit)

/-- Every section can be read: none stands on an own copy that has lost granules. -/
def Image.reachable (i : Image) : Bool := !(i.ownLost && i.placed.contains 0)

def Image.control (i : Image) : Option SnapSection := i.sections.find? (fun s => match s with
  | .control .. => true
  | _ => false)

/-- One section is written back. -/
def Body.putSection (b : Body) (p : Nat) (s : SnapSection) : Body :=
  match s with
  | .layer _ ss => b.putSpans p ss
  | .roots l ss va =>
    let ids := ((b.part p).fix.map (fun f => (rootTensors f l).map (·.id))).getD []
    (b.putSpans p ss).alterPart p (fun x => { x with upd := { x.upd with
      rootsValid := unionRising va (x.upd.rootsValid.filter (fun id => !ids.contains id)) } })
  | .groups gs => b.alterPart p (fun x => { x with upd := { x.upd with groups := gs } })
  | _ => b

/-- Table 15.8 step 3. -/
def Partition.putControl (x : Partition) (s : SnapSection) (restart : Option Int) : Partition :=
  match s with
  | .control pos counts board step e clean hist skips _ =>
    { x with
      streams := (List.range 3).map (fun i => ⟨pos.getD i 0, counts.getD i 0, none⟩),
      beatCount := counts.getD 3 0, flights := [], board := board,
      pass := { x.pass with
        scaleExp := restart.getD e, clean := if restart.isSome then 0 else clean, history := if restart.isSome then 3 else hist,
        skips := skips, step := step, splits := [], bench := [], benchHold := none, losses := [], lossEngine := none, flags := 0,
        startPos := pos.take 3, startCount := counts.take 3 },
      upd := { x.upd with journal := [], advanced := [], withheld := [] } }
  | _ => x

/-- Table 15.8 step 4: an entry is reinstated if R266 admits it, and counted in STALE otherwise; its token is not complete. -/
def Body.reinstate (b : Body) (e : SchedEntry) : Body :=
  if b.clock.band = .seeking || b.tickBad e || decide (e.beat < b.clock.beat + 2) || decide (1024 ≤ b.sched.entries.length) then
    { b with sched := { b.sched with stale := wrap 32 (b.sched.stale + 1) } }
  else
    let c := (b.part e.part).beatCount
    let m := b.sched.moduleCount
    let b := b.install e
    let b := if e.part < 4 then b.alterPart e.part (fun x => { x with beatCount := c }) else b
    { b with sched := { b.sched with moduleCount := m } }

/-- Table 15.8 step 5: a list's TOKENS goes back where its GENERATION still matches; answers whether it was left. -/
def Body.putList (b : Body) (p : Nat) (r : Nat × Nat × Nat) : Body × Nat :=
  if leValue (b.readLoc p ⟨.infield, r.1⟩ 4) = r.2.1 then (b.writeLoc p ⟨.infield, r.1 + 16⟩ (leBytes r.2.2 8), 0) else (b, 1)

def Body.putLists (b : Body) (p : Nat) (rs : List (Nat × Nat × Nat)) : Body × Nat :=
  rs.foldl (fun acc r =>
    let x := acc.1.putList p r
    (x.1, acc.2 + x.2)) (b, 0)

/-- Table 15.8 step 1. A verification that still waits for its step will never meet it: its command ends here (log 131). -/
def Body.restoreBegins (b : Body) (p : Nat) : Body :=
  (((b.endVerify p stStateWrong .none).stopUnits (b.part p).pitches).dropWork p).alterPart p (fun x => { x with snap := { x.snap with incomplete := true } })

/-- A section that arrives broken: its places hold bytes that nothing states. -/
def SnapSection.torn (n : Nat) (s : SnapSection) : List (Loc × List Byte) :=
  let ss := match s with
    | .layer _ ss => ss
    | .roots _ ss _ => ss
    | _ => []
  ss.zipIdx.map (fun (x, j) => (x.1, (List.range x.2.length).map (fun k => Config.tornByte n (j * 2 ^ 48 + k))))

/-- R365: the sections before section `n` have been copied, that one has not. -/
def Body.restoreBreaks (b : Body) (p n : Nat) (i : Image) : Body :=
  let b := (i.sections.take n).foldl (fun b s => b.putSection p s) (b.restoreBegins p)
  { b.putSpans p ((i.sections[n]?.map (SnapSection.torn b.free)).getD []) with free := b.free + 1 }

/-- Table 15.8: the whole image into the partition; answers the lists left as they were. -/
def Body.restoreImage (b : Body) (p : Nat) (i : Image) (restart : Option Int) : Body × Nat :=
  let b := (b.restoreBegins p)
  let b := i.sections.foldl (fun b s => b.putSection p s) b
  let b := b.alterPart p (fun x => i.sections.foldl (fun x s => x.putControl s restart) x)
  let b := { b with sched := (b.entriesOf p).foldl Sched.remove b.sched }
  let b := i.sections.foldl (fun b s => match s with
    | .schedule es => es.foldl Body.reinstate b
    | _ => b) b
  let r := i.sections.foldl (fun acc s => match s with
    | .lists rs =>
      let x := acc.1.putLists p rs
      (x.1, acc.2 + x.2)
    | _ => acc) (b, 0)
  let x := r.1.part p
  let b := ((unionRising (x.pass.buckets.filterMap (·.filled)) [x.pass.step]).foldl (fun (c : Body) s => c.clearBuckets p s) r.1).alterPart p (fun x => { x with
    splitStopped := false,
    snap := { x.snap.unsealed with incomplete := false, restores := wrap 32 (x.snap.restores + 1), restoresSince := x.snap.restoresSince + 1 } })
  (b.setFix p .stopped, r.2)

/-- Infield bytes of an image's LAYER and ROOTS sections. -/
def sectionInfield (s : SnapSection) : Nat :=
  let n := fun (ss : List (Loc × List Byte)) => ((ss.filter (fun x => decide (x.1.space = .infield))).map (fun x => x.2.length)).foldl (· + ·) 0
  match s with
  | .layer _ ss => n ss
  | .roots _ ss _ => n ss
  | _ => 0

def Image.infield (i : Image) : Nat := (i.sections.map sectionInfield).foldl (· + ·) 0

/-- R116, R119: the image holds a loss-scale state of Table 5.6 with an exponent that a LOSS_SCALE table can give (log 92). -/
def Image.scaleValid (i : Image) : Bool :=
  match i.control with
  | some (.control _ _ _ _ e clean hist _ _) => decide (-64 ≤ e ∧ e ≤ 63) && decide (clean < 2 ^ 32) && decide (hist < 2 ^ 32)
  | _ => false

/-- The image as it arrives from a source that returns no valid loss-scale state: an exponent that no LOSS_SCALE table can give. -/
def Image.noScale (i : Image) : Image := { i with sections := i.sections.map (fun s => match s with
  | .control pos counts board step _ clean hist skips sums => .control pos counts board step 64 clean hist skips sums
  | s => s) }

/-- Sections as they are bound in the partition: each layer's bytes lie in its own tensors' places, entries are the partition's. -/
def SnapSection.bind (f : FixtureImage) (p : Nat) (s : SnapSection) : SnapSection :=
  let lay := fun (places : List (Loc × Nat)) (ss : List (Loc × List Byte)) =>
    (places.foldl (fun (acc : List (Loc × List Byte) × List Byte) x =>
      (acc.1 ++ [(x.1, acc.2.take x.2)], acc.2.drop x.2)) ([], ss.flatMap (·.2))).1
  match s with
  | .layer l ss => .layer l (lay (layerSpans f l) ss)
  | .roots l ss va => .roots l (lay (layerRoots f l) ss) va
  | .schedule es => .schedule (es.map (fun e => { e with part := p }))
  | s => s

/-- An image that this module has not written itself in this power cycle (R362, R368), as partition `p` takes it. -/
def Image.bind (i : Image) (f : FixtureImage) (p : Nat) : Image := { i with sections := i.sections.map (SnapSection.bind f p) }

/-- Table 15.7: the code a restore is refused with, 0 for none; `restart` is its scale-restart flag, `headerOk` says that MAGIC, FORMAT and
HEADER_CRC are right. DEDUCED (log 110): PARTITION of an image of another SERIAL names a different layout where it is not `p`. -/
def Body.restoreRefusal (b : Body) (serial : Word64) (p : Nat) (f : FixtureImage) (i : Option Image) (headerOk verify restart : Bool) : Nat :=
  match i with
  | none => 0x02
  | some i =>
    if !headerOk then 0x02
    else if i.fixtureHash ≠ f.hash then 0x02
    else if i.serial ≠ serial ∧ i.part ≠ p then 0x02
    else if !i.scaleValid && !restart then 0x02
    else if verify && decide (i.rbVersion ≠ b.book.version) then 0x04
    else if sumBytes (b.part p).grant.infield < i.infield then 0x0C
    else 0

/-- R371: SHARD_SUM of every owned shard goes to the command's host buffer. -/
def Body.writeSums (b : Body) (p addr : Nat) (f : FixtureImage) : Body :=
  { b with host := { b.host with sumsOut := (addr, (ownedShards f).map (b.shardSum p f)) :: b.host.sumsOut } }

/-- The image a source byte names: bits [1:0] the source, bits [3:2] the age. -/
def Body.chosen (b : Body) (p source addr : Nat) : Option Image :=
  let bit := source % 4 - 1
  let at_ := (b.imagesAt p bit).filter (fun i => decide (bit ≠ 2) || decide (i.hostAddr = addr))
  at_[source / 4]?

/-- The image that a restore reads, whether its header is right, and how its copying goes: own copies as they stand in memory, the others as
the command's outcome says. -/
def Body.restoreSource (b : Body) (p source addr : Nat) (f : FixtureImage) (out : SourceOutcome) : Option Image × Bool × CopyFate :=
  let i := (b.chosen p source addr).bind (fun i => if i.reachable then some i else none)
  let fate := match out with
    | .crcBad n => CopyFate.crcBad n
    | .failed k n => .failed k n
    | .image _ _ x => x
    | _ => .whole
  if source % 4 = 1 then
    (match i with
    | some i => (some (if out = .scaleBad then (b.ownSeal i).noScale else b.ownSeal i), true, (b.ownReads f i).getD fate)
    | none => (none, true, fate))
  else
    match out with
    | .image ok img x => (some (img.bind f p), ok, x)
    | .scaleBad => (i.map Image.noScale, true, .whole)
    | _ => (i, true, fate)

def cmdRestore (v : Vault) (ring : Nat) (tag : Word32) (p source addr flags : Nat) (out : SourceOutcome) (b : Body) : Body × CmdEnd :=
  if source % 4 = 0 ∨ 16 ≤ source ∨ 4 ≤ flags then (b, fail stArgsBad)
  else
    match (b.part p).fstate, (b.part p).fix with
    | .admitted, some f | .stopped, some f =>
      let r := b.restoreSource p source addr f out
      let verify := decide (flags / 2 = 1)
      match r.1, b.restoreRefusal v.serial p f r.1 r.2.1 verify (decide (flags % 2 = 1)) with
      | some i, 0 =>
        let restart := if flags % 2 = 1 then some b.book.tables.loss.restartExp else none
        (match r.2.2 with
        | .crcBad n => (b.restoreBreaks p n i, .done stRefused 0x02 .none)
        | .failed k n => (b.restoreBreaks p n i, .done stFailed k .none)
        | _ =>
          let q := b.restoreImage p i restart
          let b := q.1.writeSums p addr f
          if verify then
            (b.alterPart p (fun x => { x with snap := { x.snap with
              verify := some ⟨i.sealed, i.sealLoss, i.sealVerdict, q.2, ring, tag, .restore source addr flags out⟩ } }), .deferred)
          else (b, ok (.restore q.2 0)))
      | _, code => (b, .done stRefused code .none)
    | _, _ => (b, fail stStateWrong)

/-! ## Ends of snapshots and verifications (R361, R370) -/

/-- Table 15.10. -/
def verifyResult (w : Verify) (loss verdict : Nat) (verifiable : Bool) : Nat :=
  match w.sealed with
  | .open_ => 3
  | .sealedUnverifiable | .noStep => 2
  | .sealed => if !verifiable then 2 else if w.loss = loss ∧ w.verdict = verdict then 0 else 1

/-- The result of a verification: counted, and its record written. -/
def Body.verified (b : Body) (p result : Nat) (w : Verify) : Body :=
  (b.alterPart p (fun x => { x with snap := { x.snap with
    result := result, mismatches := if result = 1 then wrap 32 (x.snap.mismatches + 1) else x.snap.mismatches } })).endVerify p stOk
      (.restore w.skipped result)

end Sys2Proof.Machine
end

