-- ==== Sys2Proof/Machine/Flits.lean ====
section
/-!
DEFINITION. Flits and links (10): what makes a flit malformed (R232, R246), acceptance and retry (R233), credits (R235), edges
and detours (R246, R247), and the moves of Table 10.6 that several rows share.
-/

namespace Sys2Proof.Machine

/-! ## Types (Table 10.4) -/

/-- The VC of a type; none for a reserved code. -/
def typeVc (t : Nat) : Option Nat :=
  if t ≤ 0x06 ∨ t = fDeny then some 0
  else if t = fReduce ∨ t = fResult then some 1
  else if t = fWrite ∨ t = fAdd then some 2
  else if 0x30 ≤ t ∧ t ≤ 0x36 then some 3
  else none

/-- The original type of a flit (R246). -/
def originalType (t : Nat) : Nat :=
  if isRelay t then ([fReduce, fResult, fWrite, fAdd, fDeny, fNotice, fStatus].find? (fun x => decide (relayOf x = some t))).getD t else t

/-! ## Edges (R246, R247) -/

/-- The edge between two members. -/
def Body.edge? (b : Body) (src dst : Nat) : Option Edge :=
  b.book.tables.route.edges.find? (fun e => decide (e.src = src ∧ e.dst = dst))

/-- Place in a detour of the hop by which a flit reaches member `m` on link `l`. -/
def hopAt (d : List Hop) (m l : Nat) : Option Nat :=
  let i := d.findIdx (fun h => decide (h.dst = m ∧ h.inLink = l))
  if i < d.length then some i else none

/-- What a RELAY flit finds here: it has arrived, goes on by a link, or is malformed. -/
inductive RelayStep where
  | arrived
  | forward (link : Nat)
  | bad
  deriving DecidableEq, Repr

def Body.relayStep (b : Body) (own : Option Nat) (l : Nat) (h : FlitHdr) : RelayStep :=
  match own, b.edge? h.src h.dst with
  | some m, some e =>
    match e.detours.findSome? (fun d => (hopAt d m l).map (fun i => (d, i))) with
    | some (d, i) =>
      if h.dst = m then (if i + 1 = d.length then .arrived else .bad)
      else match d[i + 1]? with
        | some n => if n.src = m then .forward n.outLink else .bad
        | none => .bad
    | none => .bad
  | _, _ => .bad

/-- R232: the SEQ lies outside the retry window: before everything that the partner may send again, which is never more than 2 048 flits back
(R233), or past what it may have sent unacknowledged (log 34). -/
def Link.seqOutside (g : Link) (seq : Nat) : Bool :=
  decide ((g.rxSeq + 4096 - g.rxBase) % 4096 + 2047 < (seq + 4096 - g.rxBase) % 4096)

/-- R232. -/
def Body.malformed (b : Body) (own : Option Nat) (l : Nat) (h : FlitHdr) : Bool :=
  let g := b.link l
  decide (typeVc h.type ≠ some h.vc) || h.rsvd || (!seqless h.type && g.seqOutside h.seq)
    || (if isRelay h.type then decide (b.relayStep own l h = .bad) else decide (h.src ≠ g.partner))

/-! ## Leaving UP (R238, R239, R247, R249) -/

/-- A flit that may be resent over another path, in its original form; one in relay form takes the type it stands for again. -/
def Flit.original (f : Flit) : Option Flit :=
  if (relayOf f.hdr.type).isSome then some f
  else if isRelay f.hdr.type then
    let t := originalType f.hdr.type
    some { f with hdr := { f.hdr with type := t, vc := (typeVc t).getD 0 } }
  else none

/-- First link of the first detour of an edge that is UP. -/
def Body.detourOf (b : Body) (e : Edge) : Option Nat := (e.detours.find? b.detourUp).bind (fun d => d.head?.map (·.outLink))

def Body.sendFlit (b : Body) (l : Nat) (f : Flit) : Body := b.alterLink l (fun g => g.send b.arb f)

/-- R246, R247: a flit on the edge from this module to member `dst`: over the primary link if it is UP, else as a RELAY flit over
the first detour; it waits on the primary link if there is neither. -/
def Body.sendEdge (b : Body) (own dst : Nat) (f : Flit) : Body :=
  match b.edge? own dst with
  | some e =>
    if b.linkUp e.primary.outLink then b.sendFlit e.primary.outLink f
    else match b.detourOf e, relayOf f.hdr.type with
      | some l, some t => b.sendFlit l { f with hdr := { f.hdr with type := t, vc := 3 } }
      | _, _ => b.sendFlit e.primary.outLink f
  | none => b

/-- Own flits that a lost link had sent without acknowledgement, or still held, in their original form (R247). -/
def Link.unsent (own : Option Nat) (g : Link) : List Flit :=
  ((g.unacked ++ g.queued).filter (fun f => decide (some f.hdr.src = own))).filterMap Flit.original

/-- Flits leave anew by their edges. -/
def Body.reroute (b : Body) (own : Option Nat) (fs : List Flit) : Body :=
  match own with
  | some m => fs.foldl (fun (b : Body) (f : Flit) => b.sendEdge m f.hdr.dst f) b
  | none => b

/-- R247, R255: what the links of a fenced half had not delivered takes detours. -/
def Body.rerouteHalf (b : Body) (own : Option Nat) (h : Nat) : Body :=
  let fs := ((b.net.links.drop (24 * h)).take 24).flatMap (fun g => g.unsent own)
  let clear := fun (x : Link × Nat) => if x.2 / 24 = h then { x.1 with unacked := [], queued := [] } else x.1
  { b with net := { b.net with links := b.net.links.zipIdx.map clear } }.reroute own fs

/-- Nothing of what a link was doing is left; a quarantined one keeps its lanes. -/
def Link.drop (g : Link) (st : LinkState) (reason now : Nat) : Link :=
  { g with
    state := st, reason := reason, since := now, unacked := [], queued := [], nakSent := false,
    dryAt := Link.reset.dryAt, laneCheck := none, laneTried := [], fecAt := [], lanes := if st = .quarantine then g.lanes else [] }

/-- A link comes down: what was not acknowledged, or waits, goes over detours where they exist. If it was up, availability has fallen and
every fixture is re-checked (R39). -/
def Body.leaveUp (b : Body) (own : Option Nat) (l : Nat) (st : LinkState) (reason : Nat) : Body :=
  let g := b.link l
  let fell := match g.state with
    | .up | .resize => true
    | _ => false
  let b := (b.alterLink l (fun g => (g.leaveAuth.drop st reason b.clock.now))).reroute own (g.unsent own)
  if fell then b.recheck else b

/-- Table 10.9. -/
def qAuthFailed : Nat := 1
def qRevoked : Nat := 2
def qUnexpected : Nat := 3
def qBadFrames : Nat := 4
def qStarved : Nat := 5

def Body.quarantine (b : Body) (own : Option Nat) (l reason : Nat) : Body := b.leaveUp own l .quarantine reason

/-- R249: malformed and refused flits count toward BAD_FRAME_LIMIT within BAD_FRAME_WINDOW. -/
def Body.badFrame (b : Body) (own : Option Nat) (l : Nat) : Body :=
  let t := b.book.tables.link
  let b := b.alterLink l (fun g => { g with badAt := b.clock.now :: g.badAt.filter (fun x => decide (b.clock.now < x + t.badFrameWindowNs)) })
  if t.badFrameLimit ≤ (b.link l).badAt.length then b.quarantine own l qBadFrames else b

/-- R232: a malformed flit is dropped and counted. -/
def Body.dropMalformed (b : Body) (own : Option Nat) (l : Nat) : Body :=
  (b.alterLink l (fun g => { g with malformed := wrap 16 (g.malformed + 1) })).badFrame own l

/-! ## Receiving (R233, R235) -/

/-- LINK_FEC.CORRECTED takes in every codeword that the lanes of a receiving link correct, whatever becomes of the flit (R257). -/
def Body.countFec (b : Body) (l : Nat) (h : FlitHdr) : Body :=
  match (b.link l).state with
  | .auth | .up | .resize | .quarantine => b.alterLink l (fun g => { g with fecCorrected := wrap 32 (g.fecCorrected + h.corrected) })
  | _ => b

/-- ACK and returned credits of a flit. -/
def Link.acknowledge (a : Arb) (g : Link) (h : FlitHdr) : Link :=
  let g := match g.unacked.find? (fun f => decide (f.hdr.seq = h.ack)) with
    | some f => { g with unacked := g.unacked.drop (g.unacked.findIdx (fun (x : Flit) => decide (x.hdr.seq = h.ack)) + 1),
                         rxBase := (f.hdr.ack + 1) % 4096 }
    | none => g
  ({ g with credits := g.credits.modify h.crVc (· + h.crCount) }).flush a

/-- The next expected flit is taken. The partner, which holds at most 2 048 unacknowledged (R233), will not go back further than that. -/
def Link.taken (g : Link) : Link :=
  let next := (g.rxSeq + 1) % 4096
  { g with rx := wrap 64 (g.rx + 1), rxSeq := next, nakSent := false,
           rxBase := if 2048 < (next + 4096 - g.rxBase) % 4096 then (next + 2048) % 4096 else g.rxBase }

/-- Where a flit's SEQ stands. -/
inductive SeqStep where
  | next | discard
  deriving DecidableEq, Repr

/-- After a NAK every flit but the one it named is discarded; a flit taken before, or ahead of a gap, is not taken (log 34). -/
def Link.seqStep (g : Link) (seq : Nat) : SeqStep := if seq = g.rxSeq then .next else .discard

/-- The flit of a row, on a link in a state that takes it: dropped as malformed, discarded, or taken by `k`. `codes` are the types the
row carries. -/
def Body.receiveIn (b : Body) (ok : LinkState → Bool) (own : Option Nat) (l : Nat) (h : FlitHdr) (codes : List Nat) (k : Body → Body) : Body :=
  let b := b.countFec l h
  if !ok (b.link l).state then b
  else if b.malformed own l h || !codes.contains h.type then b.dropMalformed own l
  else match (b.link l).seqStep h.seq with
    | .discard => b
    | .next =>
      let a := b.arb
      k (b.alterLink l (fun g => (g.acknowledge a h).taken))

def isUp (s : LinkState) : Bool := decide (s = .up)

/-- Flits arrive: in RESIZE those that were under way, or are sent again because a lane failed under them (R240). -/
def carries (s : LinkState) : Bool := decide (s = .up) || decide (s = .resize)

/-- A flit on a link that is UP or in RESIZE. -/
def Body.receive (b : Body) (own : Option Nat) (l : Nat) (h : FlitHdr) (codes : List Nat) (k : Body → Body) : Body :=
  b.receiveIn carries own l h codes k

/-- IDLE and NAK carry acknowledgements and credits and no SEQ of their own (log 34). -/
def Body.receiveControl (b : Body) (own : Option Nat) (l : Nat) (h : FlitHdr) (code : Nat) (k : Body → Body) : Body :=
  let b := b.countFec l h
  if !carries (b.link l).state then b
  else if b.malformed own l h || decide (h.type ≠ code) then b.dropMalformed own l
  else
    let a := b.arb
    k (b.alterLink l (fun g => { (g.acknowledge a h) with rx := wrap 64 (g.rx + 1) }))

def segKey (h : FlitHdr) : SegKey := ⟨h.src, originalType h.type, h.op, h.segment⟩

/-- R247: the segment of this operation of its source has been accepted before, over whatever path. -/
def Body.repeatedSegment (b : Body) (h : FlitHdr) : Bool := b.net.accepted.contains (segKey h)

def noteKey (ks : List SegKey) (k : SegKey) : List SegKey :=
  k :: ((ks.filter (fun x => decide (x.src = k.src))).take 2047 ++ ks.filter (fun x => decide (x.src ≠ k.src)))

/-- R247: each segment is accepted once, and repeats are discarded. -/
def Body.once (b : Body) (h : FlitHdr) (k : Body → Body) : Body :=
  if b.repeatedSegment h then b else k { b with net := { b.net with accepted := noteKey b.net.accepted (segKey h) } }

end Sys2Proof.Machine
end

