-- ==== Sys2Proof/Machine/Finish.lean ====
section
/-!
DEFINITION. The completion of an operation (02, R23, R24, R29, R98, R437; 13, R318, Table 13.2; 07, R174; 15, R351).
-/

namespace Sys2Proof.Machine

/-- FLAGS of Table 13.2 that an operation leaves: its own, and NOT_VERIFIABLE for ARRIVAL adds and invalid walks (R17). -/
def opFlags (st : Option Stage) (op : StreamOp) (flags : Nat) (invalid : List Nat) : Nat :=
  flags ||| flagIf (op.arrival || (st.map (·.arrival)).getD false || !invalid.isEmpty) 1

/-- R174: one validity bit per sequence, clear for those of Table 7.7. -/
def validity (n : Nat) (invalid : List Nat) : List Byte := packBits (n + 1) ((List.range n).map (fun i => !invalid.contains i))

/-- The bitmap of a reported attention operation goes to the start of its result region. -/
def Body.putValidity (b : Body) (p : Nat) (op : StreamOp) (invalid : List Nat) : Body :=
  match op.payload with
  | .attention _ seqs (some l) => if op.reported then b.writeLoc p l (validity seqs.length invalid) else b
  | _ => b

/-- R98: the entry is freed; the bench timer starts again from zero (R108). -/
def Partition.freeBench (x : Partition) (op : StreamOp) : Partition :=
  match op.frees with
  | some (block, mb) =>
    { x with pass := { x.pass with bench := x.pass.bench.filter (fun e => !decide (e.block = block ∧ e.mb = mb)), benchHold := none } }
  | none => x

/-- The record of a reported operation: PARTIAL_INVALID where a validity bit is clear (R174). -/
def opRecord (fl : Flight) (kind : Option Nat) (flags : Nat) (invalid : List Nat) : CplRecord :=
  ⟨fl.token, 0x00, if kind.isSome then stFailed else stOk, false, kindOperation, kind.getD 0 % 256,
   .op flags (!invalid.isEmpty) invalid.length (invalid.head?.getD 0)⟩

/-- FLAGS of the STEP record gather those of the step's operations; an operation of an earlier step (an UPDATE) adds nothing to the
step in progress (R17, log 86). -/
def Partition.markStep (x : Partition) (step flags : Nat) : Partition :=
  if step = x.pass.step then { x with pass := { x.pass with flags := x.pass.flags ||| flags } } else x

/-- An operation completes, FAILED with a kind or well. -/
def Body.completeFlight (b : Body) (p : Nat) (fl : Flight) (kind : Option Nat) (flags : Nat) (invalid : List Nat) : Body :=
  match (b.part p).op? fl with
  | none => b.alterPart p (fun x => { x.complete fl.token kind with flights := x.flights.filter (fun f => f.token != fl.token) })
  | some op =>
    let all := opFlags ((b.part p).stage? op) op flags invalid
    let step := (b.part p).stepOf op
    let b := if kind.isNone then b.putValidity p op invalid else b
    let b := b.alterPart p (fun x =>
      let y := (x.complete fl.token kind).freeBench op
      ({ y with flights := y.flights.filter (fun f => f.token != fl.token) }).markStep step all)
    let b := match op.payload with
      | .update layer => b.copyLayer p layer step
      | _ => b
    let b := if op.reported then b.putRecord p (opRecord fl kind all invalid) else b
    b.refreshUnits

/-- Operations of a partition that a condition names complete FAILED with a kind. -/
def Body.failFlights (b : Body) (p kind : Nat) (c : Flight → StreamOp → Bool) : Body :=
  let x := b.part p
  let gone := x.flights.filter (fun fl => match x.op? fl with
    | some op => c fl op
    | none => false)
  let b := { b with net := { b.net with reductions := b.net.reductions.filter (fun r =>
    !(decide (r.part = p) && gone.any (fun fl => fl.token == r.token))) } }
  gone.foldl (fun b fl => b.completeFlight p fl (some kind) fl.flags fl.invalid) b

/-- Flights are marked to complete FAILED with a kind (R253). -/
def Body.markFlights (b : Body) (p kind : Nat) (c : Flight → StreamOp → Bool) : Body :=
  b.alterPart p (fun x => { x with flights := x.flights.map (fun fl => match x.op? fl with
    | some op => if c fl op && fl.failed.isNone then { fl with failed := some kind } else fl
    | none => fl) })

/-- An operation's collective, if it is one. -/
def collectiveOf (op : StreamOp) : Option Collective :=
  match op.payload with
  | .collective c => some c
  | _ => none

/-! ## ADD_WINDOW_INCOMPLETE (R216) -/

/-- A window past ORDER_TIMEOUT is discarded with what was held back from it, the operations of both complete FAILED, and a message is raised. -/
def Body.windowTimeout (b : Body) (index : Nat) : Body :=
  match b.store.windows.find? (fun w => decide (w.index = index)) with
  | none => b
  | some w =>
    if w.firstBeat + b.book.tables.memory.orderTimeout ≤ b.clock.beat then
      let src := b.sourceAt (index * granuleBytes)
      let gone := w.adds ++ b.store.heldAdds.filter (fun a => decide (a.addr / granuleBytes = index))
      let b := { b with store := { b.store.alterCtl src (fun m => { m with timeouts := wrap 32 (m.timeouts + 1) }) with
          windows := b.store.windows.filter (fun x => decide (x.index ≠ index)),
          heldAdds := b.store.heldAdds.filter (fun a => decide (a.addr / granuleBytes ≠ index)) } }
      let b := b.raiseAt (srcType src) (srcInst src) .contained kAddWindow (index * granuleBytes / 64)
      let b := (List.range 4).foldl (fun b p => b.failFlights p kAddWindow (fun fl _ =>
        gone.any (fun a => decide (a.part = p) && a.token == fl.token))) b
      b.drain
    else b

def execAddWindowIncomplete (window : Nat) (s : State) : Host.Outcome State Fault Refusal :=
  onBody true s (fun b => b.windowTimeout window)

end Sys2Proof.Machine
end

