-- ==== Sys2Proof/Machine/Collect.lean ====
section
/-!
DEFINITION. Reduction engines and collectives (10, R251 to R254, Table 10.13): trees, starting a collective, REDUCE, RESULT and
STATUS at a node.
-/

namespace Sys2Proof.Machine

open Arith

/-! ## Trees (R251, R435) -/

def treeChildren (t : Tree) (m : Nat) : List Nat := ((t.children.find? (fun c => c.1 = m)).map (·.2)).getD []

def treeParent (t : Tree) (m : Nat) : Option Nat := (t.children.find? (fun c => c.2.contains m)).map (·.1)

def treeNeighbours (t : Tree) (m : Nat) : List Nat := (treeParent t m).toList ++ treeChildren t m

def Body.group? (b : Body) (g : Nat) : Option RouteGroup := b.book.tables.route.groups[g]?

/-- The tree that carries a collective. -/
def Body.collTree (b : Body) (c : Collective) : Tree := ((b.group? c.group).bind (fun g => g.trees[c.tree]?)).getD ⟨0, []⟩

def reduces (k : CollectiveKind) : Bool := decide (k = .reduceScatter) || decide (k = .allReduce)

/-! ## Sending -/

def chunksOf {α : Type} (n : Nat) : Nat → List α → List (List α)
  | 0, _ => []
  | f + 1, xs => if xs.isEmpty then [] else xs.take n :: chunksOf n f (xs.drop n)

/-- A partial travels to a node's parent, 120 binary16 values or 240 bytes a flit; or one flit marked failed. -/
def Body.sendReduce (b : Body) (own p op dst : Nat) (h : BucketHdr) (failed : Bool) (vs : List Nat) : Body :=
  let hdr := fun (i : Nat) => { ownHdr fReduce 1 p own dst 0 (i % 65536) with op := op }
  if failed then b.sendEdge own dst ⟨hdr 0, .reduce ⟨h, 0, [], true⟩⟩
  else (chunksOf 120 (vs.length + 1) vs).zipIdx.foldl (fun b (c, i) =>
    b.sendEdge own dst ⟨hdr i, .reduce ⟨h, 120 * i, c, false⟩⟩) b

/-- Bytes travel out in RESULT flits of 240. -/
def Body.sendResult (b : Body) (own p op : Nat) (n : CollName) (dst : Nat) (bytes : List Byte) : Body :=
  let cs := chunksOf 240 (bytes.length + 1) bytes
  cs.zipIdx.foldl (fun b (c, i) =>
    b.sendEdge own dst ⟨{ ownHdr fResult 1 p own dst 0 (i % 65536) with op := op }, .result ⟨n, 240 * i, c, decide (i + 1 = cs.length)⟩⟩) b

def Body.sendStatus (b : Body) (own p : Nat) (m : StatusMsg) (dsts : List Nat) : Body :=
  dsts.foldl (fun b d => b.sendEdge own d ⟨ownHdr fStatus 0 p own d 0 0, .status m⟩) b

/-! ## STATUS (R120, R124, R252, R253) -/

/-- Group whose collective carries a bucket, by the fixture's own operations. -/
def bucketGroup (f : FixtureImage) (id : Nat) : Option Nat :=
  (f.fwd ++ f.bwd ++ f.upd).findSome? (fun o => match collectiveOf o with
    | some c => if reduces c.kind && decide (c.bucket = id) then some c.group else none
    | none => none)

/-- A step's remaining updates are withheld (R124). -/
def Upd.withhold (u : Upd) (step : Nat) : Upd := if u.withheld.contains step then u else { u with withheld := step :: u.withheld }

/-- A reduced status reaches its bucket; collectives of the bucket fail with a failed one. -/
def Body.takeStatus (b : Body) (p : Nat) (m : StatusMsg) : Body :=
  let id := m.hdr.bucket
  let b := b.alterPart p (fun x => { x with
    pass := x.pass.alterBucket id (fun k => if m.failed then { k with failed := true } else { k with reduced := some m.hdr.status }),
    upd := if !m.failed && decide (m.hdr.status % 2 = 1) then x.upd.withhold x.pass.step else x.upd })
  if m.failed then
    let mine := fun (c : Collective) => reduces c.kind && decide (c.bucket = id)
    let b := { b with net := { b.net with reductions := b.net.reductions.filter (fun r => !(decide (r.part = p) && mine r.coll)) } }
    b.markFlights p kBucketMismatch (fun _ op => (collectiveOf op).any mine)
  else b

/-- Where a status goes on to: the other neighbours on the status tree of the bucket's group, or, where the module's fixture does not list
the bucket, of the group whose tree it came down (R252). -/
def Body.statusOnward (b : Body) (own p : Nat) (from_ : Option Nat) (id : Nat) : List Nat :=
  let listed := ((b.part p).fix.bind (fun f => bucketGroup f id)).bind b.group?
  let came := b.book.tables.route.groups.find? (fun g => decide (from_.isSome ∧ treeParent g.status own = from_))
  match listed <|> came with
  | some g => (treeNeighbours g.status own).filter (fun n => decide (some n ≠ from_))
  | none => []

/-- A status arrives from `from_` (none: this node is the root): passed on, and taken unless it takes no part here (R120). A repeat goes no
further. -/
def Body.statusArrived (b : Body) (own p : Nat) (from_ : Option Nat) (m : StatusMsg) : Body :=
  let ns := b.statusOnward own p from_ m.hdr.bucket
  match (b.part p).pass.bucket? m.hdr.bucket with
  | some k =>
    if m.hdr.step ≠ (b.part p).pass.step then b.sendStatus own p m ns
    else if k.reduced.isSome || k.failed then b
    else (b.takeStatus p m).sendStatus own p m ns
  | none => b.sendStatus own p m ns

/-! ## A node's sum (R251 to R254) -/

/-- Partials of one child in the order of their elements. -/
def insertFirst (m : ReduceMsg) : List ReduceMsg → List ReduceMsg
  | [] => [m]
  | x :: xs => if m.first < x.first then m :: x :: xs else x :: insertFirst m xs

def Reduction.fromChild (r : Reduction) (k : Nat) : List ReduceMsg :=
  ((r.partials.filter (fun x => decide (x.1 = k))).map (·.2)).foldl (fun acc m => insertFirst m acc) []

def childValues (ms : List ReduceMsg) : List Nat := ms.flatMap (·.values)

/-- The child has delivered: everything its header announces, or a failed REDUCE. -/
def Reduction.childDone (r : Reduction) (k : Nat) : Bool :=
  let ms := r.fromChild k
  match ms with
  | [] => false
  | m :: _ => ms.any (·.failed) || decide (m.hdr.elements ≤ (childValues ms).length)

/-- R253: headers that disagree. -/
def hdrDiffers (a c : BucketHdr) : Bool :=
  decide (a.bucket ≠ c.bucket) || decide (a.step ≠ c.step) || decide (a.elements ≠ c.elements)
    || decide (a.scaleExp ≠ c.scaleExp) || decide (a.maskCrc ≠ c.maskCrc)

/-- One element: own value and the children's partials widened to FP32 and added in child order, then rounded to binary16 with
whether that overflowed from finite values. -/
def reduceElement (own : Nat) (kids : List Nat) : Nat × Bool :=
  let s := kids.foldl (fun acc v => fadd .fp32 acc (convert .binary16 .fp32 v).code) (convert .binary16 .fp32 own).code
  ((convert .fp32 .binary16 s).code, Fmt.binary16.overflows (Fmt.fp32.decode s))

/-- A node's partial and status word (R251, R252). -/
def reduceNode (own : List Nat) (kids : List (List Nat)) (status : Nat) : List Nat × Nat :=
  let rs := own.zipIdx.map (fun (v, i) => reduceElement v (kids.map (fun (k : List Nat) => k.getD i 0)))
  (rs.map (·.1), if rs.any (·.2) then status ||| 3 else status)

/-- XSUM: images combined in child order (R186, R254). -/
def combineImages (own : List Nat) (kids : List (List Nat)) : List Nat :=
  (kids.foldl (fun acc k => acc.combine (XSum.ofImage k)) (XSum.ofImage own)).image

/-- Where the images of a collective's engine are parked: in its stage's place (R188). -/
def Body.parkOf (b : Body) (p : Nat) (tok : Token) : Loc :=
  let x := b.part p
  (((x.flights.find? (fun f => f.token == tok)).bind x.op?).bind x.stage?).elim ⟨.scratch, 0⟩ (·.parkAt)

/-- R254: the reduced image replaces the accumulator; where that is parked, its bank and address are met as any other's (R206, R210). -/
def Body.takeSum (b : Body) (r : Reduction) (bytes : List Nat) (errs : List CwError) : Body :=
  let park := b.parkOf r.part r.token
  let ws := (b.part r.part).planPlaces (b.accPlaces park r.engine [r.coll.acc]).2
  let b := b.wakePlaces r.part ws
  match b.accessFault r.part [] ws with
  | some (kind, b) => b.markToken r.part r.token kind
  | none => (b.meetErrors r.part [] ws errs).putAcc r.part park r.engine r.coll.acc (XSum.ofImage bytes)

def Body.setReduction (b : Body) (r : Reduction) : Body :=
  { b with net := { b.net with reductions := b.net.reductions.map (fun x =>
    if x.part = r.part ∧ x.token = r.token then r else x) } }

def Body.dropReduction (b : Body) (r : Reduction) : Body :=
  { b with net := { b.net with reductions := b.net.reductions.filter (fun x => !decide (x.part = r.part ∧ x.token = r.token)) } }

def bytesOfNats (xs : List Nat) : List Byte := xs.map (BitVec.ofNat 8)

def Reduction.name (r : Reduction) : CollName := ⟨r.coll.kind, r.coll.bucket, r.hdr.step⟩

/-- Bytes of a collective take their place: banks in RETAIN wake, what a bank or an address does not take is dropped, reported and fails the
operation (R206, R210), and codewords written in part are read (R203). -/
def Body.land (b : Body) (r : Reduction) (off : Nat) (bytes : List Byte) (errs : List CwError) : Body :=
  let l : Loc := { r.coll.loc with off := r.coll.loc.off + off }
  let ws := (b.part r.part).planPlaces [(l, bytes.length)]
  let b := b.wakePlaces r.part ws
  match b.accessFault r.part [] ws with
  | some (kind, b) => b.markToken r.part r.token kind
  | none => (b.meetErrors r.part [] ws errs).writeLoc r.part l bytes

/-- A root finishes: its reduced elements, STATUS to every member, RESULT where the kind says so. -/
def Body.finishRoot (b : Body) (own : Nat) (r : Reduction) (vs : List Nat) (status : Nat) (kids : List Nat) (errs : List CwError) : Body :=
  let b := b.dropReduction r
  match r.coll.kind with
  | .xsum =>
    kids.foldl (fun b k => b.sendResult own r.part r.op r.name k (bytesOfNats vs)) (b.takeSum r vs errs)
  | k =>
    let bytes := vs.flatMap (fun v => leBytes v 2)
    let b := b.land r 0 bytes errs
    let b := b.statusArrived own r.part none ⟨{ r.hdr with status := status }, false⟩
    if k = .allReduce then kids.foldl (fun b k => b.sendResult own r.part r.op r.name k bytes) b else b

/-- Every child has delivered: the node sums, or passes a failure on (R251 to R253). -/
def Body.finishNode (b : Body) (own : Nat) (r : Reduction) (errs : List CwError) : Body :=
  let t := b.collTree r.coll
  let kids := treeChildren t own
  if !kids.all r.childDone || r.sent then b
  else
    let ms := kids.map r.fromChild
    let failedIn := ms.any (fun m => m.any (·.failed))
    let differs := ms.any (fun m => m.any (fun x => !x.failed && hdrDiffers r.hdr x.hdr))
    let b := if differs then b.raise tDie r.die .contained kBucketMismatch r.hdr.bucket else b
    let bad := failedIn || differs
    let x := if r.coll.kind = .xsum then (combineImages r.values (ms.map childValues), r.hdr.status)
      else reduceNode r.values (ms.map childValues)
        (ms.foldl (fun s m => s ||| ((m.head?.map (·.hdr.status)).getD 0)) r.hdr.status)
    match treeParent t own with
    | some q =>
      let b := b.sendReduce own r.part r.op q { r.hdr with status := x.2 } bad x.1
      if r.coll.kind = .reduceScatter && !bad then b.dropReduction r else b.setReduction { r with sent := true }
    | none =>
      if bad then
        match r.coll.kind with
        | .xsum => b.markFlights r.part kBucketMismatch (fun fl _ => fl.token == r.token) |>.dropReduction r
        | _ => b.statusArrived own r.part none ⟨r.hdr, true⟩
      else b.finishRoot own r x.1 x.2 kids errs

/-! ## Arrivals -/

/-- The reduction a REDUCE belongs to: of the same bucket (40 bytes for an accumulator); a bucket the fixture does not list goes to
the oldest that still waits for the sender. -/
def Body.reductionFor (b : Body) (own p from_ : Nat) (h : BucketHdr) : Option Reduction :=
  let open_ := b.net.reductions.filter (fun r => decide (r.part = p) && !r.sent && (reduces r.coll.kind || decide (r.coll.kind = .xsum))
    && (treeChildren (b.collTree r.coll) own).contains from_ && !r.childDone from_)
  match open_.find? (fun r => decide (r.hdr.bucket = h.bucket) && (decide (r.coll.kind = .xsum) == decide (h.elements = 40))) with
  | some r => some r
  | none => if (b.part p).pass.buckets.any (fun k => decide (k.id = h.bucket)) || decide (h.elements = 40) then none else open_.head?

/-- The collective that a RESULT from a neighbour names, if it waits for one (log 21). -/
def Body.resultFor (b : Body) (own p from_ : Nat) (n : CollName) : Option Reduction :=
  b.net.reductions.find? (fun r => decide (r.part = p) && r.sent && (treeNeighbours (b.collTree r.coll) own).contains from_
    && decide (r.coll.kind ≠ .reduceScatter) && decide (r.name = n))

def Body.stash (b : Body) (e : Early) : Body := { b with net := { b.net with early := b.net.early ++ [e] } }

/-- A partial arrives; a repeat is discarded (R247). -/
def Body.reduceArrived (b : Body) (own p from_ : Nat) (m : ReduceMsg) (errs : List CwError) : Body :=
  match b.reductionFor own p from_ m.hdr with
  | none => b.stash ⟨p, from_, .reduce m, errs⟩
  | some r =>
    if r.partials.any (fun x => decide (x.1 = from_ ∧ x.2.first = m.first)) then b
    else
      let r := { r with partials := r.partials ++ [(from_, m)] }
      (b.setReduction r).finishNode own r errs

/-- Bytes of a RESULT take their place, and go on to every other neighbour. -/
def Body.resultArrived (b : Body) (own p from_ : Nat) (m : ResultMsg) (errs : List CwError) : Body :=
  match b.resultFor own p from_ m.coll with
  | none => b.stash ⟨p, from_, .result m, errs⟩
  | some r =>
    let on := (treeNeighbours (b.collTree r.coll) own).filter (fun n => decide (n ≠ from_))
    let b := match r.coll.kind with
      | .xsum => b.takeSum r (m.bytes.map (·.toNat)) errs
      | _ => b.land r m.addr m.bytes errs
    let b := on.foldl (fun b n => b.sendEdge own n ⟨{ ownHdr fResult 1 p own n 0 (m.addr / 240 % 65536) with op := r.op }, .result m⟩) b
    if m.last then b.dropReduction r else b

/-- What waited for a partition's collectives is offered again, in its order. -/
def Body.redeliver (b : Body) (own p : Nat) : Body :=
  let mine := b.net.early.filter (fun e => decide (e.part = p))
  let b := { b with net := { b.net with early := b.net.early.filter (fun e => decide (e.part ≠ p)) } }
  mine.foldl (fun b e => match e.body with
    | .reduce m => b.reduceArrived own p e.src m e.errs
    | .result m => b.resultArrived own p e.src m e.errs
    | _ => b) b

/-! ## Starting a collective (Table 10.13) -/

/-- Elements of an ADD's chunks: none crosses a 2 KiB window, and each window's last chunk is marked. -/
def addChunks (width : Nat) : Nat → Nat → List Nat → List (Nat × List Nat × Bool)
  | 0, _, _ => []
  | f + 1, off, vs =>
    if vs.isEmpty then []
    else
      let k := min (240 / width) ((granuleBytes - off % granuleBytes) / width)
      let rest := vs.drop k
      let off' := off + width * k
      (off, vs.take k, rest.isEmpty || decide (off' % granuleBytes = 0)) :: addChunks width f off' rest

/-- An ADD's values go to the window of the member that holds the target. -/
def Body.startAdd (b : Body) (own p op : Nat) (tok : Token) (c : Collective) (arrival : Bool) (errs : List CwError) : Body :=
  let width := max 1 (c.fmt.bits / 8)
  let vs := b.codes p c.loc c.fmt (c.bytes / width)
  let n := ((b.group? c.group).map (fun g => g.members.length)).getD 1
  let dom := b.book.tables.route.domain
  (addChunks width (vs.length + 1) 0 vs).zipIdx.foldl (fun b ((off, v, last), i) =>
    if c.source = own then
      match b.net.windows[c.window]? with
      | some w => b.memoryAdd ⟨w.base + off, c.fmt, c.fmt, v, !arrival, own, n, last, p, tok, errs⟩
      | none => b
    else b.sendEdge own c.source ⟨{ ownHdr fAdd 2 p own c.source c.window (i % 65536) with op := op }, .add ⟨dom, off, c.fmt, c.fmt, v, !arrival, n, last⟩⟩) b

def Body.openReduction (b : Body) (r : Reduction) : Body := { b with net := { b.net with reductions := b.net.reductions ++ [r] } }

/-- A node joins a collective with its own contribution, and takes what has already arrived for it. -/
def Body.join (b : Body) (own : Nat) (r : Reduction) (errs : List CwError) : Body :=
  let b := (b.openReduction r).redeliver own r.part
  match b.net.reductions.find? (fun x => decide (x.part = r.part ∧ x.token = r.token)) with
  | some r => b.finishNode own r errs
  | none => b

/-- A COLLECTIVE operation issues, the `n`-th of which this module sends flits. -/
def Body.startCollective (b : Body) (own p n : Nat) (tok : Token) (op : StreamOp) (st : Stage) (c : Collective) (errs : List CwError) : Body :=
  let die := st.die.getD 0
  let engine := ((b.part p).opEngine op).getD 0
  match (b.part p).fix with
  | none => b
  | some f =>
    match c.kind with
    | .reduceScatter | .allReduce =>
      match f.buckets.find? (fun k => k.id = c.bucket) with
      | none => b
      | some k =>
        let step := (b.part p).stepOf op
        let b := b.startBucket p f k step
        let status := (((b.part p).pass.bucket? k.id).map (·.status)).getD 0
        let vs := b.codes p (elementLoc k 0) .binary16 k.elements
        b.join own ⟨p, tok, c, die, engine, bucketHdr f (b.part p).pass k step status, vs, [], false, n⟩ errs
    | .xsum =>
      b.join own ⟨p, tok, c, die, engine, ⟨c.bucket, (b.part p).stepOf op, 40, 0, 0, 0⟩, (b.accOf p engine c.acc).image, [], false, n⟩ errs
    | .allGather | .broadcast =>
      if c.source = own then
        let bytes := b.readLoc p c.loc c.bytes
        (treeNeighbours (b.collTree c) own).foldl (fun b m => b.sendResult own p n ⟨c.kind, c.bucket, (b.part p).stepOf op⟩ m bytes) b
      else (b.openReduction ⟨p, tok, c, die, engine, ⟨c.bucket, (b.part p).stepOf op, 0, 0, 0, 0⟩, [], [], true, n⟩).redeliver own p
    | .add => b.startAdd own p n tok c (op.arrival || st.arrival) errs

/-- A collective may complete: nothing of it waits here, and a bucket's status has come (R252, R253). -/
def Body.collectiveDone (b : Body) (p : Nat) (fl : Flight) (op : StreamOp) (c : Collective) : Bool :=
  !(b.net.reductions.any (fun r => decide (r.part = p) && r.token == fl.token))
    && !(b.store.windows.any (fun w => w.adds.any (fun a => decide (a.part = p) && a.token == fl.token)))
    && !(b.store.heldAdds.any (fun a => decide (a.part = p) && a.token == fl.token))
    && (!reduces c.kind || decide ((b.part p).stepOf op < (b.part p).pass.step) || (match (b.part p).pass.bucket? c.bucket with
        | some k => k.reduced.isSome || k.failed
        | none => true))

end Sys2Proof.Machine
end

