-- ==== Sys2Proof/Machine/Slots.lean ====
section
/-!
DEFINITION. Dovecote slots (12, R300 to R303, Tables 12.2, 12.3): writes and reads by a slot's writer and receiver, wake events, and requests
in the Lodge's slots.
-/

namespace Sys2Proof.Machine

/-! ## Slots -/

def Body.slot (b : Body) (s : Nat) : Slot := b.doves.slots.getD s ⟨0, false, false⟩

def Body.alterSlot (b : Body) (s : Nat) (f : Slot → Slot) : Body :=
  { b with doves := { b.doves with slots := alter s f b.doves.slots } }

/-- A write dropped because its agent is not the slot's writer (Table 12.3). -/
def Body.foreign (b : Body) : Body := { b with doves := { b.doves with foreign := wrap 32 (b.doves.foreign + 1) } }

/-- R303: a write latches the receiver's wake event: keepers 0 to 7, then the Lodge request engine. -/
def Body.latchWake (b : Body) (domain : Nat) : Body :=
  { b with doves := { b.doves with wake := alter domain (fun _ => true) b.doves.wake } }

/-- A write by the slot's own writer (R301, Table 12.3). -/
def Body.writeSlot (b : Body) (s : Nat) (w : Word64) (domain : Nat) : Body :=
  if (b.slot s).full then b.alterSlot s (fun x => { x with overrun := true })
  else (b.alterSlot s (fun x => { x with word := w, full := true })).latchWake domain

/-- A word for the first empty slot of a range, or, where all are full, one that is dropped with the overrun bit of the range's first slot
(Table 12.3). The slot written. -/
def Body.writeFirst (b : Body) (slots : List Nat) (w : Word64) (domains : List Nat) : Option Nat × Body :=
  match slots.find? (fun s => !(b.slot s).full) with
  | some s => (some s, domains.foldl Body.latchWake (b.alterSlot s (fun x => { x with word := w, full := true })))
  | none => (none, b.alterSlot (slots.headD 64) (fun x => { x with overrun := true }))

/-- A read by the slot's receiver: the word, or 0 from an empty slot; the flag clears. -/
def Body.readSlot (b : Body) (s : Nat) : Word64 × Body :=
  (if (b.slot s).full then (b.slot s).word else 0, b.alterSlot s (fun x => { x with full := false }))

/-! ## Requests to the Lodge (slots 1 to 7, 40 to 47) -/

/-- A proof that is asked for counts for the AUTH its link is in, if it is in one. -/
def Body.proofAsked (b : Body) (j : LodgeJob) : Body :=
  match j with
  | .request (.proof l _) => b.alterLink l (fun g => match g.state with
    | .auth => { g with proofsDue := g.proofsDue + 1 }
    | _ => { g with proofsStale := g.proofsStale + 1 })
  | _ => b

/-- A request goes into the first empty slot of its range, and the engine's wake event is latched (R300, R301, R303). The slot written. -/
def Body.post (b : Body) (slots : List Nat) (m : LodgeMail) : Option Nat × Body :=
  match b.writeFirst slots (Config.slotWord b.free) [8] with
  | (some s, c) => (some s, { c with doves := { c.doves with mail := c.doves.mail ++ [(s, m)] }, free := b.free + 1 })
  | (none, c) => (none, { c with free := b.free + 1 })

/-- The engine takes every word from its slots; the wake event is used up. -/
def Body.takeMail (b : Body) : Body :=
  { b with doves := { b.doves with
    slots := b.doves.mail.foldl (fun xs m => alter m.1 (fun x => { x with full := false }) xs) b.doves.slots,
    mail := [], wake := alter 8 (fun _ => false) b.doves.wake } }

/-- A keeper's request goes into slots 40 to 47; an engine in ON takes it into its queue at once. -/
def Body.ask (b : Body) (v : Vault) (j : LodgeJob) : Body :=
  match b.post (List.range' 40 8) (.ask j) with
  | (some _, c) =>
    let c := c.proofAsked j
    if v.engineOn then { c.takeMail with doves := { c.takeMail.doves with asks := c.doves.asks ++ [j] } } else c
  | (none, c) => c

/-! ## Messages between keepers (slots 48 to 63) -/

/-- A keeper that another one needs, and that is in RETAIN, is sent a message in one of its two slots, whose wake event it latches. -/
def Body.rouse (b : Body) (k : Nat) : Body :=
  if b.keepers.cores[k]?.any (fun (x : Keeper) => decide (x.mode = .retain)) then
    { (b.writeFirst [48 + 2 * k, 49 + 2 * k] (Config.slotWord b.free) [k]).2 with free := b.free + 1 }
  else b

end Sys2Proof.Machine
end

