-- ==== Sys2Proof/Machine/RingServe.lean ====
section
/-!
DEFINITION. Serving the command rings (13, R305, R316, R317, R319, R321, R322): doorbells taken from their slots, entries read and
accepted, commands started in order, and the rows that are entries of a ring.
-/

namespace Sys2Proof.Machine

/-! ## Which ring carries which command (Table 13.3, RING_WRONG) -/

/-- The entry's PARTITION and, for the schedule commands, the partition of the schedule entry fit the ring. -/
def ringRight (e : RingCmd) : Bool :=
  let p := e.hdr.part
  if e.hdr.ring < 4 then
    decide (p = e.hdr.ring) && (match e.cmd with
      | .schedule x => decide (x.part = e.hdr.ring)
      | .scheduleCancel _ q => decide (q = e.hdr.ring)
      | c => decide (c.ringKind ≠ .module))
  else
    match e.cmd with
    | .abandon => decide (p < 4)
    | c => decide (c.ringKind ≠ .partition) && decide (p = 15)

/-- What R322 orders commands by: the partition named, or 15 for module commands. -/
def cmdKey (e : RingCmd) : Nat := e.hdr.part

/-! ## Carrying a command out -/

/-- A fixture that runs needs the ISSUE keeper of its half (R290): one in RETAIN is woken for it. -/
def Body.rouseIssue (b : Body) (p : Nat) : Body :=
  match b.partHalf p with
  | some h => if (b.part p).fstate = .running then b.rouse (4 * h + 1) else b
  | none => b

/-- The effect of a command that has started (Table 13.4). `ABANDON` and LOG_READ start at acceptance and never wait. -/
def runCmd (v : Vault) (a : Active) (b : Body) : Body × CmdEnd :=
  match a.cmd with
  | .fixtureLoad off len img => cmdFixtureLoad v a.key off len img b
  | .fixtureCheck off len img => cmdFixtureCheck v a.key off len img b
  | .fixtureStart => let r := cmdFixtureStart a.key b; (r.1.rouseIssue a.key, r.2)
  | .fixtureStop => cmdFixtureStop a.key b
  | .fixtureRetire => cmdFixtureRetire a.key b
  | .stepBound s => cmdStepBound a.key a.ring a.tag s b
  | .schedule e => cmdSchedule v e b
  | .scheduleCancel t p => cmdScheduleCancel t p b
  | .listInit off pool cap car => cmdListInit a.key off pool cap car b
  | .listRetire off last => cmdListRetire a.key off last b
  | .tableLoad off len slot img => cmdTableLoad v off len slot img b
  | .tableDiscard slot => cmdTableDiscard slot b
  | .budget p row value => cmdBudget p row value b
  | .partitionSet p mask => cmdPartitionSet p mask b
  | .snapshot mask addr => cmdSnapshot v a.key mask addr b
  | .restore src addr flags out => cmdRestore v a.ring a.tag a.key src addr flags out b
  | .logRead first count buf => cmdLogRead first count buf b
  | .logClear auth number code => cmdLogClear v auth number code b
  | .selfTest chan pattern r => cmdSelfTest chan pattern r b
  | .linkRelease link => cmdLinkRelease link b
  | .retrain chan => cmdRetrain chan b
  | .abandon => (b, ok)
  | .unknown _ => (b, fail stOpcodeUnknown)

/-- R322: the first waiting command with no earlier command of its key before it. One that waits for the Lodge is no such command. -/
def nextReady : List Active → List Active → Option Active
  | _, [] => none
  | before, a :: rest =>
    if !a.running && decide (a.signed ≠ some false) && !(before.any (fun x => decide (x.key = a.key))) then some a else nextReady (before ++ [a]) rest

/-- The command has the Lodge check a signature, or draw on it (R35, R309, R383). -/
def needsLodge : Cmd → Bool
  | .fixtureLoad .. | .fixtureCheck .. | .tableLoad .. | .logClear .. => true
  | _ => false

/-- Its request would not be served at once: the engine is OFF, or earlier requests wait (R308). -/
def Body.lodgeBusy (b : Body) (v : Vault) : Bool := !v.engineOn || !b.doves.asks.isEmpty

/-- A command's request joins those that wait, unless no slot is left for it. -/
def Body.askCheck (b : Body) (v : Vault) (a : Active) : Option Body :=
  if (List.range' 40 8).all (fun s => (b.slot s).full) then none
  else some (Body.ask { b with active := b.active.map (fun x => if x = a then { x with signed := some false } else x) } v (.check a.ring a.tag))

/-- One command starts; if it ends at once its record is written (R322). One that the Lodge keeps waiting asks it first (R308). -/
def startOne (v : Vault) (b : Body) : Option Body :=
  match nextReady [] b.active with
  | none => none
  | some a =>
    if needsLodge a.cmd && decide (a.signed = none) && b.lodgeBusy v then b.askCheck v a
    else match runCmd v a b with
    | (b', .done st code d) => some (({ b' with active := b'.active.erase a }).finish a.ring a.tag a.cmd st code d)
    | (b', .running) => some { b' with active := b'.active.map (fun x => if x = a then { x with running := true } else x) }
    | (b', .deferred) => some { b' with active := b'.active.erase a }

/-- Commands start while one is ready. -/
def startReady (v : Vault) : Nat → Body → Body
  | 0, b => b
  | n + 1, b =>
    match startOne v b with
    | some b' => startReady v n b'
    | none => b

/-- The lead half's MODULE keeper in the table's terms (R289, R291). -/
def Body.leadKeeper (b : Body) : Nat := if b.keepers.lead = 0 then 3 else 7

def Body.keeper (b : Body) (k : Nat) : Keeper := b.keepers.cores.getD k ⟨.off, true, 0, none, false⟩

/-- The keeper runs: it is ON, has not failed, and its half is not FENCED (R296, R399). -/
def Body.keeperRuns (b : Body) (k : Nat) : Bool :=
  decide ((b.keeper k).mode = .on) && !(b.keeper k).failed && !b.fenced (k / 4)

/-- The keeper carries out its role neither now nor after a wake: it restarts, has failed, or its half is FENCED. -/
def Body.keeperDown (b : Body) (k : Nat) : Bool :=
  decide ((b.keeper k).mode = .restarting) || (b.keeper k).failed || b.fenced (k / 4)

/-- A keeper's role is carried out: by itself, or by the one of the other half since a frame start of its own (R296). -/
def Body.roleRuns (b : Body) (k : Nat) : Bool := b.keeperRuns k || (b.keeperRuns ((k + 4) % 8) && (b.keeper ((k + 4) % 8)).covers)

/-- R291: a FENCED lead half gives its MODULE duties up only at the next beat boundary. -/
def Body.leadRuns (b : Body) : Bool :=
  b.keeperRuns b.leadKeeper || (!b.fenced (b.leadKeeper / 4) && b.roleRuns b.leadKeeper)

/-- Every command that may start starts, while a keeper carries out the lead half's MODULE duties (R291). -/
def Body.start (v : Vault) (b : Body) : Body := if b.leadRuns then startReady v (2 * b.active.length + 1) b else b

/-- A running command ends with its record, and those that waited for it start. -/
def Body.endCommand (b : Body) (v : Vault) (a : Active) (status code : Nat) (d : Detail) : Body :=
  (({ b with active := b.active.erase a }).finish a.ring a.tag a.cmd status code d).start v

/-- An accepted entry is carried out, or refused before it starts (R321). -/
def Body.accept (b : Body) (v : Vault) (e : RingCmd) : Body :=
  let r := e.hdr.ring
  let opened := b.alterRing r (fun x => { x with open_ := x.open_ + 1 })
  match e.cmd with
  | .unknown op => opened.finish r e.hdr.tag (.unknown op) stOpcodeUnknown 0 .none
  | c =>
    if !ringRight e then
      (match c with
        | .abandon => b.finish r e.hdr.tag c stRingWrong 0 .none
        | _ => opened.finish r e.hdr.tag c stRingWrong 0 .none)
    else if e.hdr.rsvd then
      (match c with
        | .abandon => b.finish r e.hdr.tag c stArgsBad 0 .none
        | _ => opened.finish r e.hdr.tag c stArgsBad 0 .none)
    else match c with
      | .abandon => (cmdAbandon e.hdr.part r e.hdr.tag b).start v
      | .logRead first count buf =>
        (match cmdLogRead first count buf opened with
          | (b', .done st code d) => b'.finish r e.hdr.tag c st code d
          | (b', _) => b')
      | _ => ({ opened with active := opened.active ++ [(⟨r, cmdKey e, e.hdr.tag, c, false, none⟩ : Active)] }).start v

/-! ## Reading the rings -/

/-- R319: the next entry may be accepted. -/
def Ring.accepts (r : Ring) (c : Cmd) : Bool :=
  match c with
  | .abandon => true
  | _ => decide (r.open_ < r.free - cplReserve)

/-- The module serves rings: READY, the lead half's MODULE keeper in ON, the link to the host up (R317, R392, R400). -/
def Body.serves (b : Body) : Bool := decide (b.boot.start = .ready) && b.leadRuns

/-- R305, R316: the keeper takes a doorbell from its slot; a tail at or above the ring size is ignored and counted. -/
def Body.takeDoorbell (b : Body) (r : Nat) : Body :=
  let s := b.doves.slots.getD (16 + r) ⟨0, false, false⟩
  if !s.full then b
  else
    let tail := (s.word.extractLsb' 0 32).toNat
    let b := { b with doves := { b.doves with slots := alter (16 + r) (fun x => { x with full := false }) b.doves.slots } }
    if (b.ring r).cmdSize ≤ tail then b.alterRing r (fun x => { x with errors := wrap 32 (x.errors + 1) })
    else b.alterRing r (fun x => { x with tail := tail })

/-- The entry lies in host memory, behind the link to it. An `ABANDON` may have been read before the link went down: it is carried out all the
same (R328, log 5). -/
def Body.reachable (b : Body) (c : Cmd) : Bool := b.host.pcieUp || decide (c = .abandon)

/-- One entry is read if the announced tail lies ahead and it may be accepted (R317, R319). -/
def Body.readEntry (b : Body) (v : Vault) (r : Nat) : Option Body :=
  let g := b.ring r
  match g.entries with
  | [] => none
  | e :: rest =>
    if g.enable && b.reachable e.cmd && decide (g.cmdHead ≠ g.tail) && decide (g.reads < 16) && g.accepts e.cmd then
      some ((b.alterRing r (fun x => { x with entries := rest, cmdHead := (x.cmdHead + 1) % x.cmdSize, reads := x.reads + 1 })).accept v e)
    else none

def Body.readRing (v : Vault) (r : Nat) : Nat → Body → Body
  | 0, b => b
  | n + 1, b =>
    match b.readEntry v r with
    | some b' => Body.readRing v r n b'
    | none => b

/-- A frame starts: 16 entries of each ring may be read in it (R317). -/
def Body.newFrame (b : Body) : Body := { b with rings := b.rings.map (fun x => { x with reads := 0 }) }

/-- R317: a frame's work on one ring: up to 16 entries, as far as its announced tail. -/
def Body.serveRing (v : Vault) (r : Nat) (b : Body) : Body := if b.serves then Body.readRing v r 16 b else b

/-- A frame's work on every ring, in ring order. -/
def Body.serveRings (v : Vault) (b : Body) : Body := (List.range 5).foldl (fun b r => b.serveRing v r) b

/-! ## The rows -/

/-- Host software puts an entry into the command ring, and the lead MODULE keeper reads the ring as far as it may in its frame under way
(log 5). -/
def submit (ok : Bool) (e : RingCmd) (s : State) : Host.Outcome State Fault Refusal :=
  onBody ok s (fun b =>
    (b.alterRing e.hdr.ring (fun x => { x with entries := x.entries ++ [e] })).serveRing s.vault e.hdr.ring)

def execFixtureLoad (h : Hdr) (off len : Nat) (img : FixtureImage) (s : State) : Host.Outcome State Fault Refusal :=
  submit h.wf ⟨h, .fixtureLoad off len img⟩ s

def execFixtureCheck (h : Hdr) (off len : Nat) (img : FixtureImage) (s : State) : Host.Outcome State Fault Refusal :=
  submit h.wf ⟨h, .fixtureCheck off len img⟩ s

def execFixtureStart (h : Hdr) (s : State) : Host.Outcome State Fault Refusal := submit h.wf ⟨h, .fixtureStart⟩ s

def execFixtureStop (h : Hdr) (s : State) : Host.Outcome State Fault Refusal := submit h.wf ⟨h, .fixtureStop⟩ s

def execFixtureRetire (h : Hdr) (s : State) : Host.Outcome State Fault Refusal := submit h.wf ⟨h, .fixtureRetire⟩ s

def execStepBound (h : Hdr) (st : Nat) (s : State) : Host.Outcome State Fault Refusal := submit h.wf ⟨h, .stepBound st⟩ s

def execSchedule (h : Hdr) (e : SchedEntry) (s : State) : Host.Outcome State Fault Refusal := submit h.wf ⟨h, .schedule e⟩ s

def execScheduleCancel (h : Hdr) (token : Token) (part : Nat) (s : State) : Host.Outcome State Fault Refusal :=
  submit h.wf ⟨h, .scheduleCancel token part⟩ s

def execListInit (h : Hdr) (off pool cap carousel : Nat) (s : State) : Host.Outcome State Fault Refusal :=
  submit h.wf ⟨h, .listInit off pool cap carousel⟩ s

def execListRetire (h : Hdr) (off last : Nat) (s : State) : Host.Outcome State Fault Refusal :=
  submit h.wf ⟨h, .listRetire off last⟩ s

def execTableLoad (h : Hdr) (off len slot : Nat) (img : RulebookImage) (s : State) : Host.Outcome State Fault Refusal :=
  submit h.wf ⟨h, .tableLoad off len slot img⟩ s

def execTableDiscard (h : Hdr) (slot : Nat) (s : State) : Host.Outcome State Fault Refusal :=
  submit h.wf ⟨h, .tableDiscard slot⟩ s

def execBudget (h : Hdr) (part row value : Nat) (s : State) : Host.Outcome State Fault Refusal :=
  submit h.wf ⟨h, .budget part row value⟩ s

def execPartitionSet (h : Hdr) (part mask : Nat) (s : State) : Host.Outcome State Fault Refusal :=
  submit h.wf ⟨h, .partitionSet part mask⟩ s

def execSnapshot (h : Hdr) (mask addr : Nat) (s : State) : Host.Outcome State Fault Refusal :=
  submit h.wf ⟨h, .snapshot mask addr⟩ s

def execRestore (h : Hdr) (source addr flags : Nat) (out : SourceOutcome) (s : State) : Host.Outcome State Fault Refusal :=
  submit (h.wf && out.wf) ⟨h, .restore source addr flags out⟩ s

def execLogRead (h : Hdr) (first count buf : Nat) (s : State) : Host.Outcome State Fault Refusal :=
  submit h.wf ⟨h, .logRead first count buf⟩ s

def execLogClear (h : Hdr) (authoriser number code : Nat) (s : State) : Host.Outcome State Fault Refusal :=
  submit (h.wf && decide (authoriser < 2 ^ 32) && decide (number < 2 ^ 32) && decide (code < 2 ^ 64)) ⟨h, .logClear authoriser number code⟩ s

def execSelfTest (h : Hdr) (chan pattern : Nat) (r : BallResult) (s : State) : Host.Outcome State Fault Refusal :=
  submit h.wf ⟨h, .selfTest chan pattern r⟩ s

def execLinkRelease (h : Hdr) (link : Nat) (s : State) : Host.Outcome State Fault Refusal := submit h.wf ⟨h, .linkRelease link⟩ s

def execRetrain (h : Hdr) (chan : Nat) (s : State) : Host.Outcome State Fault Refusal := submit h.wf ⟨h, .retrain chan⟩ s

def execAbandon (h : Hdr) (s : State) : Host.Outcome State Fault Refusal := submit h.wf ⟨h, .abandon⟩ s

/-- An opcode that Table 13.4 does not list (Table 13.3). -/
def execOpcodeUnknown (h : Hdr) (opcode : Nat) (s : State) : Host.Outcome State Fault Refusal :=
  submit (h.wf && !listedOpcodes.contains opcode) ⟨h, .unknown opcode⟩ s

end Sys2Proof.Machine
end

