-- ==== Sys2Proof/Machine/Streams.lean ====
section
/-!
DEFINITION. Streams (02, R22 to R29, R290, R437; 05, R96, R97, R107, R108, R121, R122, R124; 15, R351): the issue pass, the wait
limit, the bench timer, sub-operations and the completion of operations.
-/

namespace Sys2Proof.Machine

open Arith

/-! ## Room and waits -/

/-- The next operation of a stream. -/
def Partition.next? (x : Partition) (s : Nat) : Option StreamOp := (x.image s)[(x.streams.getD s Stream.reset).pos]?

/-- R27 to R29: the stream's window and the partition's quota have room. -/
def Partition.hasRoom (x : Partition) (s : Nat) : Bool :=
  decide ((x.flights.filter (fun f => decide (f.stream = s))).length < ((x.fix.map (fun f => f.demands.windows.getD s 0)).getD 0))
    && decide (x.flights.length < x.quotas.inflight)

/-- R121, R122: the verdict token an operation waits on is complete. -/
def Partition.verdictDone (x : Partition) (s : Nat) (op : StreamOp) : Bool :=
  match s, op.payload with
  | 2, .update layer =>
    if ((x.fix.map FixtureImage.early).getD []).contains layer then decide (x.stepOf op ≤ x.pass.step) else decide (x.stepOf op < x.pass.step)
  | 2, _ => true
  | _, _ => decide (x.stepOf op ≤ x.pass.step)

/-- R26: a wait on a beat token counts only once its entry has left the schedule without firing. -/
def Body.waitExempt (b : Body) (p : Nat) (t : Token) : Bool :=
  decide (tokProducer t = 3) && (decide (tokenAge ((b.part p).countOf 3) (tokSeq t) ≠ .issued)
    || b.sched.entries.any (fun e => e.token == t && decide (e.part = p)))

/-- Every wait of the operation is complete. -/
def Partition.ready (x : Partition) (s : Nat) (op : StreamOp) : Bool := op.waits.all x.tokenDone && x.verdictDone s op

/-- Some wait that R26 bounds is not complete. -/
def Body.boundedWait (b : Body) (p s : Nat) (op : StreamOp) : Bool :=
  let x := b.part p
  op.waits.any (fun t => !x.tokenDone t && !b.waitExempt p t) || !x.verdictDone s op

def Partition.setStream (x : Partition) (s : Nat) (f : Stream → Stream) : Partition := { x with streams := alter s f x.streams }

/-! ## Units (R65, R195, R286, R339) -/

/-- Halves whose units an operation is placed on. -/
def Body.opHalves (b : Body) (p : Nat) (op : StreamOp) : List Nat :=
  let x := b.part p
  let st := x.stage? op
  ((x.opPitches op) ++ (x.opEngine op).toList).map (· / 2) ++ ((st.bind (·.die)).map (· / 2)).toList ++ (st.bind (·.half)).toList

def unitFree (s : UnitState) : Bool :=
  match s with
  | .idle | .running => true
  | _ => false

/-- A retirement stops every partition whose grant lies in the memory that it changes (Table 9.13 step 1, R440). -/
def Retirement.touches (r : Retirement) (g : Grant) : Bool :=
  (!r.infield.isEmpty && !g.infield.isEmpty) || (!r.outfield.isEmpty && !g.outfield.isEmpty)

def Body.retiring (b : Body) (p : Nat) : Bool := b.store.pendingRetire.any (fun r => r.touches (b.part p).grant)

/-- Nothing that the operation is placed on is stopped, frozen or fenced. -/
def Body.unitsRun (b : Body) (p : Nat) (op : StreamOp) : Bool :=
  let x := b.part p
  (x.opPitches op).all (fun i => unitFree (b.pitch i).state) && (x.opEngine op).all (fun i => unitFree (b.engine i).state)
    && (b.opHalves p op).all (fun h => !b.fenced h && (b.half h).fatal.isNone) && !b.retiring p

/-! ## The bench (R96, R97, R107, R108) -/

/-- Granules of a tier in use. -/
def Pass.tierGranules (x : Pass) (t : Nat) : List Nat := (x.bench.filter (fun e => decide (e.tier = t))).flatMap (·.granules)

/-- Granules of a tier of the memory plan. -/
def tierSize (m : MemPlan) (t : Nat) : Nat :=
  match t with
  | 0 => m.benchScratch
  | 1 => m.benchInfield
  | _ => m.benchOverflow.getD 0 / 65536

/-- The lowest free granules of a tier for an entry of `g`, if it takes the entry whole (log 19). -/
def Partition.freeGranules (x : Partition) (m : MemPlan) (g t : Nat) : Option (List Nat) :=
  let used := x.pass.tierGranules t
  let free := (List.range (min (tierSize m t) (g + used.length))).filter (fun k => !used.contains k)
  if g ≤ free.length then some (free.take g) else none

/-- The first tier that takes the entry whole, and its granules there. -/
def Partition.benchTier (x : Partition) (g : Nat) : Option (Nat × List Nat) :=
  x.fix.bind (fun f => (List.range 3).findSome? (fun t => (x.freeGranules f.plan g t).map (fun gs => (t, gs))))

/-- The entry a forward operation of a training fixture writes. -/
def Partition.benchWrite (x : Partition) (s : Nat) (op : StreamOp) : Option BenchWrite :=
  if s = 0 && !((x.fix.map FixtureImage.serving).getD true) then op.bench else none

/-- A token of the forward stream that has not been issued: the held stream cannot issue it. -/
def Partition.aheadForward (x : Partition) (t : Token) : Bool :=
  decide (tokProducer t = 0) && decide (tokenAge (x.countOf 0) (tokSeq t) = .ahead)

/-- R108: a backward operation that would free an entry is in flight, or queued before any that waits on the held stream. -/
def Partition.freeing (x : Partition) : Bool :=
  (x.flights.filter (fun f => decide (f.stream = 1))).any (fun f => ((x.op? f).bind (·.frees)).isSome)
    || (((x.image 1).drop ((x.streams.getD 1 Stream.reset).pos)).takeWhile (fun o =>
        !o.waits.any x.aheadForward && decide (x.stepOf o ≤ x.pass.step))).any (fun o => o.frees.isSome)

/-- The forward stream holds: the bench timer starts if the hold is a deadlock. -/
def Partition.hold (x : Partition) (beat mb : Nat) : Partition :=
  { x with pass := { x.pass with benchHold := if x.freeing then none else some (x.pass.benchHold.getD (beat, mb)) } }

/-! ## Issue -/

/-- R123, R124: UPDATE operations of a withheld step are passed over; their tokens complete. -/
def Partition.passOver : Nat → Partition → Partition
  | 0, x => x
  | n + 1, x =>
    match x.next? 2 with
    | some op =>
      match op.payload with
      | .update _ =>
        if x.upd.withheld.contains (x.stepOf op) then
          let c := ((x.streams.getD 2 Stream.reset).count + 1) % 2 ^ 30
          Partition.passOver n ((x.setStream 2 (fun s => { s with pos := s.pos + 1, count := c, waitSince := none })).complete (mkToken 2 c) none)
        else x
      | _ => x
    | none => x

/-- R351: an UPDATE of the next step waits on the copy of its layer. -/
def Partition.copyWait (x : Partition) (op : StreamOp) : Bool :=
  match op.payload, x.snap.run with
  | .update layer, some r => decide (r.image.step < x.stepOf op) && r.layersDue.contains layer
  | _, _ => false

/-- R237: no new collective while the link share is over its quota. -/
def Partition.shareHold (x : Partition) (op : StreamOp) : Bool := (collectiveOf op).isSome && x.overBit 5

/-- R320: with 64 records held, streams hold where the step begins. -/
def Body.recordHold (b : Body) (p s : Nat) : Bool :=
  decide (64 ≤ (b.ring p).heldCount) && decide (((b.part p).streams.getD s Stream.reset).pos = (b.part p).pass.startPos.getD s 0)

/-- Places that a collective reads here when it issues, and places that it will write here; `park` are those of its accumulator. -/
def collectivePlaces (own : Option Nat) (f : FixtureImage) (c : Collective) (park : List (Loc × Nat) × List (Loc × Nat)) :
    List (Loc × Nat) × List (Loc × Nat) :=
  match c.kind with
  | .reduceScatter | .allReduce =>
    (match f.buckets.find? (fun k => decide (k.id = c.bucket)) with
    | some k => ([(elementLoc k 0, 2 * k.elements)], [(c.loc, 2 * k.elements)])
    | none => ([], []))
  | .allGather | .broadcast => if some c.source = own then ([(c.loc, c.bytes)], []) else ([], [(c.loc, c.bytes)])
  | .add => ([(c.loc, c.bytes)], [])
  | .xsum => park

/-- Places of an operation in flight that is a collective. -/
def Body.opCollective (b : Body) (own : Option Nat) (p : Nat) (op : StreamOp) : List (Loc × Nat) × List (Loc × Nat) :=
  match (b.part p).fix, (b.part p).stage? op, collectiveOf op with
  | some f, some st, some c => collectivePlaces own f c (b.accPlaces st.parkAt (((b.part p).opEngine op).getD 4) [c.acc])
  | _, _, _ => ([], [])

/-- What a collective meets in memory when it issues, and the kind that it fails with: banks and addresses it may not use (R206, R210),
errors of its reads (R199), poisoned data that it would send (R200). -/
def Body.collectiveOpens (b : Body) (own : Option Nat) (p : Nat) (op : StreamOp) (errs : List CwError) : Body × Option Nat :=
  match collectiveOf op with
  | some _ =>
    let pl := b.opCollective own p op
    let rs := (b.part p).planPlaces pl.1
    let ws := (b.part p).planPlaces pl.2
    let b := b.wakePlaces p (rs ++ ws)
    match b.accessFault p rs ws with
    | some (kind, b) => ((b.failPoisoned p ws kind).body, some kind)
    | none =>
      let b := b.meetErrors p rs [] errs
      if rs.any (fun (l, n) => b.poisonAt p l n) then ((b.failPoisoned p ws kMemUncorrectable).body, some kMemUncorrectable) else (b, none)
  | none => (b, none)

/-- The operation goes into flight. A wait that failed is passed on with its kind (R437); where waited-on tokens failed with different
kinds the first listed one decides: DESIGN CHOICE (log 87). -/
def Body.issueOp (b : Body) (own : Option Nat) (errs : List CwError) (p s : Nat) (op : StreamOp) (entry : Option BenchEntry) : Body :=
  let x := b.part p
  let g := x.streams.getD s Stream.reset
  let tok := mkToken s ((g.count + 1) % 2 ^ 30)
  let gens := match op.payload with
    | .attention _ seqs _ => b.generations p seqs
    | _ => []
  let inherited := op.waits.findSome? x.tokenFailed
  let r := if inherited.isSome then (b, inherited) else b.collectiveOpens own p op errs
  let b := r.1
  let failed := r.2
  let fl : Flight := ⟨s, g.pos, tok, failed, b.clock.beat, 0, 0, b.book.tables.update, [], 0, gens, b.net.ops⟩
  let b := { b with net := { b.net with ops := b.net.ops + (if (collectiveOf op).isSome then 1 else 0) } }
  let b := b.alterPart p (fun x =>
    let y := x.setStream s (fun g => { g with pos := g.pos + 1, count := (g.count + 1) % 2 ^ 30, waitSince := none })
    { y with flights := y.flights ++ [fl], board := y.board.filter (fun d => d.token != tok),
             pass := { y.pass with bench := y.pass.bench ++ entry.toList, benchHold := if s = 0 then none else y.pass.benchHold } })
  let b := match failed, collectiveOf op, own, x.stage? op with
    | none, some c, some m, some st => b.startCollective m p fl.sent tok op st c errs
    | _, _, _, _ => b
  b.refreshUnits

/-- R27: the module keeps at most 768 operations in flight. -/
def Body.moduleRoom (b : Body) : Bool := decide ((b.parts.map (·.flights.length)).foldl (· + ·) 0 < 768)

/-- One stream of one partition in an issue pass. -/
def Body.issueStream (own : Option Nat) (errs : List CwError) (p : Nat) (b : Body) (s : Nat) : Body :=
  let b := if s = 2 then b.alterPart p (fun x => x.passOver (x.image 2).length) else b
  let x := b.part p
  match x.next? s with
  | none => b.alterPart p (fun x => x.setStream s (fun g => { g with waitSince := none }))
  | some op =>
    if !x.hasRoom s then b
    else if !x.ready s op then
      let since := if b.boundedWait p s op then some (((x.streams.getD s Stream.reset).waitSince).getD b.clock.beat) else none
      b.alterPart p (fun x => x.setStream s (fun g => { g with waitSince := since }))
    else
      let b := b.alterPart p (fun x => x.setStream s (fun g => { g with waitSince := none }))
      if !b.moduleRoom || b.recordHold p s || !b.unitsRun p op || x.copyWait op || x.shareHold op then b
      else
        match x.benchWrite s op with
        | none => b.issueOp own errs p s op none
        | some w =>
          if (op.waits.findSome? x.tokenFailed).isSome then b.issueOp own errs p s op none
          else
            match x.benchTier (benchGranules (x.entryBytes w)) with
            | some (t, gs) => b.issueOp own errs p s op (some ⟨w.block, w.mb, t, gs, x.entryBytes w, []⟩)
            | none => b.alterPart p (fun x => x.hold b.clock.beat w.mb)

/-- R29, R290: the ISSUE keeper of a half passes over its running partitions, forward, backward, update. -/
def Body.issuePass (v : Vault) (h : Nat) (errs : List CwError) (b : Body) : Body :=
  if !b.roleRuns (4 * h + 1) || (b.half h).fatal.isSome || b.boot.start != .ready then b
  else (List.range 4).foldl (fun b p =>
    if b.partHalf p = some h ∧ (b.part p).fstate = .running then (List.range 3).foldl (Body.issueStream (b.ownMember v.serial) errs p) b
    else b) b

/-- `errs` is what the reads of the collectives that issue meet (R199). -/
def execIssuePass (x : IssueRun) (s : State) : Host.Outcome State Fault Refusal :=
  onBody (decide (x.half < 2)) s (fun b => b.issuePass s.vault x.half x.errs)

/-! ## Limits (R26, R108) -/

def Body.waitExpired (b : Body) (p s : Nat) : Body :=
  match ((b.part p).streams.getD s Stream.reset).waitSince with
  | some t =>
    if t + b.book.tables.streamWait < b.clock.beat ∧ ((b.part p).next? s).any (b.boundedWait p s) then
      (b.alterPart p (fun x => x.setStream s (fun g => { g with waitSince := none }))).raise tPartition p .contained kStreamWait s
    else b
  | none => b

def execStreamWaitExpired (part stream : Nat) (s : State) : Host.Outcome State Fault Refusal :=
  onBody (decide (part < 4) && decide (stream < 3)) s (fun b => b.waitExpired part stream)

def Body.benchExhausted (b : Body) (p : Nat) : Body :=
  match (b.part p).pass.benchHold with
  | some (t, mb) =>
    if (b.part p).fstate = .running ∧ t + b.book.tables.bench.timer ≤ b.clock.beat then
      (b.alterPart p (fun x => { x with pass := { x.pass with benchHold := none } })).raise tPartition p .contained kBenchExhausted mb
    else b
  | none => b

def execBenchExhausted (part : Nat) (s : State) : Host.Outcome State Fault Refusal :=
  onBody (decide (part < 4)) s (fun b => b.benchExhausted part)

/-! ## Sub-operations and completion (R23, R195, R437) -/

/-- The first vector operation in flight on an engine that has sub-operations left. -/
def Body.vectorFlight (b : Body) (e : Nat) : Option (Nat × Flight × StreamOp × List VecInstr) :=
  (List.range 4).findSome? (fun p =>
    let x := b.part p
    x.flights.findSome? (fun fl => match x.op? fl with
      | some op =>
        (match op.payload with
        | .vector subs => if x.opEngine op = some e ∧ fl.failed.isNone then (subs[fl.done]?).map (fun is_ => (p, fl, op, is_)) else none
        | _ => none)
      | none => none))

def Partition.alterFlight (x : Partition) (tok : Token) (f : Flight → Flight) : Partition :=
  { x with flights := x.flights.map (fun fl => if fl.token = tok then f fl else fl) }

/-- The closing burst of the next sub-operation: its results and accumulators are committed together; one that meets a fault or
poison commits nothing, and its operation fails (R200, R206). -/
def Body.commitSub (b : Body) (e : Nat) (hits : List Nat) (errs : List CwError) : Body :=
  match b.vectorFlight e with
  | none => b
  | some (p, fl, op, is_) =>
    match (b.part p).fix, (b.part p).stage? op with
    | some f, some st =>
      if !b.unitsRun p op then b
      else
        let images := b.accPlaces st.parkAt e (is_.flatMap VecInstr.accs)
        let rs := (b.part p).planPlaces (is_.flatMap VecInstr.reads ++ images.1)
        let ws := (b.part p).planPlaces (is_.flatMap VecInstr.writes ++ images.2)
        let b := b.wakePlaces p (rs ++ ws)
        let fail := fun (b : Body) (kind : Nat) =>
          ((b.failPoisoned p (b.opWrites p f st op) kind).body).alterPart p (fun x => x.alterFlight fl.token (fun y => { y with failed := some kind }))
        match b.accessFault p rs ws with
        | some (kind, b) => fail b kind
        | none =>
          let b := b.meetErrors p rs ws errs
          if rs.any (fun (l, n) => b.poisonAt p l n) then fail b kMemUncorrectable
          else
            let r := b.runSub ⟨p, e, (b.part p).stepOf op, st⟩ is_
            (b.collisions r.1 p ws hits).alterPart p (fun x => x.alterFlight fl.token (fun y => { y with done := y.done + 1, flags := y.flags ||| r.2 }))
    | _, _ => b

/-- A closing burst that was under way at a stop request ends, and the engine is STOPPED (R195), or goes on if it was told to resume. -/
def Body.closeBurst (b : Body) (e : Nat) (hits : List Nat) (errs : List CwError) : Body :=
  match (b.engine e).state with
  | .stopping =>
    let c := (b.alterEngine e Engine.idled).commitSub e hits errs
    if (b.engine e).resume then c.refreshUnits else c.alterEngine e (Engine.stopped b.clock.now)
  | _ => b.commitSub e hits errs

/-- `hits` are codewords of exchange banks that port 0 wrote in the cycle in which this writes them on port 1 (R204). -/
def execSubOperationCommit (x : BurstEnd) (s : State) : Host.Outcome State Fault Refusal :=
  onBody (decide (x.engine < 4)) s (fun b => b.closeBurst x.engine x.hits x.errs)

/-- R96: the entry of a forward operation takes the block's input as the block receives it, behind its header (log 19). -/
def Body.keepEntry (b : Body) (p : Nat) (op : StreamOp) : Body :=
  match op.bench with
  | some w =>
    (match (b.part p).benchEntry? w.block w.mb with
    | some e =>
      let vs := b.readLoc p w.src w.bytes
      let hdr := (List.range benchHeader).map (Config.benchHeader w.block w.mb)
      let b := { b with store := b.store.writeRuns ((b.part p).entrySpans e) (hdr ++ vs.take e.bytes) }
      b.alterPart p (fun x => { x with pass := { x.pass with bench := x.pass.bench.map (fun y =>
        if y.block = w.block ∧ y.mb = w.mb then { y with rest := vs.drop e.bytes } else y) } })
    | none => b)
  | none => b

/-- An operation in flight completes: what it computes is written, unless it fails without having carried out anything. -/
def Body.finishFlight (b : Body) (p : Nat) (fl : Flight) (op : StreamOp) (errs : List CwError) (hits : List Nat) : Body :=
  match fl.failed with
  | some k => b.completeFlight p fl (some k) fl.flags fl.invalid
  | none =>
    let e := b.compute p fl op errs hits
    (if e.failed.isNone then e.body.keepEntry p op else e.body).completeFlight p fl e.failed (e.flags ||| fl.flags) (fl.invalid ++ e.invalid)

/-- R113: micro-batches are added in ascending order: an addition of a lower one into the same bucket and tensor is still to complete. -/
def Partition.addsBefore (x : Partition) (op : StreamOp) : Bool :=
  match op.payload with
  | .bucketAdd id t _ _ _ mb =>
    (List.range 3).any (fun s =>
      let pos := (x.streams.getD s Stream.reset).pos
      (x.image s).zipIdx.any (fun (o, i) => (match o.payload with
        | .bucketAdd id' t' _ _ _ mb' => decide (o.step = op.step) && decide (id' = id) && decide (t' = t) && decide (mb' < mb)
        | _ => false)
        && (decide (pos ≤ i) || x.flights.any (fun f => decide (f.stream = s) && decide (f.idx = i)))))
  | _ => false

/-- Operation `tok` is in flight, may run, and if it is a collective is done. -/
def Body.operationComplete (b : Body) (p : Nat) (tok : Token) (errs : List CwError) (hits : List Nat) : Body :=
  match (b.part p).flights.find? (fun f => f.token == tok) with
  | none => b
  | some fl =>
    match (b.part p).op? fl with
    | none => b
    | some op =>
      if !b.unitsRun p op || (b.part p).addsBefore op then b
      else
        match fl.failed, collectiveOf op with
        | none, some c => if b.collectiveDone p fl op c then b.finishFlight p fl op errs hits else b
        | _, _ => b.finishFlight p fl op errs hits

/-- `errs` is what its reads meet (R199), `hits` codewords of exchange banks where port 0 wrote in the same cycle (R204). -/
def execOperationComplete (part : Nat) (tok : Token) (met : MemMet) (s : State) : Host.Outcome State Fault Refusal :=
  onBody (decide (part < 4)) s (fun b => b.operationComplete part tok met.errs met.hits)

end Sys2Proof.Machine
end

