-- ==== Sys2Proof/Machine/Clocks.lean ====
section
/-!
DEFINITION. The core clock as the units count it (03, R61, R63, R64, R72; 08, R180, R197): every cycle that passes is counted under the state
and the duty in force.
-/

namespace Sys2Proof.Machine

def Body.opEntry (b : Body) : OpEntry := b.book.tables.op.getD b.power.op ⟨0, 0, 1⟩

/-- Duty in force on a half (R277, R286). -/
def Power.halfDuty (p : Power) (h : Nat) : Nat := min 15 (p.duty + (if h = 0 then p.hWest else p.hEast))

/-- DUTY of a half's pages: what is in force, or what was when the half entered FENCED (R286, R418). -/
def Body.shownDuty (b : Body) (h : Nat) : Nat := if b.fenced h then b.power.fencedDuty.getD h 0 else b.power.halfDuty h

/-- DUTY of a half that enters FENCED holds from now on. -/
def Body.holdDuty (b : Body) (h : Nat) : Body :=
  { b with power := { b.power with fencedDuty := alter h (fun _ => b.power.halfDuty h) b.power.fencedDuty } }

/-- R63: cycles that duty `n` marks among the first `c` of a beat. -/
def dutyMarks (n c : Nat) : Nat := c / 16 * n + c % 16 * n / 16

/-- Cycles of the core clock before a moment of the beat. -/
def Body.cyclesAt (b : Body) (t : Nat) : Nat := (t - b.clock.beatStart) * b.opEntry.freqMhz / 1000

/-- A unit's clock passes: only while RUNNING do the marked cycles count, and freeze a pitch (R61, R64). -/
def Pitch.pass (x : Pitch) (cycles marks : Nat) : Pitch :=
  let x := { x with cycles := wrap 64 (x.cycles + cycles) }
  match x.state with
  | .running => { x with frozen := wrap 64 (x.frozen + marks), frzDuty := wrap 64 (x.frzDuty + marks), ran := x.ran + cycles }
  | _ => x

def Engine.pass (x : Engine) (cycles marks : Nat) : Engine :=
  { x with cycles := wrap 64 (x.cycles + cycles), duty := wrap 64 (x.duty + (match x.state with
    | .running => marks
    | _ => 0)) }

/-- The units of a half count: start-up is over (log 2), and the half is not FENCED. -/
def Body.counting (b : Body) (h : Nat) : Bool := decide (b.boot.start = .ready) && !b.fenced h

/-- Cycles of the core clock up to a moment, counted by every unit that counts. -/
def Body.passCycles (b : Body) (t : Nat) : Body :=
  let c0 := b.cyclesAt b.clock.now
  let c1 := b.cyclesAt t
  let marks := fun (i : Nat) => dutyMarks (b.power.halfDuty (i / 2)) c1 - dutyMarks (b.power.halfDuty (i / 2)) c0
  { b with
    pitches := b.pitches.zipIdx.map (fun (x, i) => if b.counting (i / 2) then x.pass (c1 - c0) (marks i) else x),
    engines := b.engines.zipIdx.map (fun (x, i) => if b.counting (i / 2) then x.pass (c1 - c0) (marks i) else x) }

/-- Time moves forward to a moment; it never moves back. -/
def Clock.advanceTo (c : Clock) (t : Nat) : Clock := { c with now := max c.now t }

/-- Time passes up to a moment. -/
def Body.until_ (b : Body) (t : Nat) : Body := { b.passCycles (max b.clock.now t) with clock := b.clock.advanceTo t }

/-- A MAINTENANCE window is open (R263). -/
def Body.windowOpen (b : Body) : Bool := b.sched.windowEnd.any (fun t => decide (b.clock.now < t))

end Sys2Proof.Machine
end

