-- ==== Sys2Proof/Machine/Time.lean ====
section
/-!
DEFINITION. The passage of time (log 2).
-/

namespace Sys2Proof.Machine

/-- One idle tick of 1 ns (R259). -/
def idleTick (s : State) : Host.Outcome State Fault Refusal := .next { s with body := s.body.until_ (s.body.clock.now + 1) }

end Sys2Proof.Machine
end

