-- ==== Sys2Proof/Machine/Barriers.lean ====
section
/-!
DEFINITION. Barriers (11, R267 to R271, R442): arrival, notices, decisions, and rally load's level.
-/

namespace Sys2Proof.Machine

/-! ## Entries and notices -/

/-- Ticks since beat 0 of a moment. -/
def Body.momentOf (b : Body) (beat tick : Nat) : Nat := beat * b.beatNs + tick

/-- The moment it is now, as beat and tick. -/
def Body.tickNow (b : Body) : Nat := b.clock.now - b.clock.beatStart

/-- A notice counts for the decision at beat `d` (R268). -/
def Body.counts (b : Body) (n : Notice) (d : Nat) : Bool :=
  decide (b.momentOf n.stampBeat n.stampTick + b.book.tables.beat.noticeDelayMax ≤ b.momentOf d 0)

/-- The entry of a barrier. -/
def Body.barrierEntry (b : Body) (k : BarrierInfo) : Option SchedEntry :=
  b.sched.entries.find? (fun e => decide (e.kind = 2) && decide (e.part = k.part) && decide (barrierId e = k.id))

def Body.alterBarrier (b : Body) (part id : Nat) (f : BarrierInfo → BarrierInfo) : Body :=
  { b with sched := { b.sched with barriers := b.sched.barriers.map (fun k => if k.part = part ∧ k.id = id then f k else k) } }

/-- NOTICE flits to the neighbours of a status tree but for the one it came from (R268). -/
def Body.sendNotice (b : Body) (own part : Nat) (t : Tree) (from_ : Option Nat) (n : Notice) : Body :=
  ((treeNeighbours t own).filter (fun m => decide (some m ≠ from_))).foldl (fun b d =>
    b.sendEdge own d ⟨ownHdr fNotice 0 (if part < 4 then part else 0) own d 0 0, .notice n⟩) b

/-! ## The end of a barrier -/

/-- The level that rally load fills to for barriers that have arrived. -/
def Body.rallyHeld (b : Body) : Option Nat := if b.sched.barriers.any (·.arrived) then b.power.rallyLevel else none

/-- Rally ends when no arrived barrier is left (R271). -/
def Body.endRally (b : Body) : Body :=
  if b.sched.barriers.any (·.arrived) then b else { b with power := { b.power with rallyLevel := none } }

/-- R269: a barrier that ended by a decision, the last of its identifier. -/
def Sched.remember (sc : Sched) (id part : Nat) (beat : Option Nat) : Sched :=
  match beat with
  | some d => { sc with closed := (id, part, d) :: sc.closed.filter (fun x => decide (x.1 ≠ id)) }
  | none => sc

/-- The barrier leaves the schedule after its decision at `beat`, and its token completes. -/
def Body.closeBarrier (b : Body) (e : SchedEntry) (beat : Option Nat) (failed : Option Nat) : Body :=
  ({ b with sched := (b.sched.remove e).remember (barrierId e) e.part beat }.completeBeat e.part e.token failed).endRally

/-- A contained message about a barrier: of its partition, or of the bandstand. -/
def Body.raiseBarrier (b : Body) (part kind detail : Nat) : Body :=
  if part < 4 then b.raise tPartition part .contained kind detail else b.raise tBand 0 .contained kind detail

/-- A failed barrier (R270): barrier-absent names the first absent member; the partition's streams stop. -/
def Body.failBarrier (b : Body) (e : SchedEntry) (absent : List Nat) : Body :=
  let b := (b.closeBarrier e (some b.clock.beat) (some kBarrierAbsent)).raiseBarrier e.part kBarrierAbsent (barrierId e + (absent.head?.getD 0xFFF) * 2 ^ 16)
  if e.part < 4 then b.faultStop e.part kBarrierAbsent else b

/-! ## Notices arriving (R269, R442) -/

/-- A notice enters a barrier; one that a decision already taken should have counted is overdue, and fails it. -/
def Body.noticeFor (b : Body) (k : BarrierInfo) (n : Notice) : Body :=
  match k.decided.any (b.counts n), b.barrierEntry k with
  | true, some e => (b.closeBarrier e k.decided (some kNoticeOverdue)).raiseBarrier e.part kNoticeOverdue k.id
  | _, _ => b.alterBarrier k.part k.id (fun k => { k with notices := k.notices ++ [n] })

/-- R442: a notice for a barrier not yet installed is held; a full store displaces its oldest. -/
def Sched.hold (sc : Sched) (n : Notice) : Sched :=
  { sc with held := (if sc.held.length < 1024 then sc.held else sc.held.drop 1) ++ [n] }

/-- A notice of no open barrier: one that the decision which ended its barrier should have counted is overdue, though the token has
completed already (log 107); any other is held. -/
def Body.strayNotice (b : Body) (n : Notice) : Body :=
  match b.sched.closed.find? (fun x => decide (x.1 = n.barrier)) with
  | some x => if b.counts n x.2.2 then b.raiseBarrier x.2.1 kNoticeOverdue n.barrier else { b with sched := b.sched.hold n }
  | none => { b with sched := b.sched.hold n }

/-- Status trees on which the sender is a neighbour. -/
def Body.treesWith (b : Body) (own from_ : Nat) : List Tree :=
  (b.book.tables.route.groups.map (·.status)).filter (fun t => (treeNeighbours t own).contains from_)

/-- A NOTICE flit arrives from a neighbour, and goes on over the tree. -/
def Body.noticeArrived (b : Body) (own : Option Nat) (from_ part : Nat) (n : Notice) : Body :=
  match own with
  | none => b
  | some m =>
    let ks := b.sched.barriers.filter (fun k => decide (k.id = n.barrier))
    match ks with
    | [] => (b.treesWith m from_).foldl (fun b t => b.sendNotice m part t (some from_) n) (b.strayNotice n)
    | k :: _ =>
      let t := (b.barrierEntry k).bind (fun e => b.group? (barrierGroup e))
      let b := match t with
        | some g => b.sendNotice m part g.status (some from_) n
        | none => b
      ks.foldl (fun b k => b.noticeFor k n) b

/-- Held notices 65 536 beats past their stamp are discarded, and with them what they could have come too late for. -/
def execHeldNoticeExpired (s : State) : Host.Outcome State Fault Refusal :=
  onBody true s (fun b => { b with sched := { b.sched with
    held := b.sched.held.filter (fun n => decide (b.clock.beat < n.stampBeat + 65536)),
    closed := b.sched.closed.filter (fun x => decide (b.clock.beat < x.2.2 + 65536)) } })

/-! ## Own notices (R267, R268, R271) -/

/-- Own notice of a barrier: counted here like any other, and sent. -/
def Body.ownNotice (b : Body) (v : Vault) (k : BarrierInfo) (kind : NoticeKind) : Body :=
  match b.ownMember v.serial, b.barrierEntry k with
  | some m, some e =>
    let n : Notice := ⟨k.id, m, kind, b.clock.beat, b.tickNow⟩
    let b := b.alterBarrier k.part k.id (fun k => { k with notices := k.notices ++ [n] })
    (match b.group? (barrierGroup e) with
    | some g => b.sendNotice m k.part g.status none n
    | none => b)
  | _, _ => b

/-- The next operation of a stream waits on the token. -/
def Partition.waitsOn (x : Partition) (s : Nat) (t : Token) : Bool :=
  match x.next? s with
  | some op => op.waits.contains t && !x.tokenDone t
  | none => false

/-- R267: all three streams wait on the barrier, and at least one by an operation. -/
def Partition.arrived (x : Partition) (t : Token) : Bool :=
  (List.range 3).all (fun s => (x.next? s).isNone || x.waitsOn s t) && (List.range 3).any (fun s => x.waitsOn s t)

/-- Mean input power of the last RALLY_WINDOW beats, W (R73). -/
def Body.rallyMean (b : Body) : Nat :=
  let ps := b.power.history.take b.book.tables.beat.rallyWindow
  if ps.isEmpty then 0 else roundDiv (ps.foldl (· + ·) 0) ps.length

/-- A member arrives (R267). DESIGN CHOICE (log 122): R267 defines arrival by a partition's three streams, so a barrier of the whole module
(PARTITION 0x0F) has arrived whenever the row comes; and a barrier that arrives while another is held keeps the level of the first
(R271). -/
def Body.barrierArrives (v : Vault) (part id : Nat) (b : Body) : Body :=
  match b.sched.barriers.find? (fun k => decide (k.part = part ∧ k.id = id)) with
  | none => b
  | some k =>
    match b.barrierEntry k with
    | none => b
    | some e =>
      if !k.arrived && (decide (4 ≤ part) || (b.part part).arrived e.token) then
        let level := b.rallyHeld.getD b.rallyMean
        let b := (b.alterBarrier part id (fun k => { k with arrived := true })).ownNotice v k .ready
        { b with power := { b.power with rallyLevel := some level } }
      else b

def execBarrierArrival (part barrier : Nat) (s : State) : Host.Outcome State Fault Refusal :=
  onBody (decide (part < 4) || decide (part = 15)) s (fun b => b.barrierArrives s.vault part barrier)

/-- LATE: a forecast later than the latest beat noticed, or later than B. -/
def Body.lateNotice (v : Vault) (part id x : Nat) (b : Body) : Body :=
  match b.sched.barriers.find? (fun k => decide (k.part = part ∧ k.id = id)) with
  | none => b
  | some k =>
    match b.barrierEntry k with
    | none => b
    | some e =>
      if !k.arrived && decide ((if k.noticed = 0 then e.beat else k.noticed) < x) then
        (b.ownNotice v k (.late x)).alterBarrier part id (fun k => { k with noticed := x })
      else b

def execLateNotice (part barrier x : Nat) (s : State) : Host.Outcome State Fault Refusal :=
  onBody (decide (part < 4) || decide (part = 15)) s (fun b => b.lateNotice s.vault part barrier x)

/-! ## Decisions (R270) -/

/-- What a decision ends in. -/
inductive Decision where
  | release
  | fail (absent : List Nat)
  | wait
  deriving DecidableEq, Repr

def lateBeat (n : Notice) : Nat :=
  match n.kind with
  | .late x => x
  | .ready => 0

def isReady (n : Notice) : Bool :=
  match n.kind with
  | .ready => true
  | .late _ => false

/-- The decision of one member at beat `d`. -/
def Body.decide_ (b : Body) (serial : Word64) (e : SchedEntry) (k : BarrierInfo) (d : Nat) : Decision :=
  let ns := k.notices.filter (fun n => b.counts n d)
  let limit := e.beat + barrierSlack e
  let eff := (ns.map lateBeat).foldl max e.beat
  let tooLate := (ns.filter (fun n => decide (limit < lateBeat n))).map (·.member)
  match b.groupOk serial (barrierGroup e), b.group? (barrierGroup e) with
  | true, some g =>
    let missing := g.members.filter (fun m => !ns.any (fun n => decide (n.member = m) && isReady n))
    if !tooLate.isEmpty then .fail (g.members.filter tooLate.contains)
    else if eff ≤ d ∧ missing.isEmpty then .release
    else if limit ≤ d then .fail missing
    else .wait
  | _, _ => .fail []

/-- One barrier's decision at the beat in progress. A release waits for its tick. -/
def Body.decideOne (v : Vault) (b : Body) (k : BarrierInfo) : Body :=
  match b.barrierEntry k with
  | none => b
  | some e =>
    if b.clock.beat < e.beat || decide (k.decided = some b.clock.beat) || k.releasing.isSome then b
    else match b.decide_ v.serial e k b.clock.beat with
      | .release => b.alterBarrier k.part k.id (fun k => { k with decided := some b.clock.beat, releasing := some b.clock.beat })
      | .fail absent => b.failBarrier e absent
      | .wait => b.alterBarrier k.part k.id (fun k => { k with decided := some b.clock.beat })

/-- No entry fires, and no barrier is decided, without a beat. -/
def Body.hasBeat (b : Body) : Bool :=
  match b.clock.band with
  | .locked | .holdover | .unlocked => true
  | _ => false

/-! ## Firing order (R264) -/

/-- Place of a kind in Table 11.5. -/
def firingOrder (kind : Nat) : Nat :=
  match kind with
  | 4 => 0
  | 7 => 1
  | 3 => 2
  | 2 => 3
  | 1 => 4
  | 6 => 5
  | _ => 6

/-- The moment an entry is due at, if it is due in the beat in progress: a barrier at its release tick once a decision releases it,
before that at the boundary of each beat that the bandstand makes (R270); any other entry at its own moment. -/
def Body.dueAt (b : Body) (e : SchedEntry) : Option (Nat × Nat × Nat) :=
  if b.clock.beat < e.beat then none
  else if e.kind = 2 then
    (match b.sched.barriers.find? (fun k => decide (k.part = e.part ∧ k.id = barrierId e)) with
    | some k => match k.releasing with
      | some d => some (d, e.tick, 3)
      | none => if !b.clock.made || decide (k.decided = some b.clock.beat) then none else some (b.clock.beat, 0, 3)
    | none => none)
  else some (e.beat, e.tick, firingOrder e.kind)

def earlier (x y : Nat × Nat × Nat) : Bool :=
  decide (x.1 < y.1) || (decide (x.1 = y.1) && (decide (x.2.1 < y.2.1) || (decide (x.2.1 = y.2.1) && decide (x.2.2 < y.2.2))))

/-- The entry that fires next: the first in (beat, tick), kind and installation. -/
def Body.nextEntry (b : Body) : Option SchedEntry :=
  if !b.hasBeat then none
  else
    let due := b.sched.entries.filterMap (fun e => (b.dueAt e).map (fun m => (e, m)))
    (due.foldl (fun (best : Option (SchedEntry × Nat × Nat × Nat)) x =>
      match best with
      | some y => if earlier x.2 y.2 then some x else some y
      | none => some x) none).map (·.1)

/-- The release tick of a decided barrier, if it is what comes next: its token completes there. -/
def Body.releaseNext (b : Body) : Option Body :=
  match b.nextEntry with
  | some e =>
    match b.sched.barriers.find? (fun k => decide (k.part = e.part ∧ k.id = barrierId e)) with
    | some k => if e.kind = 2 ∧ k.releasing.isSome then
        some ((b.until_ (b.clock.beatStart + e.tick)).closeBarrier e k.decided none)
      else none
    | none => none
  | none => none

/-- At most `n` releases, up to the first entry of another kind that is due before them. -/
def Body.releases : Nat → Body → Body
  | 0, b => b
  | n + 1, b => match b.releaseNext with
    | some c => Body.releases n c
    | none => b

/-- Every barrier whose release beat has come decides, in the order of installation, after the tables and operating points of the
same moment (R264), at a boundary that the bandstand makes (R270); then the releases that nothing precedes take place at their ticks. -/
def Body.barrierDecision (v : Vault) (b : Body) : Body :=
  if !b.hasBeat || b.nextEntry.any (fun e => decide (firingOrder e.kind < 3)) then b
  else
    let b := if b.clock.made then b.sched.barriers.foldl (Body.decideOne v) b else b
    b.releases b.sched.barriers.length

def execBarrierDecision (s : State) : Host.Outcome State Fault Refusal := onBody true s (fun b => b.barrierDecision s.vault)

end Sys2Proof.Machine
end

