-- ==== Sys2Proof/Machine/Registers.lean ====
section
/-!
DEFINITION. What a read of a register page returns (18, R6, R410 to R419, and the register tables of 03 to 18).
-/

namespace Sys2Proof.Machine

/-! ## Fields -/

/-- Two-bit fields of a list of units, unit i at bits [2i+1:2i]. -/
def pack2 (xs : List Nat) : Nat := (xs.zipIdx.map (fun (x, i) => field (2 * i) 2 x)).foldl (· + ·) 0

/-- COL_c of PITCH_COL_STATE: 1 spared, 2 retired, 3 intact with a failed spare (R69, R70, R72). -/
def Pitch.colState (x : Pitch) (c : Nat) : Nat :=
  if x.pairRetired (c / 2) then 2
  else if x.failed.any (fun t => decide (t.2 = c ∧ t.1 = 32)) then 3
  else if decide (0 < x.failedIn c) then 1
  else 0

/-- SPARES_USED: spares of the columns that COL_c reads as spared. DESIGN CHOICE (log 93): the spare of a column that has been retired is
not in use. -/
def Pitch.sparesUsed (x : Pitch) : Nat := ((List.range 32).filter (fun c => x.colState c = 1)).length

def Body.regPitch (b : Body) (i off : Nat) : Nat :=
  let x := b.pitch i
  let tested := b.boot.tested
  match off with
  | 0x40 => if tested then field 0 6 x.activeCols + field 8 6 32 + field 16 6 x.sparesUsed + field 24 5 x.pairs else field 8 6 32
  | 0x48 => if tested then pack2 ((List.range 32).map x.colState) else 0
  | 0x50 => field 0 3 (if b.fenced (i / 2) then 4 else x.state.code) + field 4 4 (b.shownDuty (i / 2)) + field 8 4 x.stages
  | 0x58 => x.cycles
  | 0x60 => x.frozen
  | 0x68 => x.frzFeed
  | 0x70 => x.frzBank
  | 0x78 => x.frzDrain
  | 0x80 => x.frzDuty
  | 0x88 => field 0 32 x.stops + field 32 32 x.maxNs
  | _ => 0

def Body.regEngine (b : Body) (i off : Nat) : Nat :=
  let x := b.engine i
  match off with
  | 0x40 => field 0 3 (if b.fenced (i / 2) then 4 else x.state.code) + field 4 4 (b.shownDuty (i / 2))
      + field 16 13 (min 4096 x.accs.length)
  | 0x48 => x.cycles
  | 0x50 => x.issue
  | 0x58 => x.borrow
  | 0x60 => x.duty
  | 0x68 => x.terms
  | 0x70 => field 0 32 x.parks + field 32 32 x.range
  | _ => 0

def Body.bankCodes (b : Body) (lo : Nat) : Nat :=
  if b.boot.tested then pack2 ((List.range 32).map (fun i => (b.store.banks.getD (lo + i) ⟨.off, none⟩).state.code)) else 0

def Body.regScratch (b : Body) (h off : Nat) : Nat :=
  let x := b.store.spad.getD h ⟨0, 0, 0, 0, 0⟩
  match off with
  | 0x40 => b.bankCodes (96 * h)
  | 0x48 => b.bankCodes (96 * h + 32)
  | 0x50 => b.bankCodes (96 * h + 64)
  | 0x58 => x.corrected
  | 0x60 => x.uncorrected
  | 0x68 => field 0 32 x.collide + field 32 32 x.accessBad
  | 0x70 => x.wakes
  | _ => 0

/-- CH_c: 0 LIVE, 1 RETRAINING, 2 RETIRED, 3 FENCED (Table 9.17). -/
def Body.chanState (b : Body) (c : Nat) : Nat :=
  let x := if c < 384 then b.store.channels.getD c Channel.reset else b.store.outChannels.getD (c - 384) Channel.reset
  if b.chanRetired c then 2 else if b.fenced (chanHalf c) then 3 else if x.retraining then 1 else 0

def regMemCtl (x : MemCtl) (off : Nat) : Nat :=
  match off with
  | 0x48 => field 0 8 (signedBits 8 x.temp) + field 8 2 x.level.code
  | 0x50 => x.corrected
  | 0x58 => x.uncorrected
  | 0x60 => field 0 32 x.retrains + field 32 32 x.maxNs
  | 0x68 => field 0 32 x.ordered + field 32 32 x.timeouts
  | 0x70 => field 0 16 x.ballErrors + field 16 5 x.ballChannel + field 24 1 (bit x.ballDone) + field 28 36 x.ballFirst
  | _ => 0

def Body.regStack (b : Body) (k off : Nat) : Nat :=
  if off = 0x40 then (if b.boot.tested then pack2 ((List.range 32).map (fun c => b.chanState (32 * k + c))) else 0)
  else regMemCtl (b.store.stackCtl.getD k MemCtl.reset) off

/-- The outfield page has the first six rows of Table 9.17: of its thermal row LEVEL alone, of its retrains COUNT alone. -/
def Body.regOutfield (b : Body) (h off : Nat) : Nat :=
  if off = 0x40 then (if b.boot.tested then pack2 ((List.range 4).map (fun c => b.chanState (384 + 4 * h + c))) else 0)
  else if off = 0x48 then field 8 2 (b.store.outCtl.getD h MemCtl.reset).level.code
  else if off = 0x60 then field 0 32 (b.store.outCtl.getD h MemCtl.reset).retrains
  else if off < 0x60 then regMemCtl (b.store.outCtl.getD h MemCtl.reset) off
  else 0

def Body.regLink (b : Body) (l off : Nat) : Nat :=
  let x := b.link l
  match off with
  | 0x40 => field 0 3 x.state.code + field 4 3 x.lanes.length
      + field 8 4 ((x.lanes.map (fun n => 2 ^ n)).foldl (· + ·) 0) + field 16 12 x.partner + field 32 8 x.reason
  | 0x48 => x.serial.toNat
  | 0x50 => x.tx
  | 0x58 => x.rx
  | 0x60 => field 0 32 x.naks + field 32 32 x.resizes
  | 0x68 => field 0 32 x.fecCorrected + field 32 32 x.fecUncorrected
  | 0x70 => field 0 16 x.malformed + field 16 16 x.denied + field 32 16 x.starved + field 48 16 x.authFail
  | 0x78 => field 0 32 x.rtt
  | 0x80 => x.fwd
  | _ => 0

/-- Granules of a bench tier in use. -/
def Pass.tier (x : Pass) (t : Nat) : Nat := ((x.bench.filter (fun e => e.tier = t)).map (·.granules.length)).foldl (· + ·) 0

def Body.regPass (b : Body) (p off : Nat) : Nat :=
  let x := (b.part p).pass
  match off with
  | 0x40 => field 0 8 (signedBits 8 x.scaleExp) + field 8 32 x.clean
  | 0x48 => field 0 32 x.history
  | 0x50 => field 0 48 x.step
  | 0x58 => field 0 32 x.verdict
  | 0x60 => field 0 32 (x.tier 0)
  | 0x68 => field 0 32 (x.tier 1)
  | 0x70 => field 0 32 (x.tier 2)
  | 0x78 => field 0 32 x.skippedCount + field 32 32 x.splitCount
  | _ => 0

def Body.regUpdate (b : Body) (p off : Nat) : Nat :=
  let x := (b.part p).upd
  match off with
  | 0x40 => field 0 32 x.layers + field 32 32 x.frozen
  | 0x48 => field 0 32 x.precond + field 32 32 x.clamped
  | 0x50 => field 0 32 x.rolledBack + field 32 32 x.failed
  | 0x58 => field 0 12 x.lastGroup + field 16 32 x.lastLayer
  | _ => 0

def Body.regAttn (b : Body) (p off : Nat) : Nat :=
  let x := (b.part p).attn
  match off with
  | 0x40 => field 0 32 x.walks + field 32 32 x.invalid
  | 0x48 => field 0 32 x.edited + field 32 32 x.badList
  | 0x50 => field 0 32 x.skipped + field 32 32 x.partial_
  | 0x58 => field 0 48 x.reads
  | 0x60 => field 0 32 x.empty + field 32 32 x.nan
  | _ => 0

/-- QUOTA_STATE. -/
def Body.quotaState (b : Body) : Nat :=
  ((List.range 4).map (fun p => ((List.range 7).map (fun r => field (8 * p + r) 1 (bit ((b.part p).overBit r)))).foldl
    (· + ·) 0)).foldl (· + ·) 0

def Body.regBand (b : Body) (off : Nat) : Nat :=
  let c := b.clock
  let p := b.power
  match off with
  | 0x40 => field 0 3 c.band.code + field 16 10 (c.beatNs / 1000)
  | 0x48 => field 0 48 c.beat
  | 0x50 => field 0 32 c.edgesRejected + field 32 32 c.holdoverTotal
  | 0x58 => field 0 11 b.sched.entries.length + field 32 32 b.sched.stale
  | 0x60 => field 0 12 p.grant + field 16 12 ((p.pendingRaise.map (·.1)).getD 0) + field 32 32 p.seq
  | 0x68 => field 0 12 p.lastPavg + field 16 12 (min 0xFFF p.lastPeak) + field 32 12 p.lastRally
  | 0x70 => field 0 4 p.op + field 4 4 p.opFloor + field 8 4 p.opCeiling + field 12 1 (bit p.fixed) + field 16 4 p.duty
      + field 20 4 p.hWest + field 24 4 p.hEast
  | 0x78 => field 0 6 p.lastFlags + field 8 4 (min 15 p.deferred)
  | 0x80 => field 0 32 p.capUnmetBeats + field 32 32 p.deferrals
  | 0x88 => p.stretched
  | 0x90 => b.quotaState
  | _ => 0

/-- Keeper `i`'s field. No table gives the code of one that failed at self-test (log 18). -/
def Keeper.code (i : Nat) (k : Keeper) : Nat := if k.failed then Config.failedKeeperCode i % 4 else k.mode.code

def Doves.fullBits (d : Doves) : Nat :=
  ((List.range' 16 48).map (fun s => field s 1 (bit (d.slots.getD s ⟨0, false, false⟩).full))).foldl (· + ·) 0

def Doves.overrunBits (d : Doves) : Nat :=
  ((List.range' 16 5).map (fun s => field s 1 (bit (d.slots.getD s ⟨0, false, false⟩).overrun))).foldl (· + ·) 0

def regControl (v : Vault) (b : Body) (off : Nat) : Nat :=
  match off with
  | 0x40 => pack2 (b.keepers.cores.zipIdx.map (fun (x, i) => x.code i)) + field 16 1 b.keepers.lead
  | 0x48 => b.doves.fullBits
  | 0x50 => b.doves.overrunBits
  | 0x58 => field 0 32 b.doves.foreign
  | 0x60 => field 0 32 b.keepers.restarts + field 32 32 b.keepers.slips
  | 0x68 => field 0 32 b.book.version + field 32 4 b.book.lastResult
  | 0x70 => ((b.book.staging.zipIdx.map (fun (x, i) => field (8 * i) 2 x.code)).foldl (· + ·) 0)
  | 0x78 => field 0 2 (bit v.debug) + field 16 8 (b.doves.asks.length + b.doves.mail.length)
  | 0x80 => v.serial.toNat
  | _ =>
    if 0x140 ≤ off ∧ off ≤ 0x160 then
      let s := b.doves.slots.getD (24 + (off - 0x140) / 8) ⟨0, false, false⟩
      if s.full then s.word.toNat else 0
    else 0

def Body.regSnap (b : Body) (p off : Nat) : Nat :=
  let x := (b.part p).snap
  let st := if x.verify.isSome then 3 else if x.run.isSome then 1 else 0
  match off with
  | 0x40 => field 0 3 st + field 8 1 (bit x.incomplete) + field 9 1 (bit x.guard)
  | 0x48 =>
    match (b.images p).head? with
    | some i => field 0 48 i.step + field 48 4 i.slot + field 56 2 i.sealed.code
    | none => 0
  | 0x50 => b.snapSize p
  | 0x58 => field 0 32 x.costC + field 32 32 x.tS
  | 0x60 => field 0 32 x.score
  | 0x68 => field 0 32 x.snapshots + field 32 32 x.restores
  | 0x70 => field 0 2 x.result + field 32 32 x.mismatches
  | 0x78 => field 0 48 x.rollback
  | _ => 0

def Body.regRing (b : Body) (i off : Nat) : Nat :=
  let r := b.ring i
  match off with
  | 0x40 => bit r.enable
  | 0x48 => r.cmdBase
  | 0x50 => r.cmdSize
  | 0x58 => field 0 32 r.cmdHead
  | 0x60 => r.cplBase
  | 0x68 => r.cplSize
  | 0x70 => field 0 32 r.cplHead
  | 0x78 => field 0 32 r.cplTail
  | 0x80 => field 0 32 r.errors
  | 0x88 => field 0 7 (min 64 r.heldCount)
  | _ => 0

/-- Contained timers running on the pages of a Whistle page. -/
def Body.timersOn (b : Body) (k : Nat) : Nat :=
  ((b.whistle.pages.zip allSources).filter (fun (p, s) => p.timing && decide (b.whistlePage s.1 s.2 = k))).length

def Body.fatalActive (b : Body) (h : Nat) : Bool := (b.half h).fatal.isSome && !b.fenced h

def Body.regWhistle (b : Body) (k off : Nat) : Nat :=
  let w := b.whistle.wh.getD k ⟨0, 0, 0, 0, 0, 0⟩
  match off with
  | 0x40 => w.first.toNat
  | 0x48 => if k = 2 then b.whistle.moduleFirst.toNat else 0
  | 0x50 => field 0 32 w.promotions + field 32 32 w.contained
  | 0x58 => field 0 9 (b.timersOn k) + field 32 32 b.book.tables.faults.timerNs
  | 0x60 => field 0 32 w.expiries + field 32 32 w.lateAcks
  | 0x68 => field 0 1 (bit (if k < 2 then b.fatalActive k else b.fatalActive 0 || b.fatalActive 1))
      + field 1 1 (bit b.faultN) + field 16 16 w.reportUs
  | _ => 0

def Body.regScore (b : Body) (off : Nat) : Nat :=
  let k := b.score
  match off with
  | 0x40 => (if k.counterRead then field 0 22 k.flash.length + field 24 1 (bit k.full) else 0)
      + field 26 2 k.phase + field 32 7 k.queue.length
  | 0x48 => if k.counterRead then field 0 32 (k.nextSeq - 1) else 0
  | 0x50 => field 0 32 k.dropped + field 32 32 k.corrupt
  | 0x58 => if k.counterRead then b.opMs else 0
  | 0x60 => if k.counterRead then field 0 32 k.cycles + field 32 32 k.clears else 0
  | _ => 0

def bitSet (xs : List Nat) : Nat := (xs.eraseDups.map (fun n => 2 ^ n)).foldl (· + ·) 0

def regSelfTest (v : Vault) (b : Body) (off : Nat) : Nat :=
  let t := b.boot
  match off with
  | 0x40 => field 0 3 t.start.code + field 8 4 t.step
  | 0x48 => field 0 32 t.readyMs
  | 0x50 => field 0 13 t.tilesFailed + field 16 8 t.banksUnusable + field 32 9 t.channelsOut.length + field 48 8 t.lanesFailed
  | 0x58 => field 0 4 (bitSet t.veUnusable) + field 4 8 (bitSet t.keeperFailed) + field 12 2 (bitSet t.halfFenced)
      + field 14 2 (bitSet t.outFailed) + field 16 16 t.sensorsOut.length
  | 0x60 => field 0 2 v.level + field 2 2 v.scanHalves
  | 0x68 => ((t.touch.zipIdx.map (fun (x, i) => field (8 * i) 8 x)).foldl (· + ·) 0)
  | _ => 0

def Body.regHost (b : Body) (off : Nat) : Nat :=
  let h := b.host
  match off with
  | 0x40 => field 36 12 h.bar2Base
  | 0x48 => bit h.bar2Enable + field 1 1 (bit h.stagingOnly)
  | 0x50 => field 0 32 h.unmapped + field 32 32 h.poisoned
  | 0x58 => field 0 32 h.denied
  | 0x60 => h.readBytes
  | 0x68 => h.writtenBytes
  | _ => 0

/-! ## The common header (R413, Table 18.4) -/

/-- Half a block lies in, for the blocks that have one. -/
def blockHalf (type inst : Nat) : Option Nat :=
  if type = tPitch ∨ type = tEngine ∨ type = tDie then some (inst / 2)
  else if type = tScratch ∨ type = tOutfield ∨ type = tDma ∨ type = tHalf then some inst
  else if type = tStack then some (inst / 6)
  else if type = tLink then some (inst / 24)
  else if type = tKeeper then some (inst / 4)
  else none

def Body.blockFenced (b : Body) (type inst : Nat) : Bool := (blockHalf type inst).any b.fenced

/-- The block is marked unusable (Table 17.4). -/
def Body.blockUnusable (b : Body) (type inst : Nat) : Bool :=
  if type = tPitch then decide ((b.pitch inst).activeCols = 0)
  else if type = tEngine then (b.engine inst).unusable
  else if type = tKeeper then (b.keeper inst).failed
  else if type = tLink then b.linkDead inst
  else if type = tDie then b.boot.diesFailed.contains inst
  else false

/-- BLK_OWNER. -/
def Body.blockOwner (b : Body) (type inst : Nat) : Nat :=
  if type = tPitch ∨ type = tEngine then
    (if (b.pitch inst).activeCols = 0 then 0xE else (b.ownerOf inst).getD 0xE)
  else if type = tPartition ∨ type = 0x10 ∨ type = 0x11 ∨ type = 0x12 ∨ (type = 0x13 ∧ inst < 4) then
    (if (b.part inst).pitches.isEmpty then 0xE else inst)
  else 0xF

def Body.faultBits (b : Body) (type inst : Nat) : Nat :=
  if 0x10 ≤ type then 0
  else
    let p := b.page type inst
    field 60 1 (bit p.timing) + field 61 1 (bit p.quarantined) + field 62 1 (bit p.clearRefused) + field 63 1 (bit (b.cause type inst))

def Body.regHeader (b : Body) (type inst off : Nat) : Nat :=
  match off with
  | 0x00 => field 0 6 type + field 8 6 inst + field 16 8 0x01 + field 24 8 0x0B
  | 0x08 => bit (b.host.views.any (fun w => decide (w.page = type * 256 + inst)))
  | 0x10 =>
    let un := b.boot.tested && b.blockUnusable type inst
    let fe := b.blockFenced type inst
    field 0 1 (bit (b.boot.tested && !un && !fe)) + field 1 1 (bit un) + field 2 1 (bit fe)
      + field 3 1 (bit (decide (type = tPartition) && (b.part inst).overQuota)) + b.faultBits type inst
  | 0x18 => if 0x10 ≤ type then 0 else (b.page type inst).message.toNat
  | 0x20 =>
    if 0x10 ≤ type then 0
    else
      let p := b.page type inst
      field 0 1 (bit p.overflow) + field 16 16 p.corrected + field 32 16 p.contained + field 48 16 p.fatal
  | 0x30 => b.blockOwner type inst
  | 0x38 => ((b.host.scratch.find? (fun x => decide (x.1 = type * 256 + inst))).map (·.2.toNat)).getD 0
  | _ => 0

/-! ## Reads -/

/-- Registers at 0x040 and above of a page, as they stand (R418: those of an unusable block read 0, but for the columns of a pitch). -/
def regLive (v : Vault) (b : Body) (type inst off : Nat) : Nat :=
  if type = tPitch then (if b.boot.tested && decide ((b.pitch inst).activeCols = 0) && !(off = 0x40 || off = 0x48) then 0 else b.regPitch inst off)
  else if type = tEngine then (if (b.engine inst).unusable then 0 else b.regEngine inst off)
  else if type = tScratch then b.regScratch inst off
  else if type = tStack then b.regStack inst off
  else if type = tOutfield then b.regOutfield inst off
  else if type = tLink then (if b.blockUnusable tLink inst then 0 else b.regLink inst off)
  else if type = tPartition then b.regPass inst off
  else if type = tBand then b.regBand off
  else if type = 0x0D then regControl v b off
  else if type = 0x10 then b.regUpdate inst off
  else if type = 0x11 then b.regAttn inst off
  else if type = 0x12 then b.regSnap inst off
  else if type = 0x13 then b.regRing inst off
  else if type = 0x14 then b.regWhistle inst off
  else if type = 0x15 then b.regScore off
  else if type = 0x16 then regSelfTest v b off
  else if type = 0x17 then b.regHost off
  else 0

/-- Registers that stay live while a view is held: those whose read has an effect and those of type RW, W1C, WO or LK (R415). -/
def staysLive (type off : Nat) : Bool :=
  (decide (type = 0x0D) && (decide (off = 0x50) || decide (0x100 ≤ off)))
    || (decide (type = 0x13) && [0x40, 0x48, 0x50, 0x60, 0x68, 0x70].contains off)
    || (decide (type = 0x14) && decide (off = 0x70)) || (decide (type = 0x16) && decide (off = 0x68))
    || (decide (type = 0x17) && [0x40, 0x48].contains off)

/-- Offsets of the registers of a page after the header. -/
def pageOffsets : List Nat := (List.range 64).map (fun i => 0x40 + 8 * i)

/-- R7, R410, R411, R415: an aligned 64-bit read of page `page` at `off`. -/
def readReg (s : State) (page off : Nat) : Word64 :=
  if !assignedPage page then 0
  else
    let type := page / 256
    let inst := page % 256
    if off < 0x40 then BitVec.ofNat 64 (s.body.regHeader type inst off)
    else
      match s.body.host.views.find? (fun w => decide (w.page = page) && !staysLive type off) with
      | some w => ((w.regs.find? (fun r => decide (r.1 = off))).map (·.2)).getD 0
      | none => BitVec.ofNat 64 (regLive s.vault s.body type inst off)

end Sys2Proof.Machine
end

