-- ==== Sys2Proof/Machine/HostRows.lean ====
section
/-!
DEFINITION. Host accesses: doorbells and attention words (12), register writes by access type (R5, R7, R411, R414 to R416), clears
(R343, R345), rings (13), the BAR2 window (R406 to R409), PERST and the PCIe link (R328, R425), reply slots (Table 12.2).
-/

namespace Sys2Proof.Machine

/-! ## Dovecotes (R301, R303, R305, R306, R313) -/

def Body.answer (b : Body) (o : Output) : Body := { b with host := { b.host with last := o } }

/-- The host writes a slot: a doorbell of 16 to 20, or a foreign write. -/
def Body.hostSlotWrite (b : Body) (s : Nat) (w : Word64) : Body :=
  if 16 ≤ s ∧ s ≤ 20 then b.writeSlot s w b.leadKeeper else b.foreign

def execDoorbellWrite (slot : Nat) (word : Word64) (s : State) : Host.Outcome State Fault Refusal :=
  onBody (decide (slot < 64)) s (fun b => b.hostSlotWrite slot word)

def execAttentionWordRead (slot : Nat) (s : State) : Host.Outcome State Fault Refusal :=
  onBody (decide (24 ≤ slot) && decide (slot ≤ 28)) s (fun b => (b.readSlot slot).2.answer (.word (b.readSlot slot).1))

def execReplySlotRead (slot : Nat) (s : State) : Host.Outcome State Fault Refusal :=
  onBody (decide (8 ≤ slot) && decide (slot < 16)) s (fun b => (b.readSlot slot).2.answer (.word (b.readSlot slot).1))

/-- DOVE_OVERRUN is W1C over bits [20:16]. -/
def Body.clearOverruns (b : Body) (value : Word64) : Body :=
  { b with doves := { b.doves with slots := b.doves.slots.zipIdx.map (fun (x, i) =>
      if 16 ≤ i ∧ i ≤ 20 ∧ value.getLsbD i then { x with overrun := false } else x) } }

def execDoveOverrunClear (value : Word64) (s : State) : Host.Outcome State Fault Refusal :=
  onBody true s (fun b => b.clearOverruns value)

/-! ## Clearing (R343, R345, R412) -/

/-- R343: why a clear of a page is refused. -/
def Body.clearRefused (b : Body) (type inst : Nat) : Bool :=
  let p := b.page type inst
  b.cause type inst || p.timing
    || (decide (p.latchedClass = some .fatal) && !((b.fatalHalves type inst).all b.fenced))

/-- What an accepted clear leaves of a page. -/
def FaultPage.cleared (p : FaultPage) : FaultPage :=
  { p with message := 0, overflow := false, quarantined := false, clearRefused := false, sent := [] }

/-- The half's fatal page was cleared while the half stands FENCED by it: the half may return (R369). -/
def HalfState.clearedBy (x : HalfState) (type inst : Nat) : HalfState :=
  match x.fenced, x.fatal with
  | some .fatal, some f => if msgType f.message = type ∧ msgInst f.message = inst then { x with cleared := true } else x
  | _, _ => x

/-- A clear attempt of page (type, inst). -/
def Body.clearPage (b : Body) (type inst : Nat) : Body :=
  if 0x10 ≤ type then b
  else if b.clearRefused type inst then
    { b with whistle := b.whistle.alterPage type inst (fun p => { p with clearRefused := true }) }
  else
    let w := b.whistle.alterPage type inst FaultPage.cleared
    { b with whistle := { w with halves := w.halves.map (fun x => x.clearedBy type inst) } }

def Body.blkClear (b : Body) (page : Nat) (value : Word64) : Body :=
  if assignedPage page && value.getLsbD 0 then b.clearPage (page / 256) (page % 256) else b

def execBlkClear (page : Nat) (value : Word64) (s : State) : Host.Outcome State Fault Refusal :=
  onBody (decide (page < 16384)) s (fun b => b.blkClear page value)

/-- Some page of a Whistle page's blocks latches a contained or fatal message. -/
def Body.whHolds (b : Body) (k : Nat) : Bool :=
  (b.whistle.pages.zip allSources).any (fun (p, s) => decide (b.whistlePage s.1 s.2 = k)
    && (decide (p.latchedClass = some .contained) || decide (p.latchedClass = some .fatal)))

def Body.whClear (b : Body) (k : Nat) (value : Word64) : Body :=
  if value.getLsbD 0 && !b.whHolds k then
    let w := b.whistle.alterWh k (fun g => { g with first := 0 })
    { b with whistle := if k = 2 then { w with moduleFirst := 0 } else w }
  else b

def execWhClearFirst (inst : Nat) (value : Word64) (s : State) : Host.Outcome State Fault Refusal :=
  onBody (decide (inst < 3)) s (fun b => b.whClear inst value)

/-! ## Views (R415) -/

/-- Every register of a page at 0x040 and above, as it stands. -/
def captureView (v : Vault) (b : Body) (page : Nat) : View :=
  ⟨page, pageOffsets.map (fun off => (off, BitVec.ofNat 64 (regLive v b (page / 256) (page % 256) off)))⟩

def Body.freezeView (v : Vault) (b : Body) (page : Nat) (value : Word64) : Body :=
  if !assignedPage page then b
  else
    let rest := b.host.views.filter (fun w => decide (w.page ≠ page))
    { b with host := { b.host with views := if value.getLsbD 0 then captureView v b page :: rest else rest } }

def execFreezeViewWrite (page : Nat) (value : Word64) (s : State) : Host.Outcome State Fault Refusal :=
  onBody (decide (page < 16384)) s (fun b => b.freezeView s.vault page value)

/-! ## Rings (R314, R318, R320, R329) -/

/-- R329: reset values hold after ENABLE changes from 0 to 1, apart from the bases and sizes. -/
def Ring.enabled (r : Ring) : Ring :=
  { r with enable := true, cmdHead := 0, cplHead := 0, cplTail := 0, errors := 0, tail := 0, entries := [], held := [],
           written := [], phase := true }

def Ring.setEnable (r : Ring) (on : Bool) : Ring :=
  if on then (if r.enable then r else r.enabled) else { r with enable := false }

def execRingEnableWrite (ring : Nat) (value : Word64) (s : State) : Host.Outcome State Fault Refusal :=
  onBody (decide (ring < 5)) s (fun b => b.alterRing ring (fun r => r.setEnable (value.getLsbD 0)))

/-- R329: the largest power of two at or below `x` within the range, the smallest allowed below it. -/
def ringSize (lo hi x : Nat) : Nat := if x < lo then lo else min hi (2 ^ Nat.log2 x)

def Ring.setSize (r : Ring) (completion : Bool) (value : Word64) : Ring :=
  if r.enable then r
  else if completion then { r with cplSize := ringSize 64 65536 (value.extractLsb' 0 17).toNat }
  else { r with cmdSize := ringSize 16 4096 (value.extractLsb' 0 13).toNat }

def execRingSizeWrite (ring : Nat) (completion : Bool) (value : Word64) (s : State) : Host.Outcome State Fault Refusal :=
  onBody (decide (ring < 5)) s (fun b => b.alterRing ring (fun r => r.setSize completion value))

/-- Bases lie in bits [63:12] (Table 13.7). -/
def Ring.setBase (r : Ring) (completion : Bool) (value : Word64) : Ring :=
  if r.enable then r
  else if completion then { r with cplBase := value.toNat / 4096 * 4096 }
  else { r with cmdBase := value.toNat / 4096 * 4096 }

/-- Held records leave while there is room. -/
def Body.flushRing (b : Body) (i : Nat) : Body :=
  (b.alterRing i (fun r => Ring.flushHeld b.host.pcieUp r.held.length r)).ringAttention i

def Body.setCplHead (b : Body) (i : Nat) (value : Word64) : Body :=
  (b.alterRing i (fun r => { r with cplHead := (value.extractLsb' 0 32).toNat })).flushRing i

def execCplHeadWrite (ring : Nat) (value : Word64) (s : State) : Host.Outcome State Fault Refusal :=
  onBody (decide (ring < 5)) s (fun b => b.setCplHead ring value)

/-! ## BAR2 registers, touchline pins (R403, R408, R428) -/

def Body.setBar2Base (b : Body) (value : Word64) : Body :=
  { b with host := { b.host with bar2Base := (value.extractLsb' 36 12).toNat } }

def execBar2BaseWrite (value : Word64) (s : State) : Host.Outcome State Fault Refusal :=
  onBody true s (fun b => b.setBar2Base value)

def Body.setBar2Ctrl (b : Body) (value : Word64) : Body :=
  { b with host := { b.host with bar2Enable := value.getLsbD 0, stagingOnly := value.getLsbD 1 } }

def execBar2CtrlWrite (value : Word64) (s : State) : Host.Outcome State Fault Refusal :=
  onBody true s (fun b => b.setBar2Ctrl value)

/-- ST_TOUCH takes writes only while ST_DEBUG.LEVEL is TOUCHLINE or SCAN. -/
def Body.setTouch (b : Body) (v : Vault) (value : Word64) : Body :=
  if v.level = 1 ∨ v.level = 2 then
    { b with boot := { b.boot with touch := (List.range 8).map (fun p => (value.extractLsb' (8 * p) 8).toNat) } }
  else b

def execStTouchWrite (value : Word64) (s : State) : Host.Outcome State Fault Refusal :=
  onBody true s (fun b => b.setTouch s.vault value)

/-! ## Any register (R5, R7, R313, R411) -/

/-- BLK_SCRATCH of a page. -/
def Body.setScratch (b : Body) (page : Nat) (value : Word64) : Body :=
  let rest := b.host.scratch.filter (fun x => decide (x.1 ≠ page))
  { b with host := { b.host with scratch := if value = 0 then rest else (page, value) :: rest } }

/-- Registers of the control page that take writes (Table 12.12). -/
def Body.controlWrite (b : Body) (off : Nat) (value : Word64) : Body :=
  if off = 0x50 then b.clearOverruns value
  else if 0x100 ≤ off ∧ off ≤ 0x178 then b.hostSlotWrite (16 + (off - 0x100) / 8) value
  else b

/-- Registers of a ring page that take writes (Table 13.7). -/
def Body.ringWrite (b : Body) (i off : Nat) (value : Word64) : Body :=
  if off = 0x40 then b.alterRing i (fun r => r.setEnable (value.getLsbD 0))
  else if off = 0x48 then b.alterRing i (fun r => r.setBase false value)
  else if off = 0x50 then b.alterRing i (fun r => r.setSize false value)
  else if off = 0x60 then b.alterRing i (fun r => r.setBase true value)
  else if off = 0x68 then b.alterRing i (fun r => r.setSize true value)
  else if off = 0x70 then b.setCplHead i value
  else b

/-- A write to register `off` of page `page`: by its access type; to an unassigned page or an RO register, nothing. -/
def Body.writeReg (v : Vault) (b : Body) (page off : Nat) (value : Word64) : Body :=
  let type := page / 256
  if !assignedPage page then b
  else if off = 0x08 then b.freezeView v page value
  else if off = 0x28 then b.blkClear page value
  else if off = 0x38 then b.setScratch page value
  else if type = 0x0D then b.controlWrite off value
  else if type = 0x13 then b.ringWrite (page % 256) off value
  else if type = 0x14 ∧ off = 0x70 then b.whClear (page % 256) value
  else if type = 0x16 ∧ off = 0x68 then b.setTouch v value
  else if type = 0x17 ∧ off = 0x40 then b.setBar2Base value
  else if type = 0x17 ∧ off = 0x48 then b.setBar2Ctrl value
  else b

def execRegisterWrite (page off : Nat) (value : Word64) (s : State) : Host.Outcome State Fault Refusal :=
  onBody (decide (page < 16384) && decide (off < 4096) && decide (off % 8 = 0)) s (fun b => b.writeReg s.vault page off value)

/-- R7: a write is discarded, a read returns all ones. -/
def execRegisterAccessMisaligned (page off size : Nat) (write : Bool) (s : State) : Host.Outcome State Fault Refusal :=
  onBody (decide (page < 16384) && decide (off < 4096) && !(decide (off % 8 = 0) && decide (size = 8))) s
    (fun b => if write then b else b.answer (.word (BitVec.allOnes 64)))

/-! ## The BAR2 window (R406 to R409, Table 18.2) -/

/-- From step 5 of power-up on the PCIe function answers (R392), while the rails are up. -/
def Body.answersConfig (b : Body) : Bool := b.score.counterRead && b.boot.rails

def Body.bar2Addr (b : Body) (off : Nat) : Nat := b.host.bar2Base * 2 ^ 36 + off

/-- Every byte of the access lies in mapped memory: infield, outfield, or banks in ON. -/
def Body.bar2Mapped (b : Body) (a n : Nat) : Bool :=
  match b.store.region a, b.store.region (a + (n - 1)) with
  | .infield, .infield => true
  | .outfield, .outfield => true
  | .scratch i, .scratch j =>
    (List.range' i (j + 1 - i)).all (fun k => decide ((b.store.banks.getD k ⟨.unusable, none⟩).state = .on))
  | _, _ => false

def Body.bar2Unmapped (b : Body) : Body := { b with host := { b.host with unmapped := wrap 32 (b.host.unmapped + 1) } }

def Body.bar2Read (b : Body) (off n : Nat) (es : List CwError) : Body :=
  let a := b.bar2Addr off
  let ones := Output.bytes (List.replicate n 0xFF) false
  if !(b.answersConfig && b.host.bar2Enable) then b.answer ones
  else if !b.bar2Mapped a n then b.bar2Unmapped.answer ones
  else
    let b := b.readErrors (errorsIn a n es)
    let ep := b.store.anyPoison a n
    { b with host := { b.host with readBytes := wrap 64 (b.host.readBytes + n),
                                   poisoned := if ep then wrap 32 (b.host.poisoned + 1) else b.host.poisoned,
                                   last := .bytes (b.store.bytes a n) ep } }

/-- The access lies whole in the staging region (Table 9.9). -/
def Body.inStaging (b : Body) (a n : Nat) : Bool :=
  decide (outfieldBase ≤ a ∧ a + n ≤ outfieldBase + b.book.tables.outfield.stagingGib * gib)

/-- R169: host software that writes a lost page list's entries has edited it (Table 9.14). -/
def Body.editLists (b : Body) (a n : Nat) : Body :=
  { b with parts := b.parts.map (fun x => { x with attn := { x.attn with lostLists := x.attn.lostLists.filter (fun off =>
      match x.addr ⟨.infield, off⟩ with
      | some l => !decide (l < a + n ∧ a < l + 64)
      | none => true) } }) }

def Body.bar2Write (b : Body) (off : Nat) (bytes : List Byte) (es : List CwError) : Body :=
  let a := b.bar2Addr off
  let n := bytes.length
  if !(b.answersConfig && b.host.bar2Enable) then b
  else if b.host.stagingOnly && !b.inStaging a n then
    { b with host := { b.host with denied := wrap 32 (b.host.denied + 1) } }
  else if !b.bar2Mapped a n then b.bar2Unmapped
  else
    let b := b.readErrors (mergeErrors a n es)
    let b := { b with store := b.store.writeBytes a bytes, host := { b.host with writtenBytes := wrap 64 (b.host.writtenBytes + n) } }
    b.editLists a n

def execBar2Read (off len : Nat) (errs : List CwError) (s : State) : Host.Outcome State Fault Refusal :=
  onBody (decide (off + len ≤ 2 ^ 36)) s (fun b => b.bar2Read off len errs)

def execBar2Write (off : Nat) (bytes : List Byte) (errs : List CwError) (s : State) : Host.Outcome State Fault Refusal :=
  onBody (decide (off + bytes.length ≤ 2 ^ 36)) s (fun b => b.bar2Write off bytes errs)

/-! ## Configuration requests (R298, R392) -/

/-- What a configuration read of Interrupt Pin returns, and whether the capability list holds a structure of an ID; none while the function
does not answer. -/
def Body.configInterruptPin (b : Body) : Option Nat := if b.answersConfig then some b.host.interruptPin else none

def Body.configCapability (b : Body) (id : Nat) : Option Bool := if b.answersConfig then some (b.host.capabilities.contains id) else none

/-! ## PERST_N and the PCIe link (R328, R425) -/

/-- The host interface page and the BARs take their reset values; nothing else changes. -/
def HostIf.perst (h : HostIf) : HostIf :=
  { h with bar2Base := 0, bar2Enable := false, stagingOnly := true, unmapped := 0, poisoned := 0, denied := 0, readBytes := 0,
           writtenBytes := 0, views := h.views.filter (fun w => decide (w.page ≠ 0x1700)),
           scratch := h.scratch.filter (fun x => decide (x.1 ≠ 0x1700)) }

def execPerst (s : State) : Host.Outcome State Fault Refusal := onBody true s (fun b => { b with host := b.host.perst })

/-- Held records of every ring are written when the link returns. -/
def execPcieLinkUp (s : State) : Host.Outcome State Fault Refusal :=
  onBody true s (fun b => (List.range 5).foldl Body.flushRing { b with host := { b.host with pcieUp := true } })

def execPcieLinkDown (s : State) : Host.Outcome State Fault Refusal :=
  onBody true s (fun b => { b with host := { b.host with pcieUp := false } })

end Sys2Proof.Machine
end

