-- ==== Sys2Proof/Machine/LinkRows.lean ====
section
/-!
DEFINITION. The rows of links (10, 19): Table 10.6 and its moves, the partner proof (R242, R243), lanes (R239 to R241), retry (R233),
starvation (R249), writes and adds into windows (R244, R245), collectives, fences (R256), relays (R246, R247), cages (R427).
-/

namespace Sys2Proof.Machine

/-! ## Training (Table 10.6) -/

def maskLanes (m : Nat) : List Nat := (List.range 4).filter m.testBit

/-- The port is enabled, fitted, and the module is in service. -/
def Body.mayTrain (b : Body) (l : Nat) : Bool :=
  b.book.tables.link.enable.getD l false && (b.link l).fitted && decide (b.boot.start = .ready)

def Body.setLink (b : Body) (l : Nat) (st : LinkState) : Body := b.alterLink l (fun g => { g with state := st, since := b.clock.now })


def Body.trainRetry (b : Body) (l : Nat) : Body :=
  match (b.link l).state with
  | .down => if b.mayTrain l then (b.until_ ((b.link l).since + b.book.tables.link.trainRetryNs)).setLink l .train else b
  | _ => b

/-- Lanes that hold lock, but for those excluded at self-test; fewer than MIN_WIDTH and the link goes back to DOWN. In AUTH the module sends
its chain, its nonce and its signature, an AUTH flit each (log 102). -/
def Body.trainComplete (b : Body) (l lanes rtt : Nat) : Body :=
  match (b.link l).state with
  | .train =>
    let ls := (maskLanes lanes).filter (fun x => !(b.link l).badLanes.contains x)
    if b.book.tables.link.minWidth ≤ ls.length then
      (b.setLink l .auth).alterLink l (fun g => { g with lanes := ls, rtt := rtt % 2 ^ 32, tx := wrap 64 (g.tx + 3) })
    else b.setLink l .down
  | _ => b

/-- 200 ms in TRAIN. -/
def Body.trainTimeout (b : Body) (l : Nat) : Body :=
  match (b.link l).state with
  | .train => (b.until_ ((b.link l).since + 200000000)).setLink l .down
  | _ => b

def execTrainRetry (link : Nat) (s : State) : Host.Outcome State Fault Refusal :=
  onBody (decide (link < 48)) s (fun b => b.trainRetry link)

def execTrainComplete (link lanes rttNs : Nat) (s : State) : Host.Outcome State Fault Refusal :=
  onBody (decide (link < 48) && decide (lanes < 16)) s (fun b => b.trainComplete link lanes rttNs)

def execTrainTimeout (link : Nat) (s : State) : Host.Outcome State Fault Refusal :=
  onBody (decide (link < 48)) s (fun b => b.trainTimeout link)

/-! ## The proof (R242, R243, Table 10.8, Table 10.9) -/

/-- The partner that `ROUTE_TABLE` expects on a port: its serial and its own port (step 7). -/
def Body.expected (b : Body) (own : Option Nat) (l : Nat) (m : AuthMsg) : Bool :=
  let ms := b.book.tables.route.members
  match own, ms.find? (fun x => decide (some x.index = own)) with
  | some o, some me =>
    match (me.ports.find? (fun q => q.1 = l)).bind (fun q => ms.find? (fun x => decide (x.index = q.2))) with
    | some other => decide (other.index = m.member) && decide (other.serial = m.serial) && other.ports.contains (m.port, o)
    | none => false
  | _, _ => false

/-- The reason a proof fails with, 0 for none: the first failing step of Table 10.8. The Lodge proves nothing in a debug state. -/
def Body.proofReason (b : Body) (v : Vault) (l : Nat) (m : AuthMsg) : Nat :=
  if v.debug || !m.chainOk then qAuthFailed
  else if b.book.tables.trust.revoked.contains m.serial then qRevoked
  else if !m.sigOk then qAuthFailed
  else if b.expected (b.ownMember v.serial) l m then 0 else qUnexpected

/-- A failed proof: counted, reported, and the link goes to QUARANTINE. -/
def Body.proofFailed (b : Body) (own : Option Nat) (l reason : Nat) : Body :=
  let b := b.alterLink l (fun g => { g with
    authFail := wrap 16 (g.authFail + 1),
    authFailAt := if reason = qAuthFailed then b.clock.now :: g.authFailAt.take 7 else g.authFailAt })
  (b.quarantine own l reason).raise tLink l .corrected kAuthFailed reason

/-- A link comes UP: its partner is bound, sequence numbers and credits start afresh, and what waited for it leaves. -/
def Link.up (a : Arb) (g : Link) (m : AuthMsg) : Link :=
  let g := { g.leaveAuth with state := .up, since := a.now, partner := m.member, serial := BitVec.ofNat 64 m.serial, rxSeq := 0, rxBase := 0,
                              txSeq := 0, unacked := [], nakSent := false, credits := [64, 1024, 512, 256] }
  g.flush a

/-- One proof is verified; one that was asked for in an earlier AUTH proves nothing now (R239). -/
def Body.prove (b : Body) (v : Vault) (l : Nat) (m : AuthMsg) : Body :=
  let g := b.link l
  if 0 < g.proofsStale then b.alterLink l (fun g => { g with proofsStale := g.proofsStale - 1 })
  else
    let b := b.alterLink l (fun g => { g with proofsDue := g.proofsDue - 1 })
    match g.state with
    | .auth =>
      match b.proofReason v l m with
      | 0 => b.alterLink l (fun g => g.up b.arb m)
      | r => b.proofFailed (b.ownMember v.serial) l r
    | _ => b

/-- Proofs verified within the last second. -/
def Vault.recentProofs (v : Vault) (now : Nat) : List Nat := v.proofsAt.filter (fun t => decide (now < t + 1000000000))

/-- A reply of the Lodge takes the lowest empty slot of its range. -/
def Body.replyIn (b : Body) (slots domains : List Nat) : Body :=
  { (b.writeFirst slots (Config.replyWord b.free) domains).2 with free := b.free + 1 }

/-- A result for the keepers (slots 33 to 39). Each of them is a receiver, so each has its wake event (log 42). -/
def Body.lodgeResult (b : Body) (o : Output) : Body := (b.answer o).replyIn (List.range' 33 7) (List.range 8)

/-- RESIZE leaves on VC0, with the lanes in use (R240). -/
def Body.sendResize (b : Body) (own : Option Nat) (l : Nat) : Body :=
  let g := b.link l
  b.sendFlit l ⟨ownHdr fResize 0 0 (own.getD 0) g.partner 0 0, .resize ((g.lanes.map (fun n => 2 ^ n)).foldl (· + ·) 0)⟩

/-- The signature check of a ring command's image is answered: the command may go on (R308). -/
def Body.answerCheck (b : Body) (ring : Nat) (tag : Word32) : Body :=
  { b with active := b.active.map (fun a => if a.ring = ring ∧ a.tag = tag ∧ a.signed = some false then { a with signed := some true } else a) }

/-- A lane's fresh signature (R241): it rejoins with a second resize, or the proof has failed. -/
def Body.laneRejoins (v : Vault) (l lane : Nat) (m : AuthMsg) (b : Body) : Body :=
  let g := b.link l
  if isUp g.state && !g.lanes.contains lane && !g.badLanes.contains lane then
    if m.sigOk && !v.debug then
      let forget := g.laneTried.filter (fun x => decide (x.1 ≠ lane))
      ((b.alterLink l (fun g => { g with lanes := insertRising lane g.lanes, laneTried := forget })).setLink l .resize).sendResize
        (b.ownMember v.serial) l
    else b.proofFailed (b.ownMember v.serial) l qAuthFailed
  else b

/-- A signature that the device key makes counts against the rate of R243; in a debug state it is refused at once. -/
def Vault.proofRoom (v : Vault) (now : Nat) : Option Vault :=
  let recent := v.recentProofs now
  if v.debug then some v
  else if 16 ≤ recent.length then none
  else some { v with proofsAt := now :: recent }

/-- What serving a request does; none while the rate for proofs holds it back. In a debug state it is refused (R308). -/
def serveJob (v : Vault) (b : Body) : LodgeJob → Option (Vault × Body)
  | .request (.proof l m) => (v.proofRoom b.clock.now).map (fun w => (w, b.prove v l m))
  | .lane l lane m => (v.proofRoom b.clock.now).map (fun w => (w, b.laneRejoins v l lane m))
  | .request (.signature cls signer) => some (v, b.lodgeResult (if v.verifies (v.keys cls) signer then .accepted else .refused))
  | .request .nonce =>
    if v.debug then some (v, b.lodgeResult .refused)
    else some ({ v with drawn := v.drawn + 1 }, b.lodgeResult (.nonce (Config.nonceValue v.drawn).toNat))
  | .check ring tag => some (v, b.answerCheck ring tag)

/-- The request at the front of the Lodge's queue, if its engine is ON and it may be served now. -/
def serveOne (v : Vault) (b : Body) : Option (Vault × Body) :=
  match v.engineOn, b.doves.asks with
  | true, j :: rest =>
    serveJob { v with idleSince := b.clock.now } { b with doves := { b.doves with asks := rest } } j
  | _, _ => none

/-- R243, R308: requests are served one at a time in the order of their arrival, while the rate for proofs allows. -/
def serveLodge : Nat → Vault → Body → Vault × Body
  | 0, v, b => (v, b)
  | n + 1, v, b =>
    match serveOne v b with
    | some r => serveLodge n r.1 r.2
    | none => (v, b)

/-- A keeper asks the Lodge, which serves what it may. -/
def askLodge (j : LodgeJob) (v : Vault) (b : Body) : Vault × Body :=
  serveLodge ((b.ask v j).doves.asks.length) v (b.ask v j)

/-- In AUTH only VC0 AUTH flits are taken. -/
def authFlitOf (l : Nat) (h : FlitHdr) (m : AuthMsg) (v : Vault) (b : Body) : Vault × Body :=
  let b := b.countFec l h
  match (b.link l).state with
  | .auth =>
    if h.type ≠ fAuth ∨ h.vc ≠ 0 ∨ h.rsvd = true then (v, b.dropMalformed (b.ownMember v.serial) l)
    else askLodge (.request (.proof l m)) v (b.alterLink l (fun g => { g with rx := wrap 64 (g.rx + 1) }))
  | _ => (v, b)

def execAuthFlit (link : Nat) (hdr : FlitHdr) (m : AuthMsg) (s : State) : Host.Outcome State Fault Refusal :=
  onAll (decide (link < 48) && hdr.wf) s (authFlitOf link hdr m)

/-- 20 ms in AUTH without success. -/
def Body.authTimeout (v : Vault) (l : Nat) (b : Body) : Body :=
  match (b.link l).state with
  | .auth => (b.until_ ((b.link l).since + 20000000)).proofFailed (b.ownMember v.serial) l qAuthFailed
  | _ => b

def execAuthTimeout (link : Nat) (s : State) : Host.Outcome State Fault Refusal :=
  onBody (decide (link < 48)) s (fun b => b.authTimeout s.vault link)

/-- R243: the failure that quarantined the link is its third AUTH_FAILED within the last hour. -/
def Link.thirdFailure (g : Link) : Bool := decide (3 ≤ (g.authFailAt.filter (fun t => decide (g.since < t + 3600000000000))).length)

def Body.authFailedRetry (b : Body) (l : Nat) : Body :=
  let g := b.link l
  match g.state with
  | .quarantine =>
    if g.reason = qAuthFailed ∧ !g.thirdFailure then
      ((b.until_ (g.since + b.book.tables.link.trainRetryNs)).setLink l .train).alterLink l (fun g => { g with reason := 0 })
    else b
  | _ => b

def execAuthFailedRetry (link : Nat) (s : State) : Host.Outcome State Fault Refusal :=
  onBody (decide (link < 48)) s (fun b => b.authFailedRetry link)

/-! ## Lanes (R239 to R241) -/

/-- A link that loses lock goes to DOWN at once. -/
def Body.loseLock (b : Body) (own : Option Nat) (l : Nat) : Body :=
  match (b.link l).state with
  | .up | .resize | .auth | .train => b.leaveUp own l .down 0
  | _ => b

def execLockLoss (link : Nat) (s : State) : Host.Outcome State Fault Refusal :=
  onBody (decide (link < 48)) s (fun b => b.loseLock (b.ownMember s.vault.serial) link)

def Link.loseLane (g : Link) (lane : Nat) : Link :=
  { g with lanes := g.lanes.filter (· != lane), laneCheck := none, fecAt := g.fecAt.filter (fun x => decide (x.1 ≠ lane)) }

/-- A lane fails: reported; the link resizes over the others, or goes to DOWN. A lane check ends with the lane it finds (R234). -/
def Body.laneFails (b : Body) (own : Option Nat) (l lane : Nat) : Body :=
  let g := b.link l
  if carries g.state && g.lanes.contains lane then
    let b := (b.alterLink l (fun g => g.loseLane lane)).raise tLink l .corrected kLaneFailed lane
    if b.book.tables.link.minWidth ≤ (b.link l).lanes.length then (b.setLink l .resize).sendResize own l else b.leaveUp own l .down 0
  else b

def execLaneFailed (link lane : Nat) (s : State) : Host.Outcome State Fault Refusal :=
  onBody (decide (link < 48) && decide (lane < 4)) s (fun b => b.laneFails (b.ownMember s.vault.serial) link lane)

/-- Both ends agree on lanes; every unacknowledged flit is sent again, and what was held leaves. -/
def Link.resized (a : Arb) (g : Link) (lanes : List Nat) : Link :=
  ({ g with state := .up, since := a.now, lanes := lanes, resizes := wrap 32 (g.resizes + 1), tx := wrap 64 (g.tx + g.unacked.length) }).flush a

/-- RESIZE arrives: answered by the end that had not sent its own (R240). -/
def Body.resizeArrived (b : Body) (own : Option Nat) (l lanes : Nat) : Body :=
  let asked := decide ((b.link l).state = .resize)
  let ls := (maskLanes lanes).filter (b.link l).lanes.contains
  if b.book.tables.link.minWidth ≤ ls.length then
    let b := b.alterLink l (fun g => { g with lanes := ls })
    let b := if asked then b else b.sendResize own l
    b.alterLink l (fun g => g.resized b.arb ls)
  else b.leaveUp own l .down 0

def execResizeFlit (link : Nat) (hdr : FlitHdr) (lanes : Nat) (s : State) : Host.Outcome State Fault Refusal :=
  onBody (decide (link < 48) && hdr.wf && decide (lanes < 16)) s (fun b =>
    let own := b.ownMember s.vault.serial
    b.receive own link hdr [fResize] (fun b => b.resizeArrived own link lanes))

/-- A slot for a lane retrain (R241, R263; log 108): an open MAINTENANCE window, or the start of a beat where there are beats. -/
def Body.laneSlot (b : Body) : Bool :=
  b.windowOpen || (match b.clock.band with
    | .seeking | .free => true
    | _ => decide (b.clock.now = b.clock.beatStart))

/-- A lane that failed to train is not yet due again. -/
def Body.laneEarly (b : Body) (l lane : Nat) : Bool :=
  (b.link l).laneTried.any (fun x => decide (x.1 = lane) && decide (b.clock.now < x.2 + b.book.tables.link.trainRetryNs))

/-- R241: in its slot a failed lane that trains asks the Lodge for a fresh signature, and rejoins with it; one that does not train is retried
TRAIN_RETRY_INTERVAL later. -/
def laneRetrains (l lane : Nat) (trained : Bool) (m : AuthMsg) (v : Vault) (b : Body) : Vault × Body :=
  let g := b.link l
  if isUp g.state && !g.lanes.contains lane && !g.badLanes.contains lane && b.laneSlot && !b.laneEarly l lane then
    if trained then askLodge (.lane l lane m) v b
    else (v, b.alterLink l (fun g => { g with laneTried := (lane, b.clock.now) :: g.laneTried.filter (fun x => decide (x.1 ≠ lane)) }))
  else (v, b)

def execLaneRetrain (link lane : Nat) (trained : Bool) (m : AuthMsg) (s : State) : Host.Outcome State Fault Refusal :=
  onAll (decide (link < 48) && decide (lane < 4)) s (laneRetrains link lane trained m)

/-! ## Retry (R233, R234) -/

/-- A run of discarded flits has had its NAK: until the flit that the NAK names could be here, a round trip later (log 34). -/
def Link.nakStands (g : Link) (now : Nat) : Bool := g.nakSent && g.nakAt.head?.any (fun t => decide (now < t + g.rtt))

/-- A flit in error is discarded; the first of a run sends a NAK, and so does the resent flit in error again. More than RETRY_STORM NAKs in
1 ms start a lane check (R234). -/
def Link.crcError (a : Arb) (g : Link) (own storm : Nat) : Link :=
  if g.nakStands a.now then g
  else
    let at_ := a.now :: g.nakAt.filter (fun t => decide (a.now < t + 1000000))
    ({ g with nakSent := true, naks := wrap 32 (g.naks + 1), nakAt := at_,
              laneCheck := if storm < at_.length then some (g.laneCheck.getD a.now) else g.laneCheck }).send a
      ⟨{ ownHdr fNak 0 0 own g.partner 0 0 with seq := g.rxSeq, ack := (g.rxSeq + 4095) % 4096 }, .nak⟩

/-- An uncorrectable codeword on a lane. -/
def Link.badCodeword (now : Nat) (g : Link) (lane : Nat) : Link :=
  { g with fecUncorrected := wrap 32 (g.fecUncorrected + 1),
           fecAt := (lane, now) :: g.fecAt.filter (fun x => decide (now < x.2 + 1000000)) }

/-- The lane's uncorrectable codewords exceed LANE_FAIL in 1 ms (R240). -/
def Body.overLaneFail (b : Body) (l lane : Nat) : Bool :=
  decide (b.book.tables.link.laneFail < ((b.link l).fecAt.filter (fun x => decide (x.1 = lane))).length)

/-- A flit with a CRC error, or one that overlaps an uncorrectable codeword of lane `fec`. -/
def Body.flitError (b : Body) (own : Option Nat) (l : Nat) (fec : Option Nat) : Body :=
  let b := match fec, (b.link l).state with
    | some n, .auth | some n, .up | some n, .resize | some n, .quarantine => b.alterLink l (fun g => g.badCodeword b.clock.now n)
    | _, _ => b
  if carries (b.link l).state then
    let b := b.alterLink l (fun g => g.crcError b.arb (own.getD 0) b.book.tables.link.retryStorm)
    match fec with
    | some n => if b.overLaneFail l n then b.laneFails own l n else b
    | none => b
  else b

def execFlitCrcError (link : Nat) (fec : Option Nat) (s : State) : Host.Outcome State Fault Refusal :=
  onBody (decide (link < 48) && fec.all (fun n => decide (n < 4))) s (fun b => b.flitError (b.ownMember s.vault.serial) link fec)

/-- The sender goes back to the SEQ that a NAK names: the one after ACK; a RESIZE that waits for an answer is among what it sends again. -/
def Link.resend (g : Link) : Link := { g with tx := wrap 64 (g.tx + g.unacked.length) }

def execNakFlit (link : Nat) (hdr : FlitHdr) (s : State) : Host.Outcome State Fault Refusal :=
  onBody (decide (link < 48) && hdr.wf) s (fun b =>
    b.receiveControl (b.ownMember s.vault.serial) link hdr fNak (fun b => b.alterLink link Link.resend))

def execIdleFlit (link : Nat) (hdr : FlitHdr) (s : State) : Host.Outcome State Fault Refusal :=
  onBody (decide (link < 48) && hdr.wf) s (fun b => b.receiveControl (b.ownMember s.vault.serial) link hdr fIdle id)

def execMalformedFlit (link : Nat) (hdr : FlitHdr) (s : State) : Host.Outcome State Fault Refusal :=
  onBody (decide (link < 48) && hdr.wf) s (fun b =>
    let own := b.ownMember s.vault.serial
    let b := b.countFec link hdr
    if carries (b.link link).state && b.malformed own link hdr then b.dropMalformed own link else b)

/-! ## Starvation (R249) -/

/-- Flits wait on a VC without a credit for it: since when. -/
def Link.starves (g : Link) (vc : Nat) : Option (Nat × Nat) := if isUp g.state then g.dryAt.getD vc none else none

/-- The credits of a VC were withheld for too long: counted, and the link goes to QUARANTINE. -/
def Body.starved (b : Body) (own : Option Nat) (l vc : Nat) : Body :=
  let b := b.alterLink l (fun g => { g with starved := wrap 16 (g.starved + 1) })
  (b.quarantine own l qStarved).raise tLink l .contained kLinkStarved vc

/-- STARVE_VC0 is a time, DATA_STARVE a count of beats. -/
def Body.starve (b : Body) (own : Option Nat) (l vc : Nat) : Body :=
  match (b.link l).starves vc with
  | some (t, beat) =>
    if vc = 0 then (b.until_ (t + b.book.tables.link.starveVc0Ns)).starved own l 0
    else if beat + b.book.tables.link.dataStarveBeats ≤ b.clock.beat then b.starved own l vc
    else b
  | none => b

def execVc0Starvation (link : Nat) (s : State) : Host.Outcome State Fault Refusal :=
  onBody (decide (link < 48)) s (fun b => b.starve (b.ownMember s.vault.serial) link 0)

def execDataStarvation (link vc : Nat) (s : State) : Host.Outcome State Fault Refusal :=
  onBody (decide (link < 48) && decide (1 ≤ vc) && decide (vc < 4)) s (fun b => b.starve (b.ownMember s.vault.serial) link vc)

/-! ## Windows (R244, R245) -/

inductive WindowAnswer where
  | granted (addr part : Nat)
  | grace
  | denied
  deriving DecidableEq, Repr

/-- What a write or add of `n` bytes meets; `op` is its bit of OPS. -/
def Body.windowCheck (b : Body) (w op domain off n : Nat) : WindowAnswer :=
  let x := b.net.windows.getD w Window.free
  if x.valid then
    if x.ops.testBit op && decide (x.domain = domain) && decide (off + n ≤ x.length) then .granted (x.base + off) x.part else .denied
  else match x.fencedAt with
    | some t => if b.clock.now < t + b.book.tables.link.fenceGraceNs then .grace else .denied
    | none => .denied

/-- A refused flit: DENY names its operation and segment, and goes back over the edge to the sender, or by the link that the flit came on;
counted toward the bad-frame limit. DESIGN CHOICE: its PART is that of the refused flit; the spec does not say which partition of the refusing
module a window that nobody owns belongs to (log 21). -/
def Body.deny (b : Body) (own : Option Nat) (l : Nat) (h : FlitHdr) : Body :=
  let b := b.alterLink l (fun g => { g with denied := wrap 16 (g.denied + 1) })
  let f : Flit := ⟨{ ownHdr fDeny 0 h.part (own.getD 0) h.src 0 h.segment with op := h.op }, .deny⟩
  let b := match own.bind (fun m => b.edge? m h.src) with
    | some _ => b.sendEdge (own.getD 0) h.src f
    | none => if isRelay h.type then b else b.sendFlit l f
  b.badFrame own l

/-- Banks that `n` bytes from `a` touch. -/
def Store.banksAt (s : Store) (a n : Nat) : List Nat :=
  match s.region a, s.region (a + (n - 1)) with
  | .scratch i, .scratch j => List.range' i (j + 1 - i)
  | _, _ => []

/-- R206: banks in RETAIN are woken; a request to a bank in OFF or UNUSABLE is dropped there, counted and reported. -/
def Body.openBanks (b : Body) (a n : Nat) : Body × Bool :=
  let ks := b.store.banksAt a n
  let bad := ks.filter (fun k => match (b.store.banks.getD k ⟨.unusable, none⟩).state with
    | .off | .unusable => true
    | _ => false)
  (bad.foldl Body.bankBad (ks.foldl Body.wakeBank b), bad.isEmpty)

def Body.writeArrived (b : Body) (own : Option Nat) (l : Nat) (h : FlitHdr) (m : WriteMsg) (errs : List CwError) : Body :=
  let n := m.bytes.length
  match b.windowCheck h.window 0 m.domain m.off n with
  | .denied => b.deny own l h
  | .grace => b
  | .granted a _ => b.once h (fun b =>
      let r := b.openBanks a n
      if r.2 then
        let b := r.1.readErrors (mergeErrors a n errs)
        { b with store := b.store.writeBytes a m.bytes }
      else r.1)

def Body.addArrived (b : Body) (own : Option Nat) (l : Nat) (h : FlitHdr) (m : AddMsg) (errs : List CwError) : Body :=
  let n := m.values.length * (m.fmt.bits / 8)
  match b.windowCheck h.window (if m.ordered then 1 else 2) m.domain m.off n with
  | .denied => b.deny own l h
  | .grace => b
  | .granted a p => b.once h (fun b =>
      b.memoryAdd ⟨a, m.fmt, m.inFmt, m.values, m.ordered, h.src, m.expected, m.last, p, 0, errs⟩)

def execWriteFlit (link : Nat) (hdr : FlitHdr) (m : WriteMsg) (errs : List CwError) (s : State) : Host.Outcome State Fault Refusal :=
  onBody (decide (link < 48) && hdr.wf) s (fun b =>
    let own := b.ownMember s.vault.serial
    b.receive own link hdr [fWrite] (fun b => b.writeArrived own link hdr m errs))

def execAddFlit (link : Nat) (hdr : FlitHdr) (m : AddMsg) (errs : List CwError) (s : State) : Host.Outcome State Fault Refusal :=
  onBody (decide (link < 48) && hdr.wf && addFormats m.fmt m.inFmt) s (fun b =>
    let own := b.ownMember s.vault.serial
    b.receive own link hdr [fAdd] (fun b => b.addArrived own link hdr m errs))

/-- The operation that sent what was refused: the one in flight that DENY names, with its partition. -/
def Body.deniedOp (b : Body) (h : FlitHdr) : Option (Nat × Flight × Collective) :=
  (List.range 4).findSome? (fun p => (b.part p).flights.findSome? (fun fl =>
    (((b.part p).op? fl).bind collectiveOf).bind (fun c =>
      if fl.failed.isNone && decide (fl.sent = h.op) && decide (c.kind = .add) && decide (c.source = h.src) then some (p, fl, c) else none)))

def Body.denyArrived (b : Body) (h : FlitHdr) : Body :=
  match b.deniedOp h with
  | some (p, fl, c) =>
    (b.failFlights p kWriteDenied (fun f _ => f.token == fl.token)).raise tPartition p .contained kWriteDenied (c.window + h.segment * 256)
  | none => b

def execDenyFlit (link : Nat) (hdr : FlitHdr) (s : State) : Host.Outcome State Fault Refusal :=
  onBody (decide (link < 48) && hdr.wf) s (fun b =>
    b.receive (b.ownMember s.vault.serial) link hdr [fDeny] (fun b => b.denyArrived hdr))

/-! ## Collectives -/

/-- An action of this member; a module outside the domain takes no part. -/
def withOwn (own : Option Nat) (f : Nat → Body → Body) (b : Body) : Body :=
  match own with
  | some m => f m b
  | none => b

/-- R247: each segment of an operation is taken once. -/
def Body.reduceTaken (b : Body) (own : Nat) (h : FlitHdr) (m : ReduceMsg) : Body :=
  b.once h (fun b => b.reduceArrived own h.part h.src m h.errs)

def Body.resultTaken (b : Body) (own : Nat) (h : FlitHdr) (m : ResultMsg) : Body :=
  b.once h (fun b => b.resultArrived own h.part h.src m h.errs)

def execReduceFlit (link : Nat) (hdr : FlitHdr) (m : ReduceMsg) (s : State) : Host.Outcome State Fault Refusal :=
  onBody (decide (link < 48) && hdr.wf) s (fun b =>
    let own := b.ownMember s.vault.serial
    b.receive own link hdr [fReduce] (withOwn own (fun o b => b.reduceTaken o hdr m)))

def execResultFlit (link : Nat) (hdr : FlitHdr) (m : ResultMsg) (s : State) : Host.Outcome State Fault Refusal :=
  onBody (decide (link < 48) && hdr.wf) s (fun b =>
    let own := b.ownMember s.vault.serial
    b.receive own link hdr [fResult] (withOwn own (fun o b => b.resultTaken o hdr m)))

def execStatusFlit (link : Nat) (hdr : FlitHdr) (m : StatusMsg) (s : State) : Host.Outcome State Fault Refusal :=
  onBody (decide (link < 48) && hdr.wf) s (fun b =>
    let own := b.ownMember s.vault.serial
    b.receive own link hdr [fStatus] (withOwn own (fun o b => b.statusArrived o hdr.part (some hdr.src) m)))

/-- R248: the member whose contribution has not come: the first child without one, else the parent. -/
def Body.missingMember (b : Body) (own p : Nat) (tok : Token) : Nat :=
  match b.net.reductions.find? (fun r => decide (r.part = p) && r.token == tok) with
  | some r =>
    let t := b.collTree r.coll
    ((if r.sent then none else (treeChildren t own).find? (fun k => !r.childDone k)) <|> treeParent t own).getD own
  | none => own

def Body.collectiveTimeout (v : Vault) (p : Nat) (tok : Token) (b : Body) : Body :=
  let x := b.part p
  match x.flights.find? (fun fl => fl.token == tok) with
  | none => b
  | some fl =>
    match x.op? fl with
    | none => b
    | some op =>
      match collectiveOf op with
      | none => b
      | some c =>
        if fl.failed.isNone && !b.collectiveDone p fl op c && decide (fl.issuedBeat + b.book.tables.link.collectiveTimeout ≤ b.clock.beat) then
          let own := (b.ownMember v.serial).getD 0
          let k := b.missingMember own p tok
          ((b.failFlights p kCollectiveTimeout (fun f _ => f.token == tok)).raise tPartition p .contained kCollectiveTimeout k).faultStop p kCollectiveTimeout
        else b

def execCollectiveTimeout (part : Nat) (tok : Token) (s : State) : Host.Outcome State Fault Refusal :=
  onBody (decide (part < 4)) s (fun b => b.collectiveTimeout s.vault part tok)

/-! ## Fences and relays (R246, R256) -/

/-- Every operation that targets the fenced partition of the partner completes FAILED: collectives of the partition of the same number
with a group that holds the partner. -/
def Body.fenceArrived (b : Body) (l : Nat) (p : Nat) : Body :=
  let who := (b.link l).partner
  let k := Config.fenceCode b.free % 256
  { b with free := b.free + 1 }.failFlights p k (fun _ op => (collectiveOf op).any (fun (c : Collective) =>
    ((b.group? c.group).map (fun (g : RouteGroup) => g.members.contains who)).getD false))

def execFenceFlit (link : Nat) (hdr : FlitHdr) (s : State) : Host.Outcome State Fault Refusal :=
  onBody (decide (link < 48) && hdr.wf) s (fun b =>
    b.receive (b.ownMember s.vault.serial) link hdr [fFence] (fun b => b.fenceArrived link hdr.part))

/-- The payload of a RELAY flit fits the type it stands for. -/
def relayFits (t : Nat) (x : FlitBody) : Bool :=
  match x with
  | .reduce _ => decide (t = 0x30)
  | .result _ => decide (t = 0x31)
  | .write _ => decide (t = 0x32)
  | .add _ => decide (t = 0x33)
  | .deny => decide (t = 0x34)
  | .notice _ => decide (t = 0x35)
  | .status _ => decide (t = 0x36)
  | _ => false

/-- A RELAY flit at its destination is a flit of the original type. -/
def Body.relayArrived (b : Body) (own l : Nat) (h : FlitHdr) (x : FlitBody) : Body :=
  match x with
  | .reduce m => b.reduceTaken own h m
  | .result m => b.resultTaken own h m
  | .write m => b.writeArrived (some own) l h m h.errs
  | .add m => b.addArrived (some own) l h m h.errs
  | .deny => b.denyArrived h
  | .status m => b.statusArrived own h.part (some h.src) m
  | .notice n => b.noticeArrived (some own) h.src h.part n
  | _ => b

/-- Forwarded on VC3 by the link dies alone, or taken here; SEQ, ACK and credits are of each hop. A flit whose next hop is not up is dropped:
its sender resends what it sent over another path (R247, log 100). -/
def Body.relay (b : Body) (own : Option Nat) (l : Nat) (h : FlitHdr) (x : FlitBody) : Body :=
  match own, b.relayStep own l h with
  | some m, .arrived => b.relayArrived m l h x
  | _, .forward out =>
    if b.linkUp out then
      (b.sendFlit out ⟨{ h with crVc := 0, crCount := 0, corrected := 0, errs := [] }, x⟩).alterLink out (fun g => { g with fwd := wrap 64 (g.fwd + 1) })
    else b
  | _, _ => b

/-- A payload that is not of the type the flit names is malformed. -/
def execRelayFlit (link : Nat) (hdr : FlitHdr) (body : FlitBody) (s : State) : Host.Outcome State Fault Refusal :=
  onBody (decide (link < 48) && hdr.wf && body.wf) s (fun b =>
    let own := b.ownMember s.vault.serial
    b.receive own link hdr (if relayFits hdr.type body then [hdr.type] else []) (fun b => b.relay own link hdr body))

/-- A NOTICE of a barrier (11, R268, R269, R442). -/
def execNoticeFlit (link : Nat) (hdr : FlitHdr) (n : Notice) (s : State) : Host.Outcome State Fault Refusal :=
  onBody (decide (link < 48) && hdr.wf) s (fun b =>
    let own := b.ownMember s.vault.serial
    b.receive own link hdr [fNotice] (fun b => b.noticeArrived own hdr.src hdr.part n))

/-! ## Cages (R427) -/

/-- The two links of a cage (Table 19.1): ports 8 to 11 of each link die. -/
def cageLinks (cage : Nat) : List Nat :=
  let l := 12 * (cage / 2) + 8 + 2 * (cage % 2)
  [l, l + 1]

/-- An insertion takes a link through TRAIN and AUTH; one that was DISABLED goes to DOWN first (Table 10.6). -/
def Body.fit (b : Body) (l : Nat) : Body :=
  if (b.link l).fitted then b
  else
    let b := b.alterLink l (fun g => { g with fitted := true })
    match (b.link l).state with
    | .disabled => if b.book.tables.link.enable.getD l false && !b.linkDead l then b.setLink l .down else b
    | .down => if b.mayTrain l then b.setLink l .train else b
    | _ => b

/-- A removal takes a link to DOWN; QUARANTINE and FENCED are left as Table 10.6 says. -/
def Body.unfit (b : Body) (own : Option Nat) (l : Nat) : Body := (b.loseLock own l).alterLink l (fun g => { g with fitted := false })

def execPluggableInsert (cage : Nat) (s : State) : Host.Outcome State Fault Refusal :=
  onBody (decide (cage < 8)) s (fun b => (cageLinks cage).foldl Body.fit b)

def execPluggableRemove (cage : Nat) (s : State) : Host.Outcome State Fault Refusal :=
  onBody (decide (cage < 8)) s (fun b => (cageLinks cage).foldl (fun b l => b.unfit (b.ownMember s.vault.serial) l) b)

end Sys2Proof.Machine
end

