-- ==== Sys2Proof/Machine/Power.lean ====
section
/-!
DEFINITION. Power and heat (11, R272 to R287): the band, freeze duty, grants, the operating point and its deferral by droop, thermal
increments and stops. Bands are held in units of 10⁻⁶ W (log 36).
-/

namespace Sys2Proof.Machine

/-! ## The band (R276) -/

def microW : Nat := 1000000

/-- The row whose FROM_W is the highest at or below `w`. -/
def rampRow (rows : List RampRow) (w : Nat) : RampRow := ((rows.filter (fun r => decide (r.fromW ≤ w))).getLast?).getD ⟨0, 0, 0⟩

/-- DUTY_STEP_W of the point in force, as the controller has corrected it (R274). -/
def Body.dutyStep (b : Body) : Nat :=
  ((b.power.corrected.find? (fun x => decide (x.1 = b.power.op))).elim b.opEntry.dutyStepW (·.2)) * microW

/-- UP and DOWN are in W per ms, a beat in ns. Before the first beat has been measured there is no ramp (log 105). -/
def Body.ceiling (b : Body) : Nat :=
  let w := b.power.pavgPrev
  let cap := min 3400 b.power.grant * microW
  if b.power.history.isEmpty then cap else min cap (w * microW + (rampRow b.book.tables.ramp w).up * b.beatNs)

def Body.floor_ (b : Body) : Int :=
  let w := b.power.pavgPrev
  min ((w * microW : Nat) - ((rampRow b.book.tables.ramp w).down * b.beatNs : Nat) : Int) ((b.ceiling : Int) - b.dutyStep)

/-! ## Freeze duty (R277) -/

def ceilDiv (x d : Nat) : Nat := (x + d - 1) / d

/-- Duty and rally at the end of an interval. -/
structure DutyStep where
  duty : Nat
  rally : Bool
  deriving DecidableEq, Repr

/-- R277, with `p` in the band's units. -/
def nextDuty (n p ceil step : Nat) (floor : Int) : DutyStep :=
  if ceil < p then ⟨min 15 (n + ceilDiv (p - ceil) step), false⟩
  else if (p : Int) < floor then
    (if 0 < n then ⟨n - ceilDiv (floor - p).toNat step, false⟩ else ⟨0, true⟩)
  else if (p : Int) < (ceil : Int) - step ∧ 0 < n then ⟨n - 1, false⟩
  else ⟨n, false⟩

/-! ## Rally load (R271) -/

/-- A unit of `PowerSample.fill` that rally may use: it holds no operation in flight, and its half is not FENCED. -/
def Body.rallyUnit (b : Body) (u : Nat) : Bool :=
  if u < 4 then !b.fenced (u / 2) && !b.parts.any (·.busyPitch u)
  else if u < 8 then !b.fenced ((u - 4) / 2) && !b.parts.any (·.busyEngine (u - 4))
  else decide (u < 10) && !b.fenced (u - 8)

/-- Rally at its largest, W. -/
def Body.rallyMost (b : Body) (m : PowerSample) : Nat := ((m.fill.filter (fun x => b.rallyUnit x.1)).map (·.2)).foldl (· + ·) 0

/-- What rally fills to: the level before the arrival, within the ceiling, and the ramp floor while it holds that. -/
def Body.rallyGoal (b : Body) : Nat :=
  max (min (b.rallyHeld.getD 0 * microW) b.ceiling) (if b.power.rallyFloor then min b.floor_.toNat b.ceiling else 0)

/-- Rally load of an interval, in the band's units: the difference between the draw and the goal, as far as the idle units reach. -/
def Body.rallyLoad (b : Body) (m : PowerSample) : Nat := min (b.rallyMost m * microW) (b.rallyGoal - m.draw * microW)

/-- P of an interval (R277), in the band's units: the mean input power, rally load included. -/
def Body.inputP (b : Body) (m : PowerSample) : Nat := m.draw * microW + b.rallyLoad m

/-- Rally goes on holding the floor while the draw alone would lie below it (log 104). -/
def Body.holdsFloor (b : Body) (m : PowerSample) (wanted : Bool) : Bool :=
  wanted || (b.power.rallyFloor && decide (((m.draw * microW : Nat) : Int) < b.floor_))

/-- Rally at its largest leaves the draw below the floor (R277). -/
def Body.floorUnmet (b : Body) (m : PowerSample) : Bool := decide ((((m.draw + b.rallyMost m) * microW : Nat) : Int) < b.floor_)

/-! ## Records of Table 16.3, POWER (log 37) -/

def Body.powerRecord (b : Body) (event : Nat) : Body := b.record recPower (tBand * 64) 0 [event]

def evCapSet : Nat := 1
def evCapClear : Nat := 2
def evConflictSet : Nat := 3
def evConflictClear : Nat := 4
def evLapse : Nat := 5
def evDeferred : Nat := 6

/-- CAP_UNMET sets or clears, with its record (R280). -/
def Body.setCapUnmet (b : Body) (x : Bool) : Body :=
  if b.power.capUnmet = x then b
  else ({ b with power := { b.power with capUnmet := x } }).powerRecord (if x then evCapSet else evCapClear)

/-- FIXED_CAP_CONFLICT sets or clears, with its record (R279). -/
def Body.setConflict (b : Body) (x : Bool) : Body :=
  if b.power.fixedConflict = x then b
  else ({ b with power := { b.power with fixedConflict := x } }).powerRecord (if x then evConflictSet else evConflictClear)

/-! ## Grants (R281 to R283, R304) -/

/-- A grant that the controller reads from slot 32; `arrival` is the beat in which it landed in slot 0. -/
def Body.applyGrant (b : Body) (seq watts arrival : Nat) : Body :=
  let w := min 3400 watts
  if seq ≤ b.power.seq then b
  else
    let p := { b.power with seq := seq, grantBeat := arrival, lapsed := false }
    if p.grant < w ∧ b.hasBeat ∧ b.clock.beat < arrival + 2 then { b with power := { p with pendingRaise := some (w, arrival + 2) } }
    else { b with power := { p with grant := w, pendingRaise := none } }

/-- The POWER keepers read their slot once power-up has set the defaults (R391). -/
def Body.readGrant (b : Body) : Body :=
  if (b.slot 32).full && b.boot.tested then
    let w := (b.slot 32).word
    (b.readSlot 32).2.applyGrant (w.extractLsb' 0 32).toNat (w.extractLsb' 32 12).toNat b.doves.grantBeat
  else b

/-- R283: the lapse is recorded; SAFE_GRANT applies if it is lower. -/
def Body.grantLapse (b : Body) : Body :=
  let t := b.book.tables.beat
  if b.hasBeat ∧ !b.power.lapsed ∧ b.power.grantBeat + t.grantRefresh ≤ b.clock.beat then
    ({ b with power := { b.power with lapsed := true, grant := min b.power.grant t.safeGrant, pendingRaise := none } }).powerRecord evLapse
  else b

def execGrantLapse (s : State) : Host.Outcome State Fault Refusal := onBody true s Body.grantLapse

/-! ## POWER_INTERVAL (R277, R286) -/

/-- End of the interval in progress: every 10 000 ticks, and at the beat boundary. -/
def Body.intervalEnd (b : Body) : Nat :=
  let e := b.power.lastEnd + 10000
  if b.hasBeat then min e (max b.power.lastEnd (b.clock.beatStart + b.beatNs)) else e

/-- A sensor that self-test excluded takes no part (R399). -/
def Body.sensorOut (b : Body) (h i : Nat) : Bool := decide (i < 65536) && b.boot.sensorsOut.contains (65536 * h + i)

/-- A sample as the sensors that are not excluded give it. -/
def Body.trusted (b : Body) (m : PowerSample) : PowerSample :=
  let keep := fun (h : Nat) (xs : List Int) => (xs.zipIdx.filter (fun x => !b.sensorOut h x.2)).map (·.1)
  { m with west := keep 0 m.west, east := keep 1 m.east }

/-- Place of a sensor among those of its half that are not excluded. -/
def Body.sensorPlace (b : Body) (h i : Nat) : Nat :=
  i - (b.boot.sensorsOut.filter (fun n => decide (n / 65536 = h ∧ n % 65536 < i))).length

/-- R286: a half's increment rises while a sensor exceeds THROTTLE_C, and falls once none does. -/
def nextHeat (h : Nat) (temps : List Int) (throttle : Nat) : Nat :=
  if temps.any (fun t => decide ((throttle : Int) < t)) then min 15 (h + 1) else h - 1

/-- R64: what the interval's sample counts beside the clock, in cycles in which the pitch was RUNNING; a cycle that several causes freeze
counts once in PITCH_FROZEN. -/
def Pitch.count (x : Pitch) (f : FreezeCount) : Pitch :=
  { x with frozen := wrap 64 (x.frozen + min f.unmarked x.ran), frzFeed := wrap 64 (x.frzFeed + min f.feed x.ran),
           frzBank := wrap 64 (x.frzBank + min f.bank x.ran), frzDrain := wrap 64 (x.frzDrain + min f.drain x.ran), ran := 0 }

/-- R197. -/
def Engine.count (x : Engine) (i : IssueCount) : Engine :=
  { x with issue := wrap 64 (x.issue + i.issue), borrow := wrap 64 (x.borrow + i.borrow) }

/-- Counters of an interval. A FENCED pitch runs no cycle, and what its sample counts lay before the fence; an engine's counters hold. -/
def Body.countUnits (b : Body) (m : PowerSample) : Body :=
  let fz := fun (i : Nat) => (m.freezes.find? (fun (f : FreezeCount) => decide (f.pitch = i))).getD ⟨i, 0, 0, 0, 0⟩
  let iss := fun (i : Nat) => (m.issues.find? (fun (f : IssueCount) => decide (f.engine = i))).getD ⟨i, 0, 0⟩
  { b with
    pitches := b.pitches.zipIdx.map (fun (x, i) => x.count (fz i)),
    engines := b.engines.zipIdx.map (fun (x, i) => if b.fenced (i / 2) then x else x.count (iss i)) }

/-- What an interval of `dt` ns with rally load `r` adds to the beat's sums. The highest 1 µs mean is that of the whole input power, so it
is no lower than the interval's own mean (log 20). -/
def Power.accumulate (p : Power) (m : PowerSample) (r dt t1 : Nat) : Power :=
  { p with lastEnd := t1, sumP := p.sumP + (m.draw * microW + r) * dt, sumDuty := p.sumDuty + p.duty * dt, sumRally := p.sumRally + r * dt,
           sumNs := p.sumNs + dt, peak := max p.peak (max m.peak (roundDiv (m.draw * microW + r) microW)),
           dutyAlwaysZero := p.dutyAlwaysZero && decide (p.duty = 0),
           rally := p.rally || decide (0 < r), west := m.west, east := m.east, hotAt := keepHot t1 (p.west ++ p.east) p.hotAt, duty15 := m.duty15 }

/-- R274: the correction of DUTY_STEP_W after the interval; the spec gives no formula, so it is an input (log 106). -/
def Power.correct (p : Power) (w : Nat) : Power :=
  if w = 0 then p else { p with corrected := (p.op, w) :: p.corrected.filter (fun x => decide (x.1 ≠ p.op)) }

/-- CAP_UNMET and FIXED_CAP_CONFLICT of an interval: duty 15 was in force, and nothing lower is left to reach (log 38). -/
def Body.capFlags (b : Body) (p : Nat) : Body :=
  let unmet := decide (b.power.duty = 15 ∧ b.ceiling < p)
  let b := b.setCapUnmet (unmet && (b.power.fixed || decide (b.power.op ≤ b.power.opFloor)))
  b.setConflict (unmet && b.power.fixed)

def Body.powerInterval (b : Body) (m : PowerSample) : Body :=
  let m := b.trusted m
  let t0 := b.power.lastEnd
  let t1 := b.intervalEnd
  let b := (b.until_ t1).readGrant
  let p := b.inputP m
  let b := (b.countUnits m).capFlags p
  let d := nextDuty b.power.duty p b.ceiling b.dutyStep b.floor_
  let q := (b.power.accumulate m (b.rallyLoad m) (t1 - t0) t1).correct m.stepW
  let th := b.book.tables.power.throttleC
  { b with power := { q with
    duty := d.duty, rallyFloor := b.holdsFloor m d.rally, rampUnmet := q.rampUnmet || (d.rally && b.floorUnmet m),
    dutyAlwaysZero := q.dutyAlwaysZero && decide (d.duty = 0),
    hWest := nextHeat q.hWest m.west th, hEast := nextHeat q.hEast m.east th } }

def execPowerInterval (m : PowerSample) (s : State) : Host.Outcome State Fault Refusal := onBody true s (fun b => b.powerInterval m)

/-! ## The operating point (R275, R278, R279, R285) -/

/-- Mean of the beat so far, in whole watts (R73); the last beat's where nothing has been measured. -/
def Power.mean (p : Power) : Nat := if p.sumNs = 0 then p.pavgPrev else roundDiv p.sumP (p.sumNs * microW)

/-- The beat's intervals, and `dt` ns of one that has not ended, with mean input power `w`. -/
def Power.meanWith (p : Power) (w dt : Nat) : Nat :=
  if dt = 0 then p.mean else roundDiv (p.sumP + w * microW * dt) ((p.sumNs + dt) * microW)

/-- Duty has been 0 so far, and a mean draw of `w` leaves UP_MARGIN below the ceiling. -/
def Body.raiseFits (b : Body) (w : Nat) : Bool :=
  b.power.dutyAlwaysZero && decide (b.power.duty = 0) && decide ((w + b.book.tables.power.upMargin) * microW ≤ b.ceiling)

/-- VCORE_MV of a point. -/
def Body.coreMv (b : Body) (op : Nat) : Nat := (b.book.tables.op.getD op ⟨0, 0, 1⟩).vcoreMv

/-- The nearest point within OP_FLOOR to OP_CEILING (R278; log 39 where the range is empty). -/
def Power.nearest (p : Power) (op : Nat) : Nat := min (max op p.opFloor) p.opCeiling

/-- R278: the beat just ended calls for a lowering. -/
def Body.lowers (b : Body) : Bool :=
  (decide (0 < b.power.sumNs) && decide (b.book.tables.power.opDownDuty * b.power.sumNs ≤ b.power.sumDuty))
    || (decide (b.power.duty = 15) && decide (b.ceiling < b.power.mean * microW))

/-- The point that the controller wants at a boundary: it decides afresh each time (R285). -/
def Body.wantedOp (b : Body) : Nat :=
  let p := b.power
  if p.fixed then p.fixedOp
  else if p.nearest p.op ≠ p.op then p.nearest p.op
  else if b.lowers && decide (p.opFloor < p.op) then p.op - 1
  else match p.switch with
    | some s =>
      if s.raise ∧ s.dueBeat ≤ b.clock.beat + 1 ∧ p.op < p.opCeiling ∧ (p.deferred = 0 ∨ b.raiseFits p.mean) then p.op + 1 else p.op
    | none => p.op

/-- R285: a half stretches, or has within DROOP_RELEASE. -/
def Body.droopRecent (b : Body) : Bool :=
  b.power.droopWest || b.power.droopEast
    || b.power.lastStretch.any (fun t => decide (b.clock.now ≤ t + b.book.tables.power.droopReleaseNs))

/-- A deferral is counted once a tick 0, with a record at the fourth and at each 1 024 after it. -/
def Body.countDeferral (b : Body) : Body :=
  if b.power.deferredAt.head?.any (fun t => decide (b.clock.beatStart ≤ t)) then b
  else
    let n := b.power.deferred + 1
    let b := { b with power := { b.power with
      deferred := n, deferrals := wrap 32 (b.power.deferrals + 1), deferredAt := b.clock.now :: b.power.deferredAt } }
    if 4 ≤ n ∧ (n - 4) % 1024 = 0 then b.powerRecord evDeferred else b

/-- A clock switch is due at tick 0: made, or deferred by droop, which holds the voltage of the higher point (R275, R285). -/
def Body.switchTo (b : Body) (op : Nat) : Body :=
  if op = b.power.op then { b with power := { b.power with switch := none, deferred := 0, vcoreMv := b.coreMv op } }
  else if b.droopRecent then
    { b with power := { b.power with
      switch := some ⟨op, b.clock.beat, decide (b.power.op < op)⟩, vcoreMv := b.coreMv (max op b.power.op) } }.countDeferral
  else { b with power := { b.power with op := op, switch := none, deferred := 0, vcoreMv := b.coreMv op } }

/-! ## The end of a beat (R273, Table 11.7) -/

def Body.beatReport (b : Body) : BeatReport :=
  let p := b.power
  { beat := b.clock.beat, pavg := p.mean, ppeak := p.peak, grant := p.grant, rally := if p.sumNs = 0 then 0 else roundDiv p.sumRally (p.sumNs * microW),
    duty15 := p.duty15, op := p.op, fixed := p.fixed, duty := p.duty, flags := b.powerFlags,
    tempMax := match p.west ++ p.east with
      | [] => 0
      | t :: ts => ts.foldl max t }

/-- The sums of a beat start. -/
def Power.fresh (p : Power) : Power :=
  { p with sumP := 0, sumDuty := 0, sumRally := 0, sumNs := 0, peak := 0, dutyAlwaysZero := true, rampUnmet := false, rally := false }

/-- Averages, report and registers of the beat that ends; the sums start again. -/
def Body.closeBeat (b : Body) : Body :=
  let r := b.beatReport
  let p := b.power
  { b with power := { p with
    report := some r, lastPavg := r.pavg, lastPeak := r.ppeak, lastRally := r.rally, lastFlags := r.flags,
    capUnmetBeats := if p.capUnmet then wrap 32 (p.capUnmetBeats + 1) else p.capUnmetBeats,
    pavgPrev := r.pavg, history := r.pavg :: p.history.take 63 }.fresh }

/-- R282: a raise takes effect at (b+2, 0). -/
def Body.raiseDue (b : Body) : Body :=
  match b.power.pendingRaise with
  | some (w, beat) => if beat ≤ b.clock.beat then { b with power := { b.power with grant := w, pendingRaise := none } } else b
  | none => b

/-! ## Droop (R284) -/

def Body.droopDetected (b : Body) (h : Nat) : Body :=
  { b with power := { b.power with droopWest := b.power.droopWest || decide (h = 0), droopEast := b.power.droopEast || decide (h = 1),
                                   lastStretch := some b.clock.now } }

def execDroopDetected (half : Nat) (s : State) : Host.Outcome State Fault Refusal :=
  onBody (decide (half < 2)) s (fun b => b.droopDetected half)

/-- The stretch ends; its cycles are counted. -/
def Body.droopRelease (b : Body) (h cycles : Nat) : Body :=
  if (if h = 0 then b.power.droopWest else b.power.droopEast) then
    { b with power := { b.power with
      droopWest := b.power.droopWest && decide (h ≠ 0), droopEast := b.power.droopEast && decide (h ≠ 1),
      lastStretch := some b.clock.now, stretched := wrap 64 (b.power.stretched + cycles) } }
  else b

def execDroopRelease (half cycles : Nat) (s : State) : Host.Outcome State Fault Refusal :=
  onBody (decide (half < 2)) s (fun b => b.droopRelease half cycles)

/-! ## Heat (R286) -/

/-- Pitches and engines of a half. -/
def unitsOf (h : Nat) : List Nat := [2 * h, 2 * h + 1]

/-- A sensor is known to read at least `t`. -/
def Body.hotSensor (b : Body) (h i t : Nat) : Body :=
  let i := b.sensorPlace h i
  let f := fun (xs : List Int) => if i < xs.length then xs.modify i (fun x => max x t) else xs ++ [(t : Int)]
  { b with power := if h = 0 then { b.power with west := f b.power.west } else { b.power with east := f b.power.east } }

def Body.dieOvertemp (b : Body) (h sensor : Nat) : Body :=
  let b := if b.sensorOut h sensor then b else b.hotSensor h sensor b.book.tables.power.stopC
  if b.sensorOut h sensor || b.power.hotStopped.contains h then b
  else
    let b := b.stopUnits (unitsOf h)
    { b with power := { b.power with hotStopped := h :: b.power.hotStopped } }.raise tHalf h .contained kDieOvertemp sensor

def execDieOvertemp (half sensor : Nat) (s : State) : Host.Outcome State Fault Refusal :=
  onBody (decide (half < 2)) s (fun b => b.dieOvertemp half sensor)

/-- Units whose partition runs a fixture and is not held by a retirement. -/
def Body.resumable (b : Body) (i : Nat) : Bool :=
  match b.ownerOf i with
  | some p => decide ((b.part p).fstate = .running) && !b.retiring p
  | none => true

def Body.overtempResume (b : Body) (h : Nat) : Body :=
  if b.power.hotStopped.contains h && !b.halfWarm h then
    let b := { b with power := { b.power with hotStopped := b.power.hotStopped.filter (· != h) } }
    b.resumeUnits ((unitsOf h).filter b.resumable)
  else b

def execDieOvertempResume (half : Nat) (s : State) : Host.Outcome State Fault Refusal :=
  onBody (decide (half < 2)) s (fun b => b.overtempResume half)

/-- At TRIP_C the half takes the fatal path. -/
def Body.dieOvertrip (b : Body) (h sensor : Nat) : Body :=
  if b.sensorOut h sensor then b else (b.hotSensor h sensor b.book.tables.power.tripC).raise tHalf h .fatal kDieOvertrip sensor

def execDieOvertrip (half sensor : Nat) (s : State) : Host.Outcome State Fault Refusal :=
  onBody (decide (half < 2)) s (fun b => b.dieOvertrip half sensor)

end Sys2Proof.Machine
end

