-- ==== Sys2Proof/Machine/Retire.lean ====
section
/-!
DEFINITION. Retiring memory slots (09, R224, Table 9.13, Table 9.14, R440; 15, R366 to R369): relocation of bound granules, restoring
lost contents, and slots that leave RETIRED again.
-/

namespace Sys2Proof.Machine

/-! ## A step starts again (R109 steps 1 to 3, Table 9.14) -/

/-- Update operations of the step in progress that have been issued stand before it again: the layers they updated go back to their
bits before the step (R366; log 35). -/
def Partition.rewindEarly (x : Partition) : Partition :=
  match x.fix with
  | none => x
  | some f =>
    let s := x.streams.getD 2 Stream.reset
    let at_ := firstOf f 2 x.pass.step
    if at_ < s.pos then
      let k := s.pos - at_
      let c := (s.count + 2 ^ 30 - k) % 2 ^ 30
      let undone := fun (t : Token) =>
        decide (tokProducer t = 2) && decide (1 ≤ (tokSeq t + 2 ^ 30 - c) % 2 ^ 30 ∧ (tokSeq t + 2 ^ 30 - c) % 2 ^ 30 ≤ k)
      { x with streams := alter 2 (fun _ => ⟨at_, c, none⟩) x.streams,
               flights := x.flights.filter (fun fl => !(decide (fl.stream = 2) && decide (at_ ≤ fl.idx))),
               board := x.board.filter (fun d => !undone d.token) }
    else x

/-- The step in progress is abandoned and stands at its start: early updates undone by the journal, streams rewound. -/
def Body.restartStep (b : Body) (p : Nat) : Body :=
  ((b.rollback p).alterPart p Partition.rewindEarly).abandonStep p

/-! ## Relocation (Table 9.13 step 2) -/

/-- A rebind: new address, bytes, old address. -/
abbrev Rebind := Nat × Nat × Nat

/-- Pieces of a new place matched with pieces of an old one. -/
def pairPieces : Nat → List Segment → List Segment → List Rebind
  | 0, _, _ => []
  | _, [], _ => []
  | _, _, [] => []
  | fuel + 1, n :: ns, o :: os =>
    let k := min n.bytes o.bytes
    let ns' := if n.bytes = k then ns else ⟨n.addr + k, n.bytes - k⟩ :: ns
    let os' := if o.bytes = k then os else ⟨o.addr + k, o.bytes - k⟩ :: os
    (n.addr, k, o.addr) :: pairPieces fuel ns' os'

/-- Segments with the part at or above `hi` replaced, in place, by pieces of `free`. -/
def rebindSegments (hi : Nat) : List Segment → List Segment → List Segment
  | [], _ => []
  | s :: ss, free =>
    if s.addr + s.bytes ≤ hi then s :: rebindSegments hi ss free
    else
      let keep := hi - s.addr
      let go := takeBytes (free.length + 1) free (s.bytes - keep)
      (if keep = 0 then [] else [⟨s.addr, keep⟩]) ++ go.1 ++ rebindSegments hi ss go.2
where
  /-- The first `n` bytes of some pieces, and what is left. -/
  takeBytes : Nat → List Segment → Nat → List Segment × List Segment
    | 0, fs, _ => ([], fs)
    | _, [], _ => ([], [])
    | fuel + 1, f :: fs, n =>
      if n = 0 then ([], f :: fs)
      else if f.bytes ≤ n then
        let r := takeBytes fuel fs (n - f.bytes)
        (f :: r.1, r.2)
      else ([⟨f.addr, n⟩], ⟨f.addr + n, f.bytes - n⟩ :: fs)

/-- What lies at or above `hi`, in the order of the segments. -/
def above (hi : Nat) (ss : List Segment) : List Segment :=
  (ss.filter (fun s => decide (hi < s.addr + s.bytes))).map (fun s => ⟨max s.addr hi, s.addr + s.bytes - max s.addr hi⟩)

def rebound (ms : List Rebind) (a : Nat) : Nat :=
  match ms.find? (fun m => decide (m.2.2 ≤ a ∧ a < m.2.2 + m.2.1)) with
  | some m => a - m.2.2 + m.1
  | none => a

/-- A lost slot's spans follow one rebind: what had been written since stays written at the new place. -/
def LostSlot.move (l : LostSlot) (m : Rebind) : LostSlot :=
  let carried := l.rewritten.filterMap (fun w =>
    let lo := max w.1 m.2.2
    let hi := min (w.1 + w.2) (m.2.2 + m.2.1)
    if lo < hi then some (lo - m.2.2 + m.1, hi - lo) else none)
  let left := l.rewritten.flatMap (fun w =>
    let parts := [(w.1, min (w.1 + w.2) m.1 - w.1), (max w.1 (m.1 + m.2.1), w.1 + w.2 - max w.1 (m.1 + m.2.1))]
    if m.1 < w.1 + w.2 ∧ w.1 < m.1 + m.2.1 then parts.filter (fun x => decide (0 < x.2)) else [w])
  { l with moved := m :: l.moved, rewritten := carried ++ left }

/-- One rebind: the bytes, the poison and the lost contents move to the new place. -/
def Body.moveSpan (b : Body) (m : Rebind) : Body :=
  let s := b.store
  let inOld := fun (a : Nat) => decide (m.2.2 ≤ a ∧ a < m.2.2 + m.2.1)
  let bytes := s.cells.filter (fun c => inOld c.1)
  let cells := bytes.foldl (fun (acc : Memory) c => acc.set (c.1 - m.2.2 + m.1) c.2)
    (Memory.clear (Memory.clear s.cells m.2.2 m.2.1) m.1 m.2.1)
  let bad := s.poison.filter (fun c => inOld (c * 64))
  let s := { s with cells := cells, lost := s.lost.map (fun l => l.move m) }
  let s := ((cwsOf m.1 m.2.1).filter s.poisoned ++ bad).foldl Store.cleanCw s
  bad.foldl (fun b c =>
    let c' := (c * 64 - m.2.2 + m.1) / 64
    { b with store := b.store.poisonCw (b.sourceAt (c' * 64)) c' }) { b with store := s }

/-- Windows, and adds that wait in them, follow the rebinds. -/
def Body.moveWindows (b : Body) (ms : List Rebind) : Body :=
  let b := b.rebaseWindows
  let adds := b.store.windows.map (fun (w : AddWindow) =>
    { w with index := rebound ms (w.index * 2048) / 2048, adds := w.adds.map (fun (a : AddReq) => { a with addr := rebound ms a.addr }) })
  let held := b.store.heldAdds.map (fun (a : AddReq) => { a with addr := rebound ms a.addr })
  { b with store := { b.store with windows := adds, heldAdds := held } }

/-- Bound granules at or above a LIMIT go to the lowest free granules below it, in ascending partition order (log 16). -/
def Body.relocatePart (b : Body) (p : Nat) : Body :=
  let g := (b.part p).grant
  let inf := above b.store.limit g.infield
  let outHi := outfieldBase + b.store.outLimit
  let out := above outHi g.outfield
  let newIn := if inf.isEmpty then [] else b.bindInfield (sumBytes inf)
  let newOut := if out.isEmpty then [] else b.bindOutfield (sumBytes out)
  let ms := pairPieces (newIn.length + inf.length) newIn inf ++ pairPieces (newOut.length + out.length) newOut out
  if ms.isEmpty then b
  else
    let b := ms.foldl Body.moveSpan b
    let b := b.alterPart p (fun x => { x with grant := { x.grant with
      infield := rebindSegments b.store.limit x.grant.infield newIn,
      outfield := rebindSegments outHi x.grant.outfield newOut } })
    b.moveWindows ms

/-- Only where the free space takes all that has to move: else the re-check decides first who keeps a grant. -/
def Body.relocate (b : Body) : Body := (List.range 4).foldl (fun b p =>
  let g := (b.part p).grant
  let inf := sumBytes (above b.store.limit g.infield)
  let out := sumBytes (above (outfieldBase + b.store.outLimit) g.outfield)
  if sumBytes (b.bindInfield inf) < inf ∨ sumBytes (b.bindOutfield out) < out then b else b.relocatePart p) b

/-! ## Lost contents (Table 9.14) -/

/-- Some byte of a place was lost. -/
def Body.lostAt (b : Body) (ls : List LostSlot) (p : Nat) (l : Loc) (n : Nat) : Bool :=
  ((b.part p).spans l n).any (fun (a, _) => ls.any (fun w => w.inSlot (w.origin a)))

/-- Pages of a pool that touch the lost slots. -/
def Body.touchedPages (b : Body) (ls : List LostSlot) (p : Nat) (q : PoolRec) : List Nat :=
  (List.range q.pages).filter (fun e => (List.range q.layers).any (fun y => b.lostAt ls p ⟨.infield, pageOff q y e⟩ q.pageBytes))

def Body.loseKv (b : Body) (ls : List LostSlot) (p : Nat) (f : FixtureImage) : Body :=
  let lost := f.pools.flatMap (fun q => (b.touchedPages ls p q).map (fun e => (q.id, e)))
  b.alterPart p (fun x => { x with attn := { x.attn with
    lostPages := lost.map (fun l => (l.1, l.2, [])) ++ x.attn.lostPages.filter (fun o => !lost.contains (o.1, o.2.1)) } })

/-- Lists whose header or entries touch the lost slots; `caps` gives each list's capacity as it stood. -/
def Body.loseLists (b : Body) (ls : List LostSlot) (p : Nat) (caps : List (Nat × Nat)) : Body :=
  let lost := (caps.filter (fun c => b.lostAt ls p ⟨.infield, c.1⟩ (64 + 4 * c.2))).map (·.1)
  b.alterPart p (fun x => { x with attn := { x.attn with lostLists := unionRising lost x.attn.lostLists } })

/-- Capacities of the initialised lists. -/
def Body.listCaps (b : Body) (p : Nat) : List (Nat × Nat) :=
  (b.part p).attn.lists.map (fun off => (off, leValue (b.readLoc p ⟨.infield, off + 12⟩ 4)))

/-- Secured tensors of the fixture. -/
def securedSpans (f : FixtureImage) : List (Loc × Nat) := (ownedLayers f).flatMap (fun l => layerSpans f l ++ layerRoots f l)

/-- Work of the step in progress was lost: bench entries outside the scratchpads, buckets, gradient chains, the journal
(Table 9.14). -/
def Body.stepTouched (b : Body) (ls : List LostSlot) (p : Nat) (f : FixtureImage) : Bool :=
  let x := b.part p
  let js := x.upd.journal
  x.pass.bench.any (fun e => (x.entrySpans e).any (fun (a, _) => ls.any (fun w => w.inSlot (w.origin a))))
    || (!js.isEmpty && b.lostAt ls p (journalLoc f 0) (journalUsed f js))
    || f.buckets.any (fun k => b.lostAt ls p k.loc (64 + bucketBytes k))
    || (stepChains f x x.pass.step).any (fun (l, n) => b.lostAt ls p l n)

/-! ## Restoring (R366 to R368) -/

/-- A source can be reached: the own image unless it lost granules, the buddy over a link, the host over PCIe. -/
def Body.sourceUp (b : Body) (own : Option Nat) (i : Image) (bit : Nat) : Bool :=
  match bit with
  | 0 => !i.ownLost
  | 1 =>
    (match own.bind (fun m => b.book.tables.snapshot.buddy.bind (fun d => b.edge? m d)) with
    | some e => b.linkUp e.primary.outLink || (b.detourOf e).isSome
    | none => false)
  | _ => b.host.pcieUp

/-- Every section of the image can be read. -/
def Body.imageUp (b : Body) (own : Option Nat) (i : Image) : Bool := i.placed.all (b.sourceUp own i)

/-- Bit of a source in Table 15.2. -/
def Dest.bit : Dest → Nat
  | .own => 0
  | .buddy => 1
  | .host => 2

/-- The fixture's images that a source holds and that can be reached, newest first. -/
def Body.imagesFrom (b : Body) (own : Option Nat) (p : Nat) (f : FixtureImage) (d : Dest) : List Image :=
  (b.imagesAt p (Dest.bit d)).filter (fun i => decide (i.fixtureHash = f.hash) && b.imageUp own i)

/-- The image that the keepers restore from, sources taken in RESTORE_ORDER (R366 to R368): one of the base step, else the newest. -/
def Body.newestImage (b : Body) (own : Option Nat) (p : Nat) (f : FixtureImage) : Option Image :=
  let order := b.book.tables.snapshot.order
  match order.findSome? (fun d => (b.imagesFrom own p f d).find? (fun i => decide (i.step + 1 = (b.part p).pass.step))) with
  | some i => some i
  | none => order.foldl (fun (best : Option Image) d =>
    match best, (b.imagesFrom own p f d).head? with
    | some x, some y => if x.step < y.step then some y else some x
    | none, y => y
    | x, none => x) none

/-- Bytes go back only to the granules that were lost. -/
def putLost (ls : List LostSlot) : List (Nat × Nat) → List Byte → Store → Store
  | [], _, s => s
  | (a, k) :: rs, vs, s =>
    putLost ls rs (vs.drop k) (if ls.any (fun w => w.inSlot (w.origin a)) then s.writeBytes a (vs.take k) else s)

def Body.putLostSpan (b : Body) (ls : List LostSlot) (p : Nat) (s : Loc × List Byte) : Body :=
  { b with store := putLost ls ((b.part p).spans s.1 s.2.length) s.2 b.store }

/-- R366 for one section: a layer updated early comes whole from the image, else only what was lost. -/
def Body.putFast (b : Body) (ls : List LostSlot) (p : Nat) (early : List Nat) (s : SnapSection) : Body :=
  match s with
  | .layer l ss => if early.contains l then b.putSection p s else ss.foldl (fun b x => b.putLostSpan ls p x) b
  | .roots l ss _ => if early.contains l then b.putSection p s else ss.foldl (fun b x => b.putLostSpan ls p x) b
  | .groups gs =>
    b.alterPart p (fun x => { x with upd := { x.upd with
      groups := (gs.filter (fun g => x.upd.advanced.contains (g.id, x.pass.step))).foldl setGroup x.upd.groups } })
  | _ => b

/-- The fast path. -/
def Body.restoreFast (b : Body) (ls : List LostSlot) (p : Nat) (i : Image) : Body :=
  let early := (b.part p).upd.journal.map (·.layer)
  let b := i.sections.foldl (fun b s => b.putFast ls p early s) b
  b.alterPart p (fun x => { x with
    upd := { x.upd with journal := [], advanced := x.upd.advanced.filter (fun a => decide (a.2 ≠ x.pass.step)) },
    snap := { x.snap with restores := wrap 32 (x.snap.restores + 1), restoresSince := x.snap.restoresSince + 1 } })

/-- The slow path: the whole partition, left STOPPED (R367). -/
def Body.restoreSlow (b : Body) (p : Nat) (i : Image) : Body :=
  ((b.restoreImage p i none).1.alterPart p (fun x => { x with snap := { x.snap with rollback := i.step } })).attention p 1

/-- R365 for the keepers' restore: the own copy broke off at a section; the partition stays STOPPED with RESTORE_INCOMPLETE set. -/
def Body.restoreTorn (b : Body) (p n : Nat) (i : Image) : Body := (b.restoreBreaks p n i).stopPartition p

/-- R368: no source holds the image: the partition stays STOPPED with RESTORE_INCOMPLETE set. -/
def Body.restoreNone (b : Body) (p : Nat) : Body :=
  (b.stopPartition p).alterPart p (fun x => { x with snap := { x.snap with incomplete := true } })

/-- Secured state of a partition is restored, and a step in progress starts again. -/
def Body.restoreLost (b : Body) (own : Option Nat) (ls : List LostSlot) (p : Nat) (f : FixtureImage) : Body :=
  let training := !FixtureImage.serving f
  if (securedSpans f).any (fun s => b.lostAt ls p s.1 s.2) then
    match b.newestImage own p f with
    | some i =>
      match b.ownReads f i with
      | some (.crcBad n) | some (.failed _ n) => b.restoreTorn p n i
      | _ =>
        if i.step + 1 = (b.part p).pass.step then
          let b := b.restoreFast ls p i
          if training then b.restartStep p else b
        else b.restoreSlow p i
    | none => b.restoreNone p
  else if training && b.stepTouched ls p f then b.restartStep p
  else b

/-- Table 9.14 for one partition. -/
def Body.lostContents (b : Body) (own : Option Nat) (ls : List LostSlot) (caps : List (List (Nat × Nat))) (p : Nat) : Body :=
  match (b.part p).holds, (b.part p).fix with
  | true, some f => ((b.loseKv ls p f).loseLists ls p (caps.getD p [])).restoreLost own ls p f
  | _, _ => b

/-- R368: an own image some granule of which lies on a lost outfield slot. -/
def Body.loseOwnImages (b : Body) (ls : List LostSlot) (p : Nat) : Body :=
  let lost := fun (i : Image) =>
    (List.range (min 64 (i.lengths.getD 0 0 / granuleBytes + 1))).any (fun k => ls.any (fun w => w.inSlot (i.ownAt + k * granuleBytes)))
  b.alterPart p (fun x => { x with snap := { x.snap with
    images := x.snap.images.map (fun i => if i.held.testBit 0 && lost i then { i with ownLost := true } else i) } })

/-! ## Table 9.13 -/

/-- Step 1: partitions whose grant the slots touch stop, and what they were copying is discarded (R361). -/
def Body.beginRetire (b : Body) (inf out : List Nat) (kind : Nat) : Body :=
  let inf := inf.filter (fun s => !b.store.retired.contains s && !b.store.pendingRetire.any (fun r => r.infield.contains s))
  let out := out.filter (fun s => !b.store.outRetired.contains s && !b.store.pendingRetire.any (fun r => r.outfield.contains s))
  if inf.isEmpty && out.isEmpty then b
  else
    let r : Retirement := ⟨inf, out⟩
    let b := (List.range 4).foldl (fun b p =>
      if r.touches (b.part p).grant then
        let b := b.failSnapshot p kind
        if (b.part p).fstate = .running then b.stopUnits (b.part p).pitches else b
      else b) b
    { b with store := { b.store with pendingRetire := b.store.pendingRetire ++ [r] } }

/-- Slots of channels numbered as `cmdChannel` numbers them. -/
def Body.retireChannels (b : Body) (cs : List Nat) (kind : Nat) : Body :=
  b.beginRetire ((cs.filter (· < 384)).map b.chanSlot) ((cs.filter (fun c => decide (384 ≤ c))).map b.chanSlot) kind

/-- Steps 2 to 4 for one retirement: the slots join, LIMIT falls, bound granules at or above it move, contents are handled. -/
def Body.joinRetired (b : Body) (own : Option Nat) (r : Retirement) : Body :=
  let caps := (List.range 4).map b.listCaps
  let b1 := if r.infield.isEmpty then b else b.loseSlots false r.infield
  let b2 := if r.outfield.isEmpty then b1 else b1.loseSlots true r.outfield
  let n := b2.store.lost.length - b.store.lost.length
  let b := { b2 with store := { b2.store with
    retired := unionRising r.infield b2.store.retired, outRetired := unionRising r.outfield b2.store.outRetired,
    returning := b2.store.returning.filter (fun s => !r.infield.contains s),
    outReturning := b2.store.outReturning.filter (fun s => !r.outfield.contains s) } }
  let b := (List.range 4).foldl (fun b p => b.loseOwnImages (b.store.lost.take n) p) b
  let b := b.relocate
  let ls := b.store.lost.take n
  (List.range 4).foldl (fun b p => b.lostContents own ls caps p) b

/-- Steps 2 to 5 of every retirement under way, at a beat boundary (RETIRED_JOIN). -/
def Body.applyRetirements (b : Body) (own : Option Nat) : Body :=
  match b.store.pendingRetire with
  | [] => b
  | rs =>
    let hit := (List.range 4).filter b.retiring
    let b := rs.foldl (fun b r => b.joinRetired own r) { b with store := { b.store with pendingRetire := [] } }
    let b := b.recheck.relocate
    hit.foldl (fun b p => if (b.part p).fstate = .running then b.resumeUnits (b.part p).pitches else b) b

/-- R369: slots of a returned half leave RETIRED at the first boundary without a grant in that memory; what lay there is lost. -/
def Body.unretire (b : Body) : Body :=
  let noIn := b.parts.all (fun x => x.grant.infield.isEmpty)
  let noOut := b.parts.all (fun x => x.grant.outfield.isEmpty)
  let inf := b.store.returning
  let out := b.store.outReturning
  let b := if noIn && !inf.isEmpty then
      { b with store := { b.store with retired := b.store.retired.filter (fun s => !inf.contains s), returning := [] } }.loseSlots false inf
    else b
  if noOut && !out.isEmpty then
    { b with store := { b.store with outRetired := b.store.outRetired.filter (fun s => !out.contains s), outReturning := [] } }.loseSlots
      true out
  else b

/-! ## CHANNEL_RETIRE -/

/-- The channel failed permanently (R223, R226, R439). -/
def Body.chanFailed (b : Body) (c : Nat) : Bool :=
  (if c < 384 then b.store.channels.getD c Channel.reset else b.store.outChannels.getD (c - 384) Channel.reset).failed

/-- A package's failure retires all four outfield slots of its half, a shutdown all 32 of the stack (R226, R439). -/
def Body.channelRetire (b : Body) (c : Nat) : Body :=
  if c < 384 ∧ (b.store.stackCtl.getD (c / 32) MemCtl.reset).level = .shutdown then
    b.retireChannels (List.range' (c / 32 * 32) 32) kStackShutdown
  else if 384 ≤ c ∧ (List.range' ((c - 384) / 4 * 4 + 384) 4).all b.chanFailed then
    b.retireChannels (List.range' ((c - 384) / 4 * 4 + 384) 4) kPackageFailed
  else if b.chanFailed c then b.retireChannels [c] kChannelFailed
  else b

def execChannelRetire (chan : Nat) (s : State) : Host.Outcome State Fault Refusal :=
  onBody (decide (chan < 392)) s (fun b => b.channelRetire chan)

end Sys2Proof.Machine
end

