-- ==== Sys2Proof/Machine/Bandstand.lean ====
section
/-!
DEFINITION. The bandstand (11, R259 to R262, R441) and the schedule entries that fire (R263 to R265, R278, R311, R350).
-/

namespace Sys2Proof.Machine

/-! ## Lock (R260, R261, R262, R441) -/

/-- The beat that an accepted edge begins by a 1588 time, if the edge lies within BEAT_NS ÷ 4 of a beat's start by it (log 40). -/
def beatOfEdge (c : BeatConfig) (edge at_ tai : Nat) : Option Nat :=
  let t := tai + edge - at_
  let r := (t - c.beatEpoch) % c.beatNs
  if at_ ≤ tai + edge ∧ c.beatEpoch ≤ t ∧ (4 * r ≤ c.beatNs ∨ 4 * (c.beatNs - r) ≤ c.beatNs) then
    some ((t - c.beatEpoch + c.beatNs / 2) / c.beatNs)
  else none

/-- R441: entries before the first boundary after lock never fire; barriers are decided again (R270; log 46). -/
def Sched.discardStale (sc : Sched) (beat : Nat) : Sched :=
  let gone := sc.entries.filter (fun e => decide (e.kind ≠ 2) && decide (e.beat ≤ beat))
  { sc with entries := sc.entries.filter (fun e => !(decide (e.kind ≠ 2) && decide (e.beat ≤ beat))),
            barriers := sc.barriers.map (fun k => { k with releasing := none }),
            stale := wrap 32 (sc.stale + gone.length) }

/-- R272: a beat's measurement starts at the lock; its intervals start at tick 0 of the beat (R277). -/
def Power.relock (p : Power) (start now : Nat) : Power :=
  { p.fresh with pavgPrev := p.mean, lastEnd := start + (now - start) / 10000 * 10000 }

/-- R283: at the first lock the beats without a grant message start to count. -/
def Power.seedGrant (p : Power) (first : Bool) (beat : Nat) : Power := if first then { p with grantBeat := beat } else p

/-- SEEKING ends: LOCKED, with the beat's number from IEEE 1588 and its length from the table in force. -/
def Body.tryLock (b : Body) : Body :=
  match b.clock.band, b.clock.edgeAt, b.clock.tai with
  | .seeking, some edge, some (at_, tai) =>
    let c := b.book.tables.beat
    (match beatOfEdge c edge at_ tai with
    | some n =>
      let k := (b.clock.now - edge) / c.beatNs
      let first := b.clock.beatNs = 0
      { b with
        clock := { b.clock with band := .locked, beat := (n + k) % 2 ^ 48, beatNs := c.beatNs, beatStart := edge + k * c.beatNs, holdBeats := 0,
                                edgeAt := none, made := false },
        sched := b.sched.discardStale ((n + k) % 2 ^ 48),
        power := (b.power.relock (edge + k * c.beatNs) b.clock.now).seedGrant first ((n + k) % 2 ^ 48) }
    | none => b)
  | _, _, _ => b

/-! ## Edges (R259, R261) -/

/-- An edge rejected or missing. -/
def Clock.reject (c : Clock) : Clock :=
  let c := { c with edgesRejected := wrap 32 (c.edgesRejected + 1) }
  match c.band with
  | .locked => { c with band := .holdover, holdBeats := 1 }
  | _ => c

/-- An accepted edge: the phase moves 1 tick toward it. -/
def Clock.accept (c : Clock) (offset : Int) : Clock :=
  { c with band := .locked, holdBeats := 0,
           beatStart := if 0 < offset then c.beatStart + 1 else if offset < 0 then c.beatStart - 1 else c.beatStart }

def Body.beatEdge (b : Body) (offset : Int) : Body :=
  match b.clock.band with
  | .locked | .holdover | .unlocked =>
    if offset.natAbs ≤ b.book.tables.beat.edgeTol then { b with clock := b.clock.accept offset } else { b with clock := b.clock.reject }
  | .seeking => if b.clock.refPresent then ({ b with clock := { b.clock with edgeAt := some b.clock.now } }).tryLock else b
  | .free => b

def execBeatEdge (offset : Int) (s : State) : Host.Outcome State Fault Refusal := onBody true s (fun b => b.beatEdge offset)

def Body.edgeMissing (b : Body) : Body := if b.hasBeat then { b with clock := b.clock.reject } else b

def execBeatEdgeMissing (s : State) : Host.Outcome State Fault Refusal := onBody true s Body.edgeMissing

/-! ## IEEE 1588 (R260) -/

/-- In SEEKING it may complete a lock; later, a time that names another beat is a corrected message, and the count stays. -/
def Body.ptpTime (b : Body) (tai : Nat) : Body :=
  match b.clock.band with
  | .seeking => if b.clock.refPresent then ({ b with clock := { b.clock with tai := some (b.clock.now, tai) } }).tryLock else b
  | .free => b
  | _ =>
    let n := (tai - b.book.tables.beat.beatEpoch) / b.beatNs % 2 ^ 48
    if n = b.clock.beat then b else b.raise tBand 0 .corrected kBeatMismatch n

def execPtpTime (tai : Nat) (s : State) : Host.Outcome State Fault Refusal := onBody true s (fun b => b.ptpTime tai)

/-- R261: UNLOCKED. -/
def Body.holdoverExpired (b : Body) : Body :=
  if b.clock.band = .holdover ∧ b.book.tables.beat.holdoverBeats < b.clock.holdBeats then
    ({ b with clock := { b.clock with band := .unlocked } }).raise tBand 0 .contained kBeatLost 0
  else b

def execHoldoverExpired (s : State) : Host.Outcome State Fault Refusal := onBody true s Body.holdoverExpired

/-- R261: FREE. -/
def Body.refLost (b : Body) : Body :=
  let b := { b with clock := { b.clock with refPresent := false },
                    boot := { b.boot with start := if b.boot.start = .testing then .waitRef else b.boot.start } }
  if b.boot.start = .ready ∧ b.clock.band ≠ .free then
    let b := { b with clock := { b.clock with band := .free, edgeAt := none, tai := none } }
    let b := b.raise tBand 0 .contained kRefLost 0
    (List.range 4).foldl (fun b p => b.faultStop p kRefLost) b
  else b

def execRefLost (s : State) : Host.Outcome State Fault Refusal := onBody true s Body.refLost

/-! ## The voltage of a raise (R275) -/

/-- MODE as it leaves the controller's settings. -/
def Power.inMode (p : Power) (fixed : Bool) (op : Nat) : Power :=
  let p := { p with fixed := fixed, fixedOp := op }
  { p with op := if fixed then op else p.nearest p.op }

/-- OP_RANGE as it leaves them. -/
def Power.inRange (p : Power) (lo hi : Nat) : Power :=
  let p := { p with opFloor := lo, opCeiling := hi }
  { p with op := if p.fixed then p.op else p.nearest p.op }

/-- What an entry will make of the tables and the point in force. -/
def Body.foresee (b : Body) (e : SchedEntry) : Body :=
  if e.kind = 7 then { b with power := b.power.inMode (e.arg0.getLsbD 0) (e.arg0.extractLsb' 8 4).toNat }
  else if e.kind = 3 then { b with power := b.power.inRange (e.arg0.extractLsb' 0 4).toNat (e.arg0.extractLsb' 4 4).toNat }
  else if e.kind = 4 then
    (match b.book.staging.getD (e.arg0.toNat % 4) .empty with
    | .staged img =>
      let t := withImage b.book.tables img
      if b.swapCode img ≠ rbOk then b
      else
        { b with
          book := { b.book with tables := t },
          power := if t.power = b.book.tables.power then b.power else b.power.inMode t.power.fixedMode t.power.fixedOp }
    | _ => b)
  else b

/-- Tables and point after the entries of tick 0 of a beat, from `op` on. -/
def Body.foreseen (b : Body) (beat op : Nat) : Body :=
  let due := fun (k : Nat) => b.sched.entries.filter (fun e => decide (e.kind = k) && decide (e.beat = beat) && decide (e.tick = 0))
  (due 4 ++ due 7 ++ due 3).foldl Body.foresee { b with power := { b.power with op := op } }

/-- The voltage that a raise by the entries of tick 0 of a beat needs; `mv` where they make none (R275). -/
def Body.voltageFor (b : Body) (beat op mv : Nat) : Nat :=
  let c := b.foreseen beat op
  if op < c.power.op then max mv (c.coreMv c.power.op) else mv

/-- The mean of the beat so far at a moment: what the draw has been since the last interval's end is measured by no row, and stays open
(log 123). -/
def Body.meanAt (b : Body) (at_ : Nat) : Nat :=
  let dt := at_ - b.power.lastEnd
  if dt = 0 ∧ b.power.sumNs = 0 then Config.partPower b.free else b.power.meanWith (Config.partPower b.free) dt

/-- R275, R278: at (b−1, BEAT_NS − 20 000) a raise by one starts, and the voltage rises, with it or for the raise that an entry of the next
beat's tick 0 will make. -/
def Body.opRaiseStart (b : Body) : Body :=
  if !b.hasBeat then b
  else
    let at_ := b.clock.beatStart + (b.beatNs - 20000)
    let op := b.power.op
    let c := { b.until_ at_ with free := b.free + 1 }
    let raise := !b.power.fixed && b.power.switch.isNone && decide (op < b.power.opCeiling) && b.raiseFits (b.meanAt at_)
    let want := if raise then op + 1 else (b.power.switch.elim op (fun x => max x.target op))
    { c with power := { c.power with
      switch := if raise then some ⟨op + 1, b.clock.beat + 1, true⟩ else b.power.switch,
      vcoreMv := b.voltageFor (b.clock.beat + 1) want (if raise then b.coreMv (op + 1) else b.power.vcoreMv) } }

def execOpRaiseStart (s : State) : Host.Outcome State Fault Refusal := onBody true s Body.opRaiseStart

/-- After the boundary's own change the voltage stays up for the raise that an entry of this tick 0 makes. -/
def Body.holdVoltage (b : Body) : Body :=
  { b with power := { b.power with vcoreMv := b.voltageFor b.clock.beat b.power.op b.power.vcoreMv } }

/-! ## BEAT_BOUNDARY (R259, R273, R275, R282, R285, R291, R224, R369) -/

/-- Module-wide MODULE duties move between keepers 3 and 7 (R291). -/
def Body.leadHandover (b : Body) : Body :=
  { b with keepers := { b.keepers with
    lead := if !b.fenced 0 then 0 else if !b.fenced 1 then 1 else b.keepers.lead } }

/-- The bandstand's own count goes on by one. -/
def Clock.nextBeat (c : Clock) (beatNs : Nat) : Clock :=
  let held := decide (c.band = .holdover) || decide (c.band = .unlocked)
  { c with beat := (c.beat + 1) % 2 ^ 48, beatStart := c.beatStart + beatNs, made := true,
           holdBeats := if c.band = .holdover then c.holdBeats + 1 else c.holdBeats,
           holdoverTotal := if held then wrap 32 (c.holdoverTotal + 1) else c.holdoverTotal }

def Body.beatBoundary (b : Body) (own : Option Nat) : Body :=
  if !b.hasBeat then b
  else
    let b := b.releases b.sched.barriers.length
    let want := b.wantedOp
    let b := (b.until_ (b.clock.beatStart + b.beatNs)).closeBeat
    let b := { b with clock := b.clock.nextBeat b.beatNs }
    let b := { b with power := { b.power with lastEnd := b.clock.beatStart } }
    let b := (b.raiseDue.switchTo want).holdVoltage.leadHandover
    if b.fenced 0 && b.fenced 1 then b else (b.applyRetirements own).unretire

def execBeatBoundary (s : State) : Host.Outcome State Fault Refusal :=
  onBody true s (fun b => b.beatBoundary (b.ownMember s.vault.serial))

/-! ## Entries that fire -/

/-- The next entry of the schedule fires, if it is of this kind: it leaves the schedule at its moment (R263, R264). -/
def Body.fire (b : Body) (kind : Nat) (act : SchedEntry → Body → Body) : Body :=
  match b.nextEntry with
  | some e =>
    if e.kind = kind then
      let b := if e.beat = b.clock.beat then b.until_ (b.clock.beatStart + e.tick) else b
      act e { b with sched := b.sched.remove e }
    else b
  | none => b

/-- R265. -/
def Body.fireToken (e : SchedEntry) (b : Body) : Body := b.completeBeat e.part e.token none

def execToken (s : State) : Host.Outcome State Fault Refusal := onBody true s (fun b => b.fire 1 Body.fireToken)

/-- MODE (R278, R279). -/
def Body.setMode (b : Body) (fixed : Bool) (op : Nat) : Body :=
  let b := { b with power := { b.power with fixed := fixed, fixedOp := op } }
  let b := b.setConflict (b.power.fixedConflict && fixed)
  b.switchTo (if fixed then op else b.power.nearest b.power.op)

def Body.fireMode (e : SchedEntry) (b : Body) : Body :=
  (b.setMode (e.arg0.getLsbD 0) (e.arg0.extractLsb' 8 4).toNat).completeBeat e.part e.token none

def execMode (s : State) : Host.Outcome State Fault Refusal := onBody true s (fun b => b.fire 7 Body.fireMode)

/-- OP_RANGE: a point outside the new range moves to the nearest inside, in one change (R278). -/
def Body.fireOpRange (e : SchedEntry) (b : Body) : Body :=
  let b := { b with power := { b.power with opFloor := (e.arg0.extractLsb' 0 4).toNat, opCeiling := (e.arg0.extractLsb' 4 4).toNat } }
  let b := if b.power.fixed then b else if b.power.nearest b.power.op = b.power.op then b else b.switchTo (b.power.nearest b.power.op)
  b.completeBeat e.part e.token none

def execOpRange (s : State) : Host.Outcome State Fault Refusal := onBody true s (fun b => b.fire 3 Body.fireOpRange)

/-- MAINTENANCE: a window of ARG0 µs, which cuts no longer one short. -/
def Body.fireMaintenance (e : SchedEntry) (b : Body) : Body :=
  ({ b with sched := { b.sched with
      windowEnd := some (max (b.sched.windowEnd.getD 0) (b.clock.now + e.arg0.toNat * 1000)) } }).completeBeat e.part e.token none

def execMaintenance (s : State) : Host.Outcome State Fault Refusal := onBody true s (fun b => b.fire 5 Body.fireMaintenance)

/-- SNAPSHOT (R350): ARG0 [2:0] the mask, ARG1 the host address; of every partition for an entry of the whole module. -/
def Body.fireSnapshot (v : Vault) (e : SchedEntry) (b : Body) : Body :=
  let w : SnapWait := ⟨(e.arg0.extractLsb' 0 3).toNat, e.arg1.toNat, false⟩
  let ps := if e.part < 4 then [e.part] else List.range 4
  let b := if w.mask = 0 then b else ps.foldl (fun b p => (b.requestSnapshot v p w).1) b
  b.completeBeat e.part e.token none

def execSnapshotEntry (s : State) : Host.Outcome State Fault Refusal := onBody true s (fun b => b.fire 6 (Body.fireSnapshot s.vault))

/-! ## TABLE_SWAP (R311, R38, R210, R262) -/

/-- Ports follow LINK_CONFIG.ENABLE (Table 10.6). A link in QUARANTINE stays there until link-release (R243), one in FENCED until its half
returns. -/
def Body.enablePorts (b : Body) (own : Option Nat) : Body :=
  (List.range 48).foldl (fun b l =>
    let on := b.book.tables.link.enable.getD l false
    let g := b.link l
    match on, g.state with
    | _, .fenced | _, .quarantine => b
    | false, .up | false, .resize => b.leaveUp own l .disabled 0
    | false, _ => (b.setLink l .disabled).alterLink l Link.leaveAuth
    | true, .disabled => if g.fitted && !b.linkDead l then b.setLink l .down else b
    | true, _ => b) b

/-- A new OP_TABLE: its DUTY_STEP_W are first estimates again, and the point in force has its voltage (R274). -/
def Body.newPoints (b : Body) : Body :=
  { b with power := { b.power with corrected := [], vcoreMv := b.coreMv (b.power.switch.elim b.power.op (fun x => max x.target b.power.op)) } }

/-- R353: the guest share at the top of the snapshot region gets a write window for each member that names this module as BUDDY, in place of
the windows of the policy before; a number that a fixture's window holds is left to it (log 111). -/
def Body.grantGuests (b : Body) : Body :=
  let t := b.book.tables
  let base := outfieldBase + (t.outfield.stagingGib + t.outfield.snapshotGib - t.snapshot.guestGib) * gib
  let gone := fun (w : Window) => if w.valid && decide (w.part = 15) then { w with valid := false } else w
  let grant := fun (w : Window) => if w.valid then w else
    { w with part := 15, ops := 1, valid := true, domain := t.route.domain, base := base, length := t.snapshot.guestGib * gib,
             generation := wrap 32 (w.generation + 1), fencedAt := none }
  let ms := if t.snapshot.guestGib = 0 then [] else Config.guests
  { b with net := { b.net with
    windows := ms.foldl (fun ws m => alter (Config.guestWindow m % 256) grant ws) (b.net.windows.map gone) } }

/-- Every table of the image comes into force together; slots that the map retires beyond the module's sets are retired at this beat. -/
def Body.swapIn (b : Body) (own : Option Nat) (slot : Nat) (img : RulebookImage) : Body :=
  let old := b.book.tables
  let b := { b with book := { b.book with tables := withImage old img, version := img.version } }
  let b := (b.setStaging slot .empty).rbResult rbOk
  let b := if b.book.tables.op = old.op then b else b.newPoints
  let b := if b.book.tables.power = old.power then b else b.setMode b.book.tables.power.fixedMode b.book.tables.power.fixedOp
  let b := if b.book.tables.link.enable = old.link.enable then b else b.enablePorts own
  let b := if b.book.tables.snapshot = old.snapshot && b.book.tables.outfield = old.outfield then b else b.grantGuests
  let b := (List.range 4).foldl (fun b p => if (b.part p).holds then b.refreshCost p else b) b
  match imageInterleave img with
  | some m => (b.beginRetire m.retired m.outRetired kChannelFailed).applyRetirements own
  | none => b

/-- A swap that fails: the token FAILED with the code, one record, and the image stays staged. -/
def Body.swapFails (b : Body) (e : SchedEntry) (code : Nat) : Body :=
  ((b.rbResult code).completeBeat e.part e.token (some code)).record recRulebook (tBand * 64) 0 [e.arg0.toNat % 4, code]

/-- TABLE_SWAP fires. Table 12.10 names no code for a swap of a slot that holds no staged image: one of its refusals (log 49). -/
def Body.fireSwap (own : Option Nat) (e : SchedEntry) (b : Body) : Body :=
  let slot := e.arg0.toNat % 4
  match b.book.staging.getD slot .empty with
  | .staged img =>
    if b.swapCode img = rbOk then (b.swapIn own slot img).completeBeat e.part e.token none else b.swapFails e (b.swapCode img)
  | _ => ({ b with free := b.free + 1 }).swapFails e (1 + Config.emptySwapCode b.free % 8)

def execTableSwap (s : State) : Host.Outcome State Fault Refusal :=
  onBody true s (fun b => b.fire 4 (Body.fireSwap (b.ownMember s.vault.serial)))

end Sys2Proof.Machine
end

