-- ==== Sys2Proof/Machine/Channels.lean ====
section
/-!
DEFINITION. Memory events (09): retrains (R221 to R223, R439), transfer CRC failures (Table 9.4), scrubbing (R201, R344), stack thermal
levels (R225, R226), bank states (R205, R206).
-/

namespace Sys2Proof.Machine

/-! ## Channels -/

/-- A channel numbered as `cmdChannel` numbers it. -/
def Store.chan (s : Store) (c : Nat) : Channel :=
  if c < 384 then s.channels.getD c Channel.reset else s.outChannels.getD (c - 384) Channel.reset

def Body.alterChan (b : Body) (c : Nat) (f : Channel → Channel) : Body :=
  if c < 384 then { b with store := { b.store with channels := alter c f b.store.channels } }
  else { b with store := { b.store with outChannels := alter (c - 384) f b.store.outChannels } }

/-- Registers of the channel's stack or outfield controller. -/
def Body.alterMemCtl (b : Body) (c : Nat) (f : MemCtl → MemCtl) : Body :=
  if c < 384 then { b with store := { b.store with stackCtl := alter (c / 32) f b.store.stackCtl } }
  else { b with store := { b.store with outCtl := alter ((c - 384) / 4) f b.store.outCtl } }

/-- Last reported temperature of the channel's stack. -/
def Body.chanTemp (b : Body) (c : Nat) : Int := if c < 384 then (b.store.stackCtl.getD (c / 32) MemCtl.reset).temp else 0

/-- The channel can still be retrained. -/
def Body.trainable (b : Body) (c : Nat) : Bool := !b.chanRetired c && !b.fenced (chanHalf c) && !(b.store.chan c).failed

/-- A retrain is asked for, once (Table 9.11). -/
def Body.askRetrain (b : Body) (c : Nat) (urgent : Bool) : Body :=
  if !b.trainable c || (b.store.chan c).retraining
      || b.store.retrainQueue.any (fun r => decide (r.chan = c) && (r.urgent || !urgent)) then b
  else { b with store := { b.store with retrainQueue := b.store.retrainQueue ++ [⟨c, urgent, b.clock.beat, false⟩] } }

/-- The periodic cause: every 2 hours per channel, of a half's channels. -/
def Body.periodicRetrains (b : Body) (h : Nat) : Body :=
  ((List.range 392).filter (fun c => decide (chanHalf c = h) && decide ((b.store.chan c).trainedAt + 7200000000000 ≤ b.clock.now))).foldl
    (fun b c => b.askRetrain c false) b

/-! ## RETRAIN_START (R221, R222) -/

/-- The moment a beat token of a partition completes: of a barrier, its release at the effective beat known now. -/
def Body.tokenMoment (b : Body) (p : Nat) (t : Token) : Option Nat :=
  (b.sched.entries.find? (fun e => e.token == t && decide (e.part = p))).map (fun e =>
    let beat := if e.kind = 2 then
        ((b.sched.barriers.filter (fun k => decide (k.part = e.part ∧ k.id = barrierId e))).flatMap (fun k => k.notices.map lateBeat)).foldl max e.beat
      else e.beat
    b.clock.beatStart + (beat - b.clock.beat) * b.beatNs + e.tick)

/-- A stream waits on a barrier or beat token with at least 250 µs to go; one with no operation left holds nothing back. -/
def Body.longWait (b : Body) (p s : Nat) : Bool :=
  let x := b.part p
  match x.next? s with
  | none => true
  | some op => op.waits.any (fun t => decide (tokProducer t = 3) && !x.tokenDone t
      && (b.tokenMoment p t).any (fun m => decide (b.clock.now + 250000 ≤ m)))

def Body.quiet (b : Body) : Bool := (List.range 4).all (fun p =>
  decide ((b.part p).fstate ≠ .running) || (List.range 3).all (b.longWait p))

/-- At most one infield and one outfield channel retrain at a time. -/
def Body.laneFree (b : Body) (c : Nat) : Bool :=
  if c < 384 then !b.store.channels.any (·.retraining) else !b.store.outChannels.any (·.retraining)

/-- The request may start now. -/
def Body.startsNow (b : Body) (r : RetrainReq) : Bool :=
  b.laneFree r.chan && (r.urgent || b.windowOpen
    || (b.hasBeat && decide (b.clock.now = b.clock.beatStart)
        && (b.quiet || decide (r.beat + b.book.tables.memory.retrainDeferMax ≤ b.clock.beat))))

/-- The running `RETRAIN` command of a channel ends with a status and the attempts made, unless its request still waits. -/
def Body.endRetrain (b : Body) (v : Vault) (c status code attempts : Nat) : Body :=
  match b.active.find? (fun a => a.running && (match a.cmd with
      | .retrain n => decide (cmdChannel n = some c)
      | _ => false)) with
  | some a =>
    if b.store.retrainQueue.any (fun r => r.command && decide (r.chan = c)) then b else b.endCommand v a status code (.counter attempts)
  | none => b

/-- Requests for channels that have left service are dropped. -/
def Body.dropRequests (b : Body) (v : Vault) : Body :=
  let gone := b.store.retrainQueue.filter (fun r => !b.trainable r.chan)
  let b := { b with store := { b.store with retrainQueue := b.store.retrainQueue.filter (fun r => b.trainable r.chan) } }
  gone.foldl (fun b r => if r.command then b.endRetrain v r.chan stFailed kChannelFailed 0 else b) b

def Body.retrainStart (v : Vault) (b : Body) : Body :=
  let b := b.dropRequests v
  let q := b.store.retrainQueue
  match (q.filter (·.urgent) ++ q.filter (fun r => !r.urgent)).find? b.startsNow with
  | none => b
  | some r =>
    let b := b.alterChan r.chan (fun x => { x with retraining := true, attempts := 1, urgent := r.urgent, startedAt := b.clock.now })
    { b with store := { b.store with retrainQueue := q.erase r,
                                     urgentAt := if r.urgent then b.clock.now :: b.store.urgentAt else b.store.urgentAt } }

def execRetrainStart (s : State) : Host.Outcome State Fault Refusal := onBody true s (fun b => b.retrainStart s.vault)

/-! ## RETRAIN_ATTEMPT_END (R223, R439) -/

/-- A failed channel leaves service when it is retired; its fault is contained, of the channel or of its package. -/
def Body.retrainFails (b : Body) (c : Nat) (package : Option Nat) : Body :=
  let fail := fun (x : Channel) => { x with retraining := false, failed := true }
  match decide (384 ≤ c), package with
  | true, some k =>
    let h := (c - 384) / 4
    let b := (List.range' (384 + 4 * h) 4).foldl (fun b c => b.alterChan c fail) b
    b.raise tOutfield h .contained kPackageFailed k
  | true, none => (b.alterChan c fail).raise tOutfield ((c - 384) / 4) .contained kChannelFailed (c - 384)
  | false, _ => (b.alterChan c fail).raise tStack (c / 32) .contained kChannelFailed c

/-- The package that a failed attempt accuses, if it is one of the channel's half (R439). -/
def accused (c : Nat) (s : PackageSign) : Option Nat :=
  match s with
  | .positions k | .silent k => if 384 ≤ c ∧ k / 9 = (c - 384) / 4 then some k else none
  | .none => none

/-- R439: a package that stops answering training is declared failed at once. -/
def noAnswer (s : PackageSign) : Bool :=
  match s with
  | .silent _ => true
  | _ => false

def Body.attemptEnd (v : Vault) (b : Body) (c : Nat) (pass : Bool) (durationNs : Nat) (r : BallResult) (sign : PackageSign) : Body :=
  let x := b.store.chan c
  if !x.retraining then b
  else
    let b := (b.until_ (b.clock.now + durationNs)).ballResult c r
    if pass then
      let b := b.alterChan c (fun y => { y with retraining := false, attempts := 0, trainedAt := b.clock.now, trainedTemp := some (b.chanTemp c) })
      let b := b.alterMemCtl c (fun m => { m with retrains := wrap 32 (m.retrains + 1), maxNs := max m.maxNs (b.clock.now - x.startedAt) })
      b.endRetrain v c stOk 0 x.attempts
    else if x.attempts < b.book.tables.memory.retrainAttempts && !(noAnswer sign && (accused c sign).isSome) then
      b.alterChan c (fun y => { y with attempts := y.attempts + 1 })
    else
      let k := accused c sign
      (b.retrainFails c k).endRetrain v c stFailed (if k.isSome then kPackageFailed else kChannelFailed) x.attempts

def execRetrainAttemptEnd (chan : Nat) (pass : Bool) (durationNs : Nat) (result : BallResult) (package : PackageSign) (s : State) :
    Host.Outcome State Fault Refusal :=
  onBody (decide (chan < 392)) s (fun b => b.attemptEnd s.vault chan pass durationNs result package)

/-! ## DATA_CRC_FAILURE (Table 9.4) -/

/-- 16 failures on one infield channel within 1 ms start an urgent retrain. -/
def Body.crcFailure (b : Body) (c : Nat) : Body :=
  if 384 ≤ c then b
  else
    let ts := b.clock.now :: (b.store.chan c).crcAt.filter (fun t => decide (b.clock.now < t + 1000000))
    if 16 ≤ ts.length then (b.alterChan c (fun x => { x with crcAt := [] })).askRetrain c true
    else b.alterChan c (fun x => { x with crcAt := ts })

def execDataCrcFailure (chan : Nat) (s : State) : Host.Outcome State Fault Refusal :=
  onBody (decide (chan < 392)) s (fun b => b.crcFailure chan)

/-! ## SCRUB_PASS (R201, R344) -/

/-- A scratchpad bank scrubs only in ON. -/
def Body.scrubs (b : Body) (src : MemSource) (cw : Nat) : Bool :=
  decide (b.sourceAt (cw * 64) = src) && (match b.store.region (cw * 64) with
    | .scratch k => decide ((b.store.banks.getD k ⟨.unusable, none⟩).state = .on)
    | .infield => true
    | .outfield => true
    | _ => false)

/-- A full pass that finds no poison ends POISON_OVF. -/
def Body.scrubPass (b : Body) (src : MemSource) (es : List CwError) : Body :=
  let b := b.readErrors (es.filter (fun e => b.scrubs src e.cw))
  if b.store.poison.any (fun c => decide (b.sourceAt (c * 64) = src)) then b
  else { b with store := { b.store with lists := b.store.lists.map (fun l => if l.src = src then { l with ovf := false } else l) } }

def execScrubPass (src : MemSource) (errs : List CwError) (s : State) : Host.Outcome State Fault Refusal :=
  onBody src.wf s (fun b => b.scrubPass src errs)

/-! ## STACK_THERMAL_CHANGE (R225, R226, Table 9.15) -/

/-- A level is left 3 °C below the threshold that entered it. -/
def nextLevel (t : InfieldThermal) (l : ThermalLevel) (temp : Int) : ThermalLevel :=
  match l with
  | .shutdown => .shutdown
  | .critical => if (t.critC : Int) - 3 < temp then .critical else if (t.hotC : Int) - 3 < temp then .hot else .normal
  | .hot => if (t.critC : Int) ≤ temp then .critical else if (t.hotC : Int) - 3 < temp then .hot else .normal
  | .normal => if (t.critC : Int) ≤ temp then .critical else if (t.hotC : Int) ≤ temp then .hot else .normal

/-- Retrains that run on a stack are abandoned at SHUTDOWN, and its channels have failed. -/
def Body.stackDown (b : Body) (v : Vault) (k : Nat) : Body :=
  let cs := List.range' (32 * k) 32
  let b := cs.foldl (fun b c =>
    let was := (b.store.chan c).retraining
    let n := (b.store.chan c).attempts
    let b := b.alterChan c (fun x => { x with retraining := false, failed := true })
    if was then b.endRetrain v c stFailed kStackShutdown n else b) b
  b.raise tStack k .contained kStackShutdown 0

/-- Drift of 10 °C since a channel's last training asks for a retrain. A training at power-up took place at the first temperature that
the stack reports. -/
def Body.driftRetrains (b : Body) (k : Nat) (temp : Int) : Body :=
  (List.range' (32 * k) 32).foldl (fun b c =>
    match (b.store.chan c).trainedTemp with
    | some t => if 10 ≤ (temp - t).natAbs then b.askRetrain c false else b
    | none => b.alterChan c (fun x => { x with trainedTemp := some temp })) b

def Body.thermalChange (v : Vault) (b : Body) (k : Nat) (temp : Int) (shutdown : Bool) : Body :=
  if b.fenced (k / 6) then b
  else
  let m := b.store.stackCtl.getD k MemCtl.reset
  let l := if shutdown then .shutdown else nextLevel b.book.tables.thermal m.level temp
  let b := { b with store := { b.store with
    hotAt := keepHot b.clock.now (b.store.stackCtl.map (·.temp)) b.store.hotAt,
    stackCtl := alter k (fun m => { m with temp := temp, level := l }) b.store.stackCtl } }
  let b := if l = m.level then b else b.record recThermal (tStack * 64 + k) 0 [k, l.code]
  if l = .shutdown then (if m.level = .shutdown then b else b.stackDown v k) else b.driftRetrains k temp

def execStackThermalChange (stack : Nat) (temp : Int) (shutdown : Bool) (s : State) : Host.Outcome State Fault Refusal :=
  onBody (decide (stack < 12)) s (fun b => b.thermalChange s.vault stack temp shutdown)

/-! ## Bank states (R205, R206) -/

/-- The partition that holds a bank. -/
def Body.bankOwner (b : Body) (k : Nat) : Option Nat := (List.range 4).find? (fun p => (b.part p).holds && (b.part p).grant.banks.contains k)

/-- RETAIN is for a partition in STOPPED, or whose pitches all run at duty 15; a free bank has no such condition. -/
def Body.mayRetain (b : Body) (k : Nat) : Bool :=
  match b.bankOwner k with
  | some p => decide ((b.part p).fstate = .stopped) || (b.part p).pitches.all (fun i => decide (b.power.halfDuty (i / 2) = 15))
  | none => true

/-- A keeper's request: to ON at once, to RETAIN or OFF once the bank's accesses have completed. A bank in OFF holds nothing that RETAIN
could keep. A bank that a fault has taken out is marked UNUSABLE (Table 9.3), and availability has fallen (R39): which fault does so is not
stated (log 98). Registers of a FENCED half hold (R228). -/
def Body.bankRequest (b : Body) (k : Nat) (state : Nat) : Body :=
  let ask := fun (t : BankState) => { b with store := { b.store with banks := alter k (fun x => { x with target := some t }) b.store.banks } }
  if b.fenced (k / 96) then b
  else match (b.store.banks.getD k ⟨.unusable, none⟩).state, state with
  | .unusable, _ => b
  | _, 3 => ({ b with store := { b.store with banks := alter k (fun _ => ⟨.unusable, none⟩) b.store.banks } }).recheck
  | _, 2 => { b with store := b.store.bankOn k }
  | .off, _ => b
  | _, 1 => if b.mayRetain k then ask .retain else b
  | _, 0 => if (b.bankOwner k).isNone then ask .off else b
  | _, _ => b

def execBankStateRequest (bank state : Nat) (s : State) : Host.Outcome State Fault Refusal :=
  onBody (decide (bank < 192) && decide (state < 4)) s (fun b => b.bankRequest bank state)

def Body.bankEnter (b : Body) (k : Nat) : Body :=
  match if b.fenced (k / 96) then none else (b.store.banks.getD k ⟨.unusable, none⟩).target with
  | some t => { b with store := { b.store with banks := alter k (fun _ => ⟨t, none⟩) b.store.banks } }
  | none => b

def execBankStateEnter (bank : Nat) (s : State) : Host.Outcome State Fault Refusal :=
  onBody (decide (bank < 192)) s (fun b => b.bankEnter bank)

/-- A request within a grant wakes a bank from RETAIN; to a bank in OFF or UNUSABLE, or outside every grant, it is dropped. -/
def Body.bankWake (b : Body) (k : Nat) : Body :=
  match (b.store.banks.getD k ⟨.unusable, none⟩).state, b.bankOwner k with
  | .on, some _ => b
  | .retain, some _ => b.wakeBank k
  | _, _ => b.bankBad k

def execBankWake (bank : Nat) (s : State) : Host.Outcome State Fault Refusal :=
  onBody (decide (bank < 192)) s (fun b => b.bankWake bank)

end Sys2Proof.Machine
end

