-- ==== Sys2Proof/Machine/Pitches.lean ====
section
/-!
DEFINITION. Stops of pitches and engines, and tiles that fail in service (03, R65, R68 to R71; 08, R195).
-/

namespace Sys2Proof.Machine

open Arith

def Body.alterPitch (b : Body) (i : Nat) (f : Pitch → Pitch) : Body := { b with pitches := alter i f b.pitches }

/-! ## TILE_FAILED (R71) -/

/-- The tile is known to have failed. -/
def Pitch.lost (x : Pitch) (t : Nat × Nat) : Bool := x.failed.contains t || x.unrepaired.contains t

/-- Detail word of tile-failed (Table 14.4). -/
def tileDetail (row col : Nat) : Nat := row + col * 256

/-- A stop of the pitch begins and the failure is reported; the keepers repair it when they acknowledge the message. -/
def Body.tileFailed (b : Body) (i row col : Nat) : Body :=
  if (b.pitch i).lost (row, col) || (b.pitch i).dead || b.fenced (i / 2) then b
  else
    (b.alterPitch i (fun x => { x.stop b.clock.now with unrepaired := x.unrepaired ++ [(row, col)] })).raise tPitch i .contained
      kTileFailed (tileDetail row col)

def execTileFailed (pitch row col : Nat) (s : State) : Host.Outcome State Fault Refusal :=
  onBody (decide (pitch < 4) && decide (row < 33) && decide (col < 32)) s (fun b => b.tileFailed pitch row col)

/-- R69 and R70: by its failed tiles a column is spared or its pair retired. -/
def Pitch.repaired (x : Pitch) : Pitch := { x with failed := x.failed ++ x.unrepaired, unrepaired := [] }

/-- A repair by spare leaves availability unchanged; a pair retirement starts the re-check (R39). The stopped stages resume. -/
def Body.repairTiles (b : Body) (i : Nat) : Body :=
  let before := (b.pitch i).activeCols
  let b := b.alterPitch i Pitch.repaired
  let b := if (b.pitch i).activeCols = before then b else b.recheck
  if b.resumable i then b.resumeUnits [i] else b

/-! ## PITCH_STOP, PITCH_STOP_COMPLETE (R65, R68) -/

def execPitchStop (pitch : Nat) (s : State) : Host.Outcome State Fault Refusal :=
  onBody (decide (pitch < 4)) s (fun b => if b.fenced (pitch / 2) then b else b.alterPitch pitch (fun x => x.stop b.clock.now))

/-- Where a product stage's operation stores its output blocks: the place of the first, and the bytes of one. -/
def outBlock (st : Stage) (op : StreamOp) : Option (Loc × Nat) :=
  let bytes := fun (fa : Fmt) (n : Nat) => bytesFor (outFmt st fa) (max 1 st.blockRows * n * outWidth st)
  match op.payload with
  | .product rd a s out _ => some (out, bytes a.fmt (Stationary.outs s rd))
  | .conv _ rd a w out _ => some (out, bytes a.fmt (Stationary.outs (.load w) rd))
  | _ => none

/-- R68: every bank of the place is ON. -/
def Body.placeOn (b : Body) (p : Nat) (l : Loc) (n : Nat) : Bool :=
  ((bankOffsets ((b.part p).planPlaces [(l, n)])).map (fun i => (b.part p).grant.banks.getD i 192)).all (fun k =>
    decide ((b.store.banks.getD k ⟨.unusable, none⟩).state = .on))

/-- Blocks `lo` to below `n` that can be written: up to the first whose destination bank has left ON (R68). -/
def Body.blocksOn (b : Body) (p lo n : Nat) (out : Loc) (bytes : Nat) : Nat :=
  lo + ((List.range (n - lo)).takeWhile (fun k => b.placeOn p { out with off := out.off + (lo + k) * bytes } bytes)).length

/-- Operations stop for poison, a bank or an address before they write anything (R200, R206, R210). -/
def Body.blocksSound (b : Body) (p : Nat) (op : StreamOp) : Bool :=
  match (b.part p).fix, (b.part p).stage? op with
  | some f, some st =>
    let rs := b.opReads p f st op
    (b.badBanks p rs).isEmpty && !b.bankOutside p rs && (b.unmappedAt p rs).isNone && !rs.any (fun (l, n) => b.poisonAt p l n)
  | _, _ => false

/-- R65 step 3: an operation in flight on the pitch had completed `n` output blocks, and those not yet written are written out. -/
def Body.writeBlocks (i p : Nat) (b : Body) (d : Token × Nat) : Body :=
  let x := b.part p
  match x.flights.find? (fun fl => fl.token == d.1) with
  | none => b
  | some fl =>
    match x.op? fl with
    | none => b
    | some op =>
      match x.stage? op with
      | none => b
      | some st =>
        match outBlock st op with
        | some (out, bytes) =>
          if !(x.opPitches op).contains i || fl.failed.isSome || !b.blocksSound p op then b
          else
            let m := b.blocksOn p fl.blocks d.2 out bytes
            let ctx : ProdCtx := { x.prodCtx p fl op st with blocks := ⟨fl.blocks, some m⟩ }
            let r := match op.payload with
              | .product rd a s out g => b.runProduct ctx rd a s out (x.gradMask g)
              | .conv c rd a w out g => b.runConv ctx c rd a w out g.isSome (x.gradMask g)
              | _ => Effect.done b 0
            r.body.alterPart p (fun y => y.alterFlight fl.token (fun f => { f with blocks := m, flags := f.flags ||| r.flags }))
        | none => b

/-- The flush is done: counted, with its duration (R72), and the first output block not written of each stage recorded (R65 step 4).
A pitch that was told to resume meanwhile does. -/
def Pitch.stopEnds (now : Nat) (unwritten : List (Nat × Nat)) (x : Pitch) : Pitch :=
  match x.state with
  | .stopping => { x with state := if x.resume then .idle else .stopped, resume := false, stops := wrap 32 (x.stops + 1),
                          maxNs := max x.maxNs (now - x.stopAt), unwritten := unwritten }
  | _ => x

/-- The pitch reaches STOPPED: `blocks` says how many output blocks of an operation in flight had completed all their K steps. -/
def Body.pitchStopEnds (b : Body) (i : Nat) (blocks : List (Token × Nat)) : Body :=
  if b.fenced (i / 2) || decide ((b.pitch i).state ≠ .stopping) then b
  else
    let b := (List.range 4).foldl (fun (c : Body) p => blocks.foldl (Body.writeBlocks i p) c) b
    (b.alterPitch i (fun x => x.stopEnds b.clock.now (b.unwrittenOn i))).refreshUnits

def execPitchStopComplete (x : PitchDone) (s : State) : Host.Outcome State Fault Refusal :=
  onBody (decide (x.pitch < 4)) s (fun b => b.pitchStopEnds x.pitch x.blocks)

/-! ## VECTOR_STOP (R195) -/

def execVectorStop (x : EngineStop) (s : State) : Host.Outcome State Fault Refusal :=
  onBody (decide (x.engine < 4)) s (fun b =>
    if b.fenced (x.engine / 2) then b
    else b.alterEngine x.engine (fun e => e.stop b.clock.now (x.burst && (b.vectorFlight x.engine).isSome)))

end Sys2Proof.Machine
end

