-- ==== Sys2Proof/Machine/Supply.lean ====
section
/-!
DEFINITION. The supply (16, R380; 17, R389; 19, R421, R422): what board hold-up still programs, and what is left when rails go off.
-/

namespace Sys2Proof.Machine

/-- R380: the record in progress and up to 8 more are programmed; the rest are lost and not counted. Nothing is programmed before the counter
store has been read: no record precedes POWER_UP (R374, R432). -/
def Score.holdUp (k : Score) : Score :=
  let k := if k.counterRead then Score.programAll (min k.holdLeft k.queue.length) k else k
  { k with queue := [], holdLeft := 0 }

/-- Cages keep what is plugged into them; a port without a module or cable stays DOWN. -/
def Link.powerUp (g : Link) : Link := { Link.reset with fitted := g.fitted }

/-- Host memory is outside the module. -/
def HostIf.powerUp (h : HostIf) : HostIf := { HostIf.reset with last := h.last, logOut := h.logOut, snapOut := h.snapOut, sumsOut := h.sumsOut }

/-- Core, memory and SerDes rails are off, and power-up begins anew at step 1: what they fed is lost. The standby rail still feeds the Lodge,
the keepers and the flash controller. -/
def Body.railsOff (b : Body) : Body :=
  let r := Body.reset
  { r with
    boot := { r.boot with standby := b.boot.standby, eFuseOpen := b.boot.eFuseOpen },
    clock := { r.clock with now := b.clock.now, refPresent := b.clock.refPresent },
    score := b.score,
    doves := b.doves,
    net := { r.net with links := b.net.links.map Link.powerUp },
    host := b.host.powerUp,
    free := b.free }

/-- R422: once the input is lost, two halves that stand FENCED leave the rails no work. -/
def Body.dropRails (b : Body) : Body := if !b.boot.inputOk && b.fenced 0 && b.fenced 1 then b.railsOff else b

/-- The standby rail goes: Lodge, keepers and flash controller stop. -/
def Body.standbyOff (b : Body) : Body :=
  let b := ({ b with score := b.score.holdUp }).railsOff
  { b with boot := { b.boot with standby := false } }

end Sys2Proof.Machine
end

