-- ==== Sys2Proof/Machine/KeeperRows.lean ====
section
/-!
DEFINITION. Keepers and the reaction to faults (12, R291 to R296, R303, R306; 14, R337 to R343, R443; 09, R440): frames, polling,
acknowledgement and handling, expired timers, the recording keeper, the fence of a half.
-/

namespace Sys2Proof.Machine

/-! ## What an operation uses (R338, R443) -/

/-- Places an operation reads or writes, those of a collective among them. -/
def Body.opPlaces (b : Body) (p : Nat) (op : StreamOp) : List (Loc × Nat) :=
  let c := b.opCollective b.self p op
  match (b.part p).fix, (b.part p).stage? op with
  | some f, some st => b.opReads p f st op ++ b.opWrites p f st op ++ c.1 ++ c.2
  | _, _ => []

def Body.opBanks (b : Body) (p : Nat) (op : StreamOp) : List Nat :=
  (bankOffsets (b.opPlaces p op)).filterMap (fun i => (b.part p).grant.banks[i]?)

def Body.opIn (b : Body) (p : Nat) (op : StreamOp) (space : Space) : Bool := (b.opPlaces p op).any (fun x => decide (x.1.space = space))

/-- Links that the traffic of a collective's link crosses: the link itself while it carries, or has just been fenced; else the detours of its
edges (R247); itself where there are none. -/
def Body.crossed (b : Body) (l : Nat) : List Nat :=
  if b.linkUp l || decide ((b.link l).state = .fenced) then [l]
  else
    match b.book.tables.route.edges.filterMap (fun e =>
      if some e.src = b.self ∧ e.primary.outLink = l then b.detourOf e else none) with
    | [] => [l]
    | ds => ds

/-- Links that an operation's traffic crosses. -/
def Body.opLinks (b : Body) (op : StreamOp) : List Nat :=
  match collectiveOf op with
  | some c => c.links.flatMap b.crossed
  | none => []

/-- The operation executes on a unit of the half: its pitches, engines, DMA engine, link dies or banks. -/
def Body.usesHalf (b : Body) (h p : Nat) (op : StreamOp) : Bool :=
  (b.opHalves p op).contains h || (b.opBanks p op).any (fun k => decide (k / 96 = h)) || (b.opLinks op).any (fun l => decide (l / 24 = h))

/-- R338: the operation in flight uses the source block. -/
def Body.usesBlock (b : Body) (type inst p : Nat) (op : StreamOp) : Bool :=
  if type = tStack then b.opIn p op .infield
  else if type = tOutfield then b.opIn p op .outfield
  else if type = tScratch then (b.opBanks p op).any (fun k => decide (k / 96 = inst))
  else if type = tDma then decide (((b.part p).stage? op).bind (·.half) = some inst)
  else if type = tLink then (b.opLinks op).contains inst
  else if type = tDie then decide (((b.part p).stage? op).bind (·.die) = some inst) || (b.opLinks op).any (fun l => decide (l / 12 = inst))
  else if type = tKeeper then b.usesHalf (inst / 4) p op
  else if type = tHalf then b.usesHalf inst p op
  else decide (type = tBand)

/-- Partitions that the expiry of a source's timer touches. -/
def Body.affected (b : Body) (type inst : Nat) : List Nat :=
  if type = tPartition then [inst]
  else if type = tPitch ∨ type = tEngine then (b.ownerOf inst).toList
  else (List.range 4).filter (fun p => (b.part p).flights.any (fun fl => match (b.part p).op? fl with
    | some op => b.usesBlock type inst p op
    | none => false))

/-! ## CONTAINED_TIMER_EXPIRED (R338) -/

/-- A partition in RUNNING stops, its windows go, FENCE naming it is sent, and its pass page shows QUARANTINED. -/
def Body.quarantinePart (b : Body) (kind p : Nat) : Body :=
  if (b.part p).fstate = .running then
    let b := ((b.faultStop p kind).clearWindows p true).sendFence p
    { b with whistle := b.whistle.alterPage tPartition p (fun x => { x with quarantined := true }) }
  else b

/-- The timer of a page has run out. -/
def Body.expirePage (b : Body) (type inst : Nat) : Body :=
  let w := b.whistle.alterPage type inst (fun x => { x with timer := none, expired := true })
  let w := w.alterWh (b.whistlePage type inst) (fun g => { g with expiries := wrap 32 (g.expiries + 1) })
  let kind := msgKind (((b.page type inst).unhandled.head?).getD (b.page type inst).message)
  (b.affected type inst).foldl (fun b p => b.quarantinePart kind p) { b with whistle := w }

def Body.timerExpires (b : Body) (type inst : Nat) : Body :=
  match (b.page type inst).timer with
  | some t => (b.until_ t).expirePage type inst
  | none => b

def execContainedTimerExpired (page : Nat) (s : State) : Host.Outcome State Fault Refusal :=
  onBody (assignedPage page && decide (page / 256 < 16)) s (fun b => b.timerExpires (page / 256) (page % 256))

/-! ## Handling a contained message (R337, R341) -/

/-- R109 to R111: the step is replayed with the stalled micro-batch split once more, or the fixture stops; the step's completion
record then carries bench-split-limit. -/
def Body.benchReplay (b : Body) (p mb : Nat) : Body :=
  if (b.part p).fstate = .running then
    if b.canSplit p mb then (b.replayStep p).alterPart p (fun x => x.split mb)
    else
      let x := b.part p
      let b := (b.faultStop p kBenchSplit).alterPart p (fun x => { x with splitStopped := true })
      (b.putRecord p ⟨(Config.verdictToken p x.pass.step).toNat, 0x00, stFailed, false, kindStep, kBenchSplit, .step x.pass.step 0 0 x.pass.flags⟩).raise tPartition p .contained
        kBenchSplit mb
  else b

/-- Some poisoned codeword of the source lies in the partition's grant. -/
def Body.grantPoisoned (b : Body) (src : MemSource) (p : Nat) : Bool :=
  let g := (b.part p).grant
  b.store.poison.any (fun c => decide (b.sourceAt (c * 64) = src)
    && ((g.infield ++ g.outfield).any (fun s => decide (s.addr ≤ c * 64 ∧ c * 64 < s.addr + s.bytes))
      || (match b.store.region (c * 64) with
        | .scratch k => g.banks.contains k
        | _ => false)))

/-- Table 14.9: a step that met poison is abandoned and replayed by R109 steps 1 to 3. -/
def Body.replayPoison (b : Body) (src : MemSource) : Body :=
  (List.range 4).foldl (fun b p =>
    match (b.part p).fstate, (b.part p).fix with
    | .running, some f =>
      if !FixtureImage.serving f && b.grantPoisoned src p then
        let us := (b.part p).pitches
        ((b.stopUnits us).restartStep p).resumeUnits us
      else b
    | _, _ => b) b

/-- Channel that a promoted message of an infield or outfield source addresses. -/
def Body.addressedChannel (b : Body) (m : Word64) : Option Nat :=
  let a := msgAddr m * 64
  if !msgAddrValid m then none
  else if msgType m = tStack then some (b.channelAt a)
  else if msgType m = tOutfield then some (384 + b.outChannelAt a)
  else none

/-- R336: an urgent retrain of the addressed channel; a second promotion of it within the window retires it. -/
def Body.promoted (b : Body) (m : Word64) : Body :=
  match b.addressedChannel m with
  | none => b
  | some c =>
    let rest := b.store.promotedAt.filter (fun x => decide (x.1 ≠ c))
    if b.store.promotedAt.any (fun x => decide (x.1 = c ∧ b.clock.now < x.2 + b.book.tables.faults.memCorrected.windowNs)) then
      { b with store := { b.store with promotedAt := rest } }.retireChannels [c] kMemCorrected
    else { b with store := { b.store with promotedAt := (c, b.clock.now) :: rest } }.askRetrain c true

/-- What the kind's chapter states; every other kind is acknowledged and reported, and nothing more. -/
def Body.handle (b : Body) (m : Word64) : Body :=
  let t := msgType m
  let i := msgInst m
  let k := msgKind m
  if k = kTileFailed then (if (b.pitch i).unrepaired.isEmpty then b else b.repairTiles i)
  else if k = kStreamWait ∨ k = kUpdateNonfinite then b.faultStop i k
  else if k = kBenchExhausted then b.benchReplay i (msgAddr m)
  else if k = kMemUncorrectable then b.replayPoison (sourceOfPage t i)
  else if k = kMemCorrected then b.promoted m
  else if k = kChannelFailed then b.retireChannels [if t = tStack then msgAddr m else 384 + msgAddr m] k
  else if k = kStackShutdown then b.retireChannels (List.range' (32 * i) 32) k
  else if k = kPackageFailed then b.retireChannels (List.range' (384 + 4 * i) 4) k
  else b

/-- Partitions that a message of no named partition touches: those with an operation in flight on the source, and those whose grant it has
left poison in; the module's slot where there is none (Table 14.9; log 126). -/
def Body.tellAffected (b : Body) (m : Word64) : Body :=
  if (b.attentionOf m).isSome then b
  else
    let t := msgType m
    let i := msgInst m
    let ps := (List.range 4).filter (fun p => (b.affected t i).contains p
      || (decide (msgKind m = kMemUncorrectable) && b.grantPoisoned (sourceOfPage t i) p))
    (if ps.isEmpty then [4] else ps).foldl (fun b p => b.attention p 0) b

/-- The keeper acknowledges a page and handles every cause it finds. -/
def Body.acknowledge (b : Body) (type inst : Nat) : Body :=
  let x := b.page type inst
  match x.unhandled with
  | [] => b
  | ms =>
    let w := b.whistle.alterPage type inst (fun x => { x with timer := none, unhandled := [], expired := false })
    let w := if x.expired then w.alterWh (b.whistlePage type inst) (fun g => { g with lateAcks := wrap 32 (g.lateAcks + 1) }) else w
    ms.foldl (fun b m => (b.tellAffected m).handle m) { b with whistle := w }

/-- A poll of one page; a timer that has run out by now has expired before it (R337). -/
def Body.pollPage (b : Body) (s : Nat × Nat) : Body :=
  let b := match (b.page s.1 s.2).timer with
    | some t => if t ≤ b.clock.now then b.expirePage s.1 s.2 else b
    | none => b
  b.acknowledge s.1 s.2

/-- Pages of the halves named, and of the module. -/
def Body.pollPages (b : Body) (hs : List Nat) : Body :=
  (allSources.filter (fun s => hs.contains (b.whistlePage s.1 s.2) || decide (b.whistlePage s.1 s.2 = 2))).foldl Body.pollPage b

/-! ## The recording keeper (R339, R340, R443) -/

/-- The FAULT keeper that records a half's fatal error. -/
def recorder (h : Nat) (m : Word64) : Nat :=
  if msgKind m = kKeeperRepeat ∨ msgKind m = kControlPath then 4 * (1 - h) else 4 * h

/-- Affected operations of R443: the flights of a partition. -/
def Body.halfFlights (b : Body) (h p : Nat) : List Flight :=
  let owns := (b.part p).pitches.any (fun i => decide (i / 2 = h))
  (b.part p).flights.filter (fun fl => owns || ((b.part p).op? fl).any (b.usesHalf h p))

/-- They complete FAILED with the fatal kind. -/
def Body.failHalf (b : Body) (h kind : Nat) : Body :=
  (List.range 4).foldl (fun b p =>
    let hit := b.halfFlights h p
    b.failFlights p kind (fun fl _ => hit.contains fl)) b

/-- Partitions whose attention word a half's fatal error sets FAULT in: owners of its pitches, and those with an operation on it; and the
module's (log 126). -/
def Body.halfSlots (b : Body) (h : Nat) : List Nat :=
  (List.range 4).filter (fun p => (b.part p).pitches.any (fun i => decide (i / 2 = h)) || !(b.halfFlights h p).isEmpty) ++ [4]

/-- The recording keeper's work on a half: the record, FAULT in the attention words, the completions (Table 14.6). -/
def Body.reportFatal (b : Body) (h : Nat) (m : Word64) : Body :=
  ((b.halfSlots h).foldl (fun b p => b.attention p 0) (b.record recFault (msgSource m) m [])).failHalf h (msgKind m)

/-- It ends with WH_REPORT_DONE. -/
def Body.report (b : Body) (h : Nat) (m : Word64) : Body :=
  let b := b.reportFatal h m
  let done := fun (x : HalfState) => { x with fatal := x.fatal.map (fun f => { f with reported := true }) }
  { b with whistle := { b.whistle with halves := alter h done b.whistle.halves } }

/-- A FAULT keeper's part in the sequence of a half. -/
def Body.reportHalf (k : Nat) (b : Body) (h : Nat) : Body :=
  match (b.half h).fatal with
  | some f =>
    let r := recorder h f.message
    if !f.reported && !b.fenced h && (decide (k = r) || !b.keeperRuns r) then b.report h f.message else b
  | none => b

/-! ## HALF_FENCE (R339, R340, R440, R400) -/

/-- Frozen state is discarded: banks, blocks in flight, adds that wait in the half's controllers, retrains. Accumulators and vector registers
can be read by nobody until the tests of HALF_RETURN clear them, and ACC_RESIDENT holds (R418). -/
def Body.discardHalf (b : Body) (h : Nat) : Body :=
  let mine := fun (c : Nat) (x : Channel) => if chanHalf c = h then { x with retraining := false, attempts := 0 } else x
  { b with
    pitches := b.pitches.zipIdx.map (fun (x, i) => if i / 2 = h then { x with state := .idle, sb := [], mxScale := [], active := [], unwritten := [] } else x),
    engines := b.engines.zipIdx.map (fun (x, i) => if i / 2 = h then { x with state := .idle } else x),
    store := { b.store with
      windows := b.store.windows.filter (fun w => decide (memHalf (b.sourceAt (w.index * 2048)) ≠ h)),
      heldAdds := b.store.heldAdds.filter (fun a => decide (memHalf (b.sourceAt a.addr) ≠ h)),
      channels := b.store.channels.zipIdx.map (fun (x, c) => mine c x),
      outChannels := b.store.outChannels.zipIdx.map (fun (x, c) => mine (384 + c) x) } }

/-- Channels of a half. -/
def halfChannels (h : Nat) : List Nat := List.range' (192 * h) 192 ++ List.range' (384 + 4 * h) 4

/-- The keepers of the running half retire the fenced half's slots; where none are left to retire the re-check comes at once. -/
def Body.retireHalf (b : Body) (h kind : Nat) : Body :=
  let gone := (halfChannels h).filter (fun c => decide (c < 384)) |>.map b.chanSlot
  let outGone := (halfChannels h).filter (fun c => decide (384 ≤ c)) |>.map b.chanSlot
  let b := { b with store := { b.store with
    returning := b.store.returning.filter (fun s => !gone.contains s),
    outReturning := b.store.outReturning.filter (fun s => !outGone.contains s) } }
  let b' := b.retireChannels (halfChannels h) kind
  if b'.store.pendingRetire = b.store.pendingRetire then b'.recheck else b'

/-- Retrains under way on a half end with it, and so do the commands that asked for them. -/
def Body.endRetrains (b : Body) (v : Vault) (h kind : Nat) : Body :=
  ((halfChannels h).filter (fun c => (b.store.chan c).retraining)).foldl (fun b c =>
    (b.alterChan c (fun x => { x with retraining := false })).endRetrain v c stFailed kind (b.store.chan c).attempts) b

/-- The half enters FENCED: every snapshot that copies is discarded (R361). With both halves FENCED the module is FAILED, and its rails go off
where the input is lost. -/
def Body.enterFenced (b : Body) (v : Vault) (h kind : Nat) (cause : FenceCause) : Body :=
  let b := ((b.endRetrains v h kind).discardHalf h).rerouteHalf (b.ownMember v.serial) h
  let set := fun (x : HalfState) => { x with fenced := some cause, cleared := false }
  let b := (List.range 4).foldl (fun b p => b.failSnapshot p kind) b
  let b := { b.holdDuty h with whistle := { b.whistle with halves := alter h set b.whistle.halves } }
  if b.fenced (1 - h) then { b with boot := { b.boot with start := .failed } }.dropRails else b.retireHalf h kind

def fenceCauseOf (m : Word64) : FenceCause :=
  if msgType m = tLodge ∨ msgType m = tPackage ∨ msgType m = tInput then .moduleFatal else .fatal

/-- WH_REPORT_DONE, or 200 µs from the latch: what no keeper has recorded and completed by then is done with the fence (R342; log 126). -/
def Body.halfFence (v : Vault) (h : Nat) (b : Body) : Body :=
  match (b.half h).fatal with
  | none => b
  | some f =>
    if b.fenced h then b
    else
      let k := msgKind f.message
      let b := if f.reported then b else (b.until_ (f.at_ + 200000)).reportFatal h f.message
      let us := (b.clock.now - f.at_) / 1000
      let set := fun (g : WhistlePage) => { g with reportUs := us }
      let w := b.whistle.alterWh h set
      let w := if b.whistlePage (msgType f.message) (msgInst f.message) = 2 then w.alterWh 2 set else w
      { b with whistle := w }.enterFenced v h k (fenceCauseOf f.message)

def execHalfFence (half : Nat) (s : State) : Host.Outcome State Fault Refusal :=
  onBody (decide (half < 2)) s (fun b => b.halfFence s.vault half)

/-! ## FAULT_MESSAGE -/

/-- A block's message reaches the Whistle (log 6). -/
def execFaultMessage (word : Word64) (s : State) : Host.Outcome State Fault Refusal := onBody true s (fun b => b.message word)

/-! ## KEEPER_FRAME (R292 to R294, R306) -/

/-- Keepers run from step 5 of power-up on; here from the end of self-test. -/
def Body.powered (b : Body) : Bool :=
  match b.boot.start with
  | .ready | .failed => b.boot.tested
  | _ => false

/-- Frames of a beat: a remainder below 5 000 ticks joins the frame before it. -/
def framesIn (beatNs : Nat) : Nat := max 1 (beatNs / 10000 + (if 5000 ≤ beatNs % 10000 then 1 else 0))

/-- The bandstand has made a beat boundary since it locked: R292 governs (R293). -/
def Body.framed (b : Body) : Bool := b.hasBeat && b.clock.made && decide (0 < b.beatNs)

/-- The frame start that follows the one at `t`: on the beat's grid, or 10 000 ticks on; a frame in progress ends at the first beat boundary
after a lock. -/
def Body.nextFrame (b : Body) (t : Nat) : Nat :=
  if b.framed then
    if t < b.clock.beatStart then b.clock.beatStart
    else
      let base := b.clock.beatStart + (t - b.clock.beatStart) / b.beatNs * b.beatNs
      let j := (t - base) / 10000 + 1
      if j < framesIn b.beatNs then base + 10000 * j else base + b.beatNs
  else if b.hasBeat && decide (t < b.clock.beatStart + b.beatNs) then min (t + 10000) (b.clock.beatStart + b.beatNs)
  else t + 10000

/-- The last frame start at or before `now`, from the one at `t` on. -/
def Body.lastFrame (b : Body) (t now : Nat) : Nat :=
  if b.framed && decide (b.clock.beatStart ≤ now) then
    let base := b.clock.beatStart + (now - b.clock.beatStart) / b.beatNs * b.beatNs
    base + 10000 * min ((now - base) / 10000) (framesIn b.beatNs - 1)
  else t + (now - t) / 10000 * 10000

/-- Start of the frame that a keeper marks: the next one after its last, the one under way where that has passed, and the next to come for
a keeper back from a restart. -/
def Body.frameStart (b : Body) (x : Keeper) : Nat :=
  if x.mode = .restarting then b.nextFrame (b.lastFrame x.frameAt b.clock.now)
  else if b.clock.now ≤ b.nextFrame x.frameAt then b.nextFrame x.frameAt
  else b.lastFrame (b.nextFrame x.frameAt) b.clock.now

/-- The keeper marks a frame start: a restarted one runs again from here, and what the keeper of its role in the other half carried out for
it ends; from here on it carries out that one's role where that one does not run (R296, R399). -/
def Body.markFrame (b : Body) (k : Nat) : Body :=
  let t := b.frameStart (b.keeper k)
  let b := b.until_ t
  let other := (k + 4) % 8
  let own := fun (x : Keeper) => { x with mode := .on, frameAt := t, covers := b.keeperDown other }
  { b with keepers := { b.keepers with cores := alter other (fun x => { x with covers := false }) (alter k own b.keepers.cores) },
           doves := { b.doves with wake := alter k (fun _ => false) b.doves.wake } }

/-- The keeper carries out the MODULE duties of the lead half. -/
def Body.leads (b : Body) (k : Nat) : Bool :=
  decide (k = b.leadKeeper) || (decide (k = (b.leadKeeper + 4) % 8) && (b.keeper k).covers && !b.fenced (b.leadKeeper / 4))

/-- Slots a keeper receives: the doorbells with the lead half's MODULE duties, results of Lodge requests, messages of other keepers
(Table 12.2; log 42). -/
def Body.ownSlots (b : Body) (k : Nat) : List Nat :=
  (if b.leads k then List.range' 16 5 else []) ++ List.range' 33 7 ++ [48 + 2 * k, 49 + 2 * k]

/-- They are read in ascending order (R294). -/
def Body.readOwnSlots (b : Body) (k : Nat) : Body :=
  (b.ownSlots k).foldl (fun b s => if s < 21 then b.takeDoorbell (s - 16) else (b.readSlot s).2) b

/-- R306: pending attention bits go into empty slots. -/
def Body.sendAttention (b : Body) : Body :=
  (List.range 5).foldl (fun b i =>
    let w := b.doves.attn.getD i 0
    if w ≠ 0 ∧ (b.slot (24 + i)).full = false then
      let b := b.alterSlot (24 + i) (fun x => { x with word := BitVec.ofNat 64 w, full := true })
      { b with doves := { b.doves with attn := alter i (fun _ => 0) b.doves.attn } }
    else b) b

/-- Halves whose FAULT or MEMORY role a keeper carries out: its own, and the other one while that half's keeper does not run (R296, R399). -/
def Body.roleHalves (b : Body) (k : Nat) : List Nat := k / 4 :: (if (b.keeper k).covers then [1 - k / 4] else [])

/-- A MEMORY keeper's frame. -/
def Body.memoryFrame (b : Body) (k : Nat) : Body := (b.roleHalves k).foldl Body.periodicRetrains b

/-- The frame of the MODULE keeper that carries out the lead half's duties. -/
def Body.moduleFrame (b : Body) (v : Vault) (k : Nat) : Body :=
  if b.leads k then ((b.newFrame.serveRings v).start v).sendAttention else b

/-- Tasks of the role, in the order of Table 12.1. -/
def Body.roleFrame (b : Body) (v : Vault) (k : Nat) : Body :=
  match k % 4 with
  | 0 => [0, 1].foldl (Body.reportHalf k) b
  | 2 => b.memoryFrame k
  | 3 => b.moduleFrame v k
  | _ => b

/-- A keeper in ON or coming back from a restart marks frames; one that failed, or whose half is FENCED, does not run. -/
def Body.marksFrames (b : Body) (k : Nat) : Bool :=
  b.powered && !(b.keeper k).failed && !b.fenced (k / 4) && (decide ((b.keeper k).mode = .on) || decide ((b.keeper k).mode = .restarting))

/-- Table 12.6, Table 12.3: a keeper of role 1 to 3 may enter RETAIN while its half holds no fixture in RUNNING, no entry of the schedule lies
within 2 beats, and no slot it receives is full (log 124). -/
def Body.keeperMayRest (b : Body) (k : Nat) : Bool :=
  decide (k % 4 ≠ 0) && !b.parts.any (fun x => decide (x.fstate = .running) && x.pitches.any (fun i => decide (i / 2 = k / 4)))
    && !b.sched.entries.any (fun e => decide (e.beat ≤ b.clock.beat + 2)) && !(b.ownSlots k).any (fun s => (b.slot s).full)
    && !b.doves.wake.getD k false

/-- The end of a frame: the keeper enters RETAIN if it wants to and may. -/
def Body.endFrame (b : Body) (k : Nat) (want : Bool) : Body :=
  if want && b.keeperMayRest k then
    { b with keepers := { b.keepers with cores := alter k (fun x => { x with mode := .retain }) b.keepers.cores } }
  else b

/-- R294: the Whistle for a FAULT keeper, then the slots it receives, then its role's tasks. -/
def Body.keeperFrame (v : Vault) (k : Nat) (x : FrameRun) (b : Body) : Body :=
  if b.marksFrames k then
    let b := b.markFrame k
    let b := { b with keepers := { b.keepers with slips := if x.late && decide (k % 4 = 0) then wrap 32 (b.keepers.slips + 1) else b.keepers.slips } }
    let b := if k % 4 = 0 then b.pollPages (b.roleHalves k) else b
    ((b.readOwnSlots k).roleFrame v k).endFrame k x.retain
  else b

/-- Requests that wait for the Lodge's rate are served as the keepers' frames pass. -/
def execKeeperFrame (k : Nat) (x : FrameRun) (s : State) : Host.Outcome State Fault Refusal :=
  onAll (decide (k < 8)) s (fun v b => serveLodge b.doves.asks.length v (b.keeperFrame v k x))

/-! ## KEEPER_WATCHDOG_EXPIRED (R296) -/

/-- 25 µs without a frame start: the keeper restarts from ROM, and the contained keeper-restart is raised. A second expiry within 1 s, or
any while the other half is FENCED, is fatal as well. -/
def Body.watchdogExpired (b : Body) (k : Nat) : Body :=
  if b.powered && b.keeperRuns k then
    let x := b.keeper k
    let b := b.until_ (x.frameAt + 25000)
    let again := x.expiredAt.any (fun t => decide (b.clock.now < t + 1000000000)) || b.fenced (1 - k / 4)
    let b := { b with keepers := { b.keepers with
      restarts := wrap 32 (b.keepers.restarts + 1),
      cores := alter k (fun x => { x with mode := .restarting, expiredAt := some b.clock.now }) b.keepers.cores } }
    let b := b.raise tKeeper k .contained kKeeperRestart 0
    if again then b.raise tKeeper k .fatal kKeeperRepeat 0 else b
  else b

def execKeeperWatchdogExpired (k : Nat) (s : State) : Host.Outcome State Fault Refusal :=
  onBody (decide (k < 8)) s (fun b => b.watchdogExpired k)

end Sys2Proof.Machine
end

