-- ==== Sys2Proof/Machine/Startup.lean ====
section
/-!
DEFINITION. Power-up and self-test (17, R388 to R393, R397 to R402), the return of a half (15, R369), the Scorebook's flash (16, R374,
R376, R379, R380), and the supply (19, R421 to R423). Steps take the time at which Table 17.2 and Table 17.5 end them (log 43).
-/

namespace Sys2Proof.Machine

/-! ## SCOREBOOK_PROGRAM, OP_HOURS_SAVE (R374, R376, R378, R381) -/

/-- A queued record is programmed; once the input is lost, only what board hold-up allows (R380). -/
def Body.programRecord (b : Body) : Body :=
  if !b.score.counterRead then b
  else if b.boot.inputOk then { b with score := b.score.program }
  else if b.boot.standby && decide (0 < b.score.holdLeft) then { b with score := { b.score.program with holdLeft := b.score.holdLeft - 1 } }
  else b

def execScorebookProgram (s : State) : Host.Outcome State Fault Refusal := onBody true s Body.programRecord

/-- The operating-hours counter goes to the counter store after 60 s of operation. -/
def Body.saveHours (b : Body) : Body :=
  if b.boot.inputOk && b.score.counterRead then
    let b := b.until_ ((b.score.savedMs + 60000 - b.score.baseMs) * 1000000)
    { b with score := { b.score with savedMs := b.opMs } }
  else b

def execOpHoursSave (s : State) : Host.Outcome State Fault Refusal := onBody true s Body.saveHours

/-! ## INPUT_VALID (R389, R390 steps 1 to 4, R393, R374) -/

/-- R393: every volatile secret goes; a debug state ends here and its exit is recorded later (R397). -/
def Vault.powerUp (v : Vault) : Vault :=
  { v with nonce := none, exitDue := v.debug || v.exitDue, debug := false, level := 0, scanHalves := 0, healthy := true, engineOn := true,
           idleSince := 0, proofsAt := [] }

/-- What flash holds survives; the count of power cycles rises by one before any record. -/
def Score.powerUp (k : Score) : Score :=
  { Score.reset with flash := k.flash, full := k.full, savedMs := k.savedMs, cycles := wrap 32 (k.cycles + 1), clears := k.clears }

/-- Every register, memory and queue but those takes its reset value; with REF present already, the PLLs go on to lock (R390). -/
def Body.powerUp (b : Body) : Body :=
  let r := Body.reset
  { r with
    boot := { r.boot with start := if b.clock.refPresent then .testing else .waitRef, step := 4, inputOk := true, standby := true,
                          rails := true, eFuseOpen := b.boot.eFuseOpen },
    clock := { r.clock with now := 60000000, refPresent := b.clock.refPresent },
    score := b.score.holdUp.powerUp,
    net := { r.net with links := b.net.links.map Link.powerUp },
    host := b.host.powerUp,
    free := b.free + 1 }

/-- Step 2: the Lodge's ROM hash against its fuses, and both runs of its logic self-test (R398, R399). -/
def lodgePasses (n : Nat) : Bool :=
  decide (Config.lodgeHash n = Config.fusedHash)
    && [false, true].all (fun r => decide (Config.lodgeSignature n r = Config.romSignature .lodge (Config.romSeed .lodge r)))

/-- Step 3: the input monitor reads the bandgap reference within 1 %. -/
def inputMonitorPasses (n : Nat) : Bool := decide ((Config.inputReading n).natAbs ≤ 100)

/-- Power-up ends at a step of Table 17.2: FAILED (R400). -/
def Body.failedAt (b : Body) (step : Nat) : Body := { b with boot := { b.boot with start := .failed, step := step } }

/-- Steps 1 to 3. What the Lodge's and the input monitor's tests find is given by nothing, and stays open (log 133); a failure of either
ends the sequence where Table 17.2 ends the step. -/
def inputValid (v : Vault) (b : Body) : Vault × Body :=
  if b.boot.inputOk || b.boot.eFuseOpen then (v, b)
  else
    let c := b.powerUp
    let v := v.powerUp
    if !lodgePasses b.free then
      ({ v with healthy := false }, { c with boot := { c.boot with rails := false }, clock := { c.clock with now := 20000000 } }.failedAt 2)
    else if !inputMonitorPasses b.free then (v, c.failedAt 3)
    else (v, c)

def execInputValid (s : State) : Host.Outcome State Fault Refusal := onAll true s inputValid

/-! ## Self-test (R399, R401, Table 17.4) -/

/-- Rising, without repeats, below a bound. -/
def inRange (n : Nat) (xs : List Nat) : List Nat := unionRising (xs.filter (fun x => decide (x < n))) []

/-- A tile as one number that rises with pitch, row and column. -/
def tileNo (t : Nat × Nat × Nat) : Nat := (t.1 * 33 + t.2.1) * 32 + t.2.2

def SelfTest.tileNos (t : SelfTest) : List Nat :=
  unionRising ((t.tiles.filter (fun x => decide (x.1 < 4 ∧ x.2.1 < 33 ∧ x.2.2 < 32))).map tileNo) []

def tilePitch (n : Nat) : Nat := n / 1056
def tileRow (n : Nat) : Nat := n % 1056 / 32
def tileCol (n : Nat) : Nat := n % 32

/-- Failed lanes as link × 4 + lane. -/
def SelfTest.laneNos (t : SelfTest) : List Nat :=
  unionRising ((t.lanes.filter (fun x => decide (x.1 < 48 ∧ x.2 < 4))).map (fun x => 4 * x.1 + x.2)) []

/-- Sensors as half × 65 536 + sensor. -/
def SelfTest.sensorNos (t : SelfTest) : List Nat :=
  unionRising ((t.sensors.filter (fun x => decide (x.1 < 2 ∧ x.2 < 65536))).map (fun x => 65536 * x.1 + x.2)) []

/-- A run whose signature is not the one that ROM holds (R398). -/
def LogicRun.fails (r : LogicRun) : Bool := decide (r.signature ≠ Config.romSignature r.unit.type (Config.romSeed r.unit.type r.second))

/-- R398: a unit passes only if both its runs match; the units that do not join those that fail their other tests. -/
def SelfTest.judged (t : SelfTest) : SelfTest :=
  let bad := (t.logic.filter LogicRun.fails).map (·.unit)
  { t with
    logic := [],
    tiles := t.tiles ++ bad.filterMap (fun u => match u with
      | .tile p r c => some (p, r, c)
      | _ => none),
    feeders := t.feeders ++ bad.filterMap (fun u => match u with
      | .feeders p => some p
      | _ => none),
    engines := t.engines ++ bad.filterMap (fun u => match u with
      | .engine n => some n
      | _ => none),
    keepers := t.keepers ++ bad.filterMap (fun u => match u with
      | .keeper k => some k
      | _ => none),
    dies := t.dies ++ bad.filterMap (fun u => match u with
      | .die d => some d
      | _ => none) }

/-- A unit marked unusable: its row of Table 17.4, source, and the rest of DETAIL (log 37). -/
structure Marked where
  row : Nat
  source : Nat
  rest : List Nat
  deriving DecidableEq, Repr

/-- Every unit marked unusable, in the order of Table 17.4 and of instances. The Lodge and the input monitor, whose failure ends power-up
before step 8, are never among them. -/
def marks (t : SelfTest) : List Marked :=
  (SelfTest.tileNos t).map (fun n => ⟨0, tPitch * 64 + tilePitch n, [tilePitch n, tileRow n, tileCol n]⟩)
    ++ (inRange 4 t.feeders).map (fun i => ⟨1, tPitch * 64 + i, [i]⟩)
    ++ (inRange 4 t.engines).map (fun i => ⟨2, tEngine * 64 + i, [i]⟩)
    ++ (inRange 192 t.banks).map (fun k => ⟨3, tScratch * 64 + k / 96, [k]⟩)
    ++ (inRange 8 t.keepers).map (fun k => ⟨4, tKeeper * 64 + k, [k]⟩)
    ++ (SelfTest.laneNos t).map (fun n => ⟨6, tLink * 64 + n / 4, [n / 4, n % 4]⟩)
    ++ (inRange 4 t.dies).map (fun d => ⟨7, tDie * 64 + d, [d]⟩)
    ++ (inRange 384 t.channels).map (fun c => ⟨8, tStack * 64 + c / 32, [c]⟩)
    ++ (inRange 18 t.packages).map (fun k => ⟨9, tOutfield * 64 + k / 9, [k]⟩)
    ++ (inRange 2 t.pllHalves).map (fun h => ⟨10, tHalf * 64 + h, [h]⟩)
    ++ (inRange 2 t.railHalves).map (fun h => ⟨11, tHalf * 64 + h, [h]⟩)
    ++ (SelfTest.sensorNos t).map (fun n => ⟨12, tHalf * 64 + n / 65536, [n / 65536, n % 65536]⟩)

def Body.selfTestRecords (b : Body) (ms : List Marked) : Body := ms.foldl (fun b m => b.record recSelfTest m.source 0 (m.row :: m.rest)) b

/-- Halves that self-test leaves FENCED. -/
def SelfTest.fences (t : SelfTest) (h : Nat) : Bool := t.pllHalves.contains h || t.railHalves.contains h || t.sensorHalves.contains h

/-- The tests cover one half or the whole module: what they find of the units of the halves named. -/
def covers (hs : List Nat) (h : Nat) : Bool := hs.contains h

/-- Pitches and engines: spare or pair retirement afresh, active size 0 without feeders, drain or engine. -/
def Body.testUnits (b : Body) (t : SelfTest) (hs : List Nat) : Body :=
  { b with
    pitches := b.pitches.zipIdx.map (fun (x, i) => if covers hs (i / 2) then
      { x with failed := ((SelfTest.tileNos t).filter (fun n => decide (tilePitch n = i))).map (fun n => (tileRow n, tileCol n)), unrepaired := [],
               dead := t.feeders.contains i || t.engines.contains i, state := .idle } else x),
    engines := b.engines.zipIdx.map (fun (x, i) => if covers hs (i / 2) then
      { x with unusable := t.engines.contains i, state := .idle, accs := [], parked := [], vregs := [] } else x) }

/-- Banks are UNUSABLE, or ON with every codeword zero (Table 9.3). -/
def Store.testBanks (s : Store) (t : SelfTest) (hs : List Nat) : Store :=
  let mine := fun (a : Nat) => decide (scratchBase ≤ a ∧ a < scratchTop) && covers hs ((a - scratchBase) / bankBytes / 96)
  { s with
    cells := s.cells.filter (fun c => !mine c.1),
    poison := s.poison.filter (fun c => !mine (c * 64)),
    lists := s.lists.map (fun l => { l with cws := l.cws.filter (fun c => !mine (c * 64)) }),
    banks := s.banks.zipIdx.map (fun (x, k) => if covers hs (k / 96) then ⟨if t.banks.contains k then .unusable else .on, none⟩ else x) }

/-- Keepers leave reset from ROM. -/
def Body.testKeepers (b : Body) (t : SelfTest) (hs : List Nat) : Body :=
  { b with keepers := { b.keepers with cores := b.keepers.cores.zipIdx.map (fun (x, k) => if covers hs (k / 4) then
    (⟨.on, t.keepers.contains k, b.clock.now, none, false⟩ : Keeper) else x) } }

/-- A link's lanes that failed are excluded; a link that has none left or whose die has failed, and one not enabled, is DISABLED. The others
start in DOWN, or go to TRAIN where the half leaves FENCED and the port is fitted (Table 10.6). A half that stays FENCED keeps its links so. -/
def Body.testLinks (b : Body) (t : SelfTest) (hs : List Nat) : Body :=
  let dies := unionRising ((inRange 4 t.dies).filter (fun d => covers hs (d / 2))) (b.boot.diesFailed.filter (fun d => !covers hs (d / 2)))
  let test := fun (g : Link) (l : Nat) =>
    let bad := ((SelfTest.laneNos t).filter (fun n => decide (n / 4 = l))).map (· % 4)
    let st := if SelfTest.fences t (l / 24) && decide (g.state = .fenced) then LinkState.fenced
      else if decide (bad.length = 4) || dies.contains (l / 12) || !b.book.tables.link.enable.getD l false then .disabled
      else if decide (g.state = .fenced) && g.fitted then .train else .down
    { g.leaveAuth with badLanes := bad, lanes := [], since := b.clock.now, unacked := [], queued := [], state := st }
  { b with net := { b.net with links := b.net.links.zipIdx.map (fun (g, l) => if covers hs (l / 24) then test g l else g) },
           boot := { b.boot with diesFailed := dies } }

/-- Infield channels and outfield slots retired, and sensors excluded, by the tests of the halves named; the slots of a half that they leave
FENCED are retired with it (R210, Table 17.6). -/
def Body.testExclude (b : Body) (t : SelfTest) (hs : List Nat) : Body :=
  let gone := (hs.filter (SelfTest.fences t)).flatMap (fun h => List.range' (192 * h) 192)
  { b with boot := { b.boot with
    channelsOut := unionRising (inRange 384 t.channels) (unionRising gone (b.boot.channelsOut.filter (fun c => !covers hs (c / 192)))),
    outFailed := (List.range 2).filter (fun h => if covers hs h then SelfTest.fences t h || t.packages.any (fun k => decide (k < 18 ∧ k / 9 = h))
      else b.boot.outFailed.contains h),
    sensorsOut := unionRising (SelfTest.sensorNos t) (b.boot.sensorsOut.filter (fun n => !covers hs (n / 65536))) } }

/-- Both keepers of one role have failed (R400). -/
def Body.roleLost (b : Body) : Bool := (List.range 4).any (fun r => (b.keeper r).failed && (b.keeper (r + 4)).failed)

/-- ST_COUNTS and ST_UNITS (Table 17.6). -/
def Body.countTests (b : Body) : Body :=
  let where_ := fun {α : Type} (xs : List α) (f : α → Bool) => ((List.range xs.length).filter (fun i => (xs[i]?).any f))
  { b with boot := { b.boot with
    tilesFailed := (b.pitches.map (fun x => x.failed.length)).foldl (· + ·) 0,
    banksUnusable := (b.store.banks.filter (fun x => decide (x.state = .unusable))).length,
    lanesFailed := (b.net.links.map (fun g => g.badLanes.length)).foldl (· + ·) 0,
    veUnusable := where_ b.engines (fun x => x.unusable),
    keeperFailed := where_ b.keepers.cores (fun x => x.failed),
    halfFenced := (List.range 2).filter (fun h => decide ((b.half h).fenced = some .selfTest)) } }

/-! ## REF_PRESENT (R390 steps 4 to 9, R391, R401) -/

/-- The next SEQ, found in flash (R375, R379, R432). -/
def nextSeqOf (ps : List (List Byte)) : Nat :=
  match (ps.filter isRecord).getLast? with
  | some q => recordSeq q + 1
  | none => 0

/-- Step 5: the counter store is read; POWER_UP is the first record, and the exit from a debug state comes directly after it. What blocks have
reported since power-up follows (R432). -/
def Body.firstRecords (b : Body) (exitDue : Bool) : Body :=
  let waiting := b.score.queue
  let b := { b with score := { b.score with counterRead := true, baseMs := b.score.savedMs, nextSeq := nextSeqOf b.score.flash, queue := [] } }
  let b := b.record recPowerUp (tPackage * 64) 0 []
  let b := if exitDue then b.record recDebug (tLodge * 64) 0 [0, 0, 0] else b
  { b with score := waiting.foldl Score.enqueue b.score }

/-- A half is FENCED at self-test: its links and its memory leave the map. -/
def Body.fenceAtTest (b : Body) (t : SelfTest) : Body :=
  ((List.range 2).filter (SelfTest.fences t)).foldl (fun b h =>
    let set := fun (x : HalfState) => { x with fenced := some .selfTest }
    let b := ({ b.holdDuty h with whistle := { b.whistle with halves := alter h set b.whistle.halves } }).fenceLinks h
    { b with store := { b.store with
      retired := unionRising (((List.range' (192 * h) 192)).map b.chanSlot) b.store.retired,
      outRetired := unionRising (((List.range' (384 + 4 * h) 4)).map b.chanSlot) b.store.outRetired } }) b

/-- R220: the ball machines' runs on the channels of the halves tested, in ascending channel; a run that found nothing reports 0 errors
(log 96). -/
def Body.runBalls (b : Body) (t : SelfTest) (hs : List Nat) : Body :=
  ((List.range 392).filter (fun c => covers hs (chanHalf c))).foldl (fun b c =>
    b.ballResult c (((t.balls.find? (fun x => decide (x.1 = c))).map (·.2)).getD ⟨0, 0⟩)) b

/-- Zero fill: every infield and outfield codeword reads zero, with valid check bytes. -/
def Store.zeroFill (s : Store) : Store :=
  let bank := fun (a : Nat) => decide (scratchBase ≤ a ∧ a < scratchTop)
  { s with cells := s.cells.filter (fun c => bank c.1), poison := s.poison.filter (fun c => bank (c * 64)),
           lists := s.lists.map (fun l => { l with cws := l.cws.filter (fun c => bank (c * 64)) }), lost := [] }

/-- Slots that the tests of steps 6 and 7 retire; every other codeword is zero. -/
def Body.testMemory (b : Body) (t : SelfTest) : Body :=
  let outHalves := (List.range 2).filter (fun h => t.packages.any (fun k => decide (k < 18 ∧ k / 9 = h)))
  let outs := outHalves.flatMap (fun h => List.range' (384 + 4 * h) 4)
  let trained := fun (x : Channel) => { x with trainedAt := b.clock.now }
  let b := b.runBalls t [0, 1]
  { b with store := { b.store.zeroFill with
    retired := unionRising ((inRange 384 t.channels).map b.chanSlot) b.store.retired,
    outRetired := unionRising (outs.map b.chanSlot) b.store.outRetired,
    channels := b.store.channels.map trained, outChannels := b.store.outChannels.map trained } }

/-- R391: partition 0 owns every pitch with an active size above zero, with the full quotas; the grant is SAFE_GRANT; the bandstand seeks. -/
def Body.readyDefaults (b : Body) : Body :=
  { b.alterPart 0 (fun x => { x with pitches := (List.range 4).filter (fun i => decide (0 < b.mapCols i)), quotas := Quotas.full }) with
    power := { b.power with grant := b.book.tables.beat.safeGrant, pendingRaise := none },
    clock := { b.clock with band := .seeking, edgeAt := none, tai := none } }

/-- Steps 4 to 9 from the moment REF is present; with the west half FENCED here the east half leads from the start (log 109). Both halves
FENCED, or both keepers of a role failed, end the sequence at step 8 (R400). -/
def Body.selfTest (v : Vault) (t : SelfTest) (b : Body) : Body :=
  let t := SelfTest.judged t
  let b := ((b.until_ (b.clock.now + 40000000)).testKeepers t [0, 1]).firstRecords v.exitDue
  let b := b.until_ (b.clock.now + 4010000000)
  let b := ((b.testUnits t [0, 1]).testLinks t [0, 1]).testMemory t
  let b := ((({ b with store := b.store.testBanks t [0, 1] }).testExclude t [0, 1]).fenceAtTest t).countTests.selfTestRecords (marks t)
  let b := { b with boot := { b.boot with tested := true } }
  let cores := b.keepers.cores.map (fun (x : Keeper) => { x with frameAt := b.clock.now })
  let b := { b with keepers := { b.keepers with cores := cores, lead := if b.fenced 0 then 1 else 0 } }
  if (b.fenced 0 && b.fenced 1) || b.roleLost then b.failedAt 8
  else
    let b := b.readyDefaults
    ({ b with boot := { b.boot with start := .ready, step := 9, readyMs := b.clock.now / 1000000 } }).serveRings v

/-- In power-up the PLLs lock and the tests run; later the bandstand seeks again (R261). -/
def refPresent (t : SelfTest) (v : Vault) (b : Body) : Vault × Body :=
  let b := { b with clock := { b.clock with refPresent := true } }
  match b.boot.start with
  | .waitRef | .testing => ({ v with exitDue := false }, b.selfTest v t)
  | .ready =>
    (v, match b.clock.band with
      | .free => { b with clock := { b.clock with band := .seeking, edgeAt := none, tai := none } }
      | _ => b)
  | _ => (v, b)

def execRefPresent (t : SelfTest) (s : State) : Host.Outcome State Fault Refusal := onAll true s (refPresent t)

/-! ## HALF_RETURN (R369, R402) -/

/-- Slots of a half that may leave RETIRED: those of channels that have not failed and pass. -/
def Body.comingBack (b : Body) (t : SelfTest) (h : Nat) : List Nat × List Nat :=
  let outOk := !t.packages.any (fun k => decide (k < 18 ∧ k / 9 = h))
  (((List.range' (192 * h) 192).filter (fun c => !b.chanFailed c && !t.channels.contains c)).map b.chanSlot |>.filter b.store.retired.contains,
   if outOk then ((List.range' (384 + 4 * h) 4).filter (fun c => !b.chanFailed c)).map b.chanSlot |>.filter b.store.outRetired.contains
   else [])

/-- What of the module's self-test the half's subset covers. -/
def SelfTest.ofHalf (t : SelfTest) (h : Nat) : SelfTest :=
  { t with
    tiles := t.tiles.filter (fun x => decide (x.1 / 2 = h)), feeders := t.feeders.filter (fun i => decide (i / 2 = h)),
    engines := t.engines.filter (fun i => decide (i / 2 = h)), banks := t.banks.filter (fun k => decide (k / 96 = h)),
    keepers := t.keepers.filter (fun k => decide (k / 4 = h)), lanes := t.lanes.filter (fun x => decide (x.1 / 24 = h)),
    dies := t.dies.filter (fun d => decide (d / 2 = h)), channels := t.channels.filter (fun c => decide (c / 192 = h)),
    packages := t.packages.filter (fun k => decide (k / 9 = h)), pllHalves := t.pllHalves.filter (fun x => decide (x = h)),
    railHalves := t.railHalves.filter (fun x => decide (x = h)),
    sensors := t.sensors.filter (fun x => decide (x.1 = h)), sensorHalves := t.sensorHalves.filter (fun x => decide (x = h)) }

def Body.setHalf (b : Body) (h : Nat) (x : HalfState) : Body :=
  { b with whistle := { b.whistle with halves := alter h (fun _ => x) b.whistle.halves } }

/-- R402: the half's units are tested afresh, and every outcome stands, also in a half that stays FENCED. Nothing in the registers of such a
half shows pattern 0x3 on its channels (R227). -/
def Body.retest (b : Body) (t : SelfTest) (h : Nat) : Body :=
  let b := (((b.testUnits t [h]).testKeepers t [h]).testLinks t [h]).testExclude t [h]
  ({ b with store := b.store.testBanks t [h] }).runBalls t [h]

/-- The half rejoins the map; its slots wait for a boundary without a grant. -/
def Body.rejoin (b : Body) (t : SelfTest) (h : Nat) : Body :=
  let back := b.comingBack t h
  let b := (b.setHalf h ⟨none, none, false⟩).retest t h
  { b with store := { b.store with
    returning := unionRising back.1 b.store.returning, outReturning := unionRising back.2 b.store.outReturning } }

/-- Only a half that a fatal message of its own fenced, whose fatal page has been cleared, and whose slots have been retired, returns; its
records are of the RECOVERY phase. -/
def Body.halfReturn (v : Vault) (h : Nat) (t : SelfTest) (b : Body) : Body :=
  if (b.half h).fenced = some .fatal ∧ (b.half h).cleared ∧ b.boot.start = .ready ∧ b.leadRuns ∧ b.store.pendingRetire = [] then
    let t := SelfTest.ofHalf (SelfTest.judged t) h
    let b := { b with score := { b.score with recovering := true } }
    let b := if SelfTest.fences t h then (b.setHalf h ⟨some .selfTest, (b.half h).fatal, false⟩).retest t h else b.rejoin t h
    let b := b.countTests.selfTestRecords (marks t)
    let b := { b with score := { b.score with recovering := false } }
    if b.roleLost then b.failedAt 9 else b.refreshUnits.start v
  else b

def execHalfReturn (half : Nat) (t : SelfTest) (s : State) : Host.Outcome State Fault Refusal :=
  onBody (decide (half < 2)) s (fun b => b.halfReturn s.vault half t)

/-! ## The supply (R380, R389, R421 to R423) -/

/-- Outside 40 V to 58 V for more than 50 µs: where READY has not been reached the rails go off; later both halves take the fatal path. -/
def Body.inputExcursion (b : Body) (tenthVolts lastedNs : Nat) : Body :=
  if !b.boot.inputOk || decide (400 ≤ tenthVolts ∧ tenthVolts ≤ 580) || decide (lastedNs ≤ 50000) then b
  else
    let b := { b with boot := { b.boot with inputOk := false } }
    if b.boot.readyMs = 0 then b.railsOff else (b.raise tInput 0 .fatal kInputPower tenthVolts).dropRails

def execInputExcursion (tenthVolts lastedNs : Nat) (s : State) : Host.Outcome State Fault Refusal :=
  onBody true s (fun b => b.inputExcursion tenthVolts lastedNs)

/-- Above 60 V the input eFuse opens, and the module is unpowered. -/
def execInputOvervoltage (s : State) : Host.Outcome State Fault Refusal :=
  onBody true s (fun b => { b.standbyOff with boot := { b.standbyOff.boot with eFuseOpen := true } })

/-- The hold-up ends once the input is lost. -/
def execHoldUpEnded (s : State) : Host.Outcome State Fault Refusal :=
  onBody true s (fun b => if b.boot.standby && !b.boot.inputOk then b.standbyOff else b)

end Sys2Proof.Machine
end

