-- ==== Sys2Proof/Machine/LodgeRows.lean ====
section
/-!
DEFINITION. The management channel and the Lodge (11, R281; 12, R304, R307, R308; 16, R383; 17, R394 to R396).
-/

namespace Sys2Proof.Machine

/-! ## GRANT_MESSAGE (R301, R304) -/

def grantSeq (w : Word64) : Nat := (w.extractLsb' 0 32).toNat

/-- The management channel writes slot 0, whose router is never OFF: it takes the word within 1 µs, and forwards it to slot 32, into a full
slot only a word of higher SEQ. -/
def Body.forwardGrant (b : Body) (w : Word64) : Body :=
  let b := b.alterSlot 0 (fun x => { x with word := w, full := false })
  if (b.slot 32).full && decide (grantSeq w ≤ grantSeq (b.slot 32).word) then b
  else
    let b := b.alterSlot 32 (fun x => { x with word := w, full := true })
    { b with doves := { b.doves with grantBeat := b.clock.beat } }

def execGrantMessage (word : Word64) (s : State) : Host.Outcome State Fault Refusal := onBody true s (fun b => b.forwardGrant word)

/-! ## Management requests (slots 1 to 7), with their replies (slots 8 to 15) -/

def Body.reply (b : Body) (o : Output) : Body := (b.answer o).replyIn (List.range' 8 8) []

/-- The owner root key is set once per module (Table 12.7). -/
def setOwner (key : Nat) (v : Vault) (b : Body) : Vault × Body :=
  match v.ownerKey with
  | none => ({ v with ownerKey := some key }, b.reply .accepted)
  | some _ => (v, b.reply .refused)

/-- The request is signed by the owner root key. -/
def Vault.ownerSigned (v : Vault) (signer : Option Nat) : Bool := v.ownerKey.isSome && decide (signer = v.ownerKey)

def Vault.addKey (v : Vault) (cls : KeyClass) (key : Nat) : Vault :=
  match cls with
  | .fixture => { v with fixtureKeys := v.fixtureKeys ++ [key] }
  | .rulebook => { v with rulebookKeys := v.rulebookKeys ++ [key] }

/-- At most 8 signing keys of each class (Table 12.7); a key already held stays as it is. -/
def installKey (cls : KeyClass) (key : Nat) (signer : Option Nat) (v : Vault) (b : Body) : Vault × Body :=
  if v.ownerSigned signer then
    if (v.keys cls).contains key then (v, b.reply .accepted)
    else if (v.keys cls).length < 8 then (v.addKey cls key, b.reply .accepted)
    else (v, b.reply .refused)
  else (v, b.reply .refused)

/-- R395: a fresh nonce; the one before it authorises nothing any more. -/
def drawNonce (v : Vault) (b : Body) : Vault × Body :=
  let n := (Config.nonceValue v.drawn).toNat
  ({ v with nonce := some n, drawn := v.drawn + 1 }, b.reply (.nonce n))

/-- R394, R395: what a debug request must meet. Only a request that raises the level changes anything (R396). -/
def debugGranted (v : Vault) (b : Body) (serial : Word64) (nonce level : Nat) (signer : Option Nat) : Bool :=
  (decide (b.boot.start = .ready) || decide (b.boot.start = .failed)) && v.healthy && v.ownerSigned signer && decide (serial = v.serial)
    && decide (v.nonce = some nonce) && decide (v.level < level) && decide (level ≤ 2)

/-- R396 steps 1 and 2. -/
def Vault.enterDebug (v : Vault) (level halves : Nat) : Vault :=
  { v with nonce := none, debug := true, level := level, scanHalves := if level = 2 then halves else 0 }

/-- R396 step 3: the hardware actions of the fatal path, without a message. The kind its failed snapshots and retrains name is not
stated. -/
def Body.scanFence (b : Body) (v : Vault) (h : Nat) : Body :=
  if b.fenced h then b
  else
    let k := Config.fenceCode b.free % 256
    (({ b with free := b.free + 1 }.cancelTimers h).fenceLinks h).enterFenced v h k .scan

def enterDebug (level halves : Nat) (v : Vault) (b : Body) : Vault × Body :=
  let v := v.enterDebug level halves
  let r := serveLodge b.doves.asks.length v b
  let b := { r.2 with score := { r.2.score with testing := true } }
  let b := if level = 2 then ((List.range 2).filter halves.testBit).foldl (fun b h => b.scanFence v h) b else b
  (r.1, (b.record recDebug (tLodge * 64) 0 [1, level, halves]).reply .accepted)

def debugRequest (serial : Word64) (nonce level halves : Nat) (signer : Option Nat) (v : Vault) (b : Body) : Vault × Body :=
  if debugGranted v b serial nonce level signer then enterDebug level halves v b else (v, b.reply .refused)

/-- Table 16.4. -/
def tokenBytes (authoriser number code : Nat) : List Byte := leBytes authoriser 4 ++ leBytes number 4 ++ leBytes code 8

/-- A clear token takes two slots of 8 to 15, its first 8 bytes and its CODE (log 56). -/
def Body.replyToken (b : Body) (token : List Byte) : Body :=
  let b := (b.answer (.clearToken token)).writeFirst (List.range' 8 8) (BitVec.ofNat 64 (leValue (token.take 8))) []
  (b.2.writeFirst (List.range' 8 8) (BitVec.ofNat 64 (leValue (token.drop 8))) []).2

/-- R383: a token for the next clear, to a request that the owner root key signs. -/
def clearToken (authoriser : Nat) (signer : Option Nat) (v : Vault) (b : Body) : Vault × Body :=
  if v.ownerSigned signer then
    let n := wrap 32 (b.score.clears + 1)
    (v, b.replyToken (tokenBytes authoriser n (Config.clearCode v.serial authoriser n).toNat))
  else (v, b.reply .refused)

/-! ## The engine polls its slots -/

/-- What a request of the management channel does once the engine has taken it; a keeper's joins the queue. -/
def serveMail (m : LodgeMail) (v : Vault) (b : Body) : Vault × Body :=
  let v := { v with idleSince := b.clock.now }
  match m with
  | .ask j => (v, { b with doves := { b.doves with asks := b.doves.asks ++ [j] } })
  | .ownerKey key => setOwner key v b
  | .install cls key signer => installKey cls key signer v b
  | .nonce => drawNonce v b
  | .debug serial nonce level halves signer => debugRequest serial nonce level halves signer v b
  | .clear authoriser signer => clearToken authoriser signer v b

/-- An engine in ON takes every full slot it receives, in slot order, and serves its queue (R294's ascending order, R303, R308). -/
def pollEngine (v : Vault) (b : Body) : Vault × Body :=
  let due := fun (s : Nat) => (b.doves.mail.filter (fun m => decide (m.1 = s))).map (·.2)
  let r := ((List.range 48).flatMap due).foldl (fun (r : Vault × Body) m => serveMail m r.1 r.2) (v, b.takeMail)
  serveLodge r.2.doves.asks.length r.1 r.2

/-- The management channel writes a request into a slot of 1 to 7 (R300, R301). -/
def manage (m : LodgeMail) (v : Vault) (b : Body) : Vault × Body :=
  let c := (b.post (List.range' 1 7) m).2
  if v.engineOn then pollEngine v c else (v, c)

def execOwnerKeySet (key : Nat) (s : State) : Host.Outcome State Fault Refusal := onAll true s (manage (.ownerKey key))

def execSigningKeyInstall (cls : KeyClass) (key : Nat) (signer : Option Nat) (s : State) : Host.Outcome State Fault Refusal :=
  onAll true s (manage (.install cls key signer))

def execDebugNonceRequest (s : State) : Host.Outcome State Fault Refusal := onAll true s (manage .nonce)

def execDebugRequest (serial : Word64) (nonce level halves : Nat) (signer : Option Nat) (s : State) : Host.Outcome State Fault Refusal :=
  onAll (decide (level < 4) && decide (halves < 4)) s (manage (.debug serial nonce level halves signer))

def execClearTokenRequest (authoriser : Nat) (signer : Option Nat) (s : State) : Host.Outcome State Fault Refusal :=
  onAll (decide (authoriser < 2 ^ 32)) s (manage (.clear authoriser signer))

/-! ## LODGE_REQUEST (R308) -/

def execLodgeRequest (r : LodgeReq) (s : State) : Host.Outcome State Fault Refusal := onAll r.wf s (askLodge (.request r))

/-! ## WAKE_EVENT, LODGE_ENGINE_OFF (R303, Table 12.6) -/

/-- A latched wake event returns its domain to ON; the watchdog restarts with it. -/
def Body.wakeKeeper (b : Body) (k : Nat) : Body :=
  if b.doves.wake.getD k false then
    let woken := fun (x : Keeper) => match x.mode with
      | .retain | .off => { x with mode := .on, frameAt := b.clock.now }
      | _ => x
    { b with keepers := { b.keepers with cores := alter k woken b.keepers.cores } }
  else b

/-- The Lodge's request engine polls once it is on. -/
def wakeEngine (v : Vault) (b : Body) : Vault × Body :=
  if b.doves.wake.getD 8 false then
    pollEngine { v with engineOn := true, idleSince := b.clock.now } { b with doves := { b.doves with wake := alter 8 (fun _ => false) b.doves.wake } }
  else (v, b)

def execWakeEvent (d : WakeDomain) (s : State) : Host.Outcome State Fault Refusal :=
  onAll d.wf s (fun v b => match d with
    | .keeper k => (v, b.wakeKeeper k)
    | .lodgeEngine => wakeEngine v b)

/-- No request pending: nothing queued, no slot it receives full, no wake latched. -/
def engineIdle (b : Body) : Bool :=
  b.doves.asks.isEmpty && !(b.doves.wake.getD 8 false)
    && (List.range' 1 7 ++ List.range' 40 8).all (fun s => !(b.slot s).full)

/-- 1 ms without a pending request. -/
def engineOff (v : Vault) (b : Body) : Vault × Body :=
  if v.engineOn && engineIdle b then ({ v with engineOn := false }, b.until_ (v.idleSince + 1000000)) else (v, b)

def execLodgeEngineOff (s : State) : Host.Outcome State Fault Refusal := onAll true s engineOff

end Sys2Proof.Machine
end

