-- ==== Sys2Proof/Machine/Verdict.lean ====
section
/-!
DEFINITION. The verdict of a step (05, R116 to R125; 13, R318, R436; 15, R349 to R361, R370) and the completion of a snapshot
(R356).
-/

namespace Sys2Proof.Machine

open Arith

/-! ## When the verdict token completes (R120) -/

/-- Every operation of the step in progress has completed, and there is one. -/
def Partition.stepEmptied (x : Partition) (f : FixtureImage) : Bool :=
  (f.fwd ++ f.bwd ++ f.upd).any (fun o => decide (x.stepOf o = x.pass.step))
    && (List.range 3).all (fun s => decide (firstOf f s (x.pass.step + 1) ≤ (x.streams.getD s Stream.reset).pos))
    && !(x.flights.any (fun fl => match x.op? fl with
        | some op => decide (x.stepOf op ≤ x.pass.step)
        | none => false))

/-- The verdict token may complete. -/
def Partition.verdictReady (x : Partition) : Bool :=
  decide (x.fstate = .running) && !x.snap.incomplete && (match x.fix with
    | some f => if x.pass.buckets.isEmpty then x.stepEmptied f else x.pass.buckets.all (fun k => k.reduced.isSome)
    | none => false)

/-- The OR of the reduced status words; 0 for a step without buckets. -/
def Pass.verdictWord (x : Pass) : Nat := x.buckets.foldl (fun w k => w ||| k.reduced.getD 0) 0

/-! ## The loss scale (R118) -/

/-- Codes of Table 5.7. -/
def dKeep : Nat := 0
def dDouble : Nat := 1
def dHalveSkip : Nat := 2

def Pass.push (x : Pass) (d : Nat) : Pass := { x with history := (x.history * 4 + d) % 2 ^ 32 }

/-- The loss-scale state after a verdict. -/
def Pass.advanceScale (x : Pass) (t : LossScaleTable) (nonfinite : Bool) : Pass :=
  if nonfinite then
    { x with scaleExp := max (x.scaleExp - 1) t.scaleMin, clean := 0, skips := x.skips + 1 }.push dHalveSkip
  else
    let clean := min (x.clean + 1) (2 ^ 32 - 1)
    let x := { x with skips := 0, clean := clean }
    if t.scaleMax < x.scaleExp then { x with scaleExp := t.scaleMax, clean := 0 }.push dKeep
    else if t.growth ≤ clean ∧ x.scaleExp < t.scaleMax then { x with scaleExp := x.scaleExp + 1, clean := 0 }.push dDouble
    else x.push dKeep

/-! ## Skipping (R123, Table 15.10) -/

/-- Running early updates of the step complete. -/
def Body.finishUpdates (b : Body) (p : Nat) : Body :=
  let x := b.part p
  (x.flights.filter (fun fl => match x.op? fl with
    | some op => (match op.payload with
      | .update _ => decide (x.stepOf op = x.pass.step)
      | _ => false)
    | none => false)).foldl (fun b fl => match (b.part p).op? fl with
      | some op => b.finishFlight p fl op [] []
      | none => b) b

/-- Nothing of the step's updates stays: running ones complete, the journal goes back, buckets start again. -/
def Body.undoStep (b : Body) (p : Nat) : Body :=
  let b := ((b.finishUpdates p).rollback p).clearBuckets p (b.part p).pass.step
  b.alterPart p (fun x => { x with upd := x.upd.withhold x.pass.step })

/-! ## The verdict -/

/-- Table 13.2, a STEP record. Its TAG is the token of R23; R23 gives the verdict token of R120 no producer, so its value is a free
value (log 9). -/
def stepRecord (p step word loss flags : Nat) : CplRecord := ⟨(Config.verdictToken p step).toNat, 0x00, stOk, false, kindStep, 0, .step step word loss flags⟩

/-- Withheld steps that still have UPDATE operations to pass over. -/
def Partition.stillWithheld (x : Partition) : List Nat :=
  x.upd.withheld.filter (fun s => ((x.image 2).drop ((x.streams.getD 2 Stream.reset).pos)).any (fun o => decide (x.stepOf o = s)))

/-- Where a stream stands once it has issued everything before step `step`. -/
def Partition.stepStart (x : Partition) (f : FixtureImage) (step : Nat) : List Nat × List Nat :=
  ((List.range 3).map (fun s => (x.streams.getD s Stream.reset).pos + (if s < 2 then x.gap f s step else 0)),
   (List.range 3).map (fun s => ((x.streams.getD s Stream.reset).count + (if s < 2 then x.gap f s step else 0)) % 2 ^ 30))

/-- The pass state of the next step (R118, R125). -/
def Partition.nextStep (x : Partition) (f : FixtureImage) (t : LossScaleTable) (word : Nat) : Partition :=
  let nonfinite := decide (word % 2 = 1)
  let s := x.pass.step
  let st := x.stepStart f (s + 1)
  let pass := x.pass.advanceScale t nonfinite
  { x with
    pass := { pass with
      scaleAt := (s, x.pass.scaleExp) :: x.pass.scaleAt.take 8, step := (s + 1) % 2 ^ 48, verdict := word,
      skippedCount := if nonfinite then wrap 32 (x.pass.skippedCount + 1) else x.pass.skippedCount,
      splits := [], losses := [], lossEngine := none, flags := 0, startPos := st.1, startCount := st.2,
      buckets := x.pass.buckets.map (fun k => { k with status := 0, reduced := none, failed := false }) },
    upd := { x.upd with journal := [], withheld := x.stillWithheld } }

/-- A verification's outcome at the verdict: 0 to 3, with its state; none where nothing waits. -/
def Partition.verifyAt (x : Partition) (loss word : Nat) : Option (Nat × Verify) :=
  x.snap.verify.map (fun w => (verifyResult w loss word (decide (x.pass.flags % 2 = 0)), w))

/-- SKIP_LIMIT skips in a row: the message, and the streams stop. -/
def Body.lossStuck (b : Body) (p step : Nat) : Body :=
  ((b.raise tPartition p .contained kLossStuck (step % 2 ^ 40)).failSnapshot p kLossStuck).stopPartition p

/-- A bound met at this verdict: the fixture moves to STOPPED and the record is written (R436). -/
def Body.meetBound (b : Body) (p step : Nat) : Body :=
  match (b.part p).bound with
  | some (s, _, _) => if s = step then (b.stopPartition p).endBound p stOk else b
  | none => b

/-- The step goes on: skipped or not, the state advances, the record is written, snapshots follow. -/
def Body.advanceStep (b : Body) (v : Vault) (p : Nat) (f : FixtureImage) (word loss : Nat) : Body :=
  let s := (b.part p).pass.step
  let nonfinite := decide (word % 2 = 1)
  let b := if nonfinite then b.undoStep p else b
  let flags := (b.part p).pass.flags ||| (if nonfinite then flagSkipped else 0)
  let b := b.alterPart p (fun x => x.nextStep f b.book.tables.loss word)
  let b := b.putRecord p (stepRecord p s word loss flags)
  let b := (b.sealImages p s loss word (decide (flags % 2 = 0))).snapAtVerdict v p s
  let b := if nonfinite && decide (b.book.tables.loss.skipLimit ≤ (b.part p).pass.skips) then b.lossStuck p s else b
  b.meetBound p s

/-- The replayed step does not match its seal: no update of it is applied, and the fixture stops as it was restored. -/
def Body.mismatch (b : Body) (p : Nat) (w : Verify) (word loss : Nat) : Body :=
  let x := b.part p
  let b := (b.undoStep p).putRecord p (stepRecord p x.pass.step word loss x.pass.flags)
  (b.stopPartition p).verified p 1 w

/-- The loss sums of a step are converted at its verdict, on the engine of its latest loss row, and the STEP record carries XSUM_RANGE where
a conversion met a flag (R187, R191, R197). DESIGN CHOICE: the spec names no operation that makes these conversions (log 119). -/
def Body.convertLosses (b : Body) (p : Nat) : Body :=
  match (b.part p).pass.lossEngine with
  | none => b
  | some e =>
    let micro := ((b.part p).pass.losses.map (·.2)).filter (fun m => !m.isEmpty)
    let r := (b.countTerms e micro.length).rangeMet e (flaggedSums (stepSum micro :: micro.map lossSum))
    r.1.alterPart p (fun x => { x with pass := { x.pass with flags := x.pass.flags ||| r.2 } })

def Body.verdictReached (b : Body) (p : Nat) : Body := if (b.part p).verdictReady then b.convertLosses p else b

def Body.stepVerdict (v : Vault) (p : Nat) (b : Body) : Body :=
  let b := b.verdictReached p
  let x := b.part p
  match x.verdictReady, x.fix with
  | true, some f =>
    let word := x.pass.verdictWord
    let loss := stepLoss (x.pass.losses.map (·.2))
    (match x.verifyAt loss word with
    | some (1, w) => b.mismatch p w word loss
    | some (r, w) => (b.verified p r w).advanceStep v p f word loss
    | none => b.advanceStep v p f word loss)
  | _, _ => b

def execStepVerdict (part : Nat) (s : State) : Host.Outcome State Fault Refusal :=
  onBody (decide (part < 4)) s (fun b => b.stepVerdict s.vault part)

/-! ## SNAPSHOT_COMPLETE (R356, R361) -/

/-- A snapshot that waited for the copy, of a fixture whose cut is the moment it starts, takes its cut. -/
def Body.cutWaiting (b : Body) (v : Vault) (p : Nat) : Body :=
  match (b.part p).snap.waiting with
  | some w =>
    match (b.part p).cutsNow, (b.part p).fix with
    | true, some f =>
      let step := (b.part p).pass.step - 1
      (b.cut v p w .noStep step ((b.part p).layersDue f step)).getD (b.dropWaiting p)
    | _, _ => b
  | none => b

/-- Every destination holds the image: counted, and a command that asked for it completes. -/
def Body.snapshotComplete (v : Vault) (p : Nat) (b : Body) : Body :=
  match b.finishSnapshot p with
  | none => b
  | some (b, r, d) =>
    let b := if r.command then
        match b.active.find? (fun a => decide (a.key = p) && a.running && isSnapshotCmd a.cmd) with
        | some a => b.endCommand v a stOk 0 d
        | none => b
      else b
    b.cutWaiting v p

def execSnapshotComplete (part : Nat) (s : State) : Host.Outcome State Fault Refusal :=
  onBody (decide (part < 4)) s (fun b => b.snapshotComplete s.vault part)

end Sys2Proof.Machine
end

