-- ==== Sys2Proof/Machine/Dispatch.lean ====
section
/-! DEFINITION. One arm for each command. -/

namespace Sys2Proof.Machine

def exec (i : Instr) (s : State) : Host.Outcome State Fault Refusal :=
  match i with
  | .fixtureLoad h off len img => Sys2Proof.Machine.execFixtureLoad h off len img s
  | .fixtureCheck h off len img => Sys2Proof.Machine.execFixtureCheck h off len img s
  | .fixtureStart h => Sys2Proof.Machine.execFixtureStart h s
  | .fixtureStop h => Sys2Proof.Machine.execFixtureStop h s
  | .fixtureRetire h => Sys2Proof.Machine.execFixtureRetire h s
  | .stepBound h st => Sys2Proof.Machine.execStepBound h st s
  | .schedule h e => Sys2Proof.Machine.execSchedule h e s
  | .scheduleCancel h token part => Sys2Proof.Machine.execScheduleCancel h token part s
  | .listInit h off pool cap carousel => Sys2Proof.Machine.execListInit h off pool cap carousel s
  | .listRetire h off last => Sys2Proof.Machine.execListRetire h off last s
  | .tableLoad h off len slot img => Sys2Proof.Machine.execTableLoad h off len slot img s
  | .tableDiscard h slot => Sys2Proof.Machine.execTableDiscard h slot s
  | .budget h part row value => Sys2Proof.Machine.execBudget h part row value s
  | .partitionSet h part mask => Sys2Proof.Machine.execPartitionSet h part mask s
  | .snapshot h mask addr => Sys2Proof.Machine.execSnapshot h mask addr s
  | .restore h source addr flags out => Sys2Proof.Machine.execRestore h source addr flags out s
  | .logRead h first count buf => Sys2Proof.Machine.execLogRead h first count buf s
  | .logClear h authoriser number code => Sys2Proof.Machine.execLogClear h authoriser number code s
  | .selfTest h chan pattern r => Sys2Proof.Machine.execSelfTest h chan pattern r s
  | .linkRelease h link => Sys2Proof.Machine.execLinkRelease h link s
  | .retrain h chan => Sys2Proof.Machine.execRetrain h chan s
  | .abandon h => Sys2Proof.Machine.execAbandon h s
  | .opcodeUnknown h opcode => Sys2Proof.Machine.execOpcodeUnknown h opcode s
  | .doorbellWrite slot word => Sys2Proof.Machine.execDoorbellWrite slot word s
  | .attentionWordRead slot => Sys2Proof.Machine.execAttentionWordRead slot s
  | .doveOverrunClear value => Sys2Proof.Machine.execDoveOverrunClear value s
  | .blkClear page value => Sys2Proof.Machine.execBlkClear page value s
  | .whClearFirst inst value => Sys2Proof.Machine.execWhClearFirst inst value s
  | .freezeViewWrite page value => Sys2Proof.Machine.execFreezeViewWrite page value s
  | .ringEnableWrite ring value => Sys2Proof.Machine.execRingEnableWrite ring value s
  | .ringSizeWrite ring completion value => Sys2Proof.Machine.execRingSizeWrite ring completion value s
  | .cplHeadWrite ring value => Sys2Proof.Machine.execCplHeadWrite ring value s
  | .bar2BaseWrite value => Sys2Proof.Machine.execBar2BaseWrite value s
  | .bar2CtrlWrite value => Sys2Proof.Machine.execBar2CtrlWrite value s
  | .stTouchWrite value => Sys2Proof.Machine.execStTouchWrite value s
  | .registerWrite page off value => Sys2Proof.Machine.execRegisterWrite page off value s
  | .registerAccessMisaligned page off size write => Sys2Proof.Machine.execRegisterAccessMisaligned page off size write s
  | .bar2Read off len errs => Sys2Proof.Machine.execBar2Read off len errs s
  | .bar2Write off bytes errs => Sys2Proof.Machine.execBar2Write off bytes errs s
  | .grantMessage word => Sys2Proof.Machine.execGrantMessage word s
  | .ownerKeySet key => Sys2Proof.Machine.execOwnerKeySet key s
  | .signingKeyInstall cls key signer => Sys2Proof.Machine.execSigningKeyInstall cls key signer s
  | .debugNonceRequest => Sys2Proof.Machine.execDebugNonceRequest s
  | .debugRequest serial nonce level halves signer => Sys2Proof.Machine.execDebugRequest serial nonce level halves signer s
  | .clearTokenRequest authoriser signer => Sys2Proof.Machine.execClearTokenRequest authoriser signer s
  | .lodgeRequest r => Sys2Proof.Machine.execLodgeRequest r s
  | .beatEdge offset => Sys2Proof.Machine.execBeatEdge offset s
  | .beatEdgeMissing => Sys2Proof.Machine.execBeatEdgeMissing s
  | .beatBoundary => Sys2Proof.Machine.execBeatBoundary s
  | .ptpTime tai => Sys2Proof.Machine.execPtpTime tai s
  | .holdoverExpired => Sys2Proof.Machine.execHoldoverExpired s
  | .refLost => Sys2Proof.Machine.execRefLost s
  | .refPresent t => Sys2Proof.Machine.execRefPresent t s
  | .tableSwap => Sys2Proof.Machine.execTableSwap s
  | .mode => Sys2Proof.Machine.execMode s
  | .opRange => Sys2Proof.Machine.execOpRange s
  | .token => Sys2Proof.Machine.execToken s
  | .snapshotEntry => Sys2Proof.Machine.execSnapshotEntry s
  | .maintenance => Sys2Proof.Machine.execMaintenance s
  | .barrierArrival part barrier => Sys2Proof.Machine.execBarrierArrival part barrier s
  | .lateNotice part barrier x => Sys2Proof.Machine.execLateNotice part barrier x s
  | .barrierDecision => Sys2Proof.Machine.execBarrierDecision s
  | .noticeFlit link hdr n => Sys2Proof.Machine.execNoticeFlit link hdr n s
  | .heldNoticeExpired => Sys2Proof.Machine.execHeldNoticeExpired s
  | .powerInterval m => Sys2Proof.Machine.execPowerInterval m s
  | .opRaiseStart => Sys2Proof.Machine.execOpRaiseStart s
  | .droopDetected half => Sys2Proof.Machine.execDroopDetected half s
  | .droopRelease half cycles => Sys2Proof.Machine.execDroopRelease half cycles s
  | .grantLapse => Sys2Proof.Machine.execGrantLapse s
  | .dieOvertemp half sensor => Sys2Proof.Machine.execDieOvertemp half sensor s
  | .dieOvertempResume half => Sys2Proof.Machine.execDieOvertempResume half s
  | .dieOvertrip half sensor => Sys2Proof.Machine.execDieOvertrip half sensor s
  | .stackThermalChange stack temp shutdown => Sys2Proof.Machine.execStackThermalChange stack temp shutdown s
  | .retrainStart => Sys2Proof.Machine.execRetrainStart s
  | .retrainAttemptEnd chan pass durationNs result package => Sys2Proof.Machine.execRetrainAttemptEnd chan pass durationNs result package s
  | .dataCrcFailure chan => Sys2Proof.Machine.execDataCrcFailure chan s
  | .scrubPass src errs => Sys2Proof.Machine.execScrubPass src errs s
  | .memorySideAdd a => Sys2Proof.Machine.execMemorySideAdd a s
  | .addWindowIncomplete window => Sys2Proof.Machine.execAddWindowIncomplete window s
  | .bankStateRequest bank state => Sys2Proof.Machine.execBankStateRequest bank state s
  | .bankStateEnter bank => Sys2Proof.Machine.execBankStateEnter bank s
  | .bankWake bank => Sys2Proof.Machine.execBankWake bank s
  | .channelRetire chan => Sys2Proof.Machine.execChannelRetire chan s
  | .halfReturn half t => Sys2Proof.Machine.execHalfReturn half t s
  | .tileFailed pitch row col => Sys2Proof.Machine.execTileFailed pitch row col s
  | .pitchStop pitch => Sys2Proof.Machine.execPitchStop pitch s
  | .pitchStopComplete x => Sys2Proof.Machine.execPitchStopComplete x s
  | .vectorStop x => Sys2Proof.Machine.execVectorStop x s
  | .subOperationCommit x => Sys2Proof.Machine.execSubOperationCommit x s
  | .issuePass x => Sys2Proof.Machine.execIssuePass x s
  | .operationComplete part tok met => Sys2Proof.Machine.execOperationComplete part tok met s
  | .streamWaitExpired part stream => Sys2Proof.Machine.execStreamWaitExpired part stream s
  | .benchExhausted part => Sys2Proof.Machine.execBenchExhausted part s
  | .stepVerdict part => Sys2Proof.Machine.execStepVerdict part s
  | .snapshotComplete part => Sys2Proof.Machine.execSnapshotComplete part s
  | .trainRetry link => Sys2Proof.Machine.execTrainRetry link s
  | .trainComplete link lanes rttNs => Sys2Proof.Machine.execTrainComplete link lanes rttNs s
  | .trainTimeout link => Sys2Proof.Machine.execTrainTimeout link s
  | .authFlit link hdr m => Sys2Proof.Machine.execAuthFlit link hdr m s
  | .authTimeout link => Sys2Proof.Machine.execAuthTimeout link s
  | .authFailedRetry link => Sys2Proof.Machine.execAuthFailedRetry link s
  | .lockLoss link => Sys2Proof.Machine.execLockLoss link s
  | .laneFailed link lane => Sys2Proof.Machine.execLaneFailed link lane s
  | .resizeFlit link hdr lanes => Sys2Proof.Machine.execResizeFlit link hdr lanes s
  | .laneRetrain link lane trained m => Sys2Proof.Machine.execLaneRetrain link lane trained m s
  | .flitCrcError link fec => Sys2Proof.Machine.execFlitCrcError link fec s
  | .nakFlit link hdr => Sys2Proof.Machine.execNakFlit link hdr s
  | .idleFlit link hdr => Sys2Proof.Machine.execIdleFlit link hdr s
  | .malformedFlit link hdr => Sys2Proof.Machine.execMalformedFlit link hdr s
  | .vc0Starvation link => Sys2Proof.Machine.execVc0Starvation link s
  | .dataStarvation link vc => Sys2Proof.Machine.execDataStarvation link vc s
  | .writeFlit link hdr m errs => Sys2Proof.Machine.execWriteFlit link hdr m errs s
  | .addFlit link hdr m errs => Sys2Proof.Machine.execAddFlit link hdr m errs s
  | .denyFlit link hdr => Sys2Proof.Machine.execDenyFlit link hdr s
  | .reduceFlit link hdr m => Sys2Proof.Machine.execReduceFlit link hdr m s
  | .resultFlit link hdr m => Sys2Proof.Machine.execResultFlit link hdr m s
  | .statusFlit link hdr m => Sys2Proof.Machine.execStatusFlit link hdr m s
  | .fenceFlit link hdr => Sys2Proof.Machine.execFenceFlit link hdr s
  | .relayFlit link hdr body => Sys2Proof.Machine.execRelayFlit link hdr body s
  | .collectiveTimeout part tok => Sys2Proof.Machine.execCollectiveTimeout part tok s
  | .pluggableInsert cage => Sys2Proof.Machine.execPluggableInsert cage s
  | .pluggableRemove cage => Sys2Proof.Machine.execPluggableRemove cage s
  | .faultMessage word => Sys2Proof.Machine.execFaultMessage word s
  | .halfFence half => Sys2Proof.Machine.execHalfFence half s
  | .containedTimerExpired page => Sys2Proof.Machine.execContainedTimerExpired page s
  | .keeperFrame k late => Sys2Proof.Machine.execKeeperFrame k late s
  | .keeperWatchdogExpired k => Sys2Proof.Machine.execKeeperWatchdogExpired k s
  | .wakeEvent d => Sys2Proof.Machine.execWakeEvent d s
  | .lodgeEngineOff => Sys2Proof.Machine.execLodgeEngineOff s
  | .scorebookProgram => Sys2Proof.Machine.execScorebookProgram s
  | .opHoursSave => Sys2Proof.Machine.execOpHoursSave s
  | .inputValid => Sys2Proof.Machine.execInputValid s
  | .inputExcursion tenthVolts lastedNs => Sys2Proof.Machine.execInputExcursion tenthVolts lastedNs s
  | .inputOvervoltage => Sys2Proof.Machine.execInputOvervoltage s
  | .perst => Sys2Proof.Machine.execPerst s
  | .pcieLinkUp => Sys2Proof.Machine.execPcieLinkUp s
  | .pcieLinkDown => Sys2Proof.Machine.execPcieLinkDown s
  | .replySlotRead slot => Sys2Proof.Machine.execReplySlotRead slot s
  | .holdUpEnded => Sys2Proof.Machine.execHoldUpEnded s

end Sys2Proof.Machine
end

