-- ==== Sys2Proof/Safety.lean ====
section
/-!
DEFINITION. What a safe step is, and the words that the statements use: a ring that stands ready for an entry, and what an
answered entry leaves in its ring.
-/

namespace Sys2Proof.Machine

/-- The step answers a next state. -/
def SafeStep (s : State) : Prop := ∃ t, step s = .next t

/-- The command at the front of the queue, if any, is well-formed. -/
def FrontWf (s : State) : Prop := ∀ c ∈ s.pending.head?, c.wf = true

/-- A self-test in which every test of Table 17.4 passes. -/
def cleanTest : SelfTest where
  logic := []
  tiles := []
  feeders := []
  engines := []
  banks := []
  keepers := []
  lanes := []
  dies := []
  channels := []
  packages := []
  pllHalves := []
  railHalves := []
  sensors := []
  sensorHalves := []
  balls := []

/-! ## Command rings (13) -/

/-- The ring of `h` stands ready for one entry with header `h`: the module serves rings (R317), no command is open elsewhere, the
ring is on and holds nothing unread, the tail that its doorbell announced lies ahead of the head (R316), fewer than 16 entries have been read
in the frame under way, and there is room for the record (R319, R320). -/
structure RingReady (b : Body) (h : Hdr) : Prop where
  wf : h.wf = true
  rsvd : h.rsvd = false
  serves : b.serves = true
  pcie : b.host.pcieUp = true
  idle : b.active = []
  on : (b.ring h.ring).enable = true
  unread : (b.ring h.ring).entries = []
  noHeld : (b.ring h.ring).held = []
  room : (b.ring h.ring).open_ + 4 < (b.ring h.ring).free
  ahead : (b.ring h.ring).cmdHead ≠ (b.ring h.ring).tail
  reads : (b.ring h.ring).reads < 16

/-- The state once the one entry of `h` has been read: the head is past the entry, one command is open. -/
def Body.entered (b : Body) (h : Hdr) : Body :=
  { b with rings := alter h.ring (fun r => { r with cmdHead := (r.cmdHead + 1) % r.cmdSize, reads := r.reads + 1, open_ := r.open_ + 1 }) b.rings }

/-- The command of an entry as the module holds it until it ends. -/
def opened (h : Hdr) (cmd : Cmd) : Active := ⟨h.ring, h.part, h.tag, cmd, false, none⟩

/-- The state in which the command is carried out. -/
def Body.running (b : Body) (h : Hdr) (cmd : Cmd) : Body := { b.entered h with active := [opened h cmd] }

/-- R318, R321, Table 13.2: the entry has been answered by one COMMAND record, behind those written before, and no command is left
open by it. -/
structure Answered (b t : Body) (h : Hdr) (cmd : Cmd) (status code : Nat) (d : Detail) : Prop where
  record : (t.ring h.ring).written =
    (b.ring h.ring).written ++ [⟨h.tag, cmd.opcode, status, (b.ring h.ring).phase, kindCommand, code, d⟩]
  tail : (t.ring h.ring).cplTail = ((b.ring h.ring).cplTail + 1) % (b.ring h.ring).cplSize
  head : (t.ring h.ring).cmdHead = ((b.ring h.ring).cmdHead + 1) % (b.ring h.ring).cmdSize
  read : (t.ring h.ring).entries = []
  open_ : (t.ring h.ring).open_ = (b.ring h.ring).open_
  idle : t.active = []

/-- What an answered entry changes outside its own effect: attention bits, and its own ring. -/
structure RingFrame (s t : State) (h : Hdr) : Prop where
  queue : t.pending = s.pending
  vault : t.vault = s.vault
  doves : t.body.doves = { s.body.doves with attn := t.body.doves.attn }
  rings : ∀ i, i ≠ h.ring → t.body.ring i = s.body.ring i

/-- A partition's own ring carries the entry. -/
def OwnRing (h : Hdr) : Prop := h.ring < 4 ∧ h.part = h.ring

/-- The module ring carries the entry. -/
def ModuleRing (h : Hdr) : Prop := h.ring = 4 ∧ h.part = 15

/-! ## Streams (02, 05) -/

/-- Stream `i` of partition `p` has `op` next and is the one stream that the ISSUE keeper of half `h` finds work in: the keeper runs, the
half is in service, and no other running partition is of the half (R29, R290). -/
structure IssueFront (b : Body) (h p i : Nat) (op : StreamOp) : Prop where
  half : h < 2
  part : p < 4
  stream : i < 3
  keeper : b.roleRuns (4 * h + 1) = true
  service : (b.half h).fatal = none
  ready : b.boot.start = .ready
  mine : b.partHalf p = some h
  running : (b.part p).fstate = .running
  streams : (b.part p).streams.length = 3
  next : (b.part p).next? i = some op
  alone : ∀ j, j < 3 → j ≠ i → (b.part p).next? j = none
  others : ∀ q, q < 4 → q ≠ p → ¬(b.partHalf q = some h ∧ (b.part q).fstate = .running)
  noneWithheld : (b.part p).upd.withheld = []

/-- The verdict token of the step in progress may complete, no verification, bound or snapshot waits on it, and the partition's ring has
room for its record (R120, R318). -/
structure VerdictReady (b : Body) (p : Nat) : Prop where
  part : p < 4
  ready : (b.part p).verdictReady = true
  noVerify : (b.part p).snap.verify = none
  noBound : (b.part p).bound = none
  noRun : (b.part p).snap.run = none
  noHeld : (b.ring p).held = []
  room : (b.ring p).hasRoom b.host.pcieUp = true

/-! ## Links (10) -/

/-- A flit with header `h` and TYPE `code` arrives on link `l`, which is UP, is not malformed, and is the next in sequence (R232, R233). -/
structure Taken (s : State) (l : Nat) (h : FlitHdr) (code : Nat) : Prop where
  link : l < 48
  fitted : l < s.body.net.links.length
  wf : h.wf = true
  up : (s.body.link l).state = .up
  type : h.type = code
  good : s.body.malformed (s.body.ownMember s.vault.serial) l h = false
  next : h.seq = (s.body.link l).rxSeq

/-- A link that has counted a flit's corrected codewords (R257) and taken its ACK and credits. -/
def Link.acked (a : Arb) (g : Link) (h : FlitHdr) : Link :=
  { g with fecCorrected := (g.fecCorrected + h.corrected) % 2 ^ 32 }.acknowledge a h

/-- R233: the oldest SEQ that the partner may still send again, never more than 2 048 back from the next expected one (log 34). -/
def retryBase (next base : Nat) : Nat := if 2048 < (next + 4096 - base) % 4096 then (next + 2048) % 4096 else base

/-- The state once the flit has been taken, before what its type does: its ACK and credits count, and the next SEQ is awaited. -/
def State.took (s : State) (l : Nat) (h : FlitHdr) : State :=
  { s with body := s.body.alterLink l (fun g => { g.acked s.body.arb h with
      rx := (g.rx + 1) % 2 ^ 64, rxSeq := (g.rxSeq + 1) % 4096, nakSent := false,
      rxBase := retryBase ((g.rxSeq + 1) % 4096) (g.acked s.body.arb h).rxBase }) }

/-! ## The Lodge (12, 17) -/

/-- The Lodge's request engine is ON with nothing to serve, and the first of the management slots is empty: a request is served at once
(R303, R308). -/
abbrev State.lodgeFree (s : State) : Prop :=
  s.vault.engineOn = true ∧ (s.body.slot 1).full = false ∧ s.body.doves.mail = [] ∧ s.body.doves.asks = []

/-- The request engine is ON with nothing to serve, and the first of the slots for the keepers' requests is empty. -/
abbrev State.lodgeAsked (s : State) : Prop :=
  s.vault.engineOn = true ∧ (s.body.slot 40).full = false ∧ s.body.doves.mail = [] ∧ s.body.doves.asks = []

/-- What every step keeps of the Lodge: at most 8 signing keys of a class (Table 12.7), no two alike, and none before the owner root key;
at most 16 proofs within a second (R243); a debug state exactly at level 1 or 2 (R394), halves in the scan chains at level 2 alone. -/
structure Vault.Kept (v : Vault) : Prop where
  fixture : v.fixtureKeys.length ≤ 8
  rulebook : v.rulebookKeys.length ≤ 8
  fixtureNodup : v.fixtureKeys.Nodup
  rulebookNodup : v.rulebookKeys.Nodup
  owned : v.ownerKey = none → v.fixtureKeys = [] ∧ v.rulebookKeys = []
  proofs : v.proofsAt.length ≤ 16
  level : v.level ≤ 2
  debug : v.debug = decide (0 < v.level)
  scan : v.scanHalves ≠ 0 → v.level = 2

end Sys2Proof.Machine
end

