-- ==== Sys2Proof/Certificates/Slice0/Obligations.lean ====
section
/-!
DEFINITION. The statements for the provers. An equation `exec c s = .next t` whose `t` is written out from `s` is also the frame
of `c`: every register, flag and byte that `t` does not name is that of `s`.
-/

open Sys2Proof Sys2Proof.Machine

/-! ## Ring commands (13, Table 13.4) -/

/-- R34 to R37, Table 13.4: FIXTURE_LOAD of an image in which no check fails admits it into its partition and no other: the state R24,
R119, R125, R137, R147 give an admission without a restore; FIXTURE_CHECK answers the same and changes nothing; each with the Lodge free to
check the signature. (Rests on logs 4, 5, 10.) -/
def Obligations.FixtureAdmission : Prop :=
  (∀ (s : State) (h : Hdr) (off len : Nat) (img : FixtureImage), RingReady s.body h → OwnRing h → h.part < s.body.parts.length →
    s.body.lodgeBusy s.vault = false → (s.body.running h (.fixtureLoad off len img)).stagingArgs off len = true →
    (s.body.running h (.fixtureLoad off len img)).check s.vault h.part off len img = [] → ∃ t : State,
      exec (.fixtureLoad h off len img) s = .next t ∧ RingFrame s t h ∧
      Answered s.body t.body h (.fixtureLoad off len img) stOk 0 (.check 0 0 0) ∧
      (t.body.part h.part).fstate = .admitted ∧ (t.body.part h.part).fix = some img ∧ (t.body.part h.part).flights = [] ∧
      (t.body.part h.part).streams = List.replicate 3 ⟨0, 0, none⟩ ∧ (t.body.part h.part).board = [] ∧
      (t.body.part h.part).pass.step = img.firstStep ∧
      (t.body.part h.part).pass.scaleExp = s.body.book.tables.loss.restartExp ∧
      (t.body.part h.part).upd.groups = img.groups.map (fun g => ⟨g.id, FP64one, FP64one⟩) ∧
      (∀ q, q ≠ h.part → t.body.part q = s.body.part q)) ∧
  (∀ (s : State) (h : Hdr) (off len : Nat) (img : FixtureImage), RingReady s.body h → OwnRing h →
    s.body.lodgeBusy s.vault = false → (s.body.running h (.fixtureCheck off len img)).stagingArgs off len = true →
    (s.body.running h (.fixtureCheck off len img)).check s.vault h.part off len img = [] → ∃ t : State,
      exec (.fixtureCheck h off len img) s = .next t ∧ RingFrame s t h ∧
      Answered s.body t.body h (.fixtureCheck off len img) stOk 0 (.check 0 0 0) ∧
      t.body = { s.body with doves := t.body.doves, rings := t.body.rings })

/-- Table 2.6, Table 13.4, R65, R68, R195: FIXTURE_START takes an ADMITTED or STOPPED fixture to RUNNING and its units out of their stop,
one that still flushes as soon as its flush has ended, and sends an ISSUE keeper in RETAIN a message that wakes it; FIXTURE_STOP takes a
RUNNING one to STOPPED, its pitches to STOPPING and its engines to STOPPED, but for those that finish a burst; FIXTURE_RETIRE ends an
ADMITTED or STOPPED one and releases its grants. No other partition changes. (Rests on logs 5, 12.) -/
def Obligations.FixtureStates : Prop :=
  (∀ (s : State) (h : Hdr), RingReady s.body h → OwnRing h →
    (s.body.part h.part).fstate = .admitted ∨ (s.body.part h.part).fstate = .stopped →
    s.body.quarantined h.part = false → (s.body.part h.part).snap.incomplete = false →
    (∀ k, k < 8 → (s.body.keeper k).mode ≠ .retain) → ∃ t : State,
      exec (.fixtureStart h) s = .next t ∧ RingFrame s t h ∧ Answered s.body t.body h .fixtureStart stOk 0 .none ∧
      t.body.parts = alter h.part (fun x => { x with
        fstate := .running, splitStopped := false, streams := x.streams.map (fun y => { y with waitSince := none }) }) s.body.parts ∧
      (∀ i ∈ (s.body.part h.part).pitches, i / 2 ∉ s.body.power.hotStopped → (s.body.pitch i).state ≠ .stopping →
        (t.body.pitch i).state ≠ .stopped ∧ (t.body.pitch i).state ≠ .stopping) ∧
      (∀ i ∈ (s.body.part h.part).pitches, i / 2 ∉ s.body.power.hotStopped → (s.body.pitch i).state = .stopping →
        (t.body.pitch i).state = .stopping ∧ (t.body.pitch i).resume = true) ∧
      (∀ i ∈ (s.body.part h.part).pitches, i / 2 ∉ s.body.power.hotStopped → (s.body.engine i).state ≠ .stopping →
        (t.body.engine i).state ≠ .stopped ∧ (t.body.engine i).state ≠ .stopping) ∧
      t.body = { s.body with doves := t.body.doves, rings := t.body.rings, parts := t.body.parts, pitches := t.body.pitches,
                             engines := t.body.engines }) ∧
  (∀ (s : State) (h : Hdr), RingReady s.body h → OwnRing h → (s.body.part h.part).fstate = .running → ∃ t : State,
      exec (.fixtureStop h) s = .next t ∧ RingFrame s t h ∧ Answered s.body t.body h .fixtureStop stOk 0 .none ∧
      t.body.parts = alter h.part (fun x => { x with
        fstate := .stopped, streams := x.streams.map (fun y => { y with waitSince := none }),
        pass := { x.pass with benchHold := none }, snap := x.snap.unsealed }) s.body.parts ∧
      (∀ i, (t.body.pitch i).state = if i ∈ (s.body.part h.part).pitches ∧ i < s.body.pitches.length ∧ s.body.fenced (i / 2) = false ∧
        (s.body.pitch i).state ≠ .stopped then .stopping else (s.body.pitch i).state) ∧
      (∀ i, (t.body.engine i).state = if i ∈ (s.body.part h.part).pitches ∧ i < s.body.engines.length ∧ s.body.fenced (i / 2) = false ∧
        (s.body.engine i).state ≠ .stopping then .stopped else (s.body.engine i).state) ∧
      t.body = { s.body with doves := t.body.doves, rings := t.body.rings, parts := t.body.parts, pitches := t.body.pitches,
                             engines := t.body.engines }) ∧
  (∀ (s : State) (h : Hdr) (half : Nat), RingReady s.body h → OwnRing h →
    (s.body.part h.part).fstate = .admitted ∨ (s.body.part h.part).fstate = .stopped →
    s.body.quarantined h.part = false → (s.body.part h.part).snap.incomplete = false → h.part < s.body.parts.length →
    s.body.partHalf h.part = some half → half < 2 → (s.body.keeper (4 * half + 1)).mode = .retain → s.body.doves.slots.length = 64 →
    s.body.doves.wake.length = 9 → (s.body.slot (50 + 8 * half)).full = false → ∃ t : State,
      exec (.fixtureStart h) s = .next t ∧ Answered s.body t.body h .fixtureStart stOk 0 .none ∧
      (t.body.part h.part).fstate = .running ∧ (t.body.slot (50 + 8 * half)).full = true ∧
      t.body.doves.wake.getD (4 * half + 1) false = true ∧ t.body.free = s.body.free + 1) ∧
  (∀ (s : State) (h : Hdr), RingReady s.body h → OwnRing h → h.part < s.body.parts.length →
    (s.body.part h.part).fstate = .admitted ∨ (s.body.part h.part).fstate = .stopped →
    (s.body.part h.part).bound = none → (s.body.part h.part).snap.verify = none → ∃ t : State,
      exec (.fixtureRetire h) s = .next t ∧ RingFrame s t h ∧ Answered s.body t.body h .fixtureRetire stOk 0 .none ∧
      (t.body.part h.part).fstate = .retired ∧ (t.body.part h.part).fix = none ∧ (t.body.part h.part).flights = [] ∧
      (t.body.part h.part).grant = Grant.none ∧ t.body.store.cells = s.body.store.cells ∧
      (∀ q, q ≠ h.part → t.body.part q = s.body.part q))

/-- R30, R42, R287, R436: STEP_BOUND keeps its step, TAG and ring in the partition until the bound is met, and writes no record yet; BUDGET
writes one quota and PARTITION_SET the pitches of one partition. (Rests on logs 5, 59.) -/
def Obligations.PartitionSettings : Prop :=
  (∀ (s : State) (h : Hdr) (st : Nat), RingReady s.body h → OwnRing h → (s.body.part h.part).holds = true →
    (s.body.part h.part).bound = none → (s.body.part h.part).pass.step < st → st < 2 ^ 48 → ∃ t : State,
      exec (.stepBound h st) s = .next t ∧ RingFrame s t h ∧
      t.body = { s.body with doves := t.body.doves, rings := t.body.rings, parts := alter h.part (fun x => { x with
        bound := some (st, h.tag, h.ring) }) s.body.parts } ∧
      (t.body.ring h.ring).written = (s.body.ring h.ring).written ∧
      (t.body.ring h.ring).open_ = (s.body.ring h.ring).open_ + 1) ∧
  (∀ (s : State) (h : Hdr) (p row v : Nat), RingReady s.body h → ModuleRing h → p < 4 → row < 7 →
    v ≤ Quotas.full.row row → (row = 6 → s.body.inflightSum p v ≤ 768) → ∃ t : State,
      exec (.budget h p row v) s = .next t ∧ RingFrame s t h ∧ Answered s.body t.body h (.budget p row v) stOk 0 .none ∧
      t.body = { s.body with doves := t.body.doves, rings := t.body.rings, parts := alter p (fun x => { x with
        quotas := x.quotas.setRow row v }) s.body.parts }) ∧
  (∀ (s : State) (h : Hdr) (p mask : Nat), RingReady s.body h → ModuleRing h → p < 4 → mask < 16 →
    (∀ i q, i < 4 → mask.testBit i = true → q < 4 → q ≠ p → i ∉ (s.body.part q).pitches) →
    (s.body.part p).holds = false → ∃ t : State,
      exec (.partitionSet h p mask) s = .next t ∧ RingFrame s t h ∧ Answered s.body t.body h (.partitionSet p mask) stOk 0 .none ∧
      t.body = { s.body with doves := t.body.doves, rings := t.body.rings, parts := alter p (fun x => { x with
        pitches := (List.range 4).filter (fun i => mask.testBit i) }) s.body.parts })

/-- R25, R263, R266, Table 13.4: an entry that passes its checks is installed behind the others, its token counted; SCHEDULE_CANCEL takes
an entry that is two beats away or more off the schedule. (Rests on log 5.) -/
def Obligations.ScheduleEntries : Prop :=
  (∀ (s : State) (h : Hdr) (e : SchedEntry), RingReady s.body h → (ModuleRing h ∨ (OwnRing h ∧ e.part = h.ring)) →
    1 ≤ e.kind → e.kind ≤ 7 → e.kind ≠ 2 → (e.part < 4 ∨ e.part = 15) → s.body.clock.band ≠ .seeking → e.rsvd = false →
    s.body.clock.beat + 2 ≤ e.beat → e.beat < 2 ^ 48 → e.tick < s.body.beatNs → (tickFixed e.kind = true → e.tick = 0) →
    s.body.tokenCheck e = 0 → s.body.sched.entries.length < 1024 → ∃ t : State,
      exec (.schedule h e) s = .next t ∧ RingFrame s t h ∧ Answered s.body t.body h (.schedule e) stOk 0 .none ∧
      t.body.sched.entries = s.body.sched.entries ++ [e] ∧ t.body.sched.barriers = s.body.sched.barriers ∧
      t.body = { s.body with doves := t.body.doves, rings := t.body.rings, sched := t.body.sched, parts := t.body.parts } ∧
      (e.token = 0 → t.body.parts = s.body.parts ∧ t.body.sched.moduleCount = s.body.sched.moduleCount) ∧
      (e.token ≠ 0 → e.part < 4 → e.part < s.body.parts.length →
        (t.body.part e.part).beatCount = ((s.body.part e.part).beatCount + 1) % 2 ^ 30)) ∧
  (∀ (s : State) (h : Hdr) (tok : Token) (e : SchedEntry), RingReady s.body h → (ModuleRing h ∨ (OwnRing h ∧ e.part = h.ring)) →
    tok ≠ 0 → s.body.sched.entries.find? (fun x => x.token == tok && decide (x.part = e.part)) = some e →
    s.body.clock.beat + 2 ≤ e.beat → e.kind ≠ 2 → ∃ t : State,
      exec (.scheduleCancel h tok e.part) s = .next t ∧ RingFrame s t h ∧
      Answered s.body t.body h (.scheduleCancel tok e.part) stOk 0 .none ∧
      t.body = { s.body with doves := t.body.doves, rings := t.body.rings, sched := { s.body.sched with
        entries := s.body.sched.entries.erase e } })

/-- R167, R171, Tables 7.6 and 13.4: LIST_INIT writes the header of an empty list, of GENERATION, ENTRIES and TOKENS 0, and LIST_RETIRE
takes a list away and writes its header as zero; each is answered LIST_BUSY, and changes nothing, while an operation in flight names the
list. (Rests on log 5.) -/
def Obligations.PageLists : Prop :=
  (∀ (s : State) (h : Hdr) (img : FixtureImage) (off pool cap car : Nat), RingReady s.body h → OwnRing h →
    h.part < s.body.parts.length →
    (s.body.part h.part).holds = true → (s.body.part h.part).fix = some img → (poolOf img pool).isSome = true →
    0 < cap → cap ≤ 65536 → car ≤ 1 → listFits img (some pool) off cap = true → (s.body.part h.part).listBusy off = false →
    ∃ t : State, exec (.listInit h off pool cap car) s = .next t ∧ RingFrame s t h ∧
      Answered s.body t.body h (.listInit off pool cap car) stOk 0 .none ∧
      off ∈ (t.body.part h.part).attn.lists ∧ off ∉ (t.body.part h.part).attn.lostLists ∧
      (∀ q, q ≠ h.part → t.body.part q = s.body.part q) ∧
      t.body.store = (s.body.writeLoc h.part ⟨.infield, off⟩ (leBytes 0 4 ++ leBytes car 4 ++ leBytes 0 4 ++ leBytes cap 4 ++ leBytes 0 8
        ++ leBytes pool 2 ++ List.replicate 38 0)).store ∧
      (∀ a, (s.body.part h.part).spans ⟨.infield, off⟩ 64 = [(a, 64)] →
        t.body.store.bytes a 64 = leBytes 0 4 ++ leBytes car 4 ++ leBytes 0 4 ++ leBytes cap 4 ++ leBytes 0 8 ++ leBytes pool 2
          ++ List.replicate 38 0 ∧
        ∀ x, ¬(a ≤ x ∧ x < a + 64) → t.body.store.byte x = s.body.store.byte x) ∧
      t.body = { s.body with doves := t.body.doves, rings := t.body.rings, parts := t.body.parts, store := t.body.store }) ∧
  (∀ (s : State) (h : Hdr) (img : FixtureImage) (off last : Nat), RingReady s.body h → OwnRing h → h.part < s.body.parts.length →
    (s.body.part h.part).holds = true → (s.body.part h.part).fix = some img →
    listFits img none off 0 = true → (s.body.part h.part).listBusy off = false →
    ∃ t : State, exec (.listRetire h off last) s = .next t ∧ RingFrame s t h ∧
      Answered s.body t.body h (.listRetire off last) stOk 0 .none ∧
      (∀ x, x ∈ (t.body.part h.part).attn.lists ↔ x ∈ (s.body.part h.part).attn.lists ∧ x ≠ off) ∧
      (∀ q, q ≠ h.part → t.body.part q = s.body.part q) ∧
      t.body.store = (s.body.writeLoc h.part ⟨.infield, off⟩ (List.replicate 64 0)).store ∧
      (∀ a, (s.body.part h.part).spans ⟨.infield, off⟩ 64 = [(a, 64)] →
        t.body.store.bytes a 64 = List.replicate 64 0 ∧
        ∀ x, ¬(a ≤ x ∧ x < a + 64) → t.body.store.byte x = s.body.store.byte x) ∧
      t.body = { s.body with doves := t.body.doves, rings := t.body.rings, parts := t.body.parts, store := t.body.store }) ∧
  (∀ (s : State) (h : Hdr) (img : FixtureImage) (off pool cap car : Nat), RingReady s.body h → OwnRing h →
    (s.body.part h.part).holds = true → (s.body.part h.part).fix = some img → (poolOf img pool).isSome = true →
    0 < cap → cap ≤ 65536 → car ≤ 1 → listFits img (some pool) off cap = true → (s.body.part h.part).listBusy off = true →
    ∃ t : State, exec (.listInit h off pool cap car) s = .next t ∧ RingFrame s t h ∧
      Answered s.body t.body h (.listInit off pool cap car) stListBusy 0 .none ∧
      t.body = { s.body with doves := t.body.doves, rings := t.body.rings }) ∧
  (∀ (s : State) (h : Hdr) (img : FixtureImage) (off last : Nat), RingReady s.body h → OwnRing h →
    (s.body.part h.part).holds = true → (s.body.part h.part).fix = some img →
    listFits img none off 0 = true → (s.body.part h.part).listBusy off = true →
    ∃ t : State, exec (.listRetire h off last) s = .next t ∧ RingFrame s t h ∧
      Answered s.body t.body h (.listRetire off last) stListBusy 0 .none ∧
      t.body = { s.body with doves := t.body.doves, rings := t.body.rings })

/-- R310, Tables 12.10, 13.4: an image that fails no check of staging is staged in its free slot and brings nothing into force;
TABLE_DISCARD empties a slot that no pending swap names; the Lodge is free to check the signature. (Rests on logs 4, 5.) -/
def Obligations.RulebookStaging : Prop :=
  (∀ (s : State) (h : Hdr) (off len slot : Nat) (img : RulebookImage), RingReady s.body h → ModuleRing h → slot < 4 →
    len ≤ 64 * 2 ^ 20 → off + len ≤ s.body.book.tables.outfield.stagingGib * 2 ^ 30 →
    (s.body.book.staging.getD slot .empty = .empty ∨ s.body.book.staging.getD slot .empty = .refused) →
    s.body.lodgeBusy s.vault = false → s.body.stageCode s.vault len img = rbOk → ∃ t : State,
      exec (.tableLoad h off len slot img) s = .next t ∧ RingFrame s t h ∧
      Answered s.body t.body h (.tableLoad off len slot img) stOk 0 .none ∧
      t.body = { s.body with doves := t.body.doves, rings := t.body.rings, book := { s.body.book with
        staging := alter slot (fun _ => .staged img) s.body.book.staging, lastResult := 0 } }) ∧
  (∀ (s : State) (h : Hdr) (slot : Nat), RingReady s.body h → ModuleRing h → slot < 4 →
    s.body.book.staging.getD slot .empty ≠ .verifying → s.body.swapNames slot = false → ∃ t : State,
      exec (.tableDiscard h slot) s = .next t ∧ RingFrame s t h ∧
      Answered s.body t.body h (.tableDiscard slot) stOk 0 .none ∧
      t.body = { s.body with doves := t.body.doves, rings := t.body.rings, book := { s.body.book with
        staging := alter slot (fun _ => .empty) s.body.book.staging } })

/-- R349 to R351, R361 to R364, Tables 13.4 and 15.8: SNAPSHOT of a fixture in STOPPED, or of one whose STREAM_UPD holds nothing, takes its
cut at once and copies the state that stands, but for layers whose UPDATE has yet to complete; of a RUNNING training fixture it waits for
the next verdict with its mask and address. RESTORE of an image that fails no check of Table 15.7 writes the image's stream state, step
counter, loss-scale state, group counters and tensors back and leaves the fixture STOPPED, complete. (Rests on logs 5, 65.) -/
def Obligations.SnapshotCommands : Prop :=
  (∀ (s : State) (h : Hdr) (f : FixtureImage) (mask addr : Nat), RingReady s.body h → OwnRing h → 0 < mask → mask < 8 →
    (s.body.part h.part).fstate = .running → (s.body.part h.part).fix = some f → f.upd ≠ [] →
    (s.body.part h.part).snap.run = none → (s.body.part h.part).snap.waiting = none →
    ((s.body.running h (.snapshot mask addr)).placement h.part mask f).isSome = true → ∃ t : State,
      exec (.snapshot h mask addr) s = .next t ∧ RingFrame s t h ∧
      t.body.parts = alter h.part (fun x => { x with snap := { x.snap with waiting := some ⟨mask, addr, true⟩ } }) s.body.parts ∧
      t.body.active = [{ opened h (.snapshot mask addr) with running := true }] ∧
      t.body = { s.body with doves := t.body.doves, rings := t.body.rings, parts := t.body.parts, active := t.body.active } ∧
      (t.body.ring h.ring).written = (s.body.ring h.ring).written) ∧
  (∀ (s : State) (h : Hdr) (f : FixtureImage) (mask addr : Nat) (placed : List Nat), RingReady s.body h → OwnRing h → 0 < mask → mask < 8 →
    h.part < s.body.parts.length → (s.body.part h.part).holds = true → (s.body.part h.part).fix = some f →
    (s.body.part h.part).fstate = .stopped ∨ f.upd = [] →
    (s.body.part h.part).snap.run = none → (s.body.part h.part).snap.waiting = none →
    (s.body.running h (.snapshot mask addr)).placement h.part mask f = some placed → ∃ (t : State) (r : SnapRun),
      exec (.snapshot h mask addr) s = .next t ∧ RingFrame s t h ∧
      (t.body.part h.part).snap.run = some r ∧ r.layersDue = (s.body.part h.part).layersDue f ((s.body.part h.part).pass.step - 1) ∧ r.command = true ∧ r.started = s.body.clock.now ∧
      r.image.part = h.part ∧ r.image.dest = mask ∧ r.image.held = mask ∧ r.image.serial = s.vault.serial ∧ r.image.hostAddr = addr ∧
      r.image.step = (s.body.part h.part).pass.step - 1 ∧ r.image.fixtureHash = f.hash ∧ r.image.rbVersion = s.body.book.version ∧
      r.image.sealed = .noStep ∧ r.image.placed = placed ∧
      (f.upd = [] → r.image.sections = (s.body.running h (.snapshot mask addr)).sections h.part f
        ((s.body.part h.part).layersDue f ((s.body.part h.part).pass.step - 1))) ∧
      t.body.active = [{ opened h (.snapshot mask addr) with running := true }] ∧
      t.body = { s.body with doves := t.body.doves, rings := t.body.rings, parts := t.body.parts, active := t.body.active } ∧
      (∀ q, q ≠ h.part → t.body.part q = s.body.part q) ∧
      (t.body.ring h.ring).written = (s.body.ring h.ring).written) ∧
  (∀ (s : State) (h : Hdr) (f : FixtureImage) (i : Image) (source addr : Nat) (out : SourceOutcome), RingReady s.body h → OwnRing h →
    h.part < s.body.parts.length → out.wf = true → source % 4 ≠ 0 → source < 16 →
    (s.body.part h.part).fstate = .admitted ∨ (s.body.part h.part).fstate = .stopped → (s.body.part h.part).fix = some f →
    s.body.restoreSource h.part source addr f out = (some i, true, .whole) → (s.body.part h.part).snap.verify = none →
    s.body.restoreRefusal s.vault.serial h.part f (some i) true false false = 0 → ∃ t : State,
      exec (.restore h source addr 0 out) s = .next t ∧ RingFrame s t h ∧
      (t.body.ring h.ring).written.length = (s.body.ring h.ring).written.length + 1 ∧
      ((t.body.ring h.ring).written.getLast?.map (fun r => (r.tag, r.status, r.code))) = some (h.tag, stOk, 0) ∧
      (t.body.part h.part).fstate = .stopped ∧ (t.body.part h.part).fix = some f ∧ (t.body.part h.part).snap.incomplete = false ∧
      (t.body.part h.part).snap.restores = ((s.body.part h.part).snap.restores + 1) % 2 ^ 32) ∧
  (∀ (s : State) (h : Hdr) (f : FixtureImage) (i : Image) (source addr a l : Nat) (out : SourceOutcome) (pos counts : List Nat)
    (board : List Done) (step : Nat) (e : Int) (clean hist skips : Nat) (sums : List Nat) (gs : List GroupState) (loc : Loc) (vs : List Byte),
    RingReady s.body h → OwnRing h → h.part < s.body.parts.length → out.wf = true → source % 4 ≠ 0 → source < 16 →
    (s.body.part h.part).fstate = .admitted ∨ (s.body.part h.part).fstate = .stopped → (s.body.part h.part).fix = some f →
    f.buckets = [] → s.body.restoreSource h.part source addr f out = (some i, true, .whole) →
    i.sections = [.control pos counts board step e clean hist skips sums, .schedule [], .lists [], .groups gs, .layer l [(loc, vs)]] →
    (s.body.part h.part).spans loc vs.length = [(a, vs.length)] →
    s.body.restoreRefusal s.vault.serial h.part f (some i) true false false = 0 → ∃ t : State,
      exec (.restore h source addr 0 out) s = .next t ∧
      (t.body.part h.part).streams = [⟨pos.getD 0 0, counts.getD 0 0, none⟩, ⟨pos.getD 1 0, counts.getD 1 0, none⟩,
        ⟨pos.getD 2 0, counts.getD 2 0, none⟩] ∧
      (t.body.part h.part).board = board ∧ (t.body.part h.part).flights = [] ∧ (t.body.part h.part).beatCount = counts.getD 3 0 ∧
      (t.body.part h.part).pass.step = step ∧ (t.body.part h.part).pass.scaleExp = e ∧ (t.body.part h.part).pass.clean = clean ∧
      (t.body.part h.part).pass.history = hist ∧ (t.body.part h.part).pass.skips = skips ∧
      (t.body.part h.part).upd.groups = gs ∧ (∀ k, k < vs.length → t.body.store.byte (a + k) = vs.getD k 0) ∧
      (∀ q, q ≠ h.part → t.body.part q = s.body.part q))

/-- R376, R381 to R386, Table 13.4: LOG_READ, from the module ring or a partition's own, puts the valid records from a number on, 128 bytes
each, into the host buffer, leaves the log as it is and counts the corrupt positions that it passes; LOG_CLEAR with the code of its token
erases the log to one CLEAR record, and completes TOKEN_BAD with another code or number or while the Lodge is in a debug state. (Doorbells:
log 5; rings: log 55; positions passed: log 132.) -/
def Obligations.LogCommands : Prop :=
  (∀ (s : State) (h : Hdr) (first count buf : Nat), RingReady s.body h → (ModuleRing h ∨ OwnRing h) → 0 < count → count ≤ 65536 →
    ∃ t : State, exec (.logRead h first count buf) s = .next t ∧ RingFrame s t h ∧
      t.body.score = { s.body.score with
        corrupt := (s.body.score.corrupt + corruptSkipped count (logTail first s.body.score.flash)) % 2 ^ 32 } ∧
      t.body.host.logOut =
        (buf, (((s.body.score.flash.filter isRecord).filter (fun q => decide (first ≤ recordSeq q))).take count).flatMap id) ::
          s.body.host.logOut ∧
      Answered s.body t.body h (.logRead first count buf) stOk 0
        (.counter (((s.body.score.flash.filter isRecord).filter (fun q => decide (first ≤ recordSeq q))).take count).length) ∧
      t.body = { s.body with doves := t.body.doves, rings := t.body.rings, host := t.body.host, score := t.body.score }) ∧
  (∀ (s : State) (h : Hdr) (auth number : Nat), RingReady s.body h → ModuleRing h → auth < 2 ^ 32 →
    number = (s.body.score.clears + 1) % 2 ^ 32 → s.body.lodgeBusy s.vault = false → s.vault.debug = false → ∃ t : State,
      exec (.logClear h auth number (Config.clearCode s.vault.serial auth number).toNat) s = .next t ∧ RingFrame s t h ∧
      Answered s.body t.body h (.logClear auth number (Config.clearCode s.vault.serial auth number).toNat) stOk 0 .none ∧
      (∃ r : Record, t.body.score.flash = [r.bytes] ∧ r.seq = 0 ∧ r.type = 8 ∧ r.detail.take 2 = [auth, number]) ∧
      t.body.score.queue = [] ∧ t.body.score.dropped = 0 ∧ t.body.score.full = false ∧ t.body.score.nextSeq = 1 ∧
      t.body.score.clears = number ∧
      t.body = { s.body with doves := t.body.doves, rings := t.body.rings, score := t.body.score }) ∧
  (∀ (s : State) (h : Hdr) (auth number code : Nat), RingReady s.body h → ModuleRing h → auth < 2 ^ 32 → number < 2 ^ 32 → code < 2 ^ 64 →
    s.body.lodgeBusy s.vault = false →
    (s.vault.debug = true ∨ code ≠ (Config.clearCode s.vault.serial auth number).toNat ∨ number ≠ (s.body.score.clears + 1) % 2 ^ 32) →
    ∃ t : State, exec (.logClear h auth number code) s = .next t ∧ RingFrame s t h ∧
      Answered s.body t.body h (.logClear auth number code) stTokenBad 0 .none ∧
      t.body = { s.body with doves := t.body.doves, rings := t.body.rings })

/-- R220, R222, R238, Table 13.4: SELF_TEST of a channel no grant touches leaves its result in the stack's registers, and its content open
unless the pattern keeps it; LINK_RELEASE takes a link from QUARANTINE to TRAIN; RETRAIN queues a retrain and runs on. (Rests on logs 5, 9,
17, 48.) -/
def Obligations.MaintenanceCommands : Prop :=
  (∀ (s : State) (h : Hdr) (c pat : Nat) (r : BallResult), RingReady s.body h → ModuleRing h → c < 256 → pat ≤ 3 →
    s.body.chanGranted c = false → s.body.fenced (c / 192) = false → ∃ t : State,
      exec (.selfTest h c pat r) s = .next t ∧ RingFrame s t h ∧
      Answered s.body t.body h (.selfTest c pat r) stOk 0 (.counter r.errors) ∧
      t.body.store.stackCtl = alter (c / 32) (fun m => { m with
        ballErrors := min 0xFFFF r.errors, ballChannel := c % 32, ballDone := true, ballFirst := r.first / 64 % 2 ^ 36 })
        s.body.store.stackCtl ∧
      t.body.store.cells = s.body.store.cells ∧
      t.body.store.lost = (if pat = 3 then s.body.store.lost
        else ⟨false, [s.body.chanSlot c], s.body.store.retired, s.body.free, [], []⟩ :: s.body.store.lost) ∧
      t.body = { s.body with doves := t.body.doves, rings := t.body.rings, store := t.body.store, free := t.body.free }) ∧
  (∀ (s : State) (h : Hdr) (l : Nat), RingReady s.body h → ModuleRing h → l < 48 → (s.body.link l).state = .quarantine → ∃ t : State,
      exec (.linkRelease h l) s = .next t ∧ RingFrame s t h ∧ Answered s.body t.body h (.linkRelease l) stOk 0 .none ∧
      t.body = { s.body with doves := t.body.doves, rings := t.body.rings, net := { s.body.net with
        links := alter l (fun x => { x with state := .train, reason := 0, since := s.body.clock.now }) s.body.net.links } }) ∧
  (∀ (s : State) (h : Hdr) (c : Nat), RingReady s.body h → ModuleRing h → c < 256 → s.body.chanRetired c = false →
    s.body.fenced (c / 192) = false → ∃ t : State,
      exec (.retrain h c) s = .next t ∧ RingFrame s t h ∧
      t.body.active = [{ opened h (.retrain c) with running := true }] ∧
      t.body = { s.body with doves := t.body.doves, rings := t.body.rings, active := t.body.active, store := { s.body.store with
        retrainQueue := s.body.store.retrainQueue ++ [⟨c, false, s.body.clock.beat, true⟩] } })

/-- R321, R324, Tables 13.3, 13.5: `ABANDON` by the module ring ends the partition's fixture, answers OK and leaves the other partitions
and all memory as they are; an opcode that Table 13.4 does not list is answered OPCODE_UNKNOWN and changes nothing. (Rests on log 5.) -/
def Obligations.AbandonAndUnknown : Prop :=
  (∀ (s : State) (h : Hdr), RingReady s.body h → (OwnRing h ∨ (h.ring = 4 ∧ h.part < 4)) → h.part < s.body.parts.length →
    (s.body.part h.part).holds = true → (s.body.part h.part).bound = none → (s.body.part h.part).snap.verify = none → ∃ t : State,
      exec (.abandon h) s = .next t ∧ RingFrame s t h ∧ Answered s.body t.body h .abandon stOk 0 .none ∧
      (t.body.part h.part).fstate = .retired ∧ (t.body.part h.part).fix = none ∧ (t.body.part h.part).flights = [] ∧
      (t.body.part h.part).grant = Grant.none ∧ (∀ e ∈ t.body.sched.entries, e.part ≠ h.part) ∧
      t.body.store.cells = s.body.store.cells ∧ (∀ q, q ≠ h.part → t.body.part q = s.body.part q)) ∧
  (∀ (s : State) (h : Hdr) (op : Nat), RingReady s.body h → op ∉ listedOpcodes → ∃ t : State,
      exec (.opcodeUnknown h op) s = .next t ∧ RingFrame s t h ∧
      Answered s.body t.body h (.unknown op) stOpcodeUnknown 0 .none ∧
      t.body = { s.body with doves := t.body.doves, rings := t.body.rings })

/-! ## Host register and window traffic (12, 13, 14, 17, 18) -/

/-- R301, R303, R305, R306, Table 12.3: a doorbell fills its empty slot and wakes the lead MODULE keeper; into a full one it only sets the
overrun flag; a host write to any other slot is counted as foreign; reading an attention word or a reply empties the slot; DOVE_OVERRUN is
W1C over bits 16 to 20, each the overrun flag of the slot of its number. Each equation is the whole frame. (Rests on log 1.) -/
def Obligations.SlotAccesses : Prop :=
  (∀ (s : State) (k : Nat) (w : Word64), 16 ≤ k → k ≤ 20 → (s.body.slot k).full = false →
    exec (.doorbellWrite k w) s = .next { s with body := { s.body with doves := { s.body.doves with
      slots := alter k (fun x => { x with word := w, full := true }) s.body.doves.slots,
      wake := alter s.body.leadKeeper (fun _ => true) s.body.doves.wake } } }) ∧
  (∀ (s : State) (k : Nat) (w : Word64), 16 ≤ k → k ≤ 20 → (s.body.slot k).full = true →
    exec (.doorbellWrite k w) s = .next { s with body := { s.body with doves := { s.body.doves with
      slots := alter k (fun x => { x with overrun := true }) s.body.doves.slots } } }) ∧
  (∀ (s : State) (k : Nat) (w : Word64), k < 64 → (k < 16 ∨ 20 < k) →
    exec (.doorbellWrite k w) s = .next { s with body := { s.body with doves := { s.body.doves with
      foreign := (s.body.doves.foreign + 1) % 2 ^ 32 } } }) ∧
  (∀ (s : State) (k : Nat), 24 ≤ k → k ≤ 28 →
    exec (.attentionWordRead k) s = .next { s with body := { s.body with
      doves := { s.body.doves with slots := alter k (fun x => { x with full := false }) s.body.doves.slots },
      host := { s.body.host with last := .word (if (s.body.slot k).full then (s.body.slot k).word else 0) } } }) ∧
  (∀ (s : State) (k : Nat), 8 ≤ k → k < 16 →
    exec (.replySlotRead k) s = .next { s with body := { s.body with
      doves := { s.body.doves with slots := alter k (fun x => { x with full := false }) s.body.doves.slots },
      host := { s.body.host with last := .word (if (s.body.slot k).full then (s.body.slot k).word else 0) } } }) ∧
  (∀ (s : State) (v : Word64), ∃ t : State,
    exec (.doveOverrunClear v) s = .next t ∧
    t = { s with body := { s.body with doves := { s.body.doves with slots := t.body.doves.slots } } } ∧
    ∀ k, t.body.slot k = if 16 ≤ k ∧ k ≤ 20 ∧ v.getLsbD k = true then { s.body.slot k with overrun := false } else s.body.slot k)

/-- R343, R345: a clear of a page is refused while a cause of its block is present, while its timer runs, or while it latches a fatal
message whose half is not FENCED: it only sets CLEAR_REFUSED. Otherwise it zeroes BLK_FAULT and OVERFLOW and clears QUARANTINED and
CLEAR_REFUSED; the class counters stay. WH_CLEAR.FIRST zeroes WH_FIRST, on the module's page WH_MODULE_FIRST too, and is refused while a
page of that Whistle page's blocks holds a contained or fatal message. (What counts as a cause: log 7.) -/
def Obligations.Clears : Prop :=
  (∀ (s : State) (type inst k : Nat) (v : Word64), pageSlot type inst = some k → inst < 256 → v.getLsbD 0 = true →
    s.body.cause type inst = false → (s.body.page type inst).timer = none →
    ((s.body.page type inst).latchedClass = some .fatal → ∀ h ∈ s.body.fatalHalves type inst, s.body.fenced h = true) → ∃ t : State,
    exec (.blkClear (type * 256 + inst) v) s = .next t ∧
    t = { s with body := { s.body with whistle := { s.body.whistle with
      halves := t.body.whistle.halves,
      pages := alter k (fun p => { p with message := 0, overflow := false, quarantined := false, clearRefused := false, sent := [] })
        s.body.whistle.pages } } } ∧
    (∀ h, (t.body.half h).fenced = (s.body.half h).fenced ∧ (t.body.half h).fatal = (s.body.half h).fatal)) ∧
  (∀ (s : State) (type inst k : Nat) (v : Word64), pageSlot type inst = some k → inst < 256 → v.getLsbD 0 = true →
    (s.body.cause type inst = true ∨ (s.body.page type inst).timer ≠ none ∨
      ((s.body.page type inst).latchedClass = some .fatal ∧ ∃ h ∈ s.body.fatalHalves type inst, s.body.fenced h = false)) →
    exec (.blkClear (type * 256 + inst) v) s = .next { s with body := { s.body with whistle := { s.body.whistle with
      pages := alter k (fun p => { p with clearRefused := true }) s.body.whistle.pages } } }) ∧
  (∀ (s : State) (i : Nat) (v : Word64), i < 2 → v.getLsbD 0 = true → s.body.whHolds i = false →
    exec (.whClearFirst i v) s = .next { s with body := { s.body with whistle := { s.body.whistle with
      wh := alter i (fun g => { g with first := 0 }) s.body.whistle.wh } } }) ∧
  (∀ (s : State) (v : Word64), v.getLsbD 0 = true → s.body.whHolds 2 = false →
    exec (.whClearFirst 2 v) s = .next { s with body := { s.body with whistle := { s.body.whistle with
      wh := alter 2 (fun g => { g with first := 0 }) s.body.whistle.wh, moduleFirst := 0 } } }) ∧
  (∀ (s : State) (i : Nat) (v : Word64), i < 3 → s.body.whHolds i = true → exec (.whClearFirst i v) s = .next s)

/-- R415: writing 1 to BLK_FREEZE_VIEW captures the page: from then on, until a 0 is written, every register of the page at 0x040 and above
that the rule does not keep live reads what it read at the capture, whatever becomes of the block. Only the views change. -/
def Obligations.FreezeView : Prop :=
  (∀ (s : State) (page off : Nat) (v : Word64), page < 16384 → assignedPage page = true → v.getLsbD 0 = true →
    ∃ t : State, exec (.freezeViewWrite page v) s = .next t ∧
      t = { s with body := { s.body with host := { s.body.host with views := t.body.host.views } } } ∧
      (off ∈ pageOffsets → staysLive (page / 256) off = false → ∀ u : State, u.body.host.views = t.body.host.views →
        readReg u page off = BitVec.ofNat 64 (regLive s.vault s.body (page / 256) (page % 256) off))) ∧
  (∀ (s : State) (page off : Nat) (v : Word64), page < 16384 → assignedPage page = true → v.getLsbD 0 = false →
    ∃ t : State, exec (.freezeViewWrite page v) s = .next t ∧
      t = { s with body := { s.body with host := { s.body.host with views := t.body.host.views } } } ∧
      (0x40 ≤ off → readReg t page off = BitVec.ofNat 64 (regLive t.vault t.body (page / 256) (page % 256) off)))

/-- R329, Table 13.7: ENABLE from 0 to 1 gives the ring its reset values but for bases and sizes (commands open, and entries read in the
frame under way, still count); sizes and bases take writes only while ENABLE is 0, a size cut to the largest power of two in its range;
CPL_HEAD makes room. -/
def Obligations.RingRegisters : Prop :=
  (∀ (s : State) (i : Nat) (v : Word64), i < 5 → v.getLsbD 0 = true → (s.body.ring i).enable = false → i < s.body.rings.length →
    ∃ t : State, exec (.ringEnableWrite i v) s = .next t ∧
      t = { s with body := { s.body with rings := alter i (fun _ => t.body.ring i) s.body.rings } } ∧
      t.body.ring i = { Ring.reset with enable := true, cmdBase := (s.body.ring i).cmdBase, cmdSize := (s.body.ring i).cmdSize,
                                        cplBase := (s.body.ring i).cplBase, cplSize := (s.body.ring i).cplSize,
                                        open_ := (s.body.ring i).open_, reads := (s.body.ring i).reads }) ∧
  (∀ (s : State) (i : Nat) (v : Word64), i < 5 → v.getLsbD 0 = false →
    exec (.ringEnableWrite i v) s = .next { s with body := { s.body with
      rings := alter i (fun r => { r with enable := false }) s.body.rings } }) ∧
  (∀ (s : State) (i : Nat) (v : Word64), i < 5 → (s.body.ring i).enable = false → i < s.body.rings.length →
    ∃ n m : Nat, exec (.ringSizeWrite i false v) s = .next { s with body := { s.body with
        rings := alter i (fun r => { r with cmdSize := 2 ^ n }) s.body.rings } } ∧
      exec (.ringSizeWrite i true v) s = .next { s with body := { s.body with
        rings := alter i (fun r => { r with cplSize := 2 ^ m }) s.body.rings } } ∧
      4 ≤ n ∧ n ≤ 12 ∧ 6 ≤ m ∧ m ≤ 16 ∧
      (16 ≤ (v.extractLsb' 0 13).toNat → 2 ^ n ≤ (v.extractLsb' 0 13).toNat ∧ (v.extractLsb' 0 13).toNat < 2 ^ (n + 1)) ∧
      (64 ≤ (v.extractLsb' 0 17).toNat → 2 ^ m ≤ (v.extractLsb' 0 17).toNat ∧ (v.extractLsb' 0 17).toNat < 2 ^ (m + 1))) ∧
  (∀ (s : State) (i : Nat) (c : Bool) (v : Word64), i < 5 → (s.body.ring i).enable = true →
    exec (.ringSizeWrite i c v) s = .next s) ∧
  (∀ (s : State) (i : Nat) (v : Word64), i < 5 → (s.body.ring i).held = [] →
    ({ s.body.ring i with cplHead := (v.extractLsb' 0 32).toNat } : Ring).high = false → i < s.body.rings.length →
    exec (.cplHeadWrite i v) s = .next { s with body := { s.body with
      rings := alter i (fun r => { r with cplHead := (v.extractLsb' 0 32).toNat }) s.body.rings } })

/-- R403, R407, R428, Tables 18.5 and 17.6: BAR2_BASE takes bits 47 to 36, BAR2_CTRL its two bits; ST_TOUCH takes a write only while
ST_DEBUG.LEVEL is TOUCHLINE or SCAN. -/
def Obligations.WindowRegisters : Prop :=
  (∀ (s : State) (v : Word64), exec (.bar2BaseWrite v) s = .next { s with body := { s.body with host := { s.body.host with
    bar2Base := v.toNat / 2 ^ 36 % 2 ^ 12 } } }) ∧
  (∀ (s : State) (v : Word64), exec (.bar2CtrlWrite v) s = .next { s with body := { s.body with host := { s.body.host with
    bar2Enable := v.getLsbD 0, stagingOnly := v.getLsbD 1 } } }) ∧
  (∀ (s : State) (v : Word64), s.vault.level = 1 ∨ s.vault.level = 2 → ∃ t : State, exec (.stTouchWrite v) s = .next t ∧
    t = { s with body := { s.body with boot := { s.body.boot with touch := t.body.boot.touch } } } ∧
    t.body.boot.touch.length = 8 ∧ ∀ p < 8, t.body.boot.touch.getD p 0 = v.toNat / 2 ^ (8 * p) % 256) ∧
  (∀ (s : State) (v : Word64), s.vault.level ≠ 1 → s.vault.level ≠ 2 → exec (.stTouchWrite v) s = .next s)

/-- R5, R7, R313, R411, Table 18.4: a register write acts as the row of its register does; BLK_SCRATCH reads back; an unassigned page takes
nothing and reads 0; a misaligned or narrow write is discarded, and such a read returns all ones. -/
def Obligations.RegisterAccess : Prop :=
  (∀ (s : State) (page off : Nat) (v : Word64), page < 16384 → off < 4096 → off % 8 = 0 → assignedPage page = false →
    exec (.registerWrite page off v) s = .next s ∧ readReg s page off = 0) ∧
  (∀ (s : State) (page : Nat) (v : Word64), page < 16384 → assignedPage page = true → ∃ t : State,
    exec (.registerWrite page 0x38 v) s = .next t ∧ readReg t page 0x38 = v ∧
    (∀ q, q ≠ page → readReg t q 0x38 = readReg s q 0x38) ∧
    t = { s with body := { s.body with host := { s.body.host with scratch := t.body.host.scratch } } }) ∧
  (∀ (s : State) (page : Nat) (v : Word64), page < 16384 → assignedPage page = true →
    exec (.registerWrite page 0x28 v) s = exec (.blkClear page v) s ∧
    exec (.registerWrite page 0x08 v) s = exec (.freezeViewWrite page v) s) ∧
  (∀ (s : State) (i : Nat) (v : Word64), i < 5 →
    exec (.registerWrite (0x1300 + i) 0x40 v) s = exec (.ringEnableWrite i v) s ∧
    exec (.registerWrite (0x1300 + i) 0x50 v) s = exec (.ringSizeWrite i false v) s ∧
    exec (.registerWrite (0x1300 + i) 0x68 v) s = exec (.ringSizeWrite i true v) s ∧
    exec (.registerWrite (0x1300 + i) 0x70 v) s = exec (.cplHeadWrite i v) s ∧
    exec (.registerWrite 0x0D00 (0x100 + 8 * i) v) s = exec (.doorbellWrite (16 + i) v) s) ∧
  (∀ (s : State) (i : Nat) (v : Word64), i < 5 → (s.body.ring i).enable = false →
    exec (.registerWrite (0x1300 + i) 0x48 v) s = .next { s with body := { s.body with
      rings := alter i (fun r => { r with cmdBase := v.toNat / 4096 * 4096 }) s.body.rings } } ∧
    exec (.registerWrite (0x1300 + i) 0x60 v) s = .next { s with body := { s.body with
      rings := alter i (fun r => { r with cplBase := v.toNat / 4096 * 4096 }) s.body.rings } }) ∧
  (∀ (s : State) (i : Nat) (v : Word64), i < 5 → (s.body.ring i).enable = true →
    exec (.registerWrite (0x1300 + i) 0x48 v) s = .next s ∧ exec (.registerWrite (0x1300 + i) 0x60 v) s = .next s) ∧
  (∀ (s : State) (v : Word64),
    exec (.registerWrite 0x0D00 0x50 v) s = exec (.doveOverrunClear v) s ∧
    exec (.registerWrite 0x1600 0x68 v) s = exec (.stTouchWrite v) s ∧
    exec (.registerWrite 0x1700 0x40 v) s = exec (.bar2BaseWrite v) s ∧
    exec (.registerWrite 0x1700 0x48 v) s = exec (.bar2CtrlWrite v) s) ∧
  (∀ (s : State) (page off size : Nat), page < 16384 → off < 4096 → ¬(off % 8 = 0 ∧ size = 8) →
    exec (.registerAccessMisaligned page off size true) s = .next s ∧
    exec (.registerAccessMisaligned page off size false) s = .next { s with body := { s.body with host := { s.body.host with
      last := .word (BitVec.allOnes 64) } } })

/-- R392, R406 to R409, Table 18.2: once the function answers (from step 5 of power-up on, while the rails are up), through an enabled
window a write to mapped memory (in staging, while STAGING_ONLY is 1) stores its bytes and a later read of the same bytes, none of them
poisoned, returns them; a read stores nothing. Outside staging a write is denied and counted; an unmapped access is counted, a read of it
and a read through a closed window, or while the function does not answer, return all ones. (Rests on logs 8, 14.) -/
def Obligations.WindowAccess : Prop :=
  (∀ (s : State) (off : Nat) (vs : List Byte), off + vs.length ≤ 2 ^ 36 → s.body.answersConfig = true → s.body.host.bar2Enable = true →
    (s.body.host.stagingOnly = false ∨ s.body.inStaging (s.body.bar2Addr off) vs.length = true) →
    s.body.bar2Mapped (s.body.bar2Addr off) vs.length = true → ∃ t : State,
      exec (.bar2Write off vs []) s = .next t ∧
      t.body.host = { s.body.host with writtenBytes := (s.body.host.writtenBytes + vs.length) % 2 ^ 64 } ∧
      t.body.store.bytes (s.body.bar2Addr off) vs.length = vs ∧
      (∀ a, ¬(s.body.bar2Addr off ≤ a ∧ a < s.body.bar2Addr off + vs.length) → t.body.store.byte a = s.body.store.byte a)) ∧
  (∀ (s : State) (off n : Nat), off + n ≤ 2 ^ 36 → s.body.answersConfig = true → s.body.host.bar2Enable = true →
    s.body.bar2Mapped (s.body.bar2Addr off) n = true → s.body.store.anyPoison (s.body.bar2Addr off) n = false →
    exec (.bar2Read off n []) s = .next { s with body := { s.body with host := { s.body.host with
      readBytes := (s.body.host.readBytes + n) % 2 ^ 64,
      last := .bytes (s.body.store.bytes (s.body.bar2Addr off) n) false } } }) ∧
  (∀ (s : State) (off : Nat) (vs : List Byte) (es : List CwError), off + vs.length ≤ 2 ^ 36 → s.body.answersConfig = true → s.body.host.bar2Enable = true →
    s.body.host.stagingOnly = true → s.body.inStaging (s.body.bar2Addr off) vs.length = false →
    exec (.bar2Write off vs es) s = .next { s with body := { s.body with host := { s.body.host with
      denied := (s.body.host.denied + 1) % 2 ^ 32 } } }) ∧
  (∀ (s : State) (off n : Nat) (es : List CwError), off + n ≤ 2 ^ 36 → s.body.answersConfig = true → s.body.host.bar2Enable = true →
    s.body.bar2Mapped (s.body.bar2Addr off) n = false →
    exec (.bar2Read off n es) s = .next { s with body := { s.body with host := { s.body.host with
      unmapped := (s.body.host.unmapped + 1) % 2 ^ 32, last := .bytes (List.replicate n 0xFF) false } } }) ∧
  (∀ (s : State) (off n : Nat) (vs : List Byte) (es : List CwError), off + n ≤ 2 ^ 36 → off + vs.length ≤ 2 ^ 36 →
    (s.body.answersConfig = false ∨ s.body.host.bar2Enable = false) →
    exec (.bar2Read off n es) s = .next { s with body := { s.body with host := { s.body.host with
      last := .bytes (List.replicate n 0xFF) false } } } ∧
    exec (.bar2Write off vs es) s = .next s)

/-- R425, R328: PERST resets the host interface page and nothing else; the link going down is remembered; when it comes back, held
completion records that have room are written in order. (Rests on log 8.) -/
def Obligations.HostLink : Prop :=
  (∀ s : State, ∃ t : State, exec .perst s = .next t ∧
    t = { s with body := { s.body with host := t.body.host } } ∧
    (∀ off, t.body.regHost off = State.reset.body.regHost off) ∧
    t.body.host.pcieUp = s.body.host.pcieUp ∧ t.body.host.last = s.body.host.last) ∧
  (∀ s : State, exec .pcieLinkDown s = .next { s with body := { s.body with host := { s.body.host with pcieUp := false } } }) ∧
  (∀ s : State, (∀ r ∈ s.body.rings, r.held = [] ∧ r.high = false) →
    exec .pcieLinkUp s = .next { s with body := { s.body with host := { s.body.host with pcieUp := true } } }) ∧
  (∀ (s : State) (i : Nat) (c : CplRecord), i < 5 → i < s.body.rings.length →
    s.body.rings = alter i (fun r => { r with held := [c] }) (s.body.rings.map (fun r => { r with held := [] })) →
    (∀ r ∈ s.body.rings, r.high = false) → (s.body.ring i).enable = true → 4 < (s.body.ring i).free →
    ((s.body.ring i).write c).high = false → ∃ t : State,
      exec .pcieLinkUp s = .next t ∧ t.body.host.pcieUp = true ∧ (t.body.ring i).held = [] ∧
      (t.body.ring i).written = (s.body.ring i).written ++ [{ c with phase := (s.body.ring i).phase }] ∧
      (t.body.ring i).cplTail = ((s.body.ring i).cplTail + 1) % (s.body.ring i).cplSize)

/-! ## Management channel and Lodge (11, 12, 16, 17) -/

/-- R300, R304: the management channel writes the word of a grant message into slot 0, whose router empties it into slot 32, into a full
slot only where its SEQ is higher; the beat of its landing is kept. -/
def Obligations.GrantForward : Prop :=
  (∀ (s : State) (w : Word64), (s.body.slot 32).full = false ∨ (s.body.slot 32).word.toNat % 2 ^ 32 < w.toNat % 2 ^ 32 →
    exec (.grantMessage w) s = .next { s with body := { s.body with doves := { s.body.doves with
      slots := alter 32 (fun x => { x with word := w, full := true })
        (alter 0 (fun x => { x with word := w, full := false }) s.body.doves.slots),
      grantBeat := s.body.clock.beat } } }) ∧
  (∀ (s : State) (w : Word64), (s.body.slot 32).full = true → w.toNat % 2 ^ 32 ≤ (s.body.slot 32).word.toNat % 2 ^ 32 →
    exec (.grantMessage w) s = .next { s with body := { s.body with doves := { s.body.doves with
      slots := alter 0 (fun x => { x with word := w, full := false }) s.body.doves.slots } } })

/-- Table 12.7, R303, R308: an engine that is ON with nothing to serve takes a request from its slot at once. The owner root key is
accepted once; a signing key of either class only under the owner root key's signature and while fewer than 8 are held; one already held
stays as it is. A refused request changes no key. (Rests on logs 56, 57, 77.) -/
def Obligations.KeyCustody : Prop :=
  (∀ (s : State) (k : Nat), s.lodgeFree → s.vault.ownerKey = none → ∃ t : State, exec (.ownerKeySet k) s = .next t ∧
    t.vault = { s.vault with ownerKey := some k, idleSince := s.body.clock.now } ∧ t.body.host = { s.body.host with last := .accepted } ∧
    t.body = { s.body with doves := t.body.doves, host := t.body.host, free := t.body.free }) ∧
  (∀ (s : State) (k o : Nat), s.lodgeFree → s.vault.ownerKey = some o → ∃ t : State, exec (.ownerKeySet k) s = .next t ∧
    t.vault = { s.vault with idleSince := s.body.clock.now } ∧ t.body.host = { s.body.host with last := .refused } ∧
    t.body = { s.body with doves := t.body.doves, host := t.body.host, free := t.body.free }) ∧
  (∀ (s : State) (o k : Nat), s.lodgeFree → s.vault.ownerKey = some o → s.vault.fixtureKeys.length < 8 → k ∉ s.vault.fixtureKeys →
    ∃ t : State, exec (.signingKeyInstall .fixture k (some o)) s = .next t ∧
    t.vault = { s.vault with fixtureKeys := s.vault.fixtureKeys ++ [k], idleSince := s.body.clock.now } ∧
    t.body.host = { s.body.host with last := .accepted } ∧
    t.body = { s.body with doves := t.body.doves, host := t.body.host, free := t.body.free }) ∧
  (∀ (s : State) (o k : Nat), s.lodgeFree → s.vault.ownerKey = some o → s.vault.rulebookKeys.length < 8 → k ∉ s.vault.rulebookKeys →
    ∃ t : State, exec (.signingKeyInstall .rulebook k (some o)) s = .next t ∧
    t.vault = { s.vault with rulebookKeys := s.vault.rulebookKeys ++ [k], idleSince := s.body.clock.now } ∧
    t.body.host = { s.body.host with last := .accepted } ∧
    t.body = { s.body with doves := t.body.doves, host := t.body.host, free := t.body.free }) ∧
  (∀ (s : State) (cls : KeyClass) (o k : Nat), s.lodgeFree → s.vault.ownerKey = some o → k ∈ s.vault.keys cls → ∃ t : State,
    exec (.signingKeyInstall cls k (some o)) s = .next t ∧ t.vault = { s.vault with idleSince := s.body.clock.now } ∧
    t.body.host = { s.body.host with last := .accepted } ∧
    t.body = { s.body with doves := t.body.doves, host := t.body.host, free := t.body.free }) ∧
  (∀ (s : State) (cls : KeyClass) (o k : Nat), s.lodgeFree → s.vault.ownerKey = some o → 8 ≤ (s.vault.keys cls).length →
    k ∉ s.vault.keys cls → ∃ t : State,
    exec (.signingKeyInstall cls k (some o)) s = .next t ∧ t.vault = { s.vault with idleSince := s.body.clock.now } ∧
    t.body.host = { s.body.host with last := .refused } ∧
    t.body = { s.body with doves := t.body.doves, host := t.body.host, free := t.body.free }) ∧
  (∀ (s : State) (cls : KeyClass) (k : Nat) (signer : Option Nat), s.lodgeFree → (s.vault.ownerKey = none ∨ signer ≠ s.vault.ownerKey) →
    ∃ t : State, exec (.signingKeyInstall cls k signer) s = .next t ∧ t.vault = { s.vault with idleSince := s.body.clock.now } ∧
    t.body.host = { s.body.host with last := .refused } ∧
    t.body = { s.body with doves := t.body.doves, host := t.body.host, free := t.body.free })

/-- R300, R301, R303, R307, R383, R395, Table 16.4: a nonce request replaces the outstanding nonce by the next one drawn; a clear token of
16 bytes, AUTHORISER, CLEAR_NUMBER and CODE, is issued for the number after the log's clears to a request that the owner root key signs,
and fills two reply slots; a signature request with nothing queued before it is answered by whether a held key of its class signed, and
refused in a debug state. While the engine is OFF a request waits in its slot and latches the wake event; with every slot full it is lost
and the first slot's overrun bit set. (Rests on logs 9, 56, 57.) -/
def Obligations.LodgeAnswers : Prop :=
  (∀ s : State, s.lodgeFree → ∃ t : State, exec .debugNonceRequest s = .next t ∧
    t.vault = { s.vault with nonce := some (Config.nonceValue s.vault.drawn).toNat, drawn := s.vault.drawn + 1,
                             idleSince := s.body.clock.now } ∧
    t.body.host = { s.body.host with last := .nonce (Config.nonceValue s.vault.drawn).toNat } ∧
    t.body = { s.body with doves := t.body.doves, host := t.body.host, free := t.body.free }) ∧
  (∀ (s : State) (auth o : Nat), s.lodgeFree → auth < 2 ^ 32 → s.vault.ownerKey = some o → s.body.doves.slots.length = 64 →
    (s.body.slot 8).full = false → (s.body.slot 9).full = false → ∃ t : State, exec (.clearTokenRequest auth (some o)) s = .next t ∧
    t.vault = { s.vault with idleSince := s.body.clock.now } ∧
    t.body.host = { s.body.host with last := .clearToken (leBytes auth 4 ++ leBytes ((s.body.score.clears + 1) % 2 ^ 32) 4 ++
      leBytes (Config.clearCode s.vault.serial auth ((s.body.score.clears + 1) % 2 ^ 32)).toNat 8) } ∧
    (t.body.slot 8).full = true ∧
    (t.body.slot 8).word = BitVec.ofNat 64 (leValue (leBytes auth 4 ++ leBytes ((s.body.score.clears + 1) % 2 ^ 32) 4)) ∧
    (t.body.slot 9).full = true ∧
    (t.body.slot 9).word = Config.clearCode s.vault.serial auth ((s.body.score.clears + 1) % 2 ^ 32) ∧
    t.body = { s.body with doves := t.body.doves, host := t.body.host, free := t.body.free }) ∧
  (∀ (s : State) (auth : Nat) (signer : Option Nat), s.lodgeFree → auth < 2 ^ 32 →
    (s.vault.ownerKey = none ∨ signer ≠ s.vault.ownerKey) → ∃ t : State,
    exec (.clearTokenRequest auth signer) s = .next t ∧ t.vault = { s.vault with idleSince := s.body.clock.now } ∧
    t.body.host = { s.body.host with last := .refused } ∧
    t.body = { s.body with doves := t.body.doves, host := t.body.host, free := t.body.free }) ∧
  (∀ (s : State) (cls : KeyClass) (signer : Option Nat), s.vault.engineOn = true → s.body.doves.asks = [] → (s.body.slot 40).full = false →
    ∃ t : State, exec (.lodgeRequest (.signature cls signer)) s = .next t ∧ t.vault = { s.vault with idleSince := s.body.clock.now } ∧
    (s.vault.debug = false → (∃ k ∈ s.vault.keys cls, signer = some k) → t.body.host = { s.body.host with last := .accepted }) ∧
    (s.vault.debug = true ∨ (∀ k ∈ s.vault.keys cls, signer ≠ some k) → t.body.host = { s.body.host with last := .refused }) ∧
    t.body = { s.body with doves := t.body.doves, host := t.body.host, free := t.body.free }) ∧
  (∀ s : State, s.vault.engineOn = false → (s.body.slot 1).full = false → exec .debugNonceRequest s = .next { s with body := { s.body with
    free := s.body.free + 1,
    doves := { s.body.doves with
      slots := alter 1 (fun x => { x with word := Config.slotWord s.body.free, full := true }) s.body.doves.slots,
      mail := s.body.doves.mail ++ [(1, .nonce)],
      wake := alter 8 (fun _ => true) s.body.doves.wake } } }) ∧
  (∀ s : State, s.vault.engineOn = false → (∀ k < 8, k ≠ 0 → (s.body.slot k).full = true) →
    exec .debugNonceRequest s = .next { s with body := { s.body with
      free := s.body.free + 1,
      doves := { s.body.doves with slots := alter 1 (fun x => { x with overrun := true }) s.body.doves.slots } } })

/-- R394 to R396: a request that names this module's serial and the outstanding nonce, raises the level to TOUCHLINE and is signed by the
owner root key enters the debug state, uses up the nonce and fences nothing; one with any other nonce is refused and changes no key, nonce
or level. (Rests on logs 57, 77.) -/
def Obligations.DebugEntry : Prop :=
  (∀ (s : State) (o n halves : Nat), s.lodgeFree → halves < 4 → s.body.boot.start = .ready → s.vault.healthy = true →
    s.vault.ownerKey = some o → s.vault.nonce = some n → s.vault.level = 0 → ∃ t : State,
      exec (.debugRequest s.vault.serial n 1 halves (some o)) s = .next t ∧
      t.vault = { s.vault with nonce := none, debug := true, level := 1, scanHalves := 0, idleSince := s.body.clock.now } ∧
      t.body.host = { s.body.host with last := .accepted } ∧ t.body.score.testing = true ∧
      t.body = { s.body with doves := t.body.doves, host := t.body.host, free := t.body.free, score := t.body.score }) ∧
  (∀ (s : State) (serial : Word64) (n level halves : Nat) (signer : Option Nat), s.lodgeFree → level < 4 → halves < 4 →
    s.vault.nonce ≠ some n → ∃ t : State,
      exec (.debugRequest serial n level halves signer) s = .next t ∧ t.vault = { s.vault with idleSince := s.body.clock.now } ∧
      t.body.host = { s.body.host with last := .refused } ∧
      t.body = { s.body with doves := t.body.doves, host := t.body.host, free := t.body.free })

/-! ## Bandstand and schedule (11) -/

/-- R259, R261: an edge within EDGE_TOL moves the phase 1 tick toward it and returns to LOCKED; one outside it, or a missing one, is
counted and leaves the phase to the own count, the first in LOCKED beginning HOLDOVER; past HOLDOVER_BEATS the bandstand is UNLOCKED with
beat-lost. -/
def Obligations.BeatEdges : Prop :=
  (∀ (s : State) (d : Int), s.body.hasBeat = true → d.natAbs ≤ s.body.book.tables.beat.edgeTol →
    exec (.beatEdge d) s = .next { s with body := { s.body with clock := { s.body.clock with
      band := .locked, holdBeats := 0, beatStart := ((s.body.clock.beatStart : Int) + d.sign).toNat } } }) ∧
  (∀ (s : State) (d : Int), s.body.clock.band = .locked → s.body.book.tables.beat.edgeTol < d.natAbs →
    exec (.beatEdge d) s = .next { s with body := { s.body with clock := { s.body.clock with
      band := .holdover, holdBeats := 1, edgesRejected := (s.body.clock.edgesRejected + 1) % 2 ^ 32 } } }) ∧
  (∀ (s : State) (d : Int), s.body.clock.band = .holdover ∨ s.body.clock.band = .unlocked →
    s.body.book.tables.beat.edgeTol < d.natAbs →
    exec (.beatEdge d) s = .next { s with body := { s.body with clock := { s.body.clock with
      edgesRejected := (s.body.clock.edgesRejected + 1) % 2 ^ 32 } } }) ∧
  (∀ s : State, s.body.clock.band = .locked →
    exec .beatEdgeMissing s = .next { s with body := { s.body with clock := { s.body.clock with
      band := .holdover, holdBeats := 1, edgesRejected := (s.body.clock.edgesRejected + 1) % 2 ^ 32 } } }) ∧
  (∀ s : State, s.body.clock.band = .holdover ∨ s.body.clock.band = .unlocked →
    exec .beatEdgeMissing s = .next { s with body := { s.body with clock := { s.body.clock with
      edgesRejected := (s.body.clock.edgesRejected + 1) % 2 ^ 32 } } }) ∧
  (∀ s : State, s.body.clock.band = .holdover → s.body.book.tables.beat.holdoverBeats < s.body.clock.holdBeats →
    exec .holdoverExpired s = .next { s with body :=
      ({ s.body with clock := { s.body.clock with band := .unlocked } } : Body).raise tBand 0 .contained kBeatLost 0 })

/-- R260, R262, R441: while REF is present, the IEEE 1588 time that names a beat's start at the accepted edge ends SEEKING: LOCKED on that
beat with the length of the table in force; no entry of an earlier beat but a barrier stays. Later a time that names another beat is a
corrected message, and the beat stays. (Rests on logs 40, 46.) -/
def Obligations.TimeOfDay : Prop :=
  (∀ (s : State) (tai n : Nat), s.body.clock.band = .seeking → s.body.clock.refPresent = true → s.body.clock.edgeAt = some s.body.clock.now →
    0 < s.body.book.tables.beat.beatNs →
    tai = s.body.book.tables.beat.beatEpoch + n * s.body.book.tables.beat.beatNs → ∃ t : State,
      exec (.ptpTime tai) s = .next t ∧
      t.body.clock = { s.body.clock with
        band := .locked, beat := n % 2 ^ 48, beatNs := s.body.book.tables.beat.beatNs, beatStart := s.body.clock.now, made := false,
        holdBeats := 0, edgeAt := none, tai := some (s.body.clock.now, tai) } ∧
      (∀ e, e ∈ t.body.sched.entries ↔ e ∈ s.body.sched.entries ∧ (e.kind = 2 ∨ n % 2 ^ 48 < e.beat)) ∧
      t.body = { s.body with clock := t.body.clock, sched := t.body.sched, power := t.body.power }) ∧
  (∀ (s : State) (tai : Nat), s.body.hasBeat = true →
    (tai - s.body.book.tables.beat.beatEpoch) / s.body.beatNs % 2 ^ 48 ≠ s.body.clock.beat → ∃ t : State,
      exec (.ptpTime tai) s = .next t ∧ t.body.clock = s.body.clock ∧
      t.body = s.body.raise tBand 0 .corrected kBeatMismatch ((tai - s.body.book.tables.beat.beatEpoch) / s.body.beatNs % 2 ^ 48)) ∧
  (∀ (s : State) (tai : Nat), s.body.hasBeat = true →
    (tai - s.body.book.tables.beat.beatEpoch) / s.body.beatNs % 2 ^ 48 = s.body.clock.beat → exec (.ptpTime tai) s = .next s)

/-- R261: without REF a module in service is FREE, every RUNNING fixture is STOPPED, and no other fixture changes its state. (Rests on log
12.) -/
def Obligations.ReferenceLost : Prop :=
  ∀ s : State, s.body.boot.start = .ready → s.body.clock.band ≠ .free → ∃ t : State,
    exec .refLost s = .next t ∧ t.vault = s.vault ∧ t.pending = s.pending ∧
    t.body.clock = { s.body.clock with refPresent := false, band := .free, edgeAt := none, tai := none } ∧
    (∀ p, p < 4 → (t.body.part p).fstate =
      if (s.body.part p).fstate = .running then .stopped else (s.body.part p).fstate) ∧
    t.body.store = s.body.store ∧ t.body.sched = s.body.sched ∧ t.body.book = s.body.book

/-- R259, R273, R275, R282: a beat boundary counts the beat on modulo 2^48, keeps the mean power of the beat that ended, and starts the
sums again; a grant raise that is due takes effect, and so does a prepared raise of the operating point, with its voltage. (Rests on logs
2, 20, 36.) -/
def Obligations.BeatBoundary : Prop :=
  (∀ s : State, s.body.hasBeat = true → s.body.store.pendingRetire = [] → (∀ k ∈ s.body.sched.barriers, k.releasing = none) → ∃ t : State,
    exec .beatBoundary s = .next t ∧ t.vault = s.vault ∧ t.pending = s.pending ∧
    t.body.clock.beat = (s.body.clock.beat + 1) % 2 ^ 48 ∧
    t.body.clock.beatStart = s.body.clock.beatStart + s.body.beatNs ∧ t.body.clock.band = s.body.clock.band ∧
    t.body.power.pavgPrev = s.body.power.mean ∧ t.body.power.lastPavg = s.body.power.mean ∧
    t.body.power.sumP = 0 ∧ t.body.power.sumNs = 0 ∧
    (∀ w d, s.body.power.pendingRaise = some (w, d) → d ≤ (s.body.clock.beat + 1) % 2 ^ 48 → t.body.power.grant = w) ∧
    (s.body.power.pendingRaise = none → t.body.power.grant = s.body.power.grant) ∧
    t.body.parts = s.body.parts ∧ t.body.store.cells = s.body.store.cells ∧ t.body.sched = s.body.sched) ∧
  (∀ (s : State) (w d : Nat), s.body.hasBeat = true → s.body.store.pendingRetire = [] → s.body.sched.barriers = [] →
    s.body.power.fixed = false → s.body.power.nearest s.body.power.op = s.body.power.op → s.body.lowers = false →
    s.body.power.switch = some ⟨w, d, true⟩ → d ≤ s.body.clock.beat + 1 → s.body.power.op < s.body.power.opCeiling →
    s.body.power.deferred = 0 → s.body.power.droopWest = false → s.body.power.droopEast = false → s.body.power.lastStretch = none →
    (∀ e ∈ s.body.sched.entries, e.kind ≠ 3 ∧ e.kind ≠ 4 ∧ e.kind ≠ 7) →
    ∃ t : State, exec .beatBoundary s = .next t ∧ t.body.power.op = s.body.power.op + 1 ∧ t.body.power.switch = none ∧
      t.body.power.vcoreMv = s.body.coreMv (s.body.power.op + 1))

/-- R264: the entry that fires next is due, no other due entry comes before it in (beat, tick) and the order of kinds of Table 11.5, and of
those that come at its moment and are of its kind it was installed first; without a beat none fires. -/
def Obligations.FiringOrder : Prop :=
  (∀ (b : Body) (e : SchedEntry), b.nextEntry = some e → b.hasBeat = true ∧ ∃ m l r, b.dueAt e = some m ∧ b.sched.entries = l ++ e :: r ∧
    (∀ x ∈ l, ∀ y, b.dueAt x = some y → earlier m y = true) ∧ (∀ x ∈ r, ∀ y, b.dueAt x = some y → earlier y m = false)) ∧
  (∀ b : Body, b.hasBeat = true → (∃ e ∈ b.sched.entries, (b.dueAt e).isSome = true) → b.nextEntry.isSome = true)

/-- R263 to R265, R278, Tables 11.4 and 11.5: the entry of its kind that comes next leaves the schedule at its moment and takes effect: a
token completes; MODE and OP_RANGE set the operating point, within the range where it is not fixed; MAINTENANCE opens its window, and cuts
no longer one short. (Rests on logs 2, 44.) -/
def Obligations.EntriesFire : Prop :=
  (∀ (s : State) (e : SchedEntry), s.body.nextEntry = some e → e.kind = 1 → e.beat = s.body.clock.beat → e.part < 4 → e.token ≠ 0 →
    e.part < s.body.parts.length → ∃ t : State, exec .token s = .next t ∧
      t.body.sched.entries = s.body.sched.entries.erase e ∧ (⟨e.token, none⟩ : Done) ∈ (t.body.part e.part).board ∧
      t.body.clock = { s.body.clock with now := max s.body.clock.now (s.body.clock.beatStart + e.tick) } ∧
      t.body = { s.body with clock := t.body.clock, sched := t.body.sched, parts := t.body.parts, pitches := t.body.pitches,
                             engines := t.body.engines }) ∧
  (∀ (s : State) (e : SchedEntry), s.body.nextEntry = some e → e.kind = 7 → s.body.power.droopWest = false →
    s.body.power.droopEast = false → s.body.power.lastStretch = none → ∃ t : State, exec .mode s = .next t ∧
      t.body.sched.entries = s.body.sched.entries.erase e ∧ t.body.power.fixed = e.arg0.getLsbD 0 ∧
      t.body.power.fixedOp = e.arg0.toNat / 2 ^ 8 % 16 ∧
      t.body.power.op = (if e.arg0.getLsbD 0 then e.arg0.toNat / 2 ^ 8 % 16
        else min (max s.body.power.op s.body.power.opFloor) s.body.power.opCeiling) ∧
      t.body = { s.body with clock := t.body.clock, sched := t.body.sched, parts := t.body.parts, power := t.body.power,
                             score := t.body.score, pitches := t.body.pitches, engines := t.body.engines }) ∧
  (∀ (s : State) (e : SchedEntry), s.body.nextEntry = some e → e.kind = 3 → s.body.power.fixed = false →
    s.body.power.droopWest = false → s.body.power.droopEast = false → s.body.power.lastStretch = none → ∃ t : State,
      exec .opRange s = .next t ∧ t.body.sched.entries = s.body.sched.entries.erase e ∧
      t.body.power.opFloor = e.arg0.toNat % 16 ∧ t.body.power.opCeiling = e.arg0.toNat / 16 % 16 ∧
      t.body.power.op = min (max s.body.power.op (e.arg0.toNat % 16)) (e.arg0.toNat / 16 % 16) ∧
      t.body = { s.body with clock := t.body.clock, sched := t.body.sched, parts := t.body.parts, power := t.body.power,
                             pitches := t.body.pitches, engines := t.body.engines }) ∧
  (∀ (s : State) (e : SchedEntry), s.body.nextEntry = some e → e.kind = 5 → e.token = 0 → e.beat = s.body.clock.beat → ∃ t : State,
      exec .maintenance s = .next t ∧ t.body.sched.entries = s.body.sched.entries.erase e ∧
      t.body.sched.windowEnd = some (max (s.body.sched.windowEnd.getD 0)
        (max s.body.clock.now (s.body.clock.beatStart + e.tick) + e.arg0.toNat * 1000)) ∧
      t.body = { s.body with clock := t.body.clock, sched := t.body.sched, pitches := t.body.pitches, engines := t.body.engines })

/-- R311, R349, R350, Table 11.5: TABLE_SWAP of a staged image that fails no check brings all its tables into force at once and frees the
slot, and its token completes; naming a slot with nothing staged leaves the rulebook, and its token fails with a refusal's code (which one,
the spec leaves open). A SNAPSHOT entry takes the cut of a partition in STOPPED, or of one whose STREAM_UPD holds nothing, at once, and
asks a RUNNING training partition for one at the next verdict. (Rests on logs 44, 45, 49.) -/
def Obligations.SwapAndSnapshotEntries : Prop :=
  (∀ (s : State) (e : SchedEntry) (img : RulebookImage), s.body.nextEntry = some e → e.kind = 4 →
    s.body.book.staging.getD (e.arg0.toNat % 4) .empty = .staged img → s.body.swapCode img = rbOk → ∃ t : State,
      exec .tableSwap s = .next t ∧ t.vault = s.vault ∧ t.pending = s.pending ∧
      t.body.book = { s.body.book with
        tables := withImage s.body.book.tables img, version := img.version, lastResult := 0,
        staging := alter (e.arg0.toNat % 4) (fun _ => .empty) s.body.book.staging } ∧
      (e.part < 4 → e.part < s.body.parts.length → e.token ≠ 0 → (⟨e.token, none⟩ : Done) ∈ (t.body.part e.part).board)) ∧
  (∀ (s : State) (e : SchedEntry) (img : RulebookImage), s.body.nextEntry = some e → e.kind = 4 →
    s.body.book.staging.getD (e.arg0.toNat % 4) .empty = .staged img → s.body.swapCode img = rbOk → imageInterleave img = none →
    (withImage s.body.book.tables img).op = s.body.book.tables.op → (withImage s.body.book.tables img).power = s.body.book.tables.power →
    (withImage s.body.book.tables img).link.enable = s.body.book.tables.link.enable →
    (withImage s.body.book.tables img).snapshot = s.body.book.tables.snapshot →
    (withImage s.body.book.tables img).outfield = s.body.book.tables.outfield → s.body.store.pendingRetire = [] → ∃ t : State,
      exec .tableSwap s = .next t ∧ t.body.sched.entries = s.body.sched.entries.erase e ∧
      t.body.book = { s.body.book with
        tables := withImage s.body.book.tables img, version := img.version, lastResult := 0,
        staging := alter (e.arg0.toNat % 4) (fun _ => .empty) s.body.book.staging } ∧
      t.body = { s.body with clock := t.body.clock, sched := t.body.sched, parts := t.body.parts, book := t.body.book,
                             doves := t.body.doves, pitches := t.body.pitches, engines := t.body.engines }) ∧
  (∀ (s : State) (e : SchedEntry), s.body.nextEntry = some e → e.kind = 4 →
    s.body.book.staging.getD (e.arg0.toNat % 4) .empty = .empty → e.part < 4 → e.token ≠ 0 → e.part < s.body.parts.length → ∃ t : State,
      exec .tableSwap s = .next t ∧ t.body.sched.entries = s.body.sched.entries.erase e ∧
      t.body.book = { s.body.book with lastResult := 1 + Config.emptySwapCode s.body.free % 8 } ∧
      (⟨e.token, some (1 + Config.emptySwapCode s.body.free % 8)⟩ : Done) ∈ (t.body.part e.part).board) ∧
  (∀ (s : State) (e : SchedEntry) (f : FixtureImage) (placed : List Nat), s.body.nextEntry = some e → e.kind = 6 → e.part < 4 →
    e.part < s.body.parts.length → e.token = 0 → (e.arg0.toNat % 8 ≠ 0) → (s.body.part e.part).holds = true →
    (s.body.part e.part).fix = some f → (s.body.part e.part).fstate = .stopped ∨ f.upd = [] →
    (s.body.part e.part).snap.run = none → (s.body.part e.part).snap.waiting = none →
    (({ s.body with sched := s.body.sched.remove e } : Body).placement e.part (e.arg0.toNat % 8) f) = some placed →
    ∃ (t : State) (r : SnapRun), exec .snapshotEntry s = .next t ∧ t.body.sched.entries = s.body.sched.entries.erase e ∧
      (t.body.part e.part).snap.run = some r ∧
      r.layersDue = (s.body.part e.part).layersDue f ((s.body.part e.part).pass.step - 1) ∧ r.command = false ∧ r.image.part = e.part ∧
      r.image.dest = e.arg0.toNat % 8 ∧ r.image.hostAddr = e.arg1.toNat ∧ r.image.serial = s.vault.serial ∧
      r.image.step = (s.body.part e.part).pass.step - 1 ∧ r.image.fixtureHash = f.hash ∧ r.image.rbVersion = s.body.book.version ∧
      r.image.sealed = .noStep ∧ r.image.placed = placed ∧
      (f.upd = [] → r.image.sections = ({ s.body with sched := s.body.sched.remove e } : Body).sections e.part f
        ((s.body.part e.part).layersDue f ((s.body.part e.part).pass.step - 1))) ∧
      (∀ q, q ≠ e.part → t.body.part q = s.body.part q) ∧
      t.body = { s.body with clock := t.body.clock, sched := t.body.sched, parts := t.body.parts, pitches := t.body.pitches,
                             engines := t.body.engines }) ∧
  (∀ (s : State) (e : SchedEntry) (f : FixtureImage), s.body.nextEntry = some e → e.kind = 6 → e.part < 4 → e.token = 0 →
    (e.arg0.toNat % 8 ≠ 0) → (s.body.part e.part).fstate = .running → (s.body.part e.part).fix = some f → f.upd ≠ [] →
    (s.body.part e.part).snap.run = none → (s.body.part e.part).snap.waiting = none →
    (({ s.body with sched := s.body.sched.remove e } : Body).placement e.part (e.arg0.toNat % 8) f).isSome = true → ∃ t : State,
      exec .snapshotEntry s = .next t ∧ t.body.sched.entries = s.body.sched.entries.erase e ∧
      t.body.parts = alter e.part (fun x => { x with
        snap := { x.snap with waiting := some ⟨e.arg0.toNat % 8, e.arg1.toNat, false⟩ } }) s.body.parts ∧
      t.body = { s.body with clock := t.body.clock, sched := t.body.sched, parts := t.body.parts, pitches := t.body.pitches,
                             engines := t.body.engines })

/-- R267 to R271, R442: an arrived barrier is marked, its own READY notice counted and rally's level taken once; a LATE forecast is
remembered; with every member's READY counted the barrier is released at its tick and its token completes there, an entry of an earlier
tick still firing first; with a READY missing at B + S it fails with barrier-absent and its partition's streams stop; a held notice is
dropped 65 536 beats past its stamp. (Rests on logs 46, 73, 122.) -/
def Obligations.BarrierLife : Prop :=
  (∀ (s : State) (k : BarrierInfo) (e : SchedEntry), k.part < 4 →
    s.body.sched.barriers.find? (fun x => decide (x.part = k.part ∧ x.id = k.id)) = some k → s.body.barrierEntry k = some e →
    k.arrived = false → (s.body.part k.part).arrived e.token = true → ∃ t : State,
      exec (.barrierArrival k.part k.id) s = .next t ∧ t.body.parts = s.body.parts ∧ t.body.sched.entries = s.body.sched.entries ∧
      t.body.power.rallyLevel = some (s.body.rallyHeld.getD s.body.rallyMean) ∧
      ∃ j, t.body.sched.barriers.find? (fun x => decide (x.part = k.part ∧ x.id = k.id)) = some j ∧ j.arrived = true ∧
        (∀ m, s.body.ownMember s.vault.serial = some m →
          j.notices = k.notices ++ [⟨k.id, m, .ready, s.body.clock.beat, s.body.tickNow⟩])) ∧
  (∀ (s : State) (k : BarrierInfo) (e : SchedEntry) (x : Nat), k.part < 4 →
    s.body.sched.barriers.find? (fun y => decide (y.part = k.part ∧ y.id = k.id)) = some k → s.body.barrierEntry k = some e →
    k.arrived = false → (if k.noticed = 0 then e.beat else k.noticed) < x → ∃ t : State,
      exec (.lateNotice k.part k.id x) s = .next t ∧ t.body.parts = s.body.parts ∧ t.body.sched.entries = s.body.sched.entries ∧
      ∃ j, t.body.sched.barriers.find? (fun y => decide (y.part = k.part ∧ y.id = k.id)) = some j ∧ j.noticed = x ∧
        (∀ m, s.body.ownMember s.vault.serial = some m →
          j.notices = k.notices ++ [⟨k.id, m, .late x, s.body.clock.beat, s.body.tickNow⟩])) ∧
  (∀ (s : State) (k : BarrierInfo) (e : SchedEntry) (g : RouteGroup), s.body.hasBeat = true →
    s.body.nextEntry.any (fun x => decide (firingOrder x.kind < 3)) = false →
    s.body.clock.made = true → k.releasing = none →
    s.body.sched.barriers = [k] → s.body.barrierEntry k = some e → e.beat ≤ s.body.clock.beat → k.decided ≠ some s.body.clock.beat →
    (∀ x ∈ s.body.sched.entries, x ≠ e → ∀ m, s.body.dueAt x = some m → earlier (s.body.clock.beat, e.tick, 3) m = true) →
    s.body.groupOk s.vault.serial (barrierGroup e) = true → s.body.group? (barrierGroup e) = some g →
    (∀ n ∈ k.notices, n.kind = .ready) →
    (∀ m ∈ g.members, ∃ n ∈ k.notices, n.member = m ∧ s.body.counts n s.body.clock.beat = true) →
    e.part < 4 → e.part < s.body.parts.length → e.token ≠ 0 → ∃ t : State,
      exec .barrierDecision s = .next t ∧ t.body.sched.entries = s.body.sched.entries.erase e ∧ t.body.sched.barriers = [] ∧
      (⟨e.token, none⟩ : Done) ∈ (t.body.part e.part).board ∧ (t.body.part e.part).fstate = (s.body.part e.part).fstate ∧
      t.body.clock = { s.body.clock with now := max s.body.clock.now (s.body.clock.beatStart + e.tick) }) ∧
  (∀ (s : State) (k : BarrierInfo) (e x : SchedEntry) (g : RouteGroup), s.body.hasBeat = true →
    s.body.clock.made = true → k.releasing = none → s.body.sched.barriers = [k] → s.body.barrierEntry k = some e →
    e.beat ≤ s.body.clock.beat → k.decided ≠ some s.body.clock.beat → s.body.sched.entries = [e, x] → x.kind ≠ 2 → 3 < firingOrder x.kind →
    x.beat = s.body.clock.beat → x.tick < e.tick →
    s.body.groupOk s.vault.serial (barrierGroup e) = true → s.body.group? (barrierGroup e) = some g →
    (∀ n ∈ k.notices, n.kind = .ready) →
    (∀ m ∈ g.members, ∃ n ∈ k.notices, n.member = m ∧ s.body.counts n s.body.clock.beat = true) → ∃ t : State,
      exec .barrierDecision s = .next t ∧
      t.body = { s.body with sched := { s.body.sched with
        barriers := [{ k with decided := some s.body.clock.beat, releasing := some s.body.clock.beat }] } } ∧
      t.body.nextEntry = some x) ∧
  (∀ (s : State) (k : BarrierInfo) (e : SchedEntry) (g : RouteGroup), s.body.hasBeat = true →
    s.body.clock.made = true → k.releasing = none →
    s.body.nextEntry.any (fun x => decide (firingOrder x.kind < 3)) = false →
    s.body.sched.barriers = [k] → s.body.barrierEntry k = some e → e.beat + barrierSlack e ≤ s.body.clock.beat →
    k.decided ≠ some s.body.clock.beat →
    s.body.groupOk s.vault.serial (barrierGroup e) = true → s.body.group? (barrierGroup e) = some g → g.members ≠ [] →
    k.notices = [] → e.part < 4 → e.part < s.body.parts.length → e.token ≠ 0 → (s.body.part e.part).fstate = .running → ∃ t : State,
      exec .barrierDecision s = .next t ∧ t.body.sched.entries = s.body.sched.entries.erase e ∧
      (⟨e.token, some kBarrierAbsent⟩ : Done) ∈ (t.body.part e.part).board ∧ (t.body.part e.part).fstate = .stopped) ∧
  (∀ s : State, exec .heldNoticeExpired s = .next { s with body := { s.body with sched := { s.body.sched with
    held := s.body.sched.held.filter (fun n => decide (s.body.clock.beat < n.stampBeat + 65536)),
    closed := s.body.sched.closed.filter (fun x => decide (s.body.clock.beat < x.2.2 + 65536)) } } })

/-! ## Power and heat (11, 09) -/

/-- R276, R277, R281 to R283, R286, R399: the interval's duty follows the band exactly as R277 says of the draw, ceiling, floor and step of
that moment, each half's increment follows its hottest sensor that is not excluded, and the beat's sums grow by the interval. R275, R278: a
raise of the operating point is prepared for the next beat with its voltage, and none is where the point may not rise; the voltage rises as
well for the raise that a MODE entry of the next tick 0 makes. R283: an unrefreshed grant lapses to SAFE_GRANT where that is lower. (Rests
on logs 20, 36, 38, 53, 104, 105, 106, 123.) -/
def Obligations.PowerControl : Prop :=
  (∀ (s : State) (m : PowerSample), (s.body.slot 32).full = false → ∃ t : State, exec (.powerInterval m) s = .next t ∧
    t.vault = s.vault ∧ t.pending = s.pending ∧
    (s.body.ceiling < s.body.inputP m →
      t.body.power.duty = min 15 (s.body.power.duty + ceilDiv (s.body.inputP m - s.body.ceiling) s.body.dutyStep)) ∧
    (s.body.inputP m ≤ s.body.ceiling → ((s.body.inputP m : Nat) : Int) < s.body.floor_ →
      t.body.power.duty = s.body.power.duty - ceilDiv (s.body.floor_ - (s.body.inputP m : Nat)).toNat s.body.dutyStep ∧
      (s.body.power.duty = 0 → t.body.power.rallyFloor = true)) ∧
    (s.body.inputP m ≤ s.body.ceiling → s.body.floor_ ≤ (s.body.inputP m : Nat) →
      t.body.power.duty = if ((s.body.inputP m : Nat) : Int) < (s.body.ceiling : Int) - s.body.dutyStep
        then s.body.power.duty - 1 else s.body.power.duty) ∧
    t.body.power.hWest = (if (s.body.trusted m).west.any (fun x => decide ((s.body.book.tables.power.throttleC : Int) < x))
      then min 15 (s.body.power.hWest + 1) else s.body.power.hWest - 1) ∧
    t.body.power.hEast = (if (s.body.trusted m).east.any (fun x => decide ((s.body.book.tables.power.throttleC : Int) < x))
      then min 15 (s.body.power.hEast + 1) else s.body.power.hEast - 1) ∧
    t.body.power.sumP = s.body.power.sumP + s.body.inputP m * (s.body.intervalEnd - s.body.power.lastEnd) ∧
    t.body.power.lastEnd = s.body.intervalEnd ∧ t.body.clock.now = max s.body.clock.now s.body.intervalEnd ∧
    t.body.power.op = s.body.power.op ∧ t.body.power.grant = s.body.power.grant ∧
    t.body = { s.body with clock := t.body.clock, power := t.body.power, pitches := t.body.pitches, engines := t.body.engines,
                           score := t.body.score }) ∧
  (∀ s : State, s.body.hasBeat = true → s.body.power.fixed = false → s.body.power.switch = none →
    s.body.power.op < s.body.power.opCeiling → s.body.power.dutyAlwaysZero = true → s.body.power.duty = 0 →
    (s.body.meanAt (s.body.clock.beatStart + (s.body.beatNs - 20000)) + s.body.book.tables.power.upMargin) * 1000000 ≤ s.body.ceiling →
    (∀ e ∈ s.body.sched.entries, e.kind ≠ 3 ∧ e.kind ≠ 4 ∧ e.kind ≠ 7) → ∃ t : State,
      exec .opRaiseStart s = .next t ∧ t.vault = s.vault ∧ t.pending = s.pending ∧
      t.body.clock = { s.body.clock with now := max s.body.clock.now (s.body.clock.beatStart + (s.body.beatNs - 20000)) } ∧
      t.body.power = { s.body.power with
        switch := some ⟨s.body.power.op + 1, s.body.clock.beat + 1, true⟩,
        vcoreMv := (s.body.book.tables.op.getD (s.body.power.op + 1) ⟨0, 0, 1⟩).vcoreMv } ∧
      t.body = { s.body with clock := t.body.clock, power := t.body.power, pitches := t.body.pitches, engines := t.body.engines,
                             free := s.body.free + 1 }) ∧
  (∀ s : State, s.body.hasBeat = true → s.body.power.switch = none →
    (s.body.power.fixed = true ∨ s.body.power.opCeiling ≤ s.body.power.op ∨ s.body.power.duty ≠ 0 ∨ s.body.power.dutyAlwaysZero = false ∨
      s.body.ceiling < (s.body.meanAt (s.body.clock.beatStart + (s.body.beatNs - 20000)) + s.body.book.tables.power.upMargin) * 1000000) →
    (∀ e ∈ s.body.sched.entries, e.kind ≠ 3 ∧ e.kind ≠ 4 ∧ e.kind ≠ 7) → ∃ t : State,
      exec .opRaiseStart s = .next t ∧ t.vault = s.vault ∧ t.pending = s.pending ∧
      t.body.clock = { s.body.clock with now := max s.body.clock.now (s.body.clock.beatStart + (s.body.beatNs - 20000)) } ∧
      t.body = { s.body with clock := t.body.clock, pitches := t.body.pitches, engines := t.body.engines, free := s.body.free + 1 }) ∧
  (∀ (s : State) (e : SchedEntry), s.body.hasBeat = true → s.body.power.fixed = true → s.body.power.switch = none →
    s.body.sched.entries = [e] → e.kind = 7 → e.beat = s.body.clock.beat + 1 → e.tick = 0 → e.arg0.getLsbD 0 = true →
    s.body.power.op < e.arg0.toNat / 2 ^ 8 % 16 → s.body.power.vcoreMv ≤ s.body.coreMv (e.arg0.toNat / 2 ^ 8 % 16) → ∃ t : State,
      exec .opRaiseStart s = .next t ∧ t.body.power = { s.body.power with vcoreMv := s.body.coreMv (e.arg0.toNat / 2 ^ 8 % 16) } ∧
      t.body.sched = s.body.sched) ∧
  (∀ s : State, s.body.hasBeat = false → exec .opRaiseStart s = .next s) ∧
  (∀ s : State, s.body.hasBeat = true → s.body.power.lapsed = false →
    s.body.power.grantBeat + s.body.book.tables.beat.grantRefresh ≤ s.body.clock.beat → ∃ t : State,
      exec .grantLapse s = .next t ∧ t.vault = s.vault ∧ t.pending = s.pending ∧
      t.body.power = { s.body.power with
        lapsed := true, grant := min s.body.power.grant s.body.book.tables.beat.safeGrant, pendingRaise := none } ∧
      t.body = { s.body with power := t.body.power, score := t.body.score }) ∧
  (∀ s : State, (s.body.hasBeat = false ∨ s.body.power.lapsed = true ∨
      s.body.clock.beat < s.body.power.grantBeat + s.body.book.tables.beat.grantRefresh) → exec .grantLapse s = .next s)

/-- R281, R282, R391: POWER_INTERVAL takes a grant of a new SEQ that waits in slot 32: a lower one at once, a higher one that arrived in
time with the boundary two beats after its arrival; one of no new SEQ it empties from its slot without effect; before self-test it takes
none. (Rests on log 53.) -/
def Obligations.GrantTaken : Prop :=
  (∀ (s : State) (m : PowerSample), s.body.boot.tested = true → (s.body.slot 32).full = true →
    s.body.power.seq < (s.body.slot 32).word.toNat % 2 ^ 32 →
    min 3400 ((s.body.slot 32).word.toNat / 2 ^ 32 % 2 ^ 12) ≤ s.body.power.grant → ∃ t : State, exec (.powerInterval m) s = .next t ∧
      t.body.power.grant = min 3400 ((s.body.slot 32).word.toNat / 2 ^ 32 % 2 ^ 12) ∧ t.body.power.pendingRaise = none ∧
      t.body.power.seq = (s.body.slot 32).word.toNat % 2 ^ 32 ∧ t.body.power.lapsed = false ∧
      t.body.power.grantBeat = s.body.doves.grantBeat ∧ (t.body.slot 32).full = false) ∧
  (∀ (s : State) (m : PowerSample), s.body.boot.tested = true → (s.body.slot 32).full = true →
    s.body.power.seq < (s.body.slot 32).word.toNat % 2 ^ 32 → s.body.hasBeat = true →
    s.body.power.grant < min 3400 ((s.body.slot 32).word.toNat / 2 ^ 32 % 2 ^ 12) →
    s.body.clock.beat < s.body.doves.grantBeat + 2 → ∃ t : State, exec (.powerInterval m) s = .next t ∧
      t.body.power.grant = s.body.power.grant ∧
      t.body.power.pendingRaise = some (min 3400 ((s.body.slot 32).word.toNat / 2 ^ 32 % 2 ^ 12), s.body.doves.grantBeat + 2)) ∧
  (∀ (s : State) (m : PowerSample), s.body.boot.tested = true → (s.body.slot 32).full = true →
    (s.body.slot 32).word.toNat % 2 ^ 32 ≤ s.body.power.seq → ∃ t : State, exec (.powerInterval m) s = .next t ∧
      t.body.power.grant = s.body.power.grant ∧ t.body.power.seq = s.body.power.seq ∧
      t.body.power.grantBeat = s.body.power.grantBeat ∧ (t.body.slot 32).full = false) ∧
  (∀ (s : State) (m : PowerSample), s.body.boot.tested = false → ∃ t : State, exec (.powerInterval m) s = .next t ∧
      t.body.power.grant = s.body.power.grant ∧ t.body.power.seq = s.body.power.seq ∧ t.body.slot 32 = s.body.slot 32)

/-- R284, R286, R225, R226, R399, Table 9.15: a droop marks its half as stretching from the moment it is met, and its release adds the
stretched cycles. A die sensor at STOP_C, unless self-test excluded it, has the pitches and engines of its half that have not stopped stop
at their boundaries, no other, with a contained die-overtemp; once every sensor is back those whose partition runs resume, one that still
flushes when its flush has ended. At TRIP_C the half starts its fatal sequence, and its links are FENCED. A stack's level follows its
temperature by Table 9.15, each change with a Scorebook record; SHUTDOWN takes every channel of the stack out of training with a contained
stack-shutdown, and no later temperature leaves it; the byte cells of memory stay. A FENCED half's stacks hold. (Rests on logs 12, 20, 52.)
-/
def Obligations.DroopAndHeat : Prop :=
  (∀ s : State, exec (.droopDetected 0) s = .next { s with body := { s.body with power := { s.body.power with
    droopWest := true, lastStretch := some s.body.clock.now } } }) ∧
  (∀ s : State, exec (.droopDetected 1) s = .next { s with body := { s.body with power := { s.body.power with
    droopEast := true, lastStretch := some s.body.clock.now } } }) ∧
  (∀ (s : State) (n : Nat), s.body.power.droopWest = true →
    exec (.droopRelease 0 n) s = .next { s with body := { s.body with power := { s.body.power with
      droopWest := false, lastStretch := some s.body.clock.now, stretched := (s.body.power.stretched + n) % 2 ^ 64 } } }) ∧
  (∀ (s : State) (n : Nat), s.body.power.droopEast = true →
    exec (.droopRelease 1 n) s = .next { s with body := { s.body with power := { s.body.power with
      droopEast := false, lastStretch := some s.body.clock.now, stretched := (s.body.power.stretched + n) % 2 ^ 64 } } }) ∧
  (∀ (s : State) (n : Nat), s.body.power.droopWest = false → exec (.droopRelease 0 n) s = .next s) ∧
  (∀ (s : State) (n : Nat), s.body.power.droopEast = false → exec (.droopRelease 1 n) s = .next s) ∧
  (∀ (s : State) (h i : Nat), h < 2 → s.body.sensorOut h i = false → h ∉ s.body.power.hotStopped → ∃ t : State,
    exec (.dieOvertemp h i) s = .next t ∧ t.vault = s.vault ∧ t.pending = s.pending ∧
    (∀ p, p < s.body.pitches.length → (t.body.pitch p).state =
      if p / 2 = h ∧ s.body.fenced h = false ∧ (s.body.pitch p).state ≠ .stopped then .stopping else (s.body.pitch p).state) ∧
    (∀ e, e < s.body.engines.length → (t.body.engine e).state =
      if e / 2 = h ∧ s.body.fenced h = false ∧ (s.body.engine e).state ≠ .stopping then .stopped else (s.body.engine e).state) ∧
    t.body.power = { s.body.power with west := t.body.power.west, east := t.body.power.east, hotStopped := h :: s.body.power.hotStopped } ∧
    (∃ x ∈ if h = 0 then t.body.power.west else t.body.power.east, (s.body.book.tables.power.stopC : Int) ≤ x) ∧
    t.body = ({ s.body with power := t.body.power, pitches := t.body.pitches, engines := t.body.engines } : Body).raise
      tHalf h .contained kDieOvertemp i) ∧
  (∀ (s : State) (h i : Nat), h < 2 → s.body.sensorOut h i = false → h ∈ s.body.power.hotStopped → ∃ t : State,
    exec (.dieOvertemp h i) s = .next t ∧ t = { s with body := { s.body with power := { s.body.power with
      west := t.body.power.west, east := t.body.power.east } } } ∧
    (∃ x ∈ if h = 0 then t.body.power.west else t.body.power.east, (s.body.book.tables.power.stopC : Int) ≤ x)) ∧
  (∀ (s : State) (h i : Nat), h < 2 → s.body.sensorOut h i = true →
    exec (.dieOvertemp h i) s = .next s ∧ exec (.dieOvertrip h i) s = .next s) ∧
  (∀ (s : State) (h : Nat), h < 2 → h ∈ s.body.power.hotStopped → s.body.halfWarm h = false → ∃ t : State,
    exec (.dieOvertempResume h) s = .next t ∧ t.vault = s.vault ∧ t.pending = s.pending ∧
    t.body.power = { s.body.power with hotStopped := s.body.power.hotStopped.filter (· != h) } ∧
    (∀ p, p / 2 = h → s.body.resumable p = true → (s.body.pitch p).state ≠ .stopping →
      (t.body.pitch p).state ≠ .stopped ∧ (t.body.pitch p).state ≠ .stopping) ∧
    (∀ p, p / 2 = h → s.body.resumable p = true → (s.body.pitch p).state = .stopping →
      (t.body.pitch p).state = .stopping ∧ (t.body.pitch p).resume = true) ∧
    (∀ p, p / 2 = h → s.body.resumable p = true → (s.body.engine p).state ≠ .stopping →
      (t.body.engine p).state ≠ .stopped ∧ (t.body.engine p).state ≠ .stopping) ∧
    (∀ p, p / 2 = h → s.body.resumable p = false → (s.body.pitch p).state = .stopped → (t.body.pitch p).state = .stopped) ∧
    t.body = { s.body with power := t.body.power, pitches := t.body.pitches, engines := t.body.engines }) ∧
  (∀ (s : State) (h : Nat), h < 2 → (h ∉ s.body.power.hotStopped ∨ s.body.halfWarm h = true) →
    exec (.dieOvertempResume h) s = .next s) ∧
  (∀ (s : State) (h i : Nat), h < 2 → s.body.sensorOut h i = false → (s.body.half h).fatal = none → s.body.fenced h = false →
    h < s.body.whistle.halves.length → ∃ t : State,
      exec (.dieOvertrip h i) s = .next t ∧ t.vault = s.vault ∧ t.pending = s.pending ∧
      (t.body.half h).fatal = some ⟨s.body.clock.now, faultWord tHalf h .fatal false false kDieOvertrip i, false⟩ ∧
      (∀ l, l < s.body.net.links.length → l / 24 = h → (t.body.link l).state = .fenced) ∧
      t.body = { s.body with power := t.body.power, whistle := t.body.whistle, net := t.body.net } ∧
      t.body.power = { s.body.power with west := t.body.power.west, east := t.body.power.east } ∧
      (∃ x ∈ if h = 0 then t.body.power.west else t.body.power.east, (s.body.book.tables.power.tripC : Int) ≤ x)) ∧
  (∀ (s : State) (k : Nat) (c : Int) (l : ThermalLevel), k < 12 → k < s.body.store.stackCtl.length → s.body.fenced (k / 6) = false →
    (s.body.store.stackCtl.getD k MemCtl.reset).level ≠ .shutdown →
    l = (if (s.body.book.tables.thermal.critC : Int) ≤ c ∨ ((s.body.store.stackCtl.getD k MemCtl.reset).level = .critical ∧
        (s.body.book.tables.thermal.critC : Int) - 3 < c) then .critical
      else if (s.body.book.tables.thermal.hotC : Int) ≤ c ∨ ((s.body.store.stackCtl.getD k MemCtl.reset).level ≠ .normal ∧
        (s.body.book.tables.thermal.hotC : Int) - 3 < c) then .hot else .normal) → ∃ t : State,
      exec (.stackThermalChange k c false) s = .next t ∧ t.vault = s.vault ∧ t.pending = s.pending ∧
      t.body.store.stackCtl = alter k (fun m => { m with temp := c, level := l }) s.body.store.stackCtl ∧
      t.body.store.cells = s.body.store.cells ∧
      t.body.score = (if l = (s.body.store.stackCtl.getD k MemCtl.reset).level then s.body.score
        else (s.body.record recThermal (tStack * 64 + k) 0 [k, l.code]).score) ∧
      t.body = { s.body with store := t.body.store, score := t.body.score }) ∧
  (∀ (s : State) (k : Nat) (c : Int), k < 12 → k < s.body.store.stackCtl.length → s.body.fenced (k / 6) = false →
    (s.body.store.stackCtl.getD k MemCtl.reset).level ≠ .shutdown → s.body.active = [] → s.body.whistle.pages.length = 96 → ∃ t : State,
      exec (.stackThermalChange k c true) s = .next t ∧ t.vault = s.vault ∧ t.pending = s.pending ∧
      t.body.store.stackCtl = alter k (fun m => { m with temp := c, level := .shutdown }) s.body.store.stackCtl ∧
      t.body.store.cells = s.body.store.cells ∧
      (∀ n, 32 * k ≤ n → n < 32 * k + 32 → n < s.body.store.channels.length →
        (t.body.store.channels.getD n Channel.reset).failed = true ∧ (t.body.store.channels.getD n Channel.reset).retraining = false) ∧
      faultWord tStack k .contained false false kStackShutdown 0 ∈ (t.body.page tStack k).unhandled ∧
      t.body = { s.body with store := t.body.store, score := t.body.score, whistle := t.body.whistle, doves := t.body.doves }) ∧
  (∀ (s : State) (k : Nat) (c : Int) (sd : Bool), k < 12 → s.body.fenced (k / 6) = false →
    (s.body.store.stackCtl.getD k MemCtl.reset).level = .shutdown → ∃ t : State,
      exec (.stackThermalChange k c sd) s = .next t ∧ t.body.store.stackCtl =
        alter k (fun m => { m with temp := c, level := .shutdown }) s.body.store.stackCtl ∧
      t = { s with body := { s.body with store := { s.body.store with stackCtl := t.body.store.stackCtl, hotAt := t.body.store.hotAt } } }) ∧
  (∀ (s : State) (k : Nat) (c : Int) (sd : Bool), k < 12 → s.body.fenced (k / 6) = true → exec (.stackThermalChange k c sd) s = .next s)

/-! ## Memories (09) -/

/-- R221 to R223, Table 9.4: an urgent request starts its channel's retrain at once; an attempt that passes ends it and is counted; one
that fails is followed by the next; the last that fails leaves the channel failed; the sixteenth CRC failure within 1 ms asks for an urgent
retrain. No memory content changes. (Rests on logs 2, 48.) -/
def Obligations.Retrains : Prop :=
  (∀ (s : State) (c beat : Nat) (cmd : Bool), c < 384 → s.body.store.retrainQueue = [⟨c, true, beat, cmd⟩] →
    s.body.trainable c = true → (∀ x ∈ s.body.store.channels, x.retraining = false) →
    exec .retrainStart s = .next { s with body := { s.body with store := { s.body.store with
      channels := alter c (fun x => { x with retraining := true, attempts := 1, urgent := true, startedAt := s.body.clock.now })
        s.body.store.channels,
      retrainQueue := [], urgentAt := s.body.clock.now :: s.body.store.urgentAt } } }) ∧
  (∀ (s : State) (c ns : Nat) (r : BallResult), c < 384 → (s.body.store.chan c).retraining = true → s.body.active = [] →
    c / 32 < s.body.store.stackCtl.length → ∃ t : State, exec (.retrainAttemptEnd c true ns r .none) s = .next t ∧
      (t.body.store.chan c).retraining = false ∧ (t.body.store.chan c).trainedAt = s.body.clock.now + ns ∧
      (t.body.store.stackCtl.getD (c / 32) MemCtl.reset).retrains =
        ((s.body.store.stackCtl.getD (c / 32) MemCtl.reset).retrains + 1) % 2 ^ 32 ∧
      (∀ d, d ≠ c → d < 384 → t.body.store.chan d = s.body.store.chan d) ∧ t.body.store.cells = s.body.store.cells ∧
      t.body = { s.body with clock := t.body.clock, store := t.body.store, pitches := t.body.pitches, engines := t.body.engines }) ∧
  (∀ (s : State) (c ns : Nat) (r : BallResult), c < 384 → (s.body.store.chan c).retraining = true →
    (s.body.store.chan c).attempts < s.body.book.tables.memory.retrainAttempts → ∃ t : State,
      exec (.retrainAttemptEnd c false ns r .none) s = .next t ∧
      t.body.store.chan c = { s.body.store.chan c with attempts := (s.body.store.chan c).attempts + 1 } ∧
      t.body.store.cells = s.body.store.cells ∧
      t.body = { s.body with clock := t.body.clock, store := t.body.store, pitches := t.body.pitches, engines := t.body.engines }) ∧
  (∀ (s : State) (c ns : Nat) (r : BallResult), c < 384 → (s.body.store.chan c).retraining = true → s.body.active = [] →
    s.body.book.tables.memory.retrainAttempts ≤ (s.body.store.chan c).attempts → ∃ t : State,
      exec (.retrainAttemptEnd c false ns r .none) s = .next t ∧ (t.body.store.chan c).failed = true ∧
      (t.body.store.chan c).retraining = false ∧ t.body.store.cells = s.body.store.cells ∧ t.body.parts = s.body.parts) ∧
  (∀ (s : State) (c : Nat), c < 384 → c < s.body.store.channels.length →
    ((s.body.store.chan c).crcAt.filter (fun x => decide (s.body.clock.now < x + 1000000))).length < 15 →
    exec (.dataCrcFailure c) s = .next { s with body := { s.body with store := { s.body.store with
      channels := alter c (fun x => { x with
        crcAt := s.body.clock.now :: x.crcAt.filter (fun y => decide (s.body.clock.now < y + 1000000)) }) s.body.store.channels } } }) ∧
  (∀ (s : State) (c : Nat), c < 384 → s.body.trainable c = true → (s.body.store.chan c).retraining = false →
    s.body.store.retrainQueue = [] →
    15 ≤ ((s.body.store.chan c).crcAt.filter (fun x => decide (s.body.clock.now < x + 1000000))).length → ∃ t : State,
      exec (.dataCrcFailure c) s = .next t ∧ t.body.store.retrainQueue = [⟨c, true, s.body.clock.beat, false⟩] ∧
      (t.body.store.chan c).crcAt = [] ∧ t.body.store.cells = s.body.store.cells)

/-- R198 to R201, R344, Table 9.1: a scrub pass of an infield stack that meets 3 to 6 symbols in error in one of its codewords poisons it,
and one that meets none of its codewords poisoned ends POISON_OVF; no byte changes. A codeword that is not poisoned is stored as a word of
the code, with no syndrome at any of the eight roots; one that is poisoned stands as the poison pattern, which no word of the code is.
(Rests on logs 9, 94.) -/
def Obligations.ScrubPass : Prop :=
  (∀ (s : State) (k : Nat) (e : CwError), k < 12 → e.cw * 64 < s.body.store.limit → s.body.sourceAt (e.cw * 64) = .infield k →
    3 ≤ e.symbols → e.symbols ≤ 6 → s.body.store.poisoned e.cw = false → ∃ t : State,
      exec (.scrubPass (.infield k) [e]) s = .next t ∧ t.vault = s.vault ∧ t.pending = s.pending ∧
      e.cw ∈ t.body.store.poison ∧ (∀ c, c ≠ e.cw → (c ∈ t.body.store.poison ↔ c ∈ s.body.store.poison)) ∧
      t.body.store.cells = s.body.store.cells ∧ t.body.parts = s.body.parts) ∧
  (∀ (s : State) (src : MemSource), src.wf = true → (∀ c ∈ s.body.store.poison, s.body.sourceAt (c * 64) ≠ src) →
    exec (.scrubPass src []) s = .next { s with body := { s.body with store := { s.body.store with
      lists := s.body.store.lists.map (fun l => if l.src = src then { l with ovf := false } else l) } } }) ∧
  (∀ (s : State) (src : MemSource) (c : Nat), src.wf = true → c ∈ s.body.store.poison → s.body.sourceAt (c * 64) = src →
    exec (.scrubPass src []) s = .next s) ∧
  (∀ (m : Store) (c : Nat), m.poisoned c = false →
    (∀ j, j < 8 → syndrome j (m.codeword c) = 0) ∧ isPoisonPattern (m.codeword c) = false) ∧
  (∀ (m : Store) (c : Nat), m.poisoned c = true → isPoisonPattern (m.codeword c) = true)

/-- R213 to R216: an ARRIVAL add of an integer replaces the word by the sum modulo 2^32 and leaves every other byte; an ORDERED add waits
in its 2 KiB window and changes no byte until every source has delivered, or is held back while the controller's buffer is full; an ARRIVAL
add marks the step of its partition, and one onto a poisoned codeword fails its operation; a window past ORDER_TIMEOUT is discarded with
its targets unchanged. (Rests on logs 64, 97.) -/
def Obligations.MemoryAdds : Prop :=
  (∀ (s : State) (addr v source part : Nat) (tok : Token), s.body.store.addable addr 4 = true → ∃ t : State,
    exec (.memorySideAdd ⟨addr, .int32, .int32, [v], false, source, 0, true, part, tok, []⟩) s = .next t ∧ t.vault = s.vault ∧ t.pending = s.pending ∧
    t.body.store.word addr 4 = (s.body.store.word addr 4 + v) % 2 ^ 32 ∧
    (∀ a, ¬(addr ≤ a ∧ a < addr + 4) → t.body.store.byte a = s.body.store.byte a) ∧
    (∀ c, c ∈ cwsOf addr 4 → s.body.store.poisoned c = true → t.body.store.poisoned c = true) ∧
    (∀ p, p ≠ part → t.body.part p = s.body.part p) ∧
    (part < s.body.parts.length → (s.body.part part).fix ≠ none →
      (t.body.part part).pass.flags = (s.body.part part).pass.flags ||| 1) ∧
    ((∀ c ∈ cwsOf addr 4, s.body.store.poisoned c = false) → (t.body.part part).flights = (s.body.part part).flights) ∧
    (∀ c ∈ cwsOf addr 4, s.body.store.poisoned c = true → part < s.body.parts.length →
      ∀ fl ∈ (t.body.part part).flights, fl.token = tok → fl.failed ≠ none) ∧
    t.body = { s.body with store := t.body.store, parts := t.body.parts }) ∧
  (∀ (s : State) (a : AddReq), addFormats a.fmt a.inFmt = true → a.ordered = true → a.last = false → 0 < a.expected → s.body.store.addable a.addr (addBytes a) = true →
    s.body.store.heldAdds = [] → s.body.buffered (s.body.sourceAt a.addr) + addBytes a ≤ orderedRoom (s.body.sourceAt a.addr) →
    s.body.store.windows.find? (fun x => decide (x.index = a.addr / granuleBytes)) = none →
    exec (.memorySideAdd a) s = .next { s with body := { s.body with store := { s.body.store with
      windows := s.body.store.windows ++ [⟨a.addr / granuleBytes, a.expected, s.body.clock.beat, [a]⟩] } } }) ∧
  (∀ (s : State) (a : AddReq), addFormats a.fmt a.inFmt = true → a.ordered = true → s.body.store.addable a.addr (addBytes a) = true → s.body.store.heldAdds = [] →
    orderedRoom (s.body.sourceAt a.addr) < s.body.buffered (s.body.sourceAt a.addr) + addBytes a →
    exec (.memorySideAdd a) s = .next { s with body := { s.body with store := { s.body.store with heldAdds := [a] } } }) ∧
  (∀ (s : State) (i : Nat) (w : AddWindow), s.body.store.windows.find? (fun x => decide (x.index = i)) = some w →
    w.firstBeat + s.body.book.tables.memory.orderTimeout ≤ s.body.clock.beat → (∀ p ∈ s.body.parts, p.flights = []) →
    s.body.store.heldAdds = [] → ∃ t : State, exec (.addWindowIncomplete i) s = .next t ∧
      t.body.store.windows = s.body.store.windows.filter (fun x => decide (x.index ≠ i)) ∧
      t.body.store.cells = s.body.store.cells ∧ t.body.parts = s.body.parts)

/-- R205, R206, R228, Table 9.3: a bank goes to ON from RETAIN with its content and from OFF with zeros; to RETAIN and OFF only where Table
9.3 allows, and then once its accesses have ended; an access to a bank of a grant in RETAIN wakes it, one to a bank in OFF is counted; a
bank of a FENCED half keeps its state. (Rests on log 22.) -/
def Obligations.BankStates : Prop :=
  (∀ (s : State) (k : Nat), k < 192 → s.body.fenced (k / 96) = false → (s.body.store.banks.getD k ⟨.unusable, none⟩).state = .retain →
    exec (.bankStateRequest k 2) s = .next { s with body := { s.body with store := { s.body.store with
      banks := alter k (fun x => { x with state := .on, target := none }) s.body.store.banks } } }) ∧
  (∀ (s : State) (k : Nat), k < 192 → s.body.fenced (k / 96) = false → (s.body.store.banks.getD k ⟨.unusable, none⟩).state = .off →
    ∃ t : State, exec (.bankStateRequest k 2) s = .next t ∧ t.vault = s.vault ∧ t.pending = s.pending ∧
    t.body.store.banks = alter k (fun x => { x with state := .on, target := none }) s.body.store.banks ∧
    (∀ a, scratchBase + k * bankBytes ≤ a → a < scratchBase + (k + 1) * bankBytes → t.body.store.cells.get a = 0) ∧
    (∀ a, ¬(scratchBase + k * bankBytes ≤ a ∧ a < scratchBase + (k + 1) * bankBytes) →
      t.body.store.byte a = s.body.store.byte a) ∧
    t.body = { s.body with store := t.body.store }) ∧
  (∀ (s : State) (k : Nat), k < 192 → s.body.fenced (k / 96) = false → (s.body.store.banks.getD k ⟨.unusable, none⟩).state = .on →
    s.body.mayRetain k = true →
    exec (.bankStateRequest k 1) s = .next { s with body := { s.body with store := { s.body.store with
      banks := alter k (fun x => { x with target := some .retain }) s.body.store.banks } } }) ∧
  (∀ (s : State) (k : Nat), k < 192 → s.body.fenced (k / 96) = false → (s.body.store.banks.getD k ⟨.unusable, none⟩).state = .on →
    s.body.bankOwner k = none →
    exec (.bankStateRequest k 0) s = .next { s with body := { s.body with store := { s.body.store with
      banks := alter k (fun x => { x with target := some .off }) s.body.store.banks } } }) ∧
  (∀ (s : State) (k : Nat) (st : BankState), k < 192 → s.body.fenced (k / 96) = false →
    (s.body.store.banks.getD k ⟨.unusable, none⟩).target = some st →
    exec (.bankStateEnter k) s = .next { s with body := { s.body with store := { s.body.store with
      banks := alter k (fun _ => ⟨st, none⟩) s.body.store.banks } } }) ∧
  (∀ (s : State) (k p : Nat), k < 192 → s.body.fenced (k / 96) = false →
    (s.body.store.banks.getD k ⟨.unusable, none⟩).state = .retain → s.body.bankOwner k = some p →
    exec (.bankWake k) s = .next { s with body := { s.body with store := { s.body.store with
      banks := alter k (fun x => { x with state := .on, target := none }) s.body.store.banks,
      spad := alter (k / 96) (fun m => { m with wakes := (m.wakes + 1) % 2 ^ 64 }) s.body.store.spad } } }) ∧
  (∀ (s : State) (k : Nat), k < 192 → s.body.fenced (k / 96) = false → (s.body.store.banks.getD k ⟨.unusable, none⟩).state = .off →
    ∃ t : State, exec (.bankWake k) s = .next t ∧
    t.body.store = { s.body.store with
      spad := alter (k / 96) (fun m => { m with accessBad := (m.accessBad + 1) % 2 ^ 32 }) s.body.store.spad } ∧
    t.body.parts = s.body.parts) ∧
  (∀ (s : State) (k st : Nat), k < 192 → st < 4 → s.body.fenced (k / 96) = true →
    exec (.bankStateRequest k st) s = .next s ∧ exec (.bankStateEnter k) s = .next s) ∧
  (∀ (s : State) (k p : Nat), k < 192 → s.body.fenced (k / 96) = true →
    (s.body.store.banks.getD k ⟨.unusable, none⟩).state = .retain → s.body.bankOwner k = some p →
    exec (.bankWake k) s = .next s)

/-- R226, R369, R402, Table 9.13: an infield or outfield channel that has failed permanently is put up for retirement, its slot in service
until the next beat boundary and no byte changed; a channel that has not failed is left; a half that was fenced by its own fatal fault and
cleared, with a clean self-test, is in service again and its slots wait to come back. (Rests on logs 11, 54, 81.) -/
def Obligations.RetireAndReturn : Prop :=
  (∀ (s : State) (c : Nat), c < 384 → s.body.chanFailed c = true →
    (s.body.store.stackCtl.getD (c / 32) MemCtl.reset).level ≠ .shutdown → s.body.chanSlot c ∉ s.body.store.retired →
    s.body.store.pendingRetire = [] → ∃ t : State,
      exec (.channelRetire c) s = .next t ∧ t.vault = s.vault ∧ t.pending = s.pending ∧
      t.body.store = { s.body.store with pendingRetire := [⟨[s.body.chanSlot c], []⟩] } ∧
      (∀ p, (t.body.part p).fstate = (s.body.part p).fstate ∧ (t.body.part p).grant = (s.body.part p).grant)) ∧
  (∀ (s : State) (c : Nat), 384 ≤ c → c < 392 → s.body.chanFailed c = true →
    (∃ d, d / 4 = c / 4 ∧ s.body.chanFailed d = false) → s.body.chanSlot c ∉ s.body.store.outRetired →
    s.body.store.pendingRetire = [] → ∃ t : State,
      exec (.channelRetire c) s = .next t ∧ t.vault = s.vault ∧ t.pending = s.pending ∧
      t.body.store = { s.body.store with pendingRetire := [⟨[], [s.body.chanSlot c]⟩] } ∧
      (∀ p, (t.body.part p).fstate = (s.body.part p).fstate ∧ (t.body.part p).grant = (s.body.part p).grant)) ∧
  (∀ (s : State) (c : Nat), c < 392 → s.body.chanFailed c = false →
    (c < 384 → (s.body.store.stackCtl.getD (c / 32) MemCtl.reset).level ≠ .shutdown) → exec (.channelRetire c) s = .next s) ∧
  (∀ (s : State) (h : Nat), h < 2 → (s.body.half h).fenced = some .fatal → (s.body.half h).cleared = true →
    s.body.boot.start = .ready → s.body.leadRuns = true → s.body.store.pendingRetire = [] →
    s.body.active = [] → s.body.keepers.cores.length = 8 → s.body.whistle.halves.length = 2 → ∃ t : State,
      exec (.halfReturn h cleanTest) s = .next t ∧ t.vault = s.vault ∧ t.pending = s.pending ∧
      t.body.half h = ⟨none, none, false⟩ ∧ t.body.half (1 - h) = s.body.half (1 - h) ∧
      (∀ k, k < 8 → k / 4 = h → (t.body.keeper k).mode = .on ∧ (t.body.keeper k).failed = false) ∧
      (∀ k, k < s.body.store.banks.length → k / 96 = h → (t.body.store.banks.getD k ⟨.unusable, none⟩).state = .on) ∧
      t.body.boot.start = .ready ∧ t.body.parts = s.body.parts ∧ t.body.store.retired = s.body.store.retired ∧
      (∀ c ∈ t.body.store.returning, c ∈ s.body.store.returning ∨ c ∈ s.body.store.retired))

/-! ## Streams, pitches and engines (02, 03, 05, 08) -/

/-- R65, R68, R71, R195: a stop request puts an idle or running pitch into STOPPING, and a second joins it, calling off a resume that
waited for its end; the flush that ends is counted with its longest duration, whatever blocks it writes out, and the first unwritten block
of each stage recorded, and the pitch is STOPPED, or resumes if it was told to meanwhile; a vector engine stops at once, or after the
closing burst that has begun; a tile that fails starts its pitch's stop, or joins the one under way, with tile-failed. Units of a FENCED
half hold. (Rests on logs 12, 75.) -/
def Obligations.UnitStops : Prop :=
  (∀ (s : State) (i : Nat), i < 4 → s.body.fenced (i / 2) = false →
    (s.body.pitch i).state = .idle ∨ (s.body.pitch i).state = .running →
    exec (.pitchStop i) s = .next { s with body := { s.body with
      pitches := alter i (fun x => { x with state := .stopping, stopAt := s.body.clock.now, resume := false }) s.body.pitches } }) ∧
  (∀ (s : State) (i : Nat), i < 4 → s.body.fenced (i / 2) = false → (s.body.pitch i).state = .stopping →
    exec (.pitchStop i) s = .next { s with body := { s.body with
      pitches := alter i (fun x => { x with resume := false }) s.body.pitches } }) ∧
  (∀ (s : State) (i : Nat), i < 4 → (s.body.pitch i).state = .stopped ∨ s.body.fenced (i / 2) = true →
    exec (.pitchStop i) s = .next s) ∧
  (∀ (s : State) (i : Nat), i < 4 → s.body.fenced (i / 2) = false → (s.body.pitch i).state = .stopping →
    exec (.pitchStopComplete ⟨i, []⟩) s = .next { s with body := Body.refreshUnits { s.body with
      pitches := alter i (fun x => { x with state := if x.resume = true then .idle else .stopped, resume := false,
                                            stops := (x.stops + 1) % 2 ^ 32,
                                            maxNs := max x.maxNs (s.body.clock.now - x.stopAt),
                                            unwritten := s.body.unwrittenOn i }) s.body.pitches } }) ∧
  (∀ (s : State) (i : Nat) (blocks : List (Token × Nat)), i < 4 → i < s.body.pitches.length → s.body.fenced (i / 2) = false →
    (s.body.pitch i).state = .stopping → ∃ t : State, exec (.pitchStopComplete ⟨i, blocks⟩) s = .next t ∧
      t.vault = s.vault ∧ t.pending = s.pending ∧ ((s.body.pitch i).resume = false → (t.body.pitch i).state = .stopped) ∧
      ((s.body.pitch i).resume = true → (t.body.pitch i).state = nextState .idle (s.body.parts.any (fun x => x.busyPitch i))) ∧
      (t.body.pitch i).resume = false ∧
      (t.body.pitch i).stops = ((s.body.pitch i).stops + 1) % 2 ^ 32 ∧
      (t.body.pitch i).maxNs = max (s.body.pitch i).maxNs (s.body.clock.now - (s.body.pitch i).stopAt) ∧
      (t.body.pitch i).unwritten = t.body.unwrittenOn i ∧
      (∀ j, j ≠ i → j < s.body.pitches.length →
        (t.body.pitch j).state = nextState (s.body.pitch j).state (s.body.parts.any (fun x => x.busyPitch j))) ∧
      (∀ p, (t.body.part p).flights.map (·.token) = (s.body.part p).flights.map (·.token) ∧
        (t.body.part p).streams = (s.body.part p).streams ∧ (t.body.part p).board = (s.body.part p).board)) ∧
  (∀ (s : State) (i : Nat) (blocks : List (Token × Nat)), i < 4 → (s.body.pitch i).state ≠ .stopping ∨ s.body.fenced (i / 2) = true →
    exec (.pitchStopComplete ⟨i, blocks⟩) s = .next s) ∧
  (∀ (s : State) (e : Nat) (burst : Bool), e < 4 → s.body.fenced (e / 2) = false →
    (s.body.engine e).state = .idle ∨ (s.body.engine e).state = .running → (burst = true → s.body.vectorFlight e = none) →
    exec (.vectorStop ⟨e, burst⟩) s = .next { s with body := { s.body with
      engines := alter e (fun x => { x with state := .stopped, stopAt := s.body.clock.now, resume := false }) s.body.engines } }) ∧
  (∀ (s : State) (e : Nat), e < 4 → s.body.fenced (e / 2) = false →
    (s.body.engine e).state = .idle ∨ (s.body.engine e).state = .running → s.body.vectorFlight e ≠ none →
    exec (.vectorStop ⟨e, true⟩) s = .next { s with body := { s.body with
      engines := alter e (fun x => { x with state := .stopping, stopAt := s.body.clock.now, resume := false }) s.body.engines } }) ∧
  (∀ (s : State) (e : Nat) (burst : Bool), e < 4 → s.body.fenced (e / 2) = false → (s.body.engine e).state = .stopping →
    exec (.vectorStop ⟨e, burst⟩) s = .next { s with body := { s.body with
      engines := alter e (fun x => { x with resume := false }) s.body.engines } }) ∧
  (∀ (s : State) (e : Nat) (burst : Bool), e < 4 → (s.body.engine e).state = .stopped ∨ s.body.fenced (e / 2) = true →
    exec (.vectorStop ⟨e, burst⟩) s = .next s) ∧
  (∀ (s : State) (i row col : Nat), i < 4 → row < 33 → col < 32 → s.body.fenced (i / 2) = false →
    (s.body.pitch i).lost (row, col) = false → (s.body.pitch i).dead = false →
    (s.body.pitch i).state = .idle ∨ (s.body.pitch i).state = .running →
    exec (.tileFailed i row col) s = .next { s with
      body := (s.body.alterPitch i (fun x => { x with
        state := .stopping, stopAt := s.body.clock.now, resume := false, unrepaired := x.unrepaired ++ [(row, col)] })).raise
          tPitch i .contained kTileFailed (row + col * 256) }) ∧
  (∀ (s : State) (i row col : Nat), i < 4 → row < 33 → col < 32 → s.body.fenced (i / 2) = false →
    (s.body.pitch i).lost (row, col) = false → (s.body.pitch i).dead = false → (s.body.pitch i).state = .stopping →
    exec (.tileFailed i row col) s = .next { s with
      body := (s.body.alterPitch i (fun x => { x with resume := false, unrepaired := x.unrepaired ++ [(row, col)] })).raise
        tPitch i .contained kTileFailed (row + col * 256) }) ∧
  (∀ (s : State) (i row col : Nat), i < 4 → row < 33 → col < 32 → s.body.fenced (i / 2) = false →
    (s.body.pitch i).lost (row, col) = false → (s.body.pitch i).dead = false → (s.body.pitch i).state = .stopped →
    exec (.tileFailed i row col) s = .next { s with
      body := (s.body.alterPitch i (fun x => { x with unrepaired := x.unrepaired ++ [(row, col)] })).raise
        tPitch i .contained kTileFailed (row + col * 256) })

/-- R22 to R24, R27, R29, R96, R97, R107, R108, R437: in an issue pass of its half a RUNNING partition's next operation whose waits are
complete, with room in its window, its quota and the module's 768, goes into flight under the next sequence number of its stream, failed
already where a token it waited on failed; a forward operation takes its bench entry in the first tier with room, and holds where none has;
with no room the stream holds; with a wait outstanding that R26 bounds its time starts, whatever room the module has; with the ISSUE keeper
not running nothing issues. No other partition and no memory changes. (Rests on logs 2, 19, 60.) -/
def Obligations.IssuePass : Prop :=
  (∀ (s : State) (h p i : Nat) (op : StreamOp) (errs : List CwError), IssueFront s.body h p i op → (s.body.part p).hasRoom i = true →
    s.body.moduleRoom = true → (s.body.part p).ready i op = true → s.body.recordHold p i = false → s.body.unitsRun p op = true →
    collectiveOf op = none → (s.body.part p).copyWait op = false → (s.body.part p).benchWrite i op = none → ∃ (t : State) (fl : Flight),
      exec (.issuePass ⟨h, errs⟩) s = .next t ∧ t.vault = s.vault ∧ t.pending = s.pending ∧
      (t.body.part p).flights = (s.body.part p).flights ++ [fl] ∧ fl.stream = i ∧
      fl.idx = ((s.body.part p).streams.getD i Stream.reset).pos ∧
      fl.token = mkToken i ((((s.body.part p).streams.getD i Stream.reset).count + 1) % 2 ^ 30) ∧
      fl.failed = op.waits.findSome? (s.body.part p).tokenFailed ∧
      (t.body.part p).streams.getD i Stream.reset = ⟨((s.body.part p).streams.getD i Stream.reset).pos + 1,
        (((s.body.part p).streams.getD i Stream.reset).count + 1) % 2 ^ 30, none⟩ ∧
      (∀ q, q ≠ p → t.body.part q = s.body.part q) ∧ t.body.store = s.body.store ∧ t.body.net = s.body.net) ∧
  (∀ (s : State) (h p tier : Nat) (gs : List Nat) (op : StreamOp) (w : BenchWrite) (errs : List CwError),
    IssueFront s.body h p 0 op → (s.body.part p).hasRoom 0 = true → s.body.moduleRoom = true → (s.body.part p).ready 0 op = true →
    s.body.recordHold p 0 = false → s.body.unitsRun p op = true → collectiveOf op = none → (s.body.part p).copyWait op = false →
    (s.body.part p).benchWrite 0 op = some w → op.waits.findSome? (s.body.part p).tokenFailed = none →
    (s.body.part p).benchTier (((s.body.part p).entryBytes w + 64 + 65535) / 65536) = some (tier, gs) → ∃ (t : State) (fl : Flight),
      exec (.issuePass ⟨h, errs⟩) s = .next t ∧ t.vault = s.vault ∧ t.pending = s.pending ∧
      (t.body.part p).flights = (s.body.part p).flights ++ [fl] ∧ fl.stream = 0 ∧ fl.failed = none ∧
      (t.body.part p).pass.bench = (s.body.part p).pass.bench ++ [⟨w.block, w.mb, tier, gs, (s.body.part p).entryBytes w, []⟩] ∧
      (∀ q, q ≠ p → t.body.part q = s.body.part q) ∧ t.body.store = s.body.store ∧ t.body.net = s.body.net) ∧
  (∀ (s : State) (h p : Nat) (op : StreamOp) (w : BenchWrite) (errs : List CwError),
    IssueFront s.body h p 0 op → (s.body.part p).hasRoom 0 = true → s.body.moduleRoom = true → (s.body.part p).ready 0 op = true →
    s.body.recordHold p 0 = false → s.body.unitsRun p op = true → (s.body.part p).copyWait op = false → collectiveOf op = none →
    (s.body.part p).benchWrite 0 op = some w → op.waits.findSome? (s.body.part p).tokenFailed = none →
    (s.body.part p).benchTier (((s.body.part p).entryBytes w + 64 + 65535) / 65536) = none → ∃ t : State,
      exec (.issuePass ⟨h, errs⟩) s = .next t ∧ (t.body.part p).flights = (s.body.part p).flights ∧
      (t.body.part p).pass.bench = (s.body.part p).pass.bench ∧
      (t.body.part p).pass.benchHold = (if (s.body.part p).freeing = true then none
        else some ((s.body.part p).pass.benchHold.getD (s.body.clock.beat, w.mb))) ∧
      t.body = { s.body with parts := t.body.parts }) ∧
  (∀ (s : State) (h p i : Nat) (op : StreamOp) (errs : List CwError), IssueFront s.body h p i op →
    (s.body.part p).hasRoom i = false → ∃ t : State,
      exec (.issuePass ⟨h, errs⟩) s = .next t ∧ (t.body.part p).flights = (s.body.part p).flights ∧
      (t.body.part p).streams.getD i Stream.reset = (s.body.part p).streams.getD i Stream.reset ∧
      t.body = { s.body with parts := t.body.parts }) ∧
  (∀ (s : State) (h p i : Nat) (op : StreamOp) (errs : List CwError), IssueFront s.body h p i op →
    (s.body.part p).hasRoom i = true → (s.body.part p).ready i op = true →
    s.body.moduleRoom = false ∨ s.body.recordHold p i = true ∨ s.body.unitsRun p op = false ∨ (s.body.part p).copyWait op = true → ∃ t : State,
      exec (.issuePass ⟨h, errs⟩) s = .next t ∧ (t.body.part p).flights = (s.body.part p).flights ∧
      (t.body.part p).streams.getD i Stream.reset = { (s.body.part p).streams.getD i Stream.reset with waitSince := none } ∧
      t.body = { s.body with parts := t.body.parts }) ∧
  (∀ (s : State) (h p i : Nat) (op : StreamOp) (errs : List CwError), IssueFront s.body h p i op → (s.body.part p).hasRoom i = true →
    (s.body.part p).ready i op = false → s.body.boundedWait p i op = true → ∃ t : State,
      exec (.issuePass ⟨h, errs⟩) s = .next t ∧ (t.body.part p).flights = (s.body.part p).flights ∧
      (t.body.part p).streams.getD i Stream.reset = { (s.body.part p).streams.getD i Stream.reset with
        waitSince := some (((s.body.part p).streams.getD i Stream.reset).waitSince.getD s.body.clock.beat) } ∧
      t.body = { s.body with parts := t.body.parts }) ∧
  (∀ (s : State) (h : Nat) (errs : List CwError), h < 2 → s.body.roleRuns (4 * h + 1) = false → exec (.issuePass ⟨h, errs⟩) s = .next s)

/-- R188, R195, R200: the closing burst of a vector sub-operation: a cleared accumulator reads zero afterwards and the others keep their
values, one beyond the resident accumulators is parked in the first free image of the stage's parking room and counted; an FP32 addition
leaves its sums at its destination; one that meets poison commits nothing, its operation has failed and what the operation would have
written is poisoned. (Rests on logs 63, 66.) -/
def Obligations.SubOperationCommits : Prop :=
  (∀ (s : State) (e p n : Nat) (fl : Flight) (op : StreamOp) (st : Stage) (hits : List Nat) (errs : List CwError), e < 4 →
    e < s.body.engines.length →
    s.body.vectorFlight e = some (p, fl, op, [.xsumClear n]) → s.body.unitsRun p op = true → (s.body.part p).stage? op = some st →
    (s.body.engine e).parked = [] → (s.body.engine e).accs.length < residentAccs → ∃ t : State,
      exec (.subOperationCommit ⟨e, hits, errs⟩) s = .next t ∧
      t.vault = s.vault ∧ t.pending = s.pending ∧ t.body.accOf p e n = Arith.XSum.zero ∧
      (∀ m, m ≠ n → t.body.accOf p e m = s.body.accOf p e m) ∧
      (t.body.part p).flights = (s.body.part p).flights.map (fun x =>
        if x.token = fl.token then { x with done := x.done + 1 } else x) ∧
      (∀ q, q ≠ p → t.body.part q = s.body.part q) ∧ t.body.store = s.body.store) ∧
  (∀ (s : State) (e p n : Nat) (fl : Flight) (op : StreamOp) (st : Stage), e < 4 → e < s.body.engines.length →
    s.body.vectorFlight e = some (p, fl, op, [.xsumClear n]) → s.body.unitsRun p op = true → (s.body.part p).stage? op = some st →
    (s.body.engine e).parked = [] → (s.body.engine e).accs.length = residentAccs → (s.body.engine e).resident n = false →
    s.body.placeOn p st.parkAt 40 = true → (s.body.accessFault p [] ((s.body.part p).planPlaces [(st.parkAt, 40)])).isNone = true → ∃ t : State,
      exec (.subOperationCommit ⟨e, [], []⟩) s = .next t ∧ (t.body.engine e).accs = (s.body.engine e).accs ∧
      (t.body.engine e).parked = [⟨n, st.parkAt⟩] ∧ (t.body.engine e).parks = ((s.body.engine e).parks + 1) % 2 ^ 32 ∧
      t.body.store = s.body.store.writeRuns ((s.body.part p).spans st.parkAt 40) (Arith.XSum.zero.image.map (BitVec.ofNat 8))) ∧
  (∀ (s : State) (e p n : Nat) (d a c : Loc) (fl : Flight) (op : StreamOp), e < 4 →
    s.body.vectorFlight e = some (p, fl, op, [.op2 .add .fp32 d a c n]) → s.body.unitsRun p op = true →
    ((s.body.part p).stage? op).isSome = true → (∀ l ∈ [d, a, c], l.space = .infield ∨ l.space = .outfield) →
    s.body.unmappedAt p [(a, bytesFor .fp32 n), (c, bytesFor .fp32 n), (d, bytesFor .fp32 n)] = none →
    s.body.poisonAt p a (bytesFor .fp32 n) = false → s.body.poisonAt p c (bytesFor .fp32 n) = false → ∃ t : State,
      exec (.subOperationCommit ⟨e, [], []⟩) s = .next t ∧
      t.body.store = (s.body.putCodes p d .fp32
        (List.zipWith (Arith.fadd .fp32) (s.body.codes p a .fp32 n) (s.body.codes p c .fp32 n))).store ∧
      (t.body.part p).flights = (s.body.part p).flights.map (fun x =>
        if x.token = fl.token then { x with done := x.done + 1 } else x) ∧
      t.body = { s.body with parts := t.body.parts, store := t.body.store }) ∧
  (∀ (s : State) (e p n acc : Nat) (a : Loc) (fl : Flight) (op : StreamOp) (f : FixtureImage) (st : Stage) (hits : List Nat), e < 4 →
    s.body.vectorFlight e = some (p, fl, op, [.xsumAdd acc .fp32 a n]) → s.body.unitsRun p op = true →
    (s.body.part p).fix = some f → (s.body.part p).stage? op = some st → a.space = .infield ∨ a.space = .outfield →
    (s.body.engine e).parked = [] → (s.body.engine e).accs.length < residentAccs →
    s.body.unmappedAt p [(a, bytesFor .fp32 n)] = none →
    s.body.poisonAt p a (bytesFor .fp32 n) = true → ∃ t : State,
      exec (.subOperationCommit ⟨e, hits, []⟩) s = .next t ∧ t.body.engines = s.body.engines ∧
      (t.body.part p).flights = (s.body.part p).flights.map (fun x =>
        if x.token = fl.token then { x with failed := some kMemUncorrectable } else x) ∧
      t.body.store = (s.body.failPoisoned p (s.body.opWrites p f st op) kMemUncorrectable).body.store ∧
      t.body.store.cells = s.body.store.cells)

/-- R23, R24, R29, R98, R113, R437: an operation that completes sets its token's bit, leaves its window and quota, and frees its bench
entry; one that had failed carries out nothing; a copy leaves the source's bytes at its destination and every other byte as it was. A token
that is not in flight completes nothing, nor does an addition to a bucket that a lower micro-batch of the same step and tensor comes
before. (Rests on log 63.) -/
def Obligations.OperationCompletes : Prop :=
  (∀ (s : State) (p k : Nat) (fl : Flight) (op : StreamOp) (errs : List CwError) (hits : List Nat), p < 4 → p < s.body.parts.length →
    (s.body.part p).flights.find? (fun f => f.token == fl.token) = some fl → (s.body.part p).op? fl = some op →
    fl.failed = some k → s.body.unitsRun p op = true → (s.body.part p).addsBefore op = false → ∃ t : State,
      exec (.operationComplete p fl.token ⟨errs, hits⟩) s = .next t ∧ t.vault = s.vault ∧ t.pending = s.pending ∧
      (t.body.part p).bit? fl.token = some ⟨fl.token, some k⟩ ∧
      (∀ d, d.token ≠ fl.token → (d ∈ (t.body.part p).board ↔ d ∈ (s.body.part p).board)) ∧
      (t.body.part p).flights = (s.body.part p).flights.filter (fun f => f.token != fl.token) ∧
      (∀ block mb, op.frees = some (block, mb) → ∀ e ∈ (t.body.part p).pass.bench, ¬(e.block = block ∧ e.mb = mb)) ∧
      (∀ q, q ≠ p → t.body.part q = s.body.part q) ∧ t.body.store = s.body.store) ∧
  (∀ (s : State) (p n a d block mb : Nat) (src dst : Loc) (fl : Flight) (op : StreamOp), p < 4 → p < s.body.parts.length →
    (s.body.part p).flights.find? (fun f => f.token == fl.token) = some fl → (s.body.part p).op? fl = some op →
    fl.failed = none → s.body.unitsRun p op = true → op.payload = .dma src dst n → op.bench = none →
    op.frees = some (block, mb) → ((s.body.part p).stage? op).isSome = true → (∀ l ∈ [src, dst], l.space = .infield ∨ l.space = .outfield) →
    (s.body.part p).spans src n = [(a, n)] → (s.body.part p).spans dst n = [(d, n)] →
    s.body.unmappedAt p [(src, n), (dst, n)] = none → s.body.poisonAt p src n = false → ∃ t : State,
      exec (.operationComplete p fl.token ⟨[], []⟩) s = .next t ∧ t.vault = s.vault ∧ t.pending = s.pending ∧
      (∀ i, i < n → t.body.store.byte (d + i) = s.body.store.byte (a + i)) ∧
      (∀ x, ¬(d ≤ x ∧ x < d + n) → t.body.store.byte x = s.body.store.byte x) ∧
      (t.body.part p).bit? fl.token = some ⟨fl.token, none⟩ ∧
      (t.body.part p).flights = (s.body.part p).flights.filter (fun f => f.token != fl.token) ∧
      (∀ e ∈ (t.body.part p).pass.bench, ¬(e.block = block ∧ e.mb = mb)) ∧
      (∀ q, q ≠ p → t.body.part q = s.body.part q)) ∧
  (∀ (s : State) (p : Nat) (tok : Token) (errs : List CwError) (hits : List Nat), p < 4 →
    (∀ f ∈ (s.body.part p).flights, f.token ≠ tok) → exec (.operationComplete p tok ⟨errs, hits⟩) s = .next s) ∧
  (∀ (s : State) (p : Nat) (fl : Flight) (op : StreamOp) (errs : List CwError) (hits : List Nat), p < 4 →
    (s.body.part p).flights.find? (fun f => f.token == fl.token) = some fl → (s.body.part p).op? fl = some op →
    (s.body.part p).addsBefore op = true → exec (.operationComplete p fl.token ⟨errs, hits⟩) s = .next s)

/-- R26, R108: a stream that has waited longer than STREAM_WAIT_LIMIT beats on what it still waits for raises stream-wait-expired, and a
deadlocked hold that has lasted BENCH_TIMER raises bench-exhausted; before that nothing happens. (Rests on logs 47, 62.) -/
def Obligations.WaitLimits : Prop :=
  (∀ (s : State) (p i b0 : Nat), p < 4 → i < 3 → ((s.body.part p).streams.getD i Stream.reset).waitSince = some b0 →
    b0 + s.body.book.tables.streamWait < s.body.clock.beat → ((s.body.part p).next? i).any (s.body.boundedWait p i) = true →
    exec (.streamWaitExpired p i) s = .next { s with
      body := (s.body.alterPart p (fun x => { x with streams := alter i (fun y => { y with waitSince := none }) x.streams })).raise
        tPartition p .contained kStreamWait i }) ∧
  (∀ (s : State) (p i b0 : Nat), p < 4 → i < 3 → ((s.body.part p).streams.getD i Stream.reset).waitSince = some b0 →
    s.body.clock.beat ≤ b0 + s.body.book.tables.streamWait ∨ ((s.body.part p).next? i).any (s.body.boundedWait p i) = false →
    exec (.streamWaitExpired p i) s = .next s) ∧
  (∀ (s : State) (p b0 mb : Nat), p < 4 → (s.body.part p).pass.benchHold = some (b0, mb) → (s.body.part p).fstate = .running →
    b0 + s.body.book.tables.bench.timer ≤ s.body.clock.beat →
    exec (.benchExhausted p) s = .next { s with
      body := (s.body.alterPart p (fun x => { x with pass := { x.pass with benchHold := none } })).raise
        tPartition p .contained kBenchExhausted mb }) ∧
  (∀ (s : State) (p b0 mb : Nat), p < 4 → (s.body.part p).pass.benchHold = some (b0, mb) →
    s.body.clock.beat < b0 + s.body.book.tables.bench.timer → exec (.benchExhausted p) s = .next s)

/-- R116, R118, R120, R123: the verdict of a step whose reduced statuses are all there: the step counter goes on by one modulo 2^48, the
loss-scale state advances as R118 says, and the STEP record is written, its TAG a free value and its FLAGS those of the step with what the
conversion of its loss sums met; a NONFINITE verdict withholds the step's remaining updates, copies every journal entry back and clears the
step's buckets, and at SKIP_LIMIT the streams stop; without them there is no verdict. (Rests on logs 9, 59, 60, 84, 119.) -/
def Obligations.StepVerdict : Prop :=
  (∀ (s : State) (p : Nat), VerdictReady s.body p → (s.body.part p).pass.verdictWord % 2 = 0 → ∃ t : State,
    exec (.stepVerdict p) s = .next t ∧ t.vault = s.vault ∧ t.pending = s.pending ∧
    (t.body.part p).pass.step = ((s.body.part p).pass.step + 1) % 2 ^ 48 ∧
    (t.body.part p).pass.verdict = (s.body.part p).pass.verdictWord ∧ (t.body.part p).pass.skips = 0 ∧
    (t.body.part p).pass.scaleExp =
      (if s.body.book.tables.loss.scaleMax < (s.body.part p).pass.scaleExp then s.body.book.tables.loss.scaleMax
       else if s.body.book.tables.loss.growth ≤ min ((s.body.part p).pass.clean + 1) (2 ^ 32 - 1) ∧
          (s.body.part p).pass.scaleExp < s.body.book.tables.loss.scaleMax then (s.body.part p).pass.scaleExp + 1
       else (s.body.part p).pass.scaleExp) ∧
    (t.body.part p).pass.clean =
      (if s.body.book.tables.loss.scaleMax < (s.body.part p).pass.scaleExp ∨
          (s.body.book.tables.loss.growth ≤ min ((s.body.part p).pass.clean + 1) (2 ^ 32 - 1) ∧
            (s.body.part p).pass.scaleExp < s.body.book.tables.loss.scaleMax) then 0
       else min ((s.body.part p).pass.clean + 1) (2 ^ 32 - 1)) ∧
    (t.body.part p).pass.history = ((s.body.part p).pass.history * 4 +
      (if (s.body.part p).pass.scaleExp ≤ s.body.book.tables.loss.scaleMax ∧
          s.body.book.tables.loss.growth ≤ min ((s.body.part p).pass.clean + 1) (2 ^ 32 - 1) ∧
          (s.body.part p).pass.scaleExp < s.body.book.tables.loss.scaleMax then 1 else 0)) % 2 ^ 32 ∧
    (t.body.part p).pass.skippedCount = (s.body.part p).pass.skippedCount ∧ (t.body.part p).fstate = .running ∧
    (t.body.part p).flights = (s.body.part p).flights ∧ (t.body.part p).streams = (s.body.part p).streams ∧
    (t.body.ring p).written = (s.body.ring p).written ++ [⟨(Config.verdictToken p (s.body.part p).pass.step).toNat, 0x00, stOk,
      (s.body.ring p).phase, kindStep, 0,
      .step (s.body.part p).pass.step (s.body.part p).pass.verdictWord (Arith.stepLoss ((s.body.part p).pass.losses.map (·.2)))
        ((s.body.convertLosses p).part p).pass.flags⟩] ∧
    (∀ q, q ≠ p → t.body.part q = s.body.part q) ∧
    ((∀ i ∈ (s.body.part p).snap.images, i.takesSeal (s.body.part p).pass.step = false) → t.body.store = s.body.store)) ∧
  (∀ (s : State) (p : Nat), VerdictReady s.body p → (s.body.part p).pass.verdictWord % 2 = 1 → (s.body.part p).flights = [] →
    ∃ t : State, exec (.stepVerdict p) s = .next t ∧ t.vault = s.vault ∧ t.pending = s.pending ∧
    (t.body.part p).upd.journal = [] ∧
    ((s.body.part p).fix.isSome = true →
      (t.body.part p).upd.rolledBack % 2 ^ 32 = ((s.body.part p).upd.rolledBack + (s.body.part p).upd.journal.length) % 2 ^ 32) ∧
    ((∃ o ∈ ((s.body.part p).image 2).drop ((s.body.part p).streams.getD 2 Stream.reset).pos,
        (s.body.part p).stepOf o = (s.body.part p).pass.step) → (s.body.part p).pass.step ∈ (t.body.part p).upd.withheld) ∧
    ((∀ i ∈ (s.body.part p).snap.images, i.takesSeal (s.body.part p).pass.step = false) →
      t.body.store = ((s.body.rollback p).clearBuckets p (s.body.part p).pass.step).store) ∧
    (t.body.part p).pass.step = ((s.body.part p).pass.step + 1) % 2 ^ 48 ∧
    (t.body.part p).pass.scaleExp = max ((s.body.part p).pass.scaleExp - 1) s.body.book.tables.loss.scaleMin ∧
    (t.body.part p).pass.clean = 0 ∧ (t.body.part p).pass.skips = (s.body.part p).pass.skips + 1 ∧
    (t.body.part p).pass.history = ((s.body.part p).pass.history * 4 + 2) % 2 ^ 32 ∧
    (t.body.part p).pass.skippedCount = ((s.body.part p).pass.skippedCount + 1) % 2 ^ 32 ∧
    (t.body.part p).pass.verdict = (s.body.part p).pass.verdictWord ∧
    (t.body.part p).fstate = (if s.body.book.tables.loss.skipLimit ≤ (s.body.part p).pass.skips + 1 then .stopped else .running) ∧
    (∀ q, q ≠ p → t.body.part q = s.body.part q)) ∧
  (∀ (s : State) (p : Nat), p < 4 → (s.body.part p).verdictReady = false → exec (.stepVerdict p) s = .next s)

/-- R351, R355, R356, R361: a snapshot whose layers have all been copied, behind which none waits, completes: it is counted, its image is
the newest, its bytes stand in the slot and the host memory that it goes to and no other memory changes, and the command that asked for it
gets its record, whose cost field is a free value while the step is under way in which the copies ran and 0 where no step runs; one with a
copy outstanding does not complete. (Rests on logs 31, 65, 78, 130.) -/
def Obligations.SnapshotCompletes : Prop :=
  (∀ (s : State) (p : Nat) (r : SnapRun) (f : FixtureImage), p < 4 → p < s.body.parts.length → (s.body.part p).snap.run = some r →
    (s.body.part p).fix = some f → r.layersDue = [] → r.command = false → (s.body.part p).snap.waiting = none → ∃ t : State,
      exec (.snapshotComplete p) s = .next t ∧ t.vault = s.vault ∧ t.pending = s.pending ∧
      (t.body.part p).snap.run = none ∧ (t.body.part p).snap.images.head? = some r.image ∧
      (t.body.part p).snap.snapshots = ((s.body.part p).snap.snapshots + 1) % 2 ^ 32 ∧
      (t.body.part p).pass = (s.body.part p).pass ∧ (t.body.part p).streams = (s.body.part p).streams ∧
      (∀ q, q ≠ p → t.body.part q = s.body.part q) ∧
      t.body.store = (if r.image.dest.testBit 0 then s.body.store.writeBytes r.image.ownAt (r.image.copyBytes f 0) else s.body.store) ∧
      t.body.host = (if r.image.dest.testBit 2
        then { s.body.host with snapOut := (r.image.hostAddr, r.image.copyBytes f 2) :: s.body.host.snapOut } else s.body.host) ∧
      (t.body.part p).snap.costDue = (if (s.body.part p).runsSteps = true then some (r.started, r.meanNs) else none) ∧
      (t.body.part p).snap.costMs = (if (s.body.part p).runsSteps = true then (s.body.part p).snap.costMs else some 0) ∧
      t.body = { s.body with parts := t.body.parts, store := t.body.store, host := t.body.host, free := s.body.free + 1 }) ∧
  (∀ (s : State) (p : Nat) (r : SnapRun) (f : FixtureImage) (a : Active), p < 4 → p < s.body.parts.length →
    (s.body.part p).snap.run = some r → (s.body.part p).fix = some f → r.layersDue = [] → r.command = true →
    (s.body.part p).snap.waiting = none → s.body.active = [a] → a.key = p → a.running = true → a.cmd.opcode = 0x28 →
    a.ring < s.body.rings.length → (s.body.ring a.ring).held = [] → (s.body.ring a.ring).hasRoom s.body.host.pcieUp = true → ∃ t : State,
      exec (.snapshotComplete p) s = .next t ∧ t.vault = s.vault ∧ t.pending = s.pending ∧ t.body.active = [] ∧
      (t.body.part p).snap.run = none ∧ (t.body.part p).snap.images.head? = some r.image ∧
      (t.body.part p).snap.snapshots = ((s.body.part p).snap.snapshots + 1) % 2 ^ 32 ∧
      (∀ q, q ≠ p → t.body.part q = s.body.part q) ∧
      (t.body.ring a.ring).written = (s.body.ring a.ring).written ++ [⟨a.tag, 0x28, stOk, (s.body.ring a.ring).phase, kindCommand, 0,
        .snapshot r.image.step (r.image.lengths.foldl (· + ·) 0)
          (if (s.body.part p).runsSteps = true then Config.snapCost s.body.free else 0) r.image.slot⟩] ∧
      (∀ i, i ≠ a.ring → t.body.ring i = s.body.ring i) ∧
      t.body.store = (if r.image.dest.testBit 0 then s.body.store.writeBytes r.image.ownAt (r.image.copyBytes f 0) else s.body.store) ∧
      t.body = { s.body with parts := t.body.parts, store := t.body.store, host := t.body.host, rings := t.body.rings, free := s.body.free + 1,
                             doves := t.body.doves, active := t.body.active }) ∧
  (∀ (s : State) (p : Nat) (r : SnapRun), p < 4 → (s.body.part p).snap.run = some r → r.layersDue ≠ [] →
    exec (.snapshotComplete p) s = .next s) ∧
  (∀ (s : State) (p : Nat), p < 4 → (s.body.part p).snap.run = none → exec (.snapshotComplete p) s = .next s)

/-! ## Links (10, 19) -/

/-- Table 10.6, R427: a DOWN link of an enabled port in service retries training after its interval; training that leaves enough lanes goes
on to AUTH, otherwise back to DOWN, as after 200 ms; loss of lock is DOWN at once; an inserted cage's links train, or leave DISABLED for
DOWN; a removed cage's go DOWN. No other link changes its state. (Rests on logs 2, 21, 102.) -/
def Obligations.LinkTraining : Prop :=
  (∀ (s : State) (l : Nat), l < 48 → l < s.body.net.links.length → (s.body.link l).state = .down → s.body.mayTrain l = true →
    ∃ t : State, exec (.trainRetry l) s = .next t ∧ t.vault = s.vault ∧ t.pending = s.pending ∧
      t.body.clock = { s.body.clock with
        now := max s.body.clock.now ((s.body.link l).since + s.body.book.tables.link.trainRetryNs) } ∧
      t.body.link l = { s.body.link l with state := .train, since := t.body.clock.now } ∧
      (∀ k, k ≠ l → t.body.link k = s.body.link k) ∧
      t.body = { s.body with clock := t.body.clock, net := t.body.net, pitches := t.body.pitches, engines := t.body.engines }) ∧
  (∀ (s : State) (l m rtt : Nat), l < 48 → m < 16 → (s.body.link l).state = .train → ∃ t : State,
    exec (.trainComplete l m rtt) s = .next t ∧
    (s.body.book.tables.link.minWidth ≤ ((maskLanes m).filter (fun x => !(s.body.link l).badLanes.contains x)).length →
      t.body.link l = { s.body.link l with
        state := .auth, since := s.body.clock.now, rtt := rtt % 2 ^ 32, tx := ((s.body.link l).tx + 3) % 2 ^ 64,
        lanes := (maskLanes m).filter (fun x => !(s.body.link l).badLanes.contains x) }) ∧
    (((maskLanes m).filter (fun x => !(s.body.link l).badLanes.contains x)).length < s.body.book.tables.link.minWidth →
      t.body.link l = { s.body.link l with state := .down, since := s.body.clock.now }) ∧
    (∀ k, k ≠ l → t.body.link k = s.body.link k) ∧ t.body = { s.body with net := t.body.net }) ∧
  (∀ (s : State) (l : Nat), l < 48 → (s.body.link l).state = .train → ∃ t : State, exec (.trainTimeout l) s = .next t ∧
    t.body.clock = { s.body.clock with now := max s.body.clock.now ((s.body.link l).since + 200000000) } ∧
    t.body.link l = { s.body.link l with state := .down, since := t.body.clock.now } ∧
    (∀ k, k ≠ l → t.body.link k = s.body.link k) ∧
    t.body = { s.body with clock := t.body.clock, net := t.body.net, pitches := t.body.pitches, engines := t.body.engines }) ∧
  (∀ (s : State) (l : Nat), l < 48 → (s.body.link l).state ∈ [LinkState.up, .resize, .auth, .train] → ∃ t : State,
    exec (.lockLoss l) s = .next t ∧ t.vault = s.vault ∧ t.pending = s.pending ∧ (t.body.link l).state = .down ∧
    (t.body.link l).lanes = [] ∧ (t.body.link l).since = s.body.clock.now ∧
    (∀ k, k ≠ l → (t.body.link k).state = (s.body.link k).state) ∧ t.body.clock = s.body.clock) ∧
  (∀ (s : State) (c l : Nat), c < 8 → l ∈ cageLinks c → s.body.net.links.length = 48 → s.body.boot.start = .ready →
    s.body.book.tables.link.enable.getD l false = true → (s.body.link l).fitted = false → (s.body.link l).state = .down →
    ∃ t : State, exec (.pluggableInsert c) s = .next t ∧
      t.body.link l = { s.body.link l with fitted := true, state := .train, since := s.body.clock.now } ∧
      (∀ k, k ∉ cageLinks c → t.body.link k = s.body.link k) ∧ t.body = { s.body with net := t.body.net }) ∧
  (∀ (s : State) (c l : Nat), c < 8 → l ∈ cageLinks c → s.body.net.links.length = 48 → s.body.book.tables.link.enable.getD l false = true →
    s.body.linkDead l = false → (s.body.link l).fitted = false → (s.body.link l).state = .disabled →
    ∃ t : State, exec (.pluggableInsert c) s = .next t ∧
      t.body.link l = { s.body.link l with fitted := true, state := .down, since := s.body.clock.now } ∧
      (∀ k, k ∉ cageLinks c → t.body.link k = s.body.link k) ∧ t.body = { s.body with net := t.body.net }) ∧
  (∀ (s : State) (c l : Nat), c < 8 → l ∈ cageLinks c → s.body.net.links.length = 48 → ∃ t : State,
    exec (.pluggableRemove c) s = .next t ∧ t.vault = s.vault ∧ t.pending = s.pending ∧ (t.body.link l).fitted = false ∧
    ((s.body.link l).state = .up → (t.body.link l).state = .down) ∧
    ((s.body.link l).state = .quarantine → (t.body.link l).state = .quarantine) ∧
    (∀ k, k ∉ cageLinks c → (t.body.link k).state = (s.body.link k).state))

/-- R242, R243, R303, Table 10.8: a proof in which no step fails brings the link UP with its partner bound and its sequence numbers at
zero; one that fails, or takes 20 ms, quarantines it with its reason; the seventeenth within a second waits in the Lodge's queue, as every
request waits in slot 40 while its engine is OFF; a link quarantined AUTH_FAILED trains again unless it was the third within the hour.
(Rests on logs 72, 77.) -/
def Obligations.PartnerProof : Prop :=
  (∀ (s : State) (l : Nat) (h : FlitHdr) (m : AuthMsg), l < 48 → h.wf = true → (s.body.link l).state = .auth → h.type = 0x02 → h.vc = 0 →
    h.rsvd = false → s.lodgeAsked → s.vault.debug = false → (s.vault.recentProofs s.body.clock.now).length < 16 →
    s.body.proofReason s.vault l m = 0 → l < s.body.net.links.length → (s.body.link l).proofsStale = 0 → ∃ t : State, exec (.authFlit l h m) s = .next t ∧
      (t.body.link l).state = .up ∧ (t.body.link l).partner = m.member ∧ (t.body.link l).serial = BitVec.ofNat 64 m.serial ∧
      (t.body.link l).rxSeq = 0 ∧
      ((s.body.link l).queued = [] → (t.body.link l).txSeq = 0 ∧ (t.body.link l).unacked = [] ∧
        (t.body.link l).credits = [64, 1024, 512, 256]) ∧
      (t.body.link l).rx = ((s.body.link l).rx + 1) % 2 ^ 64 ∧
      (t.body.link l).authFail = (s.body.link l).authFail ∧
      (∀ k, k ≠ l → t.body.link k = s.body.link k) ∧
      t.vault = { s.vault with idleSince := s.body.clock.now, proofsAt := s.body.clock.now :: s.vault.recentProofs s.body.clock.now } ∧
      t.body.doves.asks = [] ∧ t.body.doves.mail = [] ∧
      t.body = { s.body with net := t.body.net, doves := t.body.doves, free := s.body.free + 1 }) ∧
  (∀ (s : State) (l : Nat) (h : FlitHdr) (m : AuthMsg), l < 48 → h.wf = true → (s.body.link l).state = .auth → h.type = 0x02 → h.vc = 0 →
    h.rsvd = false → s.lodgeAsked → s.vault.debug = false → (s.vault.recentProofs s.body.clock.now).length < 16 →
    s.body.proofReason s.vault l m ≠ 0 → l < s.body.net.links.length → (s.body.link l).proofsStale = 0 → ∃ t : State,
      exec (.authFlit l h m) s = .next t ∧ (t.body.link l).state = .quarantine ∧
      (t.body.link l).reason = s.body.proofReason s.vault l m ∧
      (t.body.link l).authFail = ((s.body.link l).authFail + 1) % 2 ^ 16 ∧
      (∀ k, k ≠ l → (t.body.link k).state = (s.body.link k).state)) ∧
  (∀ (s : State) (l : Nat) (h : FlitHdr) (m : AuthMsg), l < 48 → h.wf = true → (s.body.link l).state = .auth → h.type = 0x02 → h.vc = 0 →
    h.rsvd = false → s.lodgeAsked → s.vault.debug = false → 16 ≤ (s.vault.recentProofs s.body.clock.now).length → ∃ t : State,
      exec (.authFlit l h m) s = .next t ∧ (t.body.link l).state = .auth ∧
      t.vault = s.vault ∧ t.body.doves.asks = [.request (.proof l m)] ∧ t.body.doves.mail = []) ∧
  (∀ (s : State) (l : Nat) (h : FlitHdr) (m : AuthMsg), l < 48 → h.wf = true → (s.body.link l).state = .auth → h.type = 0x02 → h.vc = 0 →
    h.rsvd = false → s.vault.engineOn = false → (s.body.slot 40).full = false → s.body.doves.asks = [] → ∃ t : State,
      exec (.authFlit l h m) s = .next t ∧ (t.body.link l).state = .auth ∧ t.vault = s.vault ∧
      t.body.doves.mail = s.body.doves.mail ++ [(40, .ask (.request (.proof l m)))] ∧ t.body.doves.asks = []) ∧
  (∀ (s : State) (l : Nat), l < 48 → (s.body.link l).state = .auth → ∃ t : State, exec (.authTimeout l) s = .next t ∧
    t.vault = s.vault ∧ (t.body.link l).state = .quarantine ∧ (t.body.link l).reason = 1 ∧
    (t.body.link l).authFail = ((s.body.link l).authFail + 1) % 2 ^ 16 ∧
    t.body.clock = { s.body.clock with now := max s.body.clock.now ((s.body.link l).since + 20000000) }) ∧
  (∀ (s : State) (l : Nat), l < 48 → (s.body.link l).state = .quarantine → (s.body.link l).reason = 1 →
    (s.body.link l).thirdFailure = false → ∃ t : State, exec (.authFailedRetry l) s = .next t ∧
      t.body.clock = { s.body.clock with
        now := max s.body.clock.now ((s.body.link l).since + s.body.book.tables.link.trainRetryNs) } ∧
      t.body.link l = { s.body.link l with state := .train, since := t.body.clock.now, reason := 0 } ∧
      (∀ k, k ≠ l → t.body.link k = s.body.link k) ∧
      t.body = { s.body with clock := t.body.clock, net := t.body.net, pitches := t.body.pitches, engines := t.body.engines }) ∧
  (∀ (s : State) (l : Nat), l < 48 → (s.body.link l).state = .quarantine →
    (s.body.link l).thirdFailure = true ∨ (s.body.link l).reason ≠ 1 → exec (.authFailedRetry l) s = .next s)

/-- R240, R241: a lane that fails leaves the link, which resizes over the others or goes DOWN below MIN_WIDTH; RESIZE agrees on the lanes
both ends have, is answered by the end that had not sent its own, counts the resize and sends every unacknowledged flit again; in its slot
a lane that retrains with a fresh signature rejoins by a second resize, one that does not train is tried again an interval later, one whose
signature fails quarantines the link, and one that asks while the Lodge's engine is OFF waits for it. (Rests on logs 72, 108.) -/
def Obligations.LaneResize : Prop :=
  (∀ (s : State) (l lane : Nat), l < 48 → lane < 4 → l < s.body.net.links.length → (s.body.link l).state = .up ∨ (s.body.link l).state = .resize →
    lane ∈ (s.body.link l).lanes → ∃ t : State, exec (.laneFailed l lane) s = .next t ∧ t.vault = s.vault ∧ t.pending = s.pending ∧
    (s.body.book.tables.link.minWidth ≤ ((s.body.link l).lanes.filter (· != lane)).length →
      (t.body.link l).state = .resize ∧ (t.body.link l).since = s.body.clock.now ∧
      (t.body.link l).lanes = (s.body.link l).lanes.filter (· != lane) ∧ (t.body.link l).resizes = (s.body.link l).resizes ∧
      (∃ f ∈ (t.body.link l).unacked ++ (t.body.link l).queued, f.hdr.type = 0x03 ∧
        f.body = .resize ((((s.body.link l).lanes.filter (· != lane)).map (fun n => 2 ^ n)).foldl (· + ·) 0)) ∧
      ((s.body.link l).queued = [] → 0 < (s.body.link l).credits.getD 0 0 → (s.body.link l).unacked.length < 2048 →
        (t.body.link l).tx = ((s.body.link l).tx + 1) % 2 ^ 64 ∧ (t.body.link l).txSeq = ((s.body.link l).txSeq + 1) % 4096) ∧
      t.body.parts = s.body.parts) ∧
    (((s.body.link l).lanes.filter (· != lane)).length < s.body.book.tables.link.minWidth → (t.body.link l).state = .down) ∧
    (∀ k, k ≠ l → (t.body.link k).state = (s.body.link k).state)) ∧
  (∀ (s : State) (l m : Nat) (h : FlitHdr), l < 48 → l < s.body.net.links.length → h.wf = true → m < 16 → (s.body.link l).state = .resize →
    h.type = 0x03 → s.body.malformed (s.body.ownMember s.vault.serial) l h = false → h.seq = (s.body.link l).rxSeq →
    (s.body.link l).queued = [] →
    s.body.book.tables.link.minWidth ≤ ((maskLanes m).filter (s.body.link l).lanes.contains).length → ∃ t : State,
      exec (.resizeFlit l h m) s = .next t ∧ t.vault = s.vault ∧ t.pending = s.pending ∧
      t.body.link l = { (s.took l h).body.link l with
        state := .up, since := s.body.clock.now, lanes := (maskLanes m).filter (s.body.link l).lanes.contains,
        resizes := ((s.body.link l).resizes + 1) % 2 ^ 32,
        tx := (((s.took l h).body.link l).tx + ((s.took l h).body.link l).unacked.length) % 2 ^ 64 } ∧
      (∀ k, k ≠ l → t.body.link k = s.body.link k) ∧ t.body = { s.body with net := t.body.net }) ∧
  (∀ (s : State) (l m : Nat) (h : FlitHdr), Taken s l h 0x03 → m < 16 →
    s.body.book.tables.link.minWidth ≤ ((maskLanes m).filter (s.body.link l).lanes.contains).length → ∃ t : State,
      exec (.resizeFlit l h m) s = .next t ∧ (t.body.link l).state = .up ∧
      (t.body.link l).lanes = (maskLanes m).filter (s.body.link l).lanes.contains ∧
      (t.body.link l).resizes = ((s.body.link l).resizes + 1) % 2 ^ 32 ∧
      (∃ f ∈ (t.body.link l).unacked ++ (t.body.link l).queued, f.hdr.type = 0x03 ∧
        f.body = .resize ((((maskLanes m).filter (s.body.link l).lanes.contains).map (fun n => 2 ^ n)).foldl (· + ·) 0)) ∧
      (∀ k, k ≠ l → t.body.link k = s.body.link k) ∧ t.body = { s.body with net := t.body.net }) ∧
  (∀ (s : State) (l lane : Nat) (m : AuthMsg), l < 48 → lane < 4 → (s.body.link l).state = .up → l < s.body.net.links.length →
    lane ∉ (s.body.link l).lanes → lane ∉ (s.body.link l).badLanes → s.body.laneSlot = true → s.body.laneEarly l lane = false →
    m.sigOk = true → s.vault.debug = false → s.lodgeAsked → (s.vault.recentProofs s.body.clock.now).length < 16 → ∃ t : State,
      exec (.laneRetrain l lane true m) s = .next t ∧
      (t.body.link l).state = .resize ∧ (t.body.link l).since = s.body.clock.now ∧
      (t.body.link l).lanes = insertRising lane (s.body.link l).lanes ∧
      (t.body.link l).laneTried = (s.body.link l).laneTried.filter (fun x => decide (x.1 ≠ lane)) ∧
      (∃ f ∈ (t.body.link l).unacked ++ (t.body.link l).queued, f.hdr.type = 0x03 ∧
        f.body = .resize (((insertRising lane (s.body.link l).lanes).map (fun n => 2 ^ n)).foldl (· + ·) 0)) ∧
      (∀ k, k ≠ l → t.body.link k = s.body.link k) ∧
      t.vault = { s.vault with idleSince := s.body.clock.now, proofsAt := s.body.clock.now :: s.vault.recentProofs s.body.clock.now } ∧
      t.body = { s.body with net := t.body.net, doves := t.body.doves, free := s.body.free + 1 }) ∧
  (∀ (s : State) (l lane : Nat) (m : AuthMsg), l < 48 → lane < 4 → (s.body.link l).state = .up → l < s.body.net.links.length →
    lane ∉ (s.body.link l).lanes → lane ∉ (s.body.link l).badLanes → s.body.laneSlot = true → s.body.laneEarly l lane = false →
    m.sigOk = false → s.lodgeAsked → (s.vault.recentProofs s.body.clock.now).length < 16 → ∃ t : State,
      exec (.laneRetrain l lane true m) s = .next t ∧ (t.body.link l).state = .quarantine ∧ (t.body.link l).reason = 1) ∧
  (∀ (s : State) (l lane : Nat) (m : AuthMsg), l < 48 → lane < 4 → (s.body.link l).state = .up →
    lane ∉ (s.body.link l).lanes → lane ∉ (s.body.link l).badLanes → s.body.laneSlot = true → s.body.laneEarly l lane = false →
    s.vault.engineOn = false → (s.body.slot 40).full = false → s.body.doves.asks = [] → ∃ t : State,
      exec (.laneRetrain l lane true m) s = .next t ∧ t.vault = s.vault ∧
      t.body.doves.mail = s.body.doves.mail ++ [(40, .ask (.lane l lane m))] ∧
      t.body = { s.body with doves := t.body.doves, free := s.body.free + 1 }) ∧
  (∀ (s : State) (l lane : Nat) (m : AuthMsg), l < 48 → lane < 4 → (s.body.link l).state = .up → l < s.body.net.links.length →
    lane ∉ (s.body.link l).lanes → lane ∉ (s.body.link l).badLanes → s.body.laneSlot = true → s.body.laneEarly l lane = false → ∃ t : State,
      exec (.laneRetrain l lane false m) s = .next t ∧
      t.body.link l = { s.body.link l with
        laneTried := (lane, s.body.clock.now) :: (s.body.link l).laneTried.filter (fun x => decide (x.1 ≠ lane)) } ∧
      (∀ k, k ≠ l → t.body.link k = s.body.link k) ∧ t.body = { s.body with net := t.body.net }) ∧
  (∀ (s : State) (l lane : Nat) (trained : Bool) (m : AuthMsg), l < 48 → lane < 4 →
    (s.body.link l).state ≠ .up ∨ lane ∈ (s.body.link l).lanes ∨ lane ∈ (s.body.link l).badLanes ∨ s.body.laneSlot = false ∨
      s.body.laneEarly l lane = true → exec (.laneRetrain l lane trained m) s = .next s)

/-- R232 to R235, R240, R249, R257: a flit in error, in UP or RESIZE, takes nothing and sends one NAK, the next of the run only a round
trip later, and more of them in 1 ms than RETRY_STORM start a lane check; uncorrectable codewords are counted, and a lane with more of them
than LANE_FAIL leaves the link; a NAK makes the sender send again what is unacknowledged; IDLE returns acknowledgements and credits; a
malformed flit is dropped and counted, and the last the limit allows quarantines the link, as a VC does that has waited without credit for
STARVE_VC0 or DATA_STARVE. (Rests on logs 34, 72.) -/
def Obligations.FlitErrors : Prop :=
  (∀ (s : State) (l : Nat), l < 48 → carries (s.body.link l).state = true → l < s.body.net.links.length → ∃ t : State,
    exec (.flitCrcError l none) s = .next t ∧
    ((s.body.link l).nakStands s.body.clock.now = false → (t.body.link l).naks = ((s.body.link l).naks + 1) % 2 ^ 32 ∧
      (t.body.link l).nakSent = true ∧
      ((s.body.link l).queued = [] → 0 < (s.body.link l).credits.getD 0 0 → (t.body.link l).tx = ((s.body.link l).tx + 1) % 2 ^ 64) ∧
      (s.body.book.tables.link.retryStorm ≤ ((s.body.link l).nakAt.filter (fun x => decide (s.body.clock.now < x + 1000000))).length →
        (t.body.link l).laneCheck ≠ none)) ∧
    ((s.body.link l).nakStands s.body.clock.now = true → t.body.link l = s.body.link l) ∧
    (t.body.link l).rxSeq = (s.body.link l).rxSeq ∧ (t.body.link l).rx = (s.body.link l).rx ∧
    (∀ k, k ≠ l → t.body.link k = s.body.link k) ∧ t.body = { s.body with net := t.body.net }) ∧
  (∀ (s : State) (l n : Nat), l < 48 → n < 4 → (s.body.link l).state = .up → l < s.body.net.links.length → ∃ t : State,
    exec (.flitCrcError l (some n)) s = .next t ∧
    (t.body.link l).fecUncorrected = ((s.body.link l).fecUncorrected + 1) % 2 ^ 32 ∧
    (((s.body.link l).fecAt.filter (fun x => decide (x.1 = n) && decide (s.body.clock.now < x.2 + 1000000))).length <
        s.body.book.tables.link.laneFail →
      (t.body.link l).lanes = (s.body.link l).lanes ∧ (t.body.link l).state = .up ∧
      (∀ k, k ≠ l → t.body.link k = s.body.link k) ∧ t.body = { s.body with net := t.body.net }) ∧
    (s.body.book.tables.link.laneFail ≤
        ((s.body.link l).fecAt.filter (fun x => decide (x.1 = n) && decide (s.body.clock.now < x.2 + 1000000))).length →
      n ∉ (t.body.link l).lanes)) ∧
  (∀ (s : State) (l : Nat) (h : FlitHdr), l < 48 → h.wf = true → carries (s.body.link l).state = true → h.type = 0x01 →
    s.body.malformed (s.body.ownMember s.vault.serial) l h = false → l < s.body.net.links.length → ∃ t : State,
      exec (.nakFlit l h) s = .next t ∧ (t.body.link l).unacked = ((s.body.link l).acked s.body.arb h).unacked ∧
      (t.body.link l).tx = (((s.body.link l).acked s.body.arb h).tx + ((s.body.link l).acked s.body.arb h).unacked.length) % 2 ^ 64 ∧
      (t.body.link l).fecCorrected = ((s.body.link l).fecCorrected + h.corrected) % 2 ^ 32 ∧
      (t.body.link l).rx = ((s.body.link l).rx + 1) % 2 ^ 64 ∧ (t.body.link l).rxSeq = (s.body.link l).rxSeq ∧
      (∀ k, k ≠ l → t.body.link k = s.body.link k) ∧ t.body = { s.body with net := t.body.net }) ∧
  (∀ (s : State) (l : Nat) (h : FlitHdr), l < 48 → h.wf = true → (s.body.link l).state = .up → h.type = 0x00 →
    s.body.malformed (s.body.ownMember s.vault.serial) l h = false → l < s.body.net.links.length → (s.body.link l).queued = [] → ∃ t : State,
      exec (.idleFlit l h) s = .next t ∧
      t.body.link l = { s.body.link l with
        unacked := (match (s.body.link l).unacked.findIdx? (fun f => decide (f.hdr.seq = h.ack)) with
          | some i => (s.body.link l).unacked.drop (i + 1)
          | none => (s.body.link l).unacked),
        rxBase := (match (s.body.link l).unacked.find? (fun f => decide (f.hdr.seq = h.ack)) with
          | some f => (f.hdr.ack + 1) % 4096
          | none => (s.body.link l).rxBase),
        credits := (s.body.link l).credits.modify h.crVc (· + h.crCount), rx := ((s.body.link l).rx + 1) % 2 ^ 64,
        fecCorrected := ((s.body.link l).fecCorrected + h.corrected) % 2 ^ 32, dryAt := [none, none, none, none], served := [0, 0, 0, 0, 0] } ∧
      (∀ k, k ≠ l → t.body.link k = s.body.link k) ∧ t.body = { s.body with net := t.body.net }) ∧
  (∀ (s : State) (l : Nat) (h : FlitHdr), l < 48 → h.wf = true → (s.body.link l).state = .up → l < s.body.net.links.length →
    s.body.malformed (s.body.ownMember s.vault.serial) l h = true → ∃ t : State, exec (.malformedFlit l h) s = .next t ∧
      (t.body.link l).malformed = ((s.body.link l).malformed + 1) % 2 ^ 16 ∧ (t.body.link l).rxSeq = (s.body.link l).rxSeq ∧
      (((s.body.link l).badAt.filter (fun x => decide (s.body.clock.now < x + s.body.book.tables.link.badFrameWindowNs))).length + 1 <
        s.body.book.tables.link.badFrameLimit → (t.body.link l).state = .up ∧ t.body = { s.body with net := t.body.net }) ∧
      (s.body.book.tables.link.badFrameLimit ≤
        ((s.body.link l).badAt.filter (fun x => decide (s.body.clock.now < x + s.body.book.tables.link.badFrameWindowNs))).length + 1 →
        (t.body.link l).state = .quarantine ∧ (t.body.link l).reason = 4)) ∧
  (∀ (s : State) (l x b0 : Nat), l < 48 → l < s.body.net.links.length → (s.body.link l).starves 0 = some (x, b0) → ∃ t : State,
    exec (.vc0Starvation l) s = .next t ∧ (t.body.link l).state = .quarantine ∧ (t.body.link l).reason = 5 ∧
    (t.body.link l).starved = ((s.body.link l).starved + 1) % 2 ^ 16 ∧
    t.body.clock = { s.body.clock with now := max s.body.clock.now (x + s.body.book.tables.link.starveVc0Ns) }) ∧
  (∀ (s : State) (l vc x b0 : Nat), l < 48 → l < s.body.net.links.length → 1 ≤ vc → vc < 4 → (s.body.link l).starves vc = some (x, b0) →
    b0 + s.body.book.tables.link.dataStarveBeats ≤ s.body.clock.beat → ∃ t : State, exec (.dataStarvation l vc) s = .next t ∧
    (t.body.link l).state = .quarantine ∧ (t.body.link l).reason = 5 ∧
    (t.body.link l).starved = ((s.body.link l).starved + 1) % 2 ^ 16 ∧ t.body.clock = s.body.clock) ∧
  (∀ (s : State) (l vc x b0 : Nat), l < 48 → 1 ≤ vc → vc < 4 → (s.body.link l).starves vc = some (x, b0) →
    s.body.clock.beat < b0 + s.body.book.tables.link.dataStarveBeats → exec (.dataStarvation l vc) s = .next s) ∧
  (∀ (s : State) (l vc : Nat), l < 48 → 1 ≤ vc → vc < 4 →
    ((s.body.link l).starves 0 = none → exec (.vc0Starvation l) s = .next s) ∧
    ((s.body.link l).starves vc = none → exec (.dataStarvation l vc) s = .next s))

/-- R206, R244, R245, R247: a WRITE into a granted window puts its bytes there and nowhere else, and none where a bank of it is OFF or the
segment of its operation has been taken before; an integer ARRIVAL ADD adds to its word; a flit its window does not allow changes no byte,
is counted, and is answered by DENY naming its operation and segment; one within FENCE_GRACE is dropped; a DENY completes the operation
that sent the add FAILED with write-denied, and does nothing where none in flight is the one that it names. (Rests on logs 6, 21, 34.) -/
def Obligations.WindowFlits : Prop :=
  (∀ (s : State) (l a p : Nat) (h : FlitHdr) (m : WriteMsg), Taken s l h 0x20 →
    s.body.windowCheck h.window 0 m.domain m.off m.bytes.length = .granted a p →
    s.body.repeatedSegment h = false →
    (∀ k ∈ s.body.store.banksAt a m.bytes.length, (s.body.store.banks.getD k ⟨.unusable, none⟩).state = .on) → ∃ t : State,
      exec (.writeFlit l h m []) s = .next t ∧ t.vault = s.vault ∧ t.pending = s.pending ∧
      (∀ i, i < m.bytes.length → t.body.store.byte (a + i) = m.bytes.getD i 0) ∧
      (∀ x, ¬(a ≤ x ∧ x < a + m.bytes.length) → t.body.store.byte x = s.body.store.byte x) ∧
      (t.body.link l).rxSeq = ((s.body.link l).rxSeq + 1) % 4096 ∧
      (∀ k, k ≠ l → t.body.link k = s.body.link k) ∧ t.body = { s.body with net := t.body.net, store := t.body.store }) ∧
  (∀ (s : State) (l a p : Nat) (h : FlitHdr) (m : WriteMsg) (errs : List CwError), Taken s l h 0x20 →
    s.body.windowCheck h.window 0 m.domain m.off m.bytes.length = .granted a p → s.body.repeatedSegment h = true →
    exec (.writeFlit l h m errs) s = .next (s.took l h)) ∧
  (∀ (s : State) (l a p k : Nat) (h : FlitHdr) (m : WriteMsg) (errs : List CwError), Taken s l h 0x20 →
    s.body.windowCheck h.window 0 m.domain m.off m.bytes.length = .granted a p →
    k ∈ s.body.store.banksAt a m.bytes.length → (s.body.store.banks.getD k ⟨.unusable, none⟩).state = .off → ∃ t : State,
      exec (.writeFlit l h m errs) s = .next t ∧ t.body.store.cells = s.body.store.cells ∧ t.body.parts = s.body.parts) ∧
  (∀ (s : State) (l a p v : Nat) (h : FlitHdr) (m : AddMsg), Taken s l h 0x21 → m.ordered = false → m.fmt = .int32 → m.inFmt = .int32 →
    m.values = [v] → s.body.windowCheck h.window 2 m.domain m.off 4 = .granted a p → s.body.store.addable a 4 = true →
    s.body.repeatedSegment h = false → ∃ t : State,
      exec (.addFlit l h m []) s = .next t ∧ t.body.store.word a 4 = (s.body.store.word a 4 + v) % 2 ^ 32 ∧
      (∀ x, ¬(a ≤ x ∧ x < a + 4) → t.body.store.byte x = s.body.store.byte x) ∧ (∀ q, q ≠ p → t.body.part q = s.body.part q) ∧
      t.body = { s.body with net := t.body.net, store := t.body.store, parts := t.body.parts }) ∧
  (∀ (s : State) (l own : Nat) (h : FlitHdr) (m : WriteMsg) (e : Edge) (errs : List CwError), Taken s l h 0x20 →
    s.body.windowCheck h.window 0 m.domain m.off m.bytes.length = .denied → s.body.ownMember s.vault.serial = some own →
    s.body.edge? own h.src = some e → (s.body.link e.primary.outLink).state = .up →
    ((s.body.link l).badAt.filter (fun x => decide (s.body.clock.now < x + s.body.book.tables.link.badFrameWindowNs))).length + 1 <
      s.body.book.tables.link.badFrameLimit → ∃ t : State, exec (.writeFlit l h m errs) s = .next t ∧
      (t.body.link l).denied = ((s.body.link l).denied + 1) % 2 ^ 16 ∧ (t.body.link l).state = .up ∧
      (∃ f ∈ (t.body.link e.primary.outLink).unacked ++ (t.body.link e.primary.outLink).queued,
        f.hdr.type = 0x22 ∧ f.hdr.part = h.part ∧ f.hdr.op = h.op ∧ f.hdr.dst = h.src ∧ f.hdr.window = 0 ∧ f.hdr.segment = h.segment) ∧
      t.body = { s.body with net := t.body.net }) ∧
  (∀ (s : State) (l : Nat) (h : FlitHdr) (m : WriteMsg) (errs : List CwError), Taken s l h 0x20 →
    s.body.windowCheck h.window 0 m.domain m.off m.bytes.length = .grace → exec (.writeFlit l h m errs) s = .next (s.took l h)) ∧
  (∀ (s : State) (l p : Nat) (h : FlitHdr) (fl : Flight) (c : Collective) (op : StreamOp), Taken s l h 0x22 → p < 4 →
    p < s.body.parts.length → (∀ q, q < 4 → q ≠ p → (s.body.part q).flights = []) →
    (s.body.part p).flights = [fl] → (s.body.part p).op? fl = some op → op.payload = .collective c → c.kind = .add → c.source = h.src →
    fl.sent = h.op → fl.failed = none → ∃ t : State, exec (.denyFlit l h) s = .next t ∧
      (t.body.part p).bit? fl.token = some ⟨fl.token, some kWriteDenied⟩ ∧ (t.body.part p).flights = [] ∧
      (∀ q, q ≠ p → t.body.part q = s.body.part q) ∧ t.body.store = s.body.store) ∧
  (∀ (s : State) (l : Nat) (h : FlitHdr), Taken s l h 0x22 → s.body.deniedOp h = none → exec (.denyFlit l h) s = .next (s.took l h))

/-- R120, R124, R248, R251, R252: a reduced status reaches its bucket, and a NONFINITE one withholds the step's remaining updates; one that
takes no part here goes on to the other neighbours; a partial waits until every child has delivered; the root's sum in child order becomes
the reduced data; a RESULT's bytes take the place of the collective that it names, or wait until that one has opened here; a collective
past COLLECTIVE_TIMEOUT completes FAILED and its partition's streams stop. (Rests on log 21.) -/
def Obligations.Collectives : Prop :=
  (∀ (s : State) (l own : Nat) (h : FlitHdr) (m : StatusMsg) (k : Bucket) (f : FixtureImage), Taken s l h 0x06 →
    s.body.ownMember s.vault.serial = some own → (s.body.part h.part).fix = some f →
    (s.body.part h.part).pass.bucket? m.hdr.bucket = some k → k.reduced = none → k.failed = false → m.failed = false →
    m.hdr.step = (s.body.part h.part).pass.step → h.part < s.body.parts.length → ∃ t : State,
      exec (.statusFlit l h m) s = .next t ∧ t.vault = s.vault ∧ t.pending = s.pending ∧
      (t.body.part h.part).pass.bucket? m.hdr.bucket = some { k with reduced := some m.hdr.status } ∧
      (m.hdr.status % 2 = 1 → m.hdr.step ∈ (t.body.part h.part).upd.withheld) ∧
      (m.hdr.status % 2 = 0 → (t.body.part h.part).upd = (s.body.part h.part).upd) ∧
      (t.body.part h.part).flights = (s.body.part h.part).flights ∧ (∀ q, q ≠ h.part → t.body.part q = s.body.part q) ∧
      t.body = { s.body with parts := t.body.parts, net := t.body.net }) ∧
  (∀ (s : State) (l own : Nat) (h : FlitHdr) (m : StatusMsg), Taken s l h 0x06 → s.body.ownMember s.vault.serial = some own →
    m.hdr.step ≠ (s.body.part h.part).pass.step → s.body.statusOnward own h.part (some h.src) m.hdr.bucket = [] →
    exec (.statusFlit l h m) s = .next (s.took l h)) ∧
  (∀ (s : State) (l own n : Nat) (h : FlitHdr) (m : StatusMsg) (e : Edge), Taken s l h 0x06 →
    s.body.ownMember s.vault.serial = some own → (s.body.part h.part).pass.bucket? m.hdr.bucket = none →
    s.body.statusOnward own h.part (some h.src) m.hdr.bucket = [n] → s.body.edge? own n = some e →
    (s.body.link e.primary.outLink).state = .up → ∃ t : State, exec (.statusFlit l h m) s = .next t ∧
      (∃ f ∈ (t.body.link e.primary.outLink).unacked ++ (t.body.link e.primary.outLink).queued,
        f.hdr.type = 0x06 ∧ f.hdr.dst = n ∧ f.body = .status m) ∧ t.body = { s.body with net := t.body.net }) ∧
  (∀ (s : State) (l own : Nat) (h : FlitHdr) (m : ReduceMsg) (r : Reduction), Taken s l h 0x10 →
    s.body.ownMember s.vault.serial = some own → s.body.reductionFor own h.part h.src m.hdr = some r →
    s.body.repeatedSegment h = false → (∀ x ∈ r.partials, x.1 = h.src → x.2.first ≠ m.first) →
    ((treeChildren (s.body.collTree r.coll) own).all
      (Reduction.childDone { r with partials := r.partials ++ [(h.src, m)] })) = false → ∃ t : State,
      exec (.reduceFlit l h m) s = .next t ∧
      t.body.net.reductions = s.body.net.reductions.map (fun x =>
        if x.part = r.part ∧ x.token = r.token then { r with partials := r.partials ++ [(h.src, m)] } else x) ∧
      t.body = { s.body with net := t.body.net }) ∧
  (∀ (s : State) (l own : Nat) (h : FlitHdr) (m : ReduceMsg) (r : Reduction), Taken s l h 0x10 →
    s.body.ownMember s.vault.serial = some own → s.body.reductionFor own h.part h.src m.hdr = some r →
    r.coll.kind = .reduceScatter → r.sent = false → r.partials = [] → m.failed = false → hdrDiffers r.hdr m.hdr = false →
    treeChildren (s.body.collTree r.coll) own = [h.src] → treeParent (s.body.collTree r.coll) own = none →
    m.hdr.elements ≤ m.values.length → r.part = h.part → s.body.repeatedSegment h = false → h.errs = [] →
    r.coll.loc.space = .infield ∨ r.coll.loc.space = .outfield → s.body.unmappedAt r.part [(r.coll.loc, 2 * r.values.length)] = none →
    ∃ t : State, exec (.reduceFlit l h m) s = .next t ∧
      t.body.net.reductions = s.body.net.reductions.filter (fun x => !decide (x.part = r.part ∧ x.token = r.token)) ∧
      t.body.store = (s.body.writeLoc r.part r.coll.loc
        ((r.values.zipIdx.map (fun (v, i) => (reduceElement v [m.values.getD i 0]).1)).flatMap (fun v => leBytes v 2))).store) ∧
  (∀ (s : State) (l own : Nat) (h : FlitHdr) (m : ResultMsg) (r : Reduction), Taken s l h 0x11 →
    s.body.ownMember s.vault.serial = some own → s.body.resultFor own h.part h.src m.coll = some r → r.coll.kind ≠ .xsum →
    r.coll.loc.space = .infield ∨ r.coll.loc.space = .outfield ∨ r.coll.loc.space = .scratch →
    s.body.repeatedSegment h = false → h.errs = [] →
    s.body.placeOn h.part { r.coll.loc with off := r.coll.loc.off + m.addr } m.bytes.length = true →
    (s.body.accessFault h.part [] [({ r.coll.loc with off := r.coll.loc.off + m.addr }, m.bytes.length)]).isNone = true → ∃ t : State,
      exec (.resultFlit l h m) s = .next t ∧
      t.body.store = (s.body.writeLoc h.part { r.coll.loc with off := r.coll.loc.off + m.addr } m.bytes).store ∧
      t.body.net.reductions = (if m.last then
        s.body.net.reductions.filter (fun x => !decide (x.part = r.part ∧ x.token = r.token)) else s.body.net.reductions) ∧
      t.body = { s.body with net := t.body.net, store := t.body.store }) ∧
  (∀ (s : State) (l own : Nat) (h : FlitHdr) (m : ResultMsg), Taken s l h 0x11 →
    s.body.ownMember s.vault.serial = some own → s.body.resultFor own h.part h.src m.coll = none →
    s.body.repeatedSegment h = false → ∃ t : State, exec (.resultFlit l h m) s = .next t ∧
      t.body.net.early = s.body.net.early ++ [⟨h.part, h.src, .result m, h.errs⟩] ∧ t.body = { s.body with net := t.body.net }) ∧
  (∀ (s : State) (p : Nat) (fl : Flight) (op : StreamOp) (c : Collective), p < 4 → p < s.body.parts.length →
    (s.body.part p).flights = [fl] → (s.body.part p).op? fl = some op → op.payload = .collective c → fl.failed = none →
    s.body.collectiveDone p fl op c = false → fl.issuedBeat + s.body.book.tables.link.collectiveTimeout ≤ s.body.clock.beat →
    (s.body.part p).fstate = .running → ∃ t : State, exec (.collectiveTimeout p fl.token) s = .next t ∧
      (t.body.part p).bit? fl.token = some ⟨fl.token, some kCollectiveTimeout⟩ ∧ (t.body.part p).flights = [] ∧
      (t.body.part p).fstate = .stopped ∧ (∀ q, q ≠ p → t.body.part q = s.body.part q) ∧ t.body.store = s.body.store)

/-- R246, R247, R256, R268, R269, R442: a RELAY flit is forwarded over the next hop of its detour with SEQ, ACK and credits of that hop and
the rest as it came, or taken at its destination as a flit of its original type, each segment once; FENCE completes FAILED the collectives
with the partner's group; a NOTICE counts for its installed barrier, is held for one not yet installed, the oldest displaced where 1024 are
held, and is overdue where the decision that ended its barrier should have counted it. (Rests on logs 58, 72, 73, 100, 107.) -/
def Obligations.RelayFenceNotice : Prop :=
  (∀ (s : State) (l out : Nat) (h : FlitHdr) (x : FlitBody), Taken s l h h.type → relayFits h.type x = true →
    s.body.relayStep (s.body.ownMember s.vault.serial) l h = .forward out → out < s.body.net.links.length →
    (s.body.link out).state = .up → ∃ t : State,
      exec (.relayFlit l h x) s = .next t ∧ t.vault = s.vault ∧ t.pending = s.pending ∧
      (t.body.link out).fwd = ((s.body.link out).fwd + 1) % 2 ^ 64 ∧
      (∃ f ∈ (t.body.link out).unacked ++ (t.body.link out).queued, f.body = x ∧ f.hdr.type = h.type ∧ f.hdr.vc = 3 ∧
        f.hdr.part = h.part ∧ f.hdr.op = h.op ∧ f.hdr.src = h.src ∧ f.hdr.dst = h.dst ∧ f.hdr.window = h.window ∧ f.hdr.segment = h.segment ∧
        f.hdr.crVc = 0 ∧ f.hdr.crCount = 0) ∧
      t.body = { s.body with net := t.body.net }) ∧
  (∀ (s : State) (l out : Nat) (h : FlitHdr) (x : FlitBody), Taken s l h h.type → relayFits h.type x = true →
    s.body.relayStep (s.body.ownMember s.vault.serial) l h = .forward out → s.body.linkUp out = false →
    exec (.relayFlit l h x) s = .next (s.took l h)) ∧
  (∀ (s : State) (l own a p : Nat) (h : FlitHdr) (m : WriteMsg), Taken s l h 0x32 → s.body.ownMember s.vault.serial = some own →
    s.body.relayStep (some own) l h = .arrived → s.body.windowCheck h.window 0 m.domain m.off m.bytes.length = .granted a p →
    s.body.repeatedSegment h = false → h.errs = [] →
    (∀ k ∈ s.body.store.banksAt a m.bytes.length, (s.body.store.banks.getD k ⟨.unusable, none⟩).state = .on) → ∃ t : State,
      exec (.relayFlit l h (.write m)) s = .next t ∧
      (∀ i, i < m.bytes.length → t.body.store.byte (a + i) = m.bytes.getD i 0) ∧
      (∀ x, ¬(a ≤ x ∧ x < a + m.bytes.length) → t.body.store.byte x = s.body.store.byte x) ∧
      t.body = { s.body with net := t.body.net, store := t.body.store }) ∧
  (∀ (s : State) (l own a p : Nat) (h : FlitHdr) (m : WriteMsg), Taken s l h 0x32 → s.body.ownMember s.vault.serial = some own →
    s.body.relayStep (some own) l h = .arrived → s.body.windowCheck h.window 0 m.domain m.off m.bytes.length = .granted a p →
    s.body.repeatedSegment h = true → exec (.relayFlit l h (.write m)) s = .next (s.took l h)) ∧
  (∀ (s : State) (l : Nat) (h : FlitHdr), Taken s l h 0x04 → h.part < s.body.parts.length → ∃ (t : State) (k : Nat),
    exec (.fenceFlit l h) s = .next t ∧
    (∀ fl op c g, fl ∈ (s.body.part h.part).flights → (s.body.part h.part).op? fl = some op → op.payload = .collective c →
      s.body.group? c.group = some g → (s.body.link l).partner ∈ g.members →
      (t.body.part h.part).bit? fl.token = some ⟨fl.token, some k⟩ ∧ ∀ f ∈ (t.body.part h.part).flights, f.token ≠ fl.token) ∧
    (∀ q, q ≠ h.part → t.body.part q = s.body.part q) ∧ t.body.store = s.body.store) ∧
  (∀ (s : State) (l own : Nat) (h : FlitHdr) (n : Notice), Taken s l h 0x05 → s.body.ownMember s.vault.serial = some own →
    (∀ k ∈ s.body.sched.barriers, k.id ≠ n.barrier) → (∀ x ∈ s.body.sched.closed, x.1 ≠ n.barrier) → ∃ t : State, exec (.noticeFlit l h n) s = .next t ∧
      t.body.sched = { s.body.sched with
        held := (if s.body.sched.held.length < 1024 then s.body.sched.held else s.body.sched.held.drop 1) ++ [n] } ∧
      t.body = { s.body with sched := t.body.sched, net := t.body.net }) ∧
  (∀ (s : State) (l own p b0 : Nat) (h : FlitHdr) (n : Notice), Taken s l h 0x05 → s.body.ownMember s.vault.serial = some own →
    s.body.sched.barriers = [] → s.body.sched.closed = [(n.barrier, p, b0)] → s.body.counts n b0 = true → p < 4 →
    s.body.whistle.pages.length = allSources.length → ∃ t : State, exec (.noticeFlit l h n) s = .next t ∧
      t.body.sched = s.body.sched ∧ t.body.parts = s.body.parts ∧
      (t.body.page tPartition p).contained = satInc 16 (s.body.page tPartition p).contained) ∧
  (∀ (s : State) (l own : Nat) (h : FlitHdr) (n : Notice) (k : BarrierInfo), Taken s l h 0x05 →
    s.body.ownMember s.vault.serial = some own → s.body.sched.barriers = [k] → k.id = n.barrier → k.decided = none → ∃ t : State,
      exec (.noticeFlit l h n) s = .next t ∧
      t.body.sched = { s.body.sched with barriers := [{ k with notices := k.notices ++ [n] }] } ∧
      t.body = { s.body with sched := t.body.sched, net := t.body.net })

/-! ## Faults, keepers, log and supply (12, 14, 16, 17, 19) -/

/-- R335, R337, R340 to R342: a contained message is latched if its page holds nothing and otherwise sets OVERFLOW, waits for its keeper,
starts the page's timer where nothing was latched, and sets FAULT in the attention word that it names; a fatal one starts the sequence of
its half alone; a corrected one below its limit is only counted; one of an unlisted source or reserved class changes nothing. (Rests on
logs 6, 7, 126.) -/
def Obligations.FaultMessages : Prop :=
  (∀ (s : State) (w : Word64) (k : Nat), pageSlot (msgType w) (msgInst w) = some k → msgClass w = .contained →
    k < s.body.whistle.pages.length → s.body.doves.attn.length = 5 → ∃ t : State, exec (.faultMessage w) s = .next t ∧
      t.vault = s.vault ∧ t.pending = s.pending ∧
      (t.body.page (msgType w) (msgInst w)).message = (if (s.body.page (msgType w) (msgInst w)).message = 0 then w
        else (s.body.page (msgType w) (msgInst w)).message) ∧
      ((s.body.page (msgType w) (msgInst w)).message ≠ 0 → (t.body.page (msgType w) (msgInst w)).overflow = true) ∧
      (t.body.page (msgType w) (msgInst w)).contained = satInc 16 (s.body.page (msgType w) (msgInst w)).contained ∧
      (t.body.page (msgType w) (msgInst w)).unhandled = (s.body.page (msgType w) (msgInst w)).unhandled ++ [w] ∧
      ((s.body.page (msgType w) (msgInst w)).message = 0 → (s.body.page (msgType w) (msgInst w)).timer = none →
        (t.body.page (msgType w) (msgInst w)).timer = some (s.body.clock.now + s.body.book.tables.faults.timerNs)) ∧
      (∀ i, s.body.attentionOf w = some i → (t.body.doves.attn.getD i 0).testBit 0 = true) ∧
      (s.body.attentionOf w = none → t.body.doves = s.body.doves) ∧
      (∀ j, j ≠ k → t.body.whistle.pages.getD j FaultPage.reset = s.body.whistle.pages.getD j FaultPage.reset) ∧
      t.body = { s.body with whistle := t.body.whistle, score := t.body.score, doves := t.body.doves }) ∧
  (∀ (s : State) (w : Word64) (h k : Nat), pageSlot (msgType w) (msgInst w) = some k → msgClass w = .fatal →
    s.body.fatalHalves (msgType w) (msgInst w) = [h] → (s.body.half h).fatal = none → s.body.fenced h = false →
    h < s.body.whistle.halves.length → ∃ t : State, exec (.faultMessage w) s = .next t ∧ t.vault = s.vault ∧
      t.body.half h = { s.body.half h with fatal := some ⟨s.body.clock.now, w, false⟩ } ∧
      (∀ j, j ≠ h → t.body.half j = s.body.half j) ∧ (∀ l, l / 24 ≠ h → t.body.link l = s.body.link l) ∧
      t.body.parts = s.body.parts ∧ t.body.store = s.body.store ∧ t.body.doves = s.body.doves) ∧
  (∀ (s : State) (w : Word64) (k : Nat), pageSlot (msgType w) (msgInst w) = some k → msgClass w = .corrected →
    k < s.body.whistle.pages.length → (countPromo s.body.whistle.promo (msgSource w) (msgKind w) s.body.clock.now
      (promotionOf s.body.book.tables.faults (msgKind w)).windowNs).1 < (promotionOf s.body.book.tables.faults (msgKind w)).limit →
    ∃ t : State, exec (.faultMessage w) s = .next t ∧
      (t.body.page (msgType w) (msgInst w)).corrected = satInc 16 (s.body.page (msgType w) (msgInst w)).corrected ∧
      (t.body.page (msgType w) (msgInst w)).unhandled = (s.body.page (msgType w) (msgInst w)).unhandled ∧
      (t.body.page (msgType w) (msgInst w)).timer = (s.body.page (msgType w) (msgInst w)).timer ∧
      t.body.doves = s.body.doves ∧ t.body.score = s.body.score ∧ t.body.parts = s.body.parts) ∧
  (∀ (s : State) (w : Word64), pageSlot (msgType w) (msgInst w) = none ∨ msgClass w = .reserved →
    exec (.faultMessage w) s = .next s)

/-- R338 to R340, R400: a partition's timer that runs out stops its running fixture, clears its windows and shows QUARANTINED; a half whose
fatal fault has been reported is FENCED with what its pitches held discarded and its engines' ACC_RESIDENT as it was, the other half as it
was; with both halves FENCED the module is FAILED, and where the input is lost its rails go off. (Rests on logs 50, 51, 54.) -/
def Obligations.TimersAndFences : Prop :=
  (∀ (s : State) (p d : Nat), p < 4 → (s.body.page tPartition p).timer = some d → (s.body.part p).fstate = .running →
    (s.body.part p).snap.run = none → s.body.whistle.pages.length = allSources.length → ∃ t : State,
      exec (.containedTimerExpired (tPartition * 256 + p)) s = .next t ∧ t.vault = s.vault ∧ t.pending = s.pending ∧
      t.body.clock = { s.body.clock with now := max s.body.clock.now d } ∧ (t.body.part p).fstate = .stopped ∧
      (t.body.page tPartition p).timer = none ∧ (t.body.page tPartition p).expired = true ∧
      (t.body.page tPartition p).quarantined = true ∧ (∀ w ∈ t.body.net.windows, w.part = p → w.valid = false) ∧
      (∀ q, q ≠ p → t.body.part q = s.body.part q) ∧ t.body.store = s.body.store) ∧
  (∀ (s : State) (page : Nat), assignedPage page = true → page / 256 < 16 → (s.body.page (page / 256) (page % 256)).timer = none →
    exec (.containedTimerExpired page) s = .next s) ∧
  (∀ (s : State) (h : Nat) (f : FatalSeq), h < 2 → (s.body.half h).fatal = some f → f.reported = true → s.body.fenced h = false →
    s.body.fenced (1 - h) = false → s.body.whistle.halves.length = 2 → s.body.active = [] → ∃ t : State,
      exec (.halfFence h) s = .next t ∧ t.vault = s.vault ∧ t.pending = s.pending ∧
      t.body.half h = { s.body.half h with fenced := some (fenceCauseOf f.message), cleared := false } ∧
      t.body.half (1 - h) = s.body.half (1 - h) ∧ (∀ i, i / 2 = h → i < s.body.pitches.length →
        (t.body.pitch i).sb = [] ∧ (t.body.pitch i).active = [] ∧ (t.body.pitch i).state = .idle) ∧
      (∀ e, e / 2 = h → (t.body.engine e).accs = (s.body.engine e).accs) ∧
      t.body.boot = s.body.boot ∧ t.body.clock = s.body.clock) ∧
  (∀ (s : State) (h : Nat) (f : FatalSeq), h < 2 → (s.body.half h).fatal = some f → f.reported = true → s.body.fenced h = false →
    s.body.fenced (1 - h) = true → s.body.whistle.halves.length = 2 → s.body.active = [] → s.body.boot.inputOk = true → ∃ t : State,
      exec (.halfFence h) s = .next t ∧ t.body.boot = { s.body.boot with start := .failed } ∧ t.body.fenced h = true ∧
      t.body.fenced (1 - h) = true) ∧
  (∀ (s : State) (h : Nat) (f : FatalSeq), h < 2 → (s.body.half h).fatal = some f → f.reported = true → s.body.fenced h = false →
    s.body.fenced (1 - h) = true → s.body.whistle.halves.length = 2 → s.body.active = [] → s.body.boot.inputOk = false → ∃ t : State,
      exec (.halfFence h) s = .next t ∧ t.vault = s.vault ∧ t.body.boot = { Body.reset.boot with
        standby := s.body.boot.standby, eFuseOpen := s.body.boot.eFuseOpen } ∧
      t.body.store = Body.reset.store ∧ (∀ l, (t.body.link l).state = .down)) ∧
  (∀ (s : State) (h : Nat), h < 2 → (s.body.half h).fatal = none → exec (.halfFence h) s = .next s)

/-- R292 to R294, R296, R303, R306, R337, Table 12.6: a frame of an ISSUE keeper reads its slots, and ends in RETAIN if the keeper wants to
rest, its half runs no fixture and no schedule entry is near; a FAULT keeper's poll acknowledges a page with a cause in time; the lead
MODULE keeper's frame puts pending attention bits into empty slots; a watchdog expiry restarts its keeper, and a second within 1 s is
fatal; a latched wake event returns its domain to ON, where the Lodge serves a request that waited; a Lodge engine without a request for 1
ms goes off. (Rests on logs 2, 22, 42, 80, 124.) -/
def Obligations.Keepers : Prop :=
  (∀ (s : State) (k : Nat) (late : Bool), k < 8 → k % 4 = 1 → s.body.marksFrames k = true → s.body.doves.asks = [] →
    k < s.body.keepers.cores.length → ∃ t : State, exec (.keeperFrame k ⟨late, false⟩) s = .next t ∧ t.vault = s.vault ∧ t.pending = s.pending ∧
      t.body.clock = { s.body.clock with now := max s.body.clock.now (s.body.frameStart (s.body.keeper k)) } ∧
      t.body.keeper k = { s.body.keeper k with
        mode := .on, frameAt := s.body.frameStart (s.body.keeper k), covers := s.body.keeperDown ((k + 4) % 8) } ∧
      (∀ j, j ≠ k → j ≠ (k + 4) % 8 → t.body.keeper j = s.body.keeper j) ∧
      t.body.keeper ((k + 4) % 8) = { s.body.keeper ((k + 4) % 8) with covers := false } ∧
      (∀ i, i ∈ [33, 34, 35, 36, 37, 38, 39, 48 + 2 * k, 49 + 2 * k] → (t.body.slot i).full = false) ∧
      (∀ i, i < 33 → t.body.slot i = s.body.slot i) ∧
      t.body = { s.body with clock := t.body.clock, keepers := t.body.keepers, doves := t.body.doves, pitches := t.body.pitches,
                             engines := t.body.engines }) ∧
  (∀ (s : State) (k : Nat) (late : Bool), k < 8 → k % 4 = 1 → s.body.marksFrames k = true → s.body.doves.asks = [] →
    k < s.body.keepers.cores.length → (∀ x ∈ s.body.parts, x.fstate ≠ .running) → s.body.sched.entries = [] → ∃ t : State,
      exec (.keeperFrame k ⟨late, true⟩) s = .next t ∧ (t.body.keeper k).mode = .retain) ∧
  (∀ (s : State) (m : Word64) (x : FrameRun), s.body.marksFrames 0 = true → s.body.doves.asks = [] →
    (s.body.page tBand 0).unhandled = [m] → msgKind m = kBeatLost → msgType m = tBand → (∀ x ∈ s.body.whistle.pages, x.timer = none) →
    (∀ a i, (a, i) ≠ (tBand, 0) → (s.body.page a i).unhandled = []) → (∀ h, (s.body.half h).fatal = none) → ∃ t : State,
      exec (.keeperFrame 0 x) s = .next t ∧
      t.body.page tBand 0 = { s.body.page tBand 0 with unhandled := [], expired := false } ∧
      (∀ a i, (a, i) ≠ (tBand, 0) → t.body.page a i = s.body.page a i) ∧ t.body.parts = s.body.parts ∧ t.body.store = s.body.store) ∧
  (∀ (s : State) (w i : Nat) (x : FrameRun), s.body.marksFrames s.body.leadKeeper = true → s.body.doves.asks = [] → s.body.active = [] →
    (∀ r, r < 5 → (s.body.slot (16 + r)).full = false ∧ (s.body.ring r).entries = []) → i < 5 → s.body.doves.attn.getD i 0 = w →
    w ≠ 0 → (s.body.slot (24 + i)).full = false → s.body.doves.slots.length = 64 → ∃ t : State,
      exec (.keeperFrame s.body.leadKeeper x) s = .next t ∧
      t.body.slot (24 + i) = { s.body.slot (24 + i) with word := BitVec.ofNat 64 w, full := true } ∧
      t.body.doves.attn.getD i 0 = 0 ∧ t.body.rings = s.body.rings.map (fun r => { r with reads := 0 }) ∧ t.body.parts = s.body.parts ∧
      t.body.store = s.body.store) ∧
  (∀ (s : State) (k : Nat), k < 8 → s.body.powered = true → s.body.keeperRuns k = true → (s.body.keeper k).expiredAt = none →
    s.body.fenced (1 - k / 4) = false → ∃ t : State, exec (.keeperWatchdogExpired k) s = .next t ∧
      t.body.keeper k = { s.body.keeper k with
        mode := .restarting, expiredAt := some (max s.body.clock.now ((s.body.keeper k).frameAt + 25000)) } ∧
      t.body.keepers.restarts = (s.body.keepers.restarts + 1) % 2 ^ 32 ∧
      (∀ j, t.body.half j = s.body.half j) ∧ t.body.parts = s.body.parts) ∧
  (∀ (s : State) (k a : Nat), k < 8 → s.body.powered = true → s.body.keeperRuns k = true → (s.body.keeper k).expiredAt = some a →
    max s.body.clock.now ((s.body.keeper k).frameAt + 25000) < a + 1000000000 → (s.body.half (k / 4)).fatal = none →
    s.body.whistle.halves.length = 2 → ∃ t : State, exec (.keeperWatchdogExpired k) s = .next t ∧
      (t.body.half (k / 4)).fatal.isSome = true) ∧
  (∀ (s : State) (k : Nat), k < 8 → s.body.doves.wake.getD k false = true →
    (s.body.keeper k).mode = .retain ∨ (s.body.keeper k).mode = .off →
    exec (.wakeEvent (.keeper k)) s = .next { s with body := { s.body with keepers := { s.body.keepers with
      cores := alter k (fun x => { x with mode := .on, frameAt := s.body.clock.now }) s.body.keepers.cores } } }) ∧
  (∀ s : State, s.body.doves.wake.getD 8 false = true → s.body.doves.mail = [] → s.body.doves.asks = [] →
    exec (.wakeEvent .lodgeEngine) s = .next { s with
      vault := { s.vault with engineOn := true, idleSince := s.body.clock.now },
      body := { s.body with doves := { s.body.doves with wake := alter 8 (fun _ => false) s.body.doves.wake } } }) ∧
  (∀ s : State, s.body.doves.wake.getD 8 false = true → s.body.doves.mail = [(1, .nonce)] → s.body.doves.asks = [] → ∃ t : State,
    exec (.wakeEvent .lodgeEngine) s = .next t ∧ t.vault.engineOn = true ∧ t.vault.nonce = some (Config.nonceValue s.vault.drawn).toNat ∧
    t.body.doves.mail = [] ∧ (t.body.slot 1).full = false ∧ t.body.parts = s.body.parts ∧ t.body.net = s.body.net) ∧
  (∀ s : State, s.vault.engineOn = true → engineIdle s.body = true →
    exec .lodgeEngineOff s = .next { s with
      vault := { s.vault with engineOn := false }, body := s.body.until_ (s.vault.idleSince + 1000000) }) ∧
  (∀ s : State, s.vault.engineOn = false ∨ engineIdle s.body = false → exec .lodgeEngineOff s = .next s)

/-- R374, R376, R379 to R381, R389 to R393, R421 to R423: the oldest queued record is programmed under the next SEQ, and the record that
fills the log closes it; valid input starts power-up with flash kept, the cycle count one higher and every volatile secret gone, and what
the tests of the Lodge and the input monitor find (free values) decides between FAILED, the wait for REF and the self-test; REF and a clean
self-test end in READY; an excursion is fatal to both halves in service, and before READY was reached takes the rails; with the rails go
memory, partitions and links; the hold-up programs at most the nine records that it is good for, counted since the input was last valid.
(Rests on logs 2, 43, 71, 133.) -/
def Obligations.LogAndSupply : Prop :=
  (∀ (s : State) (r : Record) (rs : List Record), s.body.boot.inputOk = true → s.body.score.counterRead = true →
    s.body.score.queue = r :: rs → s.body.score.flash.length + 1 ≠ recordPositions →
    exec .scorebookProgram s = .next { s with body := { s.body with score := { s.body.score with
      flash := s.body.score.flash ++ [Record.bytes { r with seq := s.body.score.nextSeq }],
      nextSeq := s.body.score.nextSeq + 1, queue := rs } } }) ∧
  (∀ (s : State) (r : Record) (rs : List Record), s.body.boot.inputOk = true → s.body.score.counterRead = true →
    s.body.score.queue = r :: rs → s.body.score.flash.length + 1 = recordPositions → ∃ t : State,
      exec .scorebookProgram s = .next t ∧ t.body.score.full = true ∧ t.body.score.queue = [] ∧
      t.body.score.flash = s.body.score.flash ++ [Record.bytes { r with seq := s.body.score.nextSeq }] ∧
      t.body.score.dropped = min (2 ^ 32 - 1) (s.body.score.dropped + rs.length) ∧ t.body = { s.body with score := t.body.score }) ∧
  (∀ s : State, s.body.boot.inputOk = true → s.body.score.counterRead = true → ∃ t : State, exec .opHoursSave s = .next t ∧
    t.body.clock.now = max s.body.clock.now ((s.body.score.savedMs + 60000 - s.body.score.baseMs) * 1000000) ∧
    t.body.score = { s.body.score with savedMs := s.body.score.baseMs + t.body.clock.now / 1000000 } ∧
    t.body = { s.body with clock := t.body.clock, score := t.body.score, pitches := t.body.pitches, engines := t.body.engines }) ∧
  (∀ s : State, s.body.boot.inputOk = false → s.body.boot.eFuseOpen = false → ∃ t : State, exec .inputValid s = .next t ∧
    t.pending = s.pending ∧
    t.body.boot.start = (if lodgePasses s.body.free = false ∨ inputMonitorPasses s.body.free = false then .failed
      else if s.body.clock.refPresent = true then .testing else .waitRef) ∧
    t.body.store = Body.reset.store ∧ t.body.parts = Body.reset.parts ∧
    s.body.score.flash <+: t.body.score.flash ∧ t.body.score.flash.length ≤ s.body.score.flash.length + s.body.score.holdLeft ∧
    t.body.score.cycles = (s.body.score.cycles + 1) % 2 ^ 32 ∧ t.body.score.holdLeft = 9 ∧
    t.body.score.queue = [] ∧ t.vault.debug = false ∧ t.vault.nonce = none ∧ t.body.doves.asks = [] ∧ t.body.doves.mail = [] ∧
    t.vault.fixtureKeys = s.vault.fixtureKeys ∧ t.vault.rulebookKeys = s.vault.rulebookKeys ∧ t.vault.ownerKey = s.vault.ownerKey) ∧
  (∀ s : State, s.body.boot.start = .waitRef ∨ s.body.boot.start = .testing → s.body.keepers.cores.length = 8 → s.body.fenced 0 = false →
    s.body.score.queue = [] → s.body.score.full = false →
    (∀ r, r < 5 → (s.body.slot (16 + r)).full = false ∧ (s.body.ring r).entries = []) → s.body.parts.length = 4 → ∃ t : State,
      exec (.refPresent cleanTest) s = .next t ∧ t.body.boot.start = .ready ∧ t.body.boot.step = 9 ∧
      t.body.clock.refPresent = true ∧ (t.body.part 0).quotas = Quotas.full ∧
      (∀ p, p ≠ 0 → t.body.part p = s.body.part p) ∧ (∃ r ∈ t.body.score.queue.head?, r.type = 6)) ∧
  (∀ (s : State) (x : SelfTest), s.body.boot.start = .ready → s.body.clock.band = .free →
    exec (.refPresent x) s = .next { s with body := { s.body with clock := { s.body.clock with
      refPresent := true, band := .seeking, edgeAt := none, tai := none } } }) ∧
  (∀ (s : State) (v ns : Nat), s.body.boot.inputOk = true → s.body.boot.readyMs ≠ 0 → v < 400 ∨ 580 < v → 50000 < ns →
    (∀ h, h < 2 → (s.body.half h).fatal = none ∧ s.body.fenced h = false) → s.body.whistle.halves.length = 2 → ∃ t : State,
      exec (.inputExcursion v ns) s = .next t ∧ t.body.boot = { s.body.boot with inputOk := false } ∧
      (∀ h, h < 2 → (t.body.half h).fatal = some ⟨s.body.clock.now, faultWord tInput 0 .fatal false false kInputPower v, false⟩) ∧
      t.body.parts = s.body.parts ∧ t.body.store = s.body.store) ∧
  (∀ (s : State) (v ns : Nat), s.body.boot.inputOk = true → s.body.boot.readyMs = 0 → v < 400 ∨ 580 < v → 50000 < ns → ∃ t : State,
      exec (.inputExcursion v ns) s = .next t ∧ t.vault = s.vault ∧
      t.body.boot = { Body.reset.boot with standby := s.body.boot.standby, eFuseOpen := s.body.boot.eFuseOpen } ∧
      t.body.store = Body.reset.store ∧ t.body.parts = Body.reset.parts ∧ t.body.score = s.body.score ∧
      (∀ l, (t.body.link l).state = .down)) ∧
  (∀ (s : State) (v ns : Nat), 400 ≤ v ∧ v ≤ 580 ∨ ns ≤ 50000 → exec (.inputExcursion v ns) s = .next s) ∧
  (∀ s : State, ∃ t : State, exec .inputOvervoltage s = .next t ∧ t.vault = s.vault ∧
    t.body.boot = { Body.reset.boot with standby := false, eFuseOpen := true } ∧ t.body.score.queue = [] ∧
    s.body.score.flash <+: t.body.score.flash ∧ t.body.score.flash.length ≤ s.body.score.flash.length + s.body.score.holdLeft ∧
    t.body.store = Body.reset.store ∧ t.body.parts = Body.reset.parts ∧ (∀ l, (t.body.link l).state = .down)) ∧
  (∀ s : State, s.body.boot.standby = true → s.body.boot.inputOk = false → ∃ t : State, exec .holdUpEnded s = .next t ∧
    t.vault = s.vault ∧ t.body.boot = { Body.reset.boot with standby := false, eFuseOpen := s.body.boot.eFuseOpen } ∧
    t.body.score.queue = [] ∧ s.body.score.flash <+: t.body.score.flash ∧
    t.body.score.flash.length ≤ s.body.score.flash.length + s.body.score.holdLeft ∧
    t.body.store = Body.reset.store ∧ t.body.parts = Body.reset.parts ∧ (∀ l, (t.body.link l).state = .down)) ∧
  (∀ s : State, s.body.boot.standby = false ∨ s.body.boot.inputOk = true → exec .holdUpEnded s = .next s)


/-! ## The whole block -/

/-- A step of the block is exec of the command at the front of the queue, with the queue's rest; on an empty queue time moves on by 1 ns,
the units of a half in service count the cycles of their clock that pass, and nothing else changes (the model's choice, log 2). -/
def Obligations.StepRunsFront : Prop :=
  (∀ (s : State) (c : Instr) (rest : List Instr), s.pending = c :: rest → step s = exec c { s with pending := rest }) ∧
  (∀ s : State, s.pending = [] → ∃ t : State, step s = .next t ∧ t.pending = [] ∧ t.vault = s.vault ∧
    t.body.clock = { s.body.clock with now := s.body.clock.now + 1 } ∧
    (∀ i, (t.body.pitch i).state = (s.body.pitch i).state ∧ (t.body.engine i).state = (s.body.engine i).state ∧
      (s.body.counting (i / 2) = false → t.body.pitch i = s.body.pitch i ∧ t.body.engine i = s.body.engine i) ∧
      (i < 4 → i < s.body.pitches.length → s.body.counting (i / 2) = true → (t.body.pitch i).cycles = ((s.body.pitch i).cycles +
        (s.body.cyclesAt (s.body.clock.now + 1) - s.body.cyclesAt s.body.clock.now)) % 2 ^ 64)) ∧
    t.body = { s.body with clock := t.body.clock, pitches := t.body.pitches, engines := t.body.engines })

/-- Every well-formed command answers a next state in every state, and leaves the queue as it is; an ill-formed one is refused by that name
and by no other (the model's own refusal: its operand names a unit that the tables do not give the module). (Rests on log 1.) -/
def Obligations.EveryCommandAnswers : Prop :=
  (∀ (c : Instr) (s : State), c.wf = true → ∃ t : State, exec c s = .next t ∧ t.pending = s.pending) ∧
  (∀ (c : Instr) (s : State), c.wf = false → exec c s = .refused .illFormed)

/-- R243, R394, R396, Tables 12.7 and 17.3, as an invariant of every step from every state: at most eight signing keys of a class, no two
alike, none before the owner key; at most sixteen proofs counted; a debug state exactly at level 1 or 2, scan halves at level 2 alone. No
step changes the serial number, replaces an owner key once set, or takes a signing key away. -/
def Obligations.LodgeInvariant : Prop :=
  ∀ s t : State, step s = .next t →
    (s.vault.Kept → t.vault.Kept) ∧ t.vault.serial = s.vault.serial ∧
    (∀ k, s.vault.ownerKey = some k → t.vault.ownerKey = some k) ∧
    (∀ k ∈ s.vault.fixtureKeys, k ∈ t.vault.fixtureKeys) ∧ (∀ k ∈ s.vault.rulebookKeys, k ∈ t.vault.rulebookKeys)

/-- R389 to R391, Tables 3.7, 5.10, 9.3, 10.14, 12.3, 13.7: after reset no partition holds a fixture or owns a pitch, every bank is OFF,
every link DOWN, every slot and ring empty with the sizes of Table 13.7, PASS_HISTORY is 3, the ROM rulebook is in force, no command waits,
and the Lodge's invariant and the memory's canonical form hold. (Rests on log 13.) -/
def Obligations.ResetState : Prop :=
  State.reset.pending = [] ∧ State.reset.vault.Kept ∧ Memory.wf State.reset.body.store.cells = true ∧
  (∀ p, p < 4 → (State.reset.body.part p).fstate = .empty ∧ (State.reset.body.part p).pitches = [] ∧
    (State.reset.body.part p).pass.history = 3) ∧
  (∀ b ∈ State.reset.body.store.banks, b.state = .off) ∧ (∀ l, l < 48 → (State.reset.body.link l).state = .down) ∧
  (∀ i, i < 64 → (State.reset.body.slot i).full = false) ∧
  (∀ i, i < 5 → (State.reset.body.ring i).enable = false ∧ (State.reset.body.ring i).cmdSize = 16 ∧
    (State.reset.body.ring i).cplSize = 64 ∧ (State.reset.body.ring i).entries = []) ∧
  State.reset.body.book.tables = Config.rom ∧ State.reset.body.boot.start = .powering ∧ State.reset.body.boot.step = 1
end

