-- ==== Sys2Proof/Laws/Code.lean ====
section
/-!
SUPPORT. The code on memory (R198, R200): the field operations are linear, a word with its check bytes has no syndrome, and a
codeword is the poison pattern exactly where it was made one.
-/

namespace Sys2Proof.Machine

theorem gfDouble_xor (x y : Byte) : gfDouble (x ^^^ y) = gfDouble x ^^^ gfDouble y := by
  unfold gfDouble
  rw [BitVec.getLsbD_xor, BitVec.shiftLeft_xor_distrib]
  have h : ∀ k a b : Byte, a ^^^ b = (a ^^^ k) ^^^ (b ^^^ k) := fun k a b => by
    rw [show (a ^^^ k) ^^^ (b ^^^ k) = (a ^^^ b) ^^^ (k ^^^ k) by ac_rfl]; simp
  cases x.getLsbD 7 <;> cases y.getLsbD 7
  · rfl
  · simp only [Bool.bne_true, Bool.not_false, if_true, Bool.false_eq_true, if_false]; ac_rfl
  · simp only [Bool.bne_false, if_true, Bool.false_eq_true, if_false]; ac_rfl
  · simp only [Bool.bne_true, Bool.not_true, Bool.false_eq_true, if_false, if_true]; exact h _ _ _

theorem gfDouble_zero : gfDouble 0#8 = 0#8 := by decide

theorem gfShift_xor (n : Nat) (x y : Byte) : gfShift n (x ^^^ y) = gfShift n x ^^^ gfShift n y := by
  induction n with
  | zero => rfl
  | succ n ih => simp only [gfShift, ih, gfDouble_xor]

theorem gfShift_zero (n : Nat) : gfShift n 0#8 = 0#8 := by
  induction n with
  | zero => rfl
  | succ n ih => simp only [gfShift, ih, gfDouble_zero]

theorem gfMul_xor (x y z : Byte) : gfMul (x ^^^ y) z = gfMul x z ^^^ gfMul y z := by
  have h : ∀ (l : List Nat) (a b : Byte),
      l.foldl (fun acc i => if z.getLsbD i then acc ^^^ gfShift i (x ^^^ y) else acc) (a ^^^ b) =
      l.foldl (fun acc i => if z.getLsbD i then acc ^^^ gfShift i x else acc) a ^^^
      l.foldl (fun acc i => if z.getLsbD i then acc ^^^ gfShift i y else acc) b := by
    intro l
    induction l with
    | nil => intro a b; rfl
    | cons i l ih =>
      intro a b
      simp only [List.foldl_cons]
      split
      · rw [gfShift_xor, ← ih]; congr 1; ac_rfl
      · exact ih a b
  exact h (List.range 8) 0#8 0#8

/-- The syndrome's fold, from any start. -/
def synFold (j : Nat) (s : Byte) (word : List Byte) : Byte := word.foldl (fun s v => gfShift j s ^^^ v) s

theorem synFold_append (j : Nat) (s : Byte) (a b : List Byte) : synFold j s (a ++ b) = synFold j (synFold j s a) b := by
  simp [synFold]

theorem synFold_xor (j : Nat) (a b : List Byte) (h : a.length = b.length) (s t : Byte) :
    synFold j (s ^^^ t) (List.zipWith (· ^^^ ·) a b) = synFold j s a ^^^ synFold j t b := by
  induction a generalizing b s t with
  | nil => cases b with
    | nil => rfl
    | cons => simp at h
  | cons x a ih => cases b with
    | nil => simp at h
    | cons y b =>
      simp only [List.zipWith_cons_cons, synFold, List.foldl_cons] at *
      rw [← ih b (by simpa using h), gfShift_xor]; congr 1; ac_rfl

theorem rsGenerator_tail : rsGenerator.tail = [255#8, 11#8, 81#8, 54#8, 239#8, 173#8, 200#8, 24#8] := by decide

theorem rsGenerator_length : rsGenerator.tail.length = 8 := by rw [rsGenerator_tail]; rfl

/-- A sum over the bits of a byte: an additive function that is 0 on the eight powers of two is 0. -/
theorem additive_zero (f : Byte → Byte) (hx : ∀ x y, f (x ^^^ y) = f x ^^^ f y) (hb : ∀ i, i < 8 → f (1#8 <<< i) = 0#8) (q : Byte) :
    f q = 0#8 := by
  have h0 : f 0#8 = 0#8 := by simpa using hx 0#8 0#8
  have hq : ∀ q : BitVec 8, q = (List.range 8).foldl (fun a i => a ^^^ (if q.getLsbD i then 1#8 <<< i else 0#8)) 0#8 := by decide
  have hf : ∀ (l : List Nat) (a : Byte), (∀ i ∈ l, i < 8) → f a = 0#8 →
      f (l.foldl (fun a i => a ^^^ (if q.getLsbD i then 1#8 <<< i else 0#8)) a) = 0#8 := by
    intro l
    induction l with
    | nil => intro a _ h; exact h
    | cons i l ih =>
      intro a hl ha
      refine ih _ (fun k hk => hl k (List.mem_cons_of_mem _ hk)) ?_
      rw [hx, ha]
      split
      · simp [hb i (hl i List.mem_cons_self)]
      · simp [h0]
  rw [hq q]
  exact hf _ _ (fun i hi => List.mem_range.1 hi) h0

/-- Every multiple of the generator vanishes at its eight roots. -/
theorem generator_roots (j : Nat) (hj : j < 8) (q : Byte) : synFold j q (rsGenerator.tail.map (gfMul q)) = 0#8 := by
  refine additive_zero (fun q => synFold j q (rsGenerator.tail.map (gfMul q))) (fun x y => ?_) (fun i hi => ?_) q
  · have h : rsGenerator.tail.map (gfMul (x ^^^ y)) =
        List.zipWith (· ^^^ ·) (rsGenerator.tail.map (gfMul x)) (rsGenerator.tail.map (gfMul y)) := by
      rw [List.zipWith_map]
      exact (List.map_congr_left (fun z _ => gfMul_xor x y z)).trans (by simp)
    simp only [h]
    exact synFold_xor _ _ _ (by simp) _ _
  · rw [rsGenerator_tail]
    interval_cases j <;> revert i <;> decide +kernel

theorem rsStep_length (r : List Byte) (d : Byte) (h : r.length = 8) : (rsStep r d).length = 8 := by
  simp only [rsStep, List.length_zipWith, List.length_append, List.length_tail, List.length_map, h, rsGenerator_tail]; rfl

/-- A data byte keeps the word so far, with its remainder, at syndrome 0. -/
theorem synFold_rsStep (j : Nat) (hj : j < 8) (s d : Byte) (r : List Byte) (hr : r.length = 8) (h : synFold j s r = 0#8) :
    synFold j (gfShift j s ^^^ d) (rsStep r d) = 0#8 := by
  cases r with
  | nil => simp at hr
  | cons r0 r =>
    have e : gfShift j s ^^^ d = (gfShift j s ^^^ r0) ^^^ (d ^^^ r0) := by
      have : r0 ^^^ (d ^^^ r0) = d := by rw [BitVec.xor_comm d, ← BitVec.xor_assoc]; simp
      rw [BitVec.xor_assoc, this]
    rw [rsStep, e, synFold_xor _ _ _ (by simp at hr; simp [hr, rsGenerator_tail])]
    simp only [List.headD_cons, List.tail_cons]
    rw [generator_roots j hj, synFold_append]
    have h' : synFold j (gfShift j s ^^^ r0) r = 0#8 := by simpa [synFold] using h
    rw [h']; simp [synFold, gfShift_zero]

theorem checkBytes_fold (j : Nat) (hj : j < 8) (data : List Byte) (s : Byte) (r : List Byte) (hr : r.length = 8)
    (h : synFold j s r = 0#8) :
    (data.foldl rsStep r).length = 8 ∧ synFold j (synFold j s data) (data.foldl rsStep r) = 0#8 := by
  induction data generalizing s r with
  | nil => exact ⟨hr, h⟩
  | cons d data ih => exact ih _ _ (rsStep_length r d hr) (synFold_rsStep j hj s d r hr h)

theorem checkBytes_length (data : List Byte) : (checkBytes data).length = 8 :=
  (checkBytes_fold 0 (by decide) data 0#8 _ (by simp) (by decide)).1

/-- R198: data with its check bytes is a word of the code. -/
theorem syndrome_check (j : Nat) (hj : j < 8) (data : List Byte) : syndrome j (data ++ checkBytes data) = 0#8 := by
  have h0 : synFold j 0#8 (List.replicate 8 0#8) = 0#8 := by simp [synFold, List.replicate, gfShift_zero]
  have := (checkBytes_fold j hj data 0#8 _ (by simp) h0).2
  rwa [checkBytes, syndrome, ← synFold, synFold_append]

/-- R200: inverted check bytes are the poison pattern, the check bytes themselves are not. -/
theorem isPoisonPattern_poison (data : List Byte) (h : data.length = 64) : isPoisonPattern (data ++ poisonCheck data) = true := by
  simp [isPoisonPattern, ← h]

theorem isPoisonPattern_check (data : List Byte) (h : data.length = 64) : isPoisonPattern (data ++ checkBytes data) = false := by
  simp only [isPoisonPattern, ← h, List.drop_left, List.take_left, poisonCheck, decide_eq_false_iff_not]
  intro e
  cases hc : checkBytes data with
  | nil => have := checkBytes_length data; simp [hc] at this
  | cons x l =>
    rw [hc, List.map_cons, List.cons.injEq] at e
    exact (show ∀ x : BitVec 8, x ≠ ~~~x by decide) x e.1

end Sys2Proof.Machine
end

