-- ==== Sys2Proof/Laws/Ring.lean ====
section
/-!
SUPPORT. A ring command in a ring that stands ready: which state it runs in and what its record leaves.
-/

namespace Sys2Proof.Laws

open Sys2Proof Sys2Proof.Machine

theorem alter_congr {α : Type} (i : Nat) (f g : α → α) (xs : List α) (h : ∀ x, xs[i]? = some x → f x = g x) :
    alter i f xs = alter i g xs := by
  unfold alter
  apply List.ext_getElem?
  intro j
  rw [List.getElem?_modify, List.getElem?_modify]
  by_cases hij : i = j
  · subst hij
    cases hx : xs[i]? with
    | none => simp
    | some x => simp [h x hx]
  · simp [hij]

theorem alter_alter {α : Type} (i : Nat) (f g : α → α) (xs : List α) :
    alter i f (alter i g xs) = alter i (fun x => f (g x)) xs := by
  unfold alter
  apply List.ext_getElem?
  intro j
  rw [List.getElem?_modify, List.getElem?_modify, List.getElem?_modify]
  by_cases hij : i = j <;> cases xs[j]? <;> simp [hij]

@[simp] theorem alter_length {α : Type} (i : Nat) (f : α → α) (xs : List α) : (alter i f xs).length = xs.length := by
  simp [alter]

theorem alter_getD {α : Type} (i j : Nat) (f : α → α) (xs : List α) (d : α) :
    (alter i f xs).getD j d = if i = j ∧ j < xs.length then f (xs.getD j d) else xs.getD j d := by
  unfold alter
  simp only [List.getD_eq_getElem?_getD, List.getElem?_modify]
  by_cases hij : i = j
  · subst hij
    by_cases hl : i < xs.length <;> simp [hl]
  · simp [hij]

theorem ring_lt (b : Body) (i : Nat) (h : (b.ring i).enable = true) : i < b.rings.length := by
  by_contra hn
  have : b.rings.getD i Ring.reset = Ring.reset := by
    simp [List.getD_eq_getElem?_getD, List.getElem?_eq_none (Nat.le_of_not_lt hn)]
  simp only [Body.ring, this] at h
  exact absurd h (by decide)

theorem alterRing_ring (b : Body) (i j : Nat) (f : Ring → Ring) :
    (b.alterRing i f).ring j = if i = j ∧ j < b.rings.length then f (b.ring j) else b.ring j := by
  simp only [Body.ring, Body.alterRing, alter_getD]

@[simp] theorem ringAttention_ring (b : Body) (i j : Nat) : (b.ringAttention i).ring j = b.ring j := by
  unfold Body.ringAttention
  split <;> rfl

@[simp] theorem ringAttention_active (b : Body) (i : Nat) : (b.ringAttention i).active = b.active := by
  unfold Body.ringAttention
  split <;> rfl

/-- The body after the entry is put into the ring, read and opened. -/
theorem entered_eq (b : Body) (h : Hdr) (cmd : Cmd) (hr : RingReady b h) :
    (((b.alterRing h.ring (fun x => { x with entries := x.entries ++ [(⟨h, cmd⟩ : RingCmd)] })).alterRing h.ring
      (fun x => { x with entries := [], cmdHead := (x.cmdHead + 1) % x.cmdSize, reads := x.reads + 1 })).alterRing h.ring
      (fun x => { x with open_ := x.open_ + 1 })) = b.entered h := by
  have hl := ring_lt b h.ring hr.on
  have hlen : b.rings[h.ring]? = some (b.ring h.ring) := by
    simp [Body.ring, List.getD_eq_getElem?_getD, List.getElem?_eq_getElem hl]
  simp only [Body.alterRing, Body.entered, alter_alter]
  congr 1
  apply alter_congr
  intro x hx
  rw [hlen] at hx
  cases hx
  simp [hr.unread]

/-- `start` on one waiting command that ends at once. -/
theorem start_one (v : Vault) (b b' : Body) (a : Active) (st code : Nat) (d : Detail) (ha : b.active = [a]) (hn : a.running = false)
    (hs : a.signed = none) (hk : b.leadRuns = true) (hq : (needsLodge a.cmd && b.lodgeBusy v) = false) (hrun : runCmd v a b = (b', .done st code d)) (hact : b'.active = [a]) :
    b.start v = ({ b' with active := [] }).finish a.ring a.tag a.cmd st code d := by
  have h1 : startOne v b = some (({ b' with active := [] }).finish a.ring a.tag a.cmd st code d) := by
    have hq' : (needsLodge a.cmd && decide (a.signed = none) && b.lodgeBusy v) = false := by simpa [hs] using hq
    simp [startOne, ha, nextReady, hn, hs, hrun, hact] at hq' ⊢
    intro h1 h2; simp [h1, h2] at hq
  have h2 : startOne v (({ b' with active := [] }).finish a.ring a.tag a.cmd st code d) = none := by
    simp [startOne, Body.finish, Body.alterRing, nextReady]
  simp only [Body.start, hk, if_true, ha, List.length_cons, List.length_nil, startReady, h1, h2]

/-- The record of a command in its ring. -/
theorem finish_ring (b : Body) (r : Nat) (tag : Word32) (cmd : Cmd) (st code : Nat) (d : Detail) (hc : cmd ≠ .abandon)
    (ho : cmd.opcode ≠ 0) (hl : r < b.rings.length) (hon : (b.ring r).enable = true) (hup : b.host.pcieUp = true)
    (hheld : (b.ring r).held = []) (hroom : 0 < (b.ring r).free) :
    (b.finish r tag cmd st code d).ring r =
      { (b.ring r).write ⟨tag, cmd.opcode, st, false, kindCommand, code, d⟩ with open_ := (b.ring r).open_ - 1 } := by
  unfold Body.finish
  rw [ringAttention_ring, alterRing_ring]
  have hp : (b.ring r).put b.host.pcieUp ⟨tag, cmd.opcode, st, false, kindCommand, code, d⟩
      = (b.ring r).write ⟨tag, cmd.opcode, st, false, kindCommand, code, d⟩ := by
    simp [Ring.put, Ring.roomFor, CplRecord.held, ho, hon, hup, hheld, hroom]
  rw [if_pos ⟨rfl, hl⟩]
  cases cmd <;> first
    | exact absurd rfl hc
    | simp only [hp]

@[simp] theorem finish_active (b : Body) (r : Nat) (tag : Word32) (cmd : Cmd) (st code : Nat) (d : Detail) :
    (b.finish r tag cmd st code d).active = b.active := by
  unfold Body.finish; rw [ringAttention_active]; rfl

/-- Every command but those that end at acceptance. -/
def plainCmd : Cmd → Bool
  | .abandon | .logRead .. | .unknown _ => false
  | _ => true

theorem plain_opcode (cmd : Cmd) (h : plainCmd cmd = true) : cmd.opcode ≠ 0 := by
  cases cmd <;> simp_all [plainCmd, Cmd.opcode]

/-- A command of Table 13.4, other than `ABANDON` and LOG_READ, that ends as it runs: the whole of what its row does. -/
theorem submit_done (s : State) (h : Hdr) (cmd : Cmd) (b' : Body) (st code : Nat) (d : Detail) (hr : RingReady s.body h)
    (right : ringRight ⟨h, cmd⟩ = true) (plain : plainCmd cmd = true) (hq : (needsLodge cmd && s.body.lodgeBusy s.vault) = false)
    (hrun : runCmd s.vault (opened h cmd) (s.body.running h cmd) = (b', .done st code d))
    (hact : b'.active = [opened h cmd]) (hring : b'.rings = (s.body.running h cmd).rings) (hup : b'.host.pcieUp = true) :
    submit true ⟨h, cmd⟩ s = .next { s with body := ({ b' with active := [] }).finish h.ring h.tag cmd st code d } ∧
    Answered s.body (({ b' with active := [] }).finish h.ring h.tag cmd st code d) h cmd st code d := by
  have hl := ring_lt s.body h.ring hr.on
  have hne : cmd ≠ .abandon := by rintro rfl; simp [plainCmd] at plain
  -- the ring when the command ends
  have hR : ({ b' with active := [] } : Body).ring h.ring =
      { s.body.ring h.ring with
        cmdHead := ((s.body.ring h.ring).cmdHead + 1) % (s.body.ring h.ring).cmdSize
        reads := (s.body.ring h.ring).reads + 1
        open_ := (s.body.ring h.ring).open_ + 1 } := by
    show b'.rings.getD h.ring Ring.reset = _
    rw [hring]
    simp only [Body.running, Body.entered, alter_getD, hl, and_self, if_true]
    rfl
  have hl' : h.ring < ({ b' with active := [] } : Body).rings.length := by
    show h.ring < b'.rings.length
    rw [hring]; simp [Body.running, Body.entered, hl]
  have hfin := finish_ring { b' with active := [] } h.ring h.tag cmd st code d hne (plain_opcode cmd plain) hl' (by rw [hR]; exact hr.on) hup
    (by rw [hR]; exact hr.noHeld) (by
      rw [hR]
      have h1 : 0 < (s.body.ring h.ring).free := by have := hr.room; omega
      exact h1)
  rw [hR] at hfin
  -- the accepted entry runs
  have hlead : s.body.leadRuns = true := by
    have := hr.serves
    simp only [Body.serves, Bool.and_eq_true] at this
    exact this.2
  have hacc : (((s.body.alterRing h.ring (fun x => { x with entries := x.entries ++ [(⟨h, cmd⟩ : RingCmd)] })).alterRing h.ring
      (fun x => { x with entries := [], cmdHead := (x.cmdHead + 1) % x.cmdSize, reads := x.reads + 1 })).accept s.vault ⟨h, cmd⟩) =
      ({ b' with active := [] }).finish h.ring h.tag cmd st code d := by
    have he := entered_eq s.body h cmd hr
    have hst : (s.body.running h cmd).start s.vault = ({ b' with active := [] }).finish h.ring h.tag cmd st code d :=
      start_one s.vault (s.body.running h cmd) b' (opened h cmd) st code d rfl rfl rfl hlead hq hrun hact
    have hidle : (s.body.entered h).active = [] := hr.idle
    unfold Body.accept
    simp only [he]
    cases cmd <;> simp [plainCmd] at plain <;> simp only [right, hr.rsvd, Bool.not_true, Bool.false_eq_true, if_false] <;>
      (rw [← hst]; simp only [hidle, List.nil_append, cmdKey]; rfl)
  have hserves : ∀ f, (s.body.alterRing h.ring f).serves = true := fun f => hr.serves
  have hread : ∀ n b, (b.ring h.ring).entries = [] → Body.readRing s.vault h.ring n b = b := by
    intro n b hb
    cases n <;> simp [Body.readRing, Body.readEntry, hb]
  have htd : (s.body.alterRing h.ring (fun x => { x with entries := x.entries ++ [(⟨h, cmd⟩ : RingCmd)] })).ring h.ring
      = { s.body.ring h.ring with entries := [(⟨h, cmd⟩ : RingCmd)] } := by
    rw [alterRing_ring]; simp [hl, hr.unread]
  have hent : Body.readEntry (s.body.alterRing h.ring (fun x => { x with entries := x.entries ++ [(⟨h, cmd⟩ : RingCmd)] }))
      s.vault h.ring = some (({ b' with active := [] }).finish h.ring h.tag cmd st code d) := by
    have hac : Ring.accepts { s.body.ring h.ring with entries := [(⟨h, cmd⟩ : RingCmd)] } cmd = true := by
      have h1 : (s.body.ring h.ring).open_ < (s.body.ring h.ring).free - 4 := by have := hr.room; omega
      cases cmd <;> first
        | rfl
        | exact decide_eq_true h1
    have hre : (s.body.alterRing h.ring (fun x => { x with entries := x.entries ++ [(⟨h, cmd⟩ : RingCmd)] })).reachable cmd = true := by
      simp only [Body.reachable, Body.alterRing, hr.pcie, Bool.true_or]
    unfold Body.readEntry
    simp only [htd]
    rw [if_pos]
    · exact congrArg some hacc
    · rw [hre, hac]; simp [hr.on, hr.ahead, hr.reads]
  refine ⟨?_, ?_⟩
  · simp only [submit, onBody, if_true]
    congr 2
    unfold Body.serveRing
    rw [hserves, if_pos rfl]
    show Body.readRing s.vault h.ring 16 _ = _
    unfold Body.readRing
    rw [hent]
    exact hread 15 _ (by rw [hfin]; exact hr.unread)
  · refine ⟨?_, ?_, ?_, ?_, ?_, ?_⟩
    · rw [hfin]; simp [Ring.write]
    · rw [hfin]; simp [Ring.write]
    · rw [hfin]; simp [Ring.write]
    · rw [hfin]; simp [Ring.write, hr.unread]
    · rw [hfin]; simp
    · simp

/-! ## The frame of a record -/

theorem ringAttention_form (b : Body) (i : Nat) :
    ∃ bits, b.ringAttention i = { b with doves := { b.doves with attn := bits } } := by
  unfold Body.ringAttention
  split
  · exact ⟨_, rfl⟩
  · exact ⟨b.doves.attn, rfl⟩

/-- A record changes its own ring and attention bits alone. -/
theorem finish_form (b : Body) (r : Nat) (tag : Word32) (cmd : Cmd) (st code : Nat) (d : Detail) :
    ∃ f bits, b.finish r tag cmd st code d = { b with doves := { b.doves with attn := bits }, rings := alter r f b.rings } := by
  unfold Body.finish
  obtain ⟨bits, e⟩ := ringAttention_form (b.alterRing r _) r
  exact ⟨_, bits, e⟩

/-- `submit_done` with the frame: beside what the command itself did, attention bits and the ring. -/
theorem submit_answers (s : State) (h : Hdr) (cmd : Cmd) (b' : Body) (st code : Nat) (d : Detail) (hr : RingReady s.body h)
    (right : ringRight ⟨h, cmd⟩ = true) (plain : plainCmd cmd = true) (hq : (needsLodge cmd && s.body.lodgeBusy s.vault) = false)
    (hrun : runCmd s.vault (opened h cmd) (s.body.running h cmd) = (b', .done st code d))
    (hact : b'.active = [opened h cmd]) (hring : b'.rings = (s.body.running h cmd).rings) (hup : b'.host.pcieUp = true)
    (hd : b'.doves = { (s.body.running h cmd).doves with attn := b'.doves.attn }) :
    ∃ t : State, submit true ⟨h, cmd⟩ s = .next t ∧ RingFrame s t h ∧ Answered s.body t.body h cmd st code d ∧
      t.body = { b' with active := [], doves := t.body.doves, rings := t.body.rings } := by
  obtain ⟨e, ha⟩ := submit_done s h cmd b' st code d hr right plain hq hrun hact hring hup
  obtain ⟨f, bits, ef⟩ := finish_form { b' with active := [] } h.ring h.tag cmd st code d
  refine ⟨_, e, ⟨rfl, rfl, ?_, ?_⟩, ha, ?_⟩
  · rw [ef]
    show ({ b'.doves with attn := bits } : Doves) = _
    rw [hd]
    rfl
  · intro i hi
    rw [ef]
    show (alter h.ring f b'.rings).getD i Ring.reset = _
    rw [alter_getD, if_neg (fun x => hi x.1.symm), hring]
    show (alter h.ring _ s.body.rings).getD i Ring.reset = _
    rw [alter_getD, if_neg (fun x => hi x.1.symm)]
    rfl
  · rw [ef]

end Sys2Proof.Laws
end

