-- ==== Sys2Proof/Laws/State.lean ====
section
/-!
SUPPORT. State and its named updates: what each leaves as it was, and what each accessor reads after it.
-/

namespace Sys2Proof.Laws

open Sys2Proof Sys2Proof.Machine

/-! ## Commands and steps -/

theorem onBody_true (s : State) (f : Body → Body) : onBody true s f = .next { s with body := f s.body } := rfl

theorem onBody_of (ok : Bool) (s : State) (f : Body → Body) (h : ok = true) : onBody ok s f = .next { s with body := f s.body } := by
  subst h; rfl

theorem onAll_of (ok : Bool) (s : State) (f : Vault → Body → Vault × Body) (h : ok = true) :
    onAll ok s f = .next { s with vault := (f s.vault s.body).1, body := (f s.vault s.body).2 } := by
  subst h; rfl

/-- A command that acts outside the Lodge leaves the Lodge and the queue. -/
theorem onBody_next (ok : Bool) (s t : State) (f : Body → Body) (h : onBody ok s f = .next t) :
    ok = true ∧ t = { s with body := f s.body } := by
  cases ok with
  | true => exact ⟨rfl, (Host.Outcome.next.inj h).symm⟩
  | false => exact absurd h (by simp [onBody])

theorem onAll_next (ok : Bool) (s t : State) (f : Vault → Body → Vault × Body) (h : onAll ok s f = .next t) :
    ok = true ∧ t = { s with vault := (f s.vault s.body).1, body := (f s.vault s.body).2 } := by
  cases ok with
  | true => exact ⟨rfl, (Host.Outcome.next.inj h).symm⟩
  | false => exact absurd h (by simp [onAll])

theorem step_front (s : State) (c : Instr) (rest : List Instr) (h : s.pending = c :: rest) : step s = exec c { s with pending := rest } := by
  unfold step; rw [h]

theorem step_idle (s : State) (h : s.pending = []) : step s = idleTick s := by
  unfold step; rw [h]

/-! ## Fields that a named update leaves -/

/-! ### Body.alterPart -/

@[simp] theorem alterPart_boot (b : Body) (p : Nat) (f : Partition → Partition) : (b.alterPart p f).boot = b.boot := rfl
@[simp] theorem alterPart_clock (b : Body) (p : Nat) (f : Partition → Partition) : (b.alterPart p f).clock = b.clock := rfl
@[simp] theorem alterPart_sched (b : Body) (p : Nat) (f : Partition → Partition) : (b.alterPart p f).sched = b.sched := rfl
@[simp] theorem alterPart_power (b : Body) (p : Nat) (f : Partition → Partition) : (b.alterPart p f).power = b.power := rfl
@[simp] theorem alterPart_keepers (b : Body) (p : Nat) (f : Partition → Partition) : (b.alterPart p f).keepers = b.keepers := rfl
@[simp] theorem alterPart_doves (b : Body) (p : Nat) (f : Partition → Partition) : (b.alterPart p f).doves = b.doves := rfl
@[simp] theorem alterPart_book (b : Body) (p : Nat) (f : Partition → Partition) : (b.alterPart p f).book = b.book := rfl
@[simp] theorem alterPart_store (b : Body) (p : Nat) (f : Partition → Partition) : (b.alterPart p f).store = b.store := rfl
@[simp] theorem alterPart_net (b : Body) (p : Nat) (f : Partition → Partition) : (b.alterPart p f).net = b.net := rfl
@[simp] theorem alterPart_whistle (b : Body) (p : Nat) (f : Partition → Partition) : (b.alterPart p f).whistle = b.whistle := rfl
@[simp] theorem alterPart_score (b : Body) (p : Nat) (f : Partition → Partition) : (b.alterPart p f).score = b.score := rfl
@[simp] theorem alterPart_rings (b : Body) (p : Nat) (f : Partition → Partition) : (b.alterPart p f).rings = b.rings := rfl
@[simp] theorem alterPart_active (b : Body) (p : Nat) (f : Partition → Partition) : (b.alterPart p f).active = b.active := rfl
@[simp] theorem alterPart_host (b : Body) (p : Nat) (f : Partition → Partition) : (b.alterPart p f).host = b.host := rfl
@[simp] theorem alterPart_pitches (b : Body) (p : Nat) (f : Partition → Partition) : (b.alterPart p f).pitches = b.pitches := rfl
@[simp] theorem alterPart_engines (b : Body) (p : Nat) (f : Partition → Partition) : (b.alterPart p f).engines = b.engines := rfl
@[simp] theorem alterPart_free (b : Body) (p : Nat) (f : Partition → Partition) : (b.alterPart p f).free = b.free := rfl

/-! ### Body.alterPitch -/

@[simp] theorem alterPitch_boot (b : Body) (i : Nat) (f : Pitch → Pitch) : (b.alterPitch i f).boot = b.boot := rfl
@[simp] theorem alterPitch_clock (b : Body) (i : Nat) (f : Pitch → Pitch) : (b.alterPitch i f).clock = b.clock := rfl
@[simp] theorem alterPitch_sched (b : Body) (i : Nat) (f : Pitch → Pitch) : (b.alterPitch i f).sched = b.sched := rfl
@[simp] theorem alterPitch_power (b : Body) (i : Nat) (f : Pitch → Pitch) : (b.alterPitch i f).power = b.power := rfl
@[simp] theorem alterPitch_keepers (b : Body) (i : Nat) (f : Pitch → Pitch) : (b.alterPitch i f).keepers = b.keepers := rfl
@[simp] theorem alterPitch_doves (b : Body) (i : Nat) (f : Pitch → Pitch) : (b.alterPitch i f).doves = b.doves := rfl
@[simp] theorem alterPitch_book (b : Body) (i : Nat) (f : Pitch → Pitch) : (b.alterPitch i f).book = b.book := rfl
@[simp] theorem alterPitch_store (b : Body) (i : Nat) (f : Pitch → Pitch) : (b.alterPitch i f).store = b.store := rfl
@[simp] theorem alterPitch_net (b : Body) (i : Nat) (f : Pitch → Pitch) : (b.alterPitch i f).net = b.net := rfl
@[simp] theorem alterPitch_whistle (b : Body) (i : Nat) (f : Pitch → Pitch) : (b.alterPitch i f).whistle = b.whistle := rfl
@[simp] theorem alterPitch_score (b : Body) (i : Nat) (f : Pitch → Pitch) : (b.alterPitch i f).score = b.score := rfl
@[simp] theorem alterPitch_rings (b : Body) (i : Nat) (f : Pitch → Pitch) : (b.alterPitch i f).rings = b.rings := rfl
@[simp] theorem alterPitch_active (b : Body) (i : Nat) (f : Pitch → Pitch) : (b.alterPitch i f).active = b.active := rfl
@[simp] theorem alterPitch_host (b : Body) (i : Nat) (f : Pitch → Pitch) : (b.alterPitch i f).host = b.host := rfl
@[simp] theorem alterPitch_engines (b : Body) (i : Nat) (f : Pitch → Pitch) : (b.alterPitch i f).engines = b.engines := rfl
@[simp] theorem alterPitch_parts (b : Body) (i : Nat) (f : Pitch → Pitch) : (b.alterPitch i f).parts = b.parts := rfl
@[simp] theorem alterPitch_free (b : Body) (i : Nat) (f : Pitch → Pitch) : (b.alterPitch i f).free = b.free := rfl

/-! ### Body.alterEngine -/

@[simp] theorem alterEngine_boot (b : Body) (i : Nat) (f : Engine → Engine) : (b.alterEngine i f).boot = b.boot := rfl
@[simp] theorem alterEngine_clock (b : Body) (i : Nat) (f : Engine → Engine) : (b.alterEngine i f).clock = b.clock := rfl
@[simp] theorem alterEngine_sched (b : Body) (i : Nat) (f : Engine → Engine) : (b.alterEngine i f).sched = b.sched := rfl
@[simp] theorem alterEngine_power (b : Body) (i : Nat) (f : Engine → Engine) : (b.alterEngine i f).power = b.power := rfl
@[simp] theorem alterEngine_keepers (b : Body) (i : Nat) (f : Engine → Engine) : (b.alterEngine i f).keepers = b.keepers := rfl
@[simp] theorem alterEngine_doves (b : Body) (i : Nat) (f : Engine → Engine) : (b.alterEngine i f).doves = b.doves := rfl
@[simp] theorem alterEngine_book (b : Body) (i : Nat) (f : Engine → Engine) : (b.alterEngine i f).book = b.book := rfl
@[simp] theorem alterEngine_store (b : Body) (i : Nat) (f : Engine → Engine) : (b.alterEngine i f).store = b.store := rfl
@[simp] theorem alterEngine_net (b : Body) (i : Nat) (f : Engine → Engine) : (b.alterEngine i f).net = b.net := rfl
@[simp] theorem alterEngine_whistle (b : Body) (i : Nat) (f : Engine → Engine) : (b.alterEngine i f).whistle = b.whistle := rfl
@[simp] theorem alterEngine_score (b : Body) (i : Nat) (f : Engine → Engine) : (b.alterEngine i f).score = b.score := rfl
@[simp] theorem alterEngine_rings (b : Body) (i : Nat) (f : Engine → Engine) : (b.alterEngine i f).rings = b.rings := rfl
@[simp] theorem alterEngine_active (b : Body) (i : Nat) (f : Engine → Engine) : (b.alterEngine i f).active = b.active := rfl
@[simp] theorem alterEngine_host (b : Body) (i : Nat) (f : Engine → Engine) : (b.alterEngine i f).host = b.host := rfl
@[simp] theorem alterEngine_pitches (b : Body) (i : Nat) (f : Engine → Engine) : (b.alterEngine i f).pitches = b.pitches := rfl
@[simp] theorem alterEngine_parts (b : Body) (i : Nat) (f : Engine → Engine) : (b.alterEngine i f).parts = b.parts := rfl
@[simp] theorem alterEngine_free (b : Body) (i : Nat) (f : Engine → Engine) : (b.alterEngine i f).free = b.free := rfl

/-! ### Body.alterRing -/

@[simp] theorem alterRing_boot (b : Body) (i : Nat) (f : Ring → Ring) : (b.alterRing i f).boot = b.boot := rfl
@[simp] theorem alterRing_clock (b : Body) (i : Nat) (f : Ring → Ring) : (b.alterRing i f).clock = b.clock := rfl
@[simp] theorem alterRing_sched (b : Body) (i : Nat) (f : Ring → Ring) : (b.alterRing i f).sched = b.sched := rfl
@[simp] theorem alterRing_power (b : Body) (i : Nat) (f : Ring → Ring) : (b.alterRing i f).power = b.power := rfl
@[simp] theorem alterRing_keepers (b : Body) (i : Nat) (f : Ring → Ring) : (b.alterRing i f).keepers = b.keepers := rfl
@[simp] theorem alterRing_doves (b : Body) (i : Nat) (f : Ring → Ring) : (b.alterRing i f).doves = b.doves := rfl
@[simp] theorem alterRing_book (b : Body) (i : Nat) (f : Ring → Ring) : (b.alterRing i f).book = b.book := rfl
@[simp] theorem alterRing_store (b : Body) (i : Nat) (f : Ring → Ring) : (b.alterRing i f).store = b.store := rfl
@[simp] theorem alterRing_net (b : Body) (i : Nat) (f : Ring → Ring) : (b.alterRing i f).net = b.net := rfl
@[simp] theorem alterRing_whistle (b : Body) (i : Nat) (f : Ring → Ring) : (b.alterRing i f).whistle = b.whistle := rfl
@[simp] theorem alterRing_score (b : Body) (i : Nat) (f : Ring → Ring) : (b.alterRing i f).score = b.score := rfl
@[simp] theorem alterRing_active (b : Body) (i : Nat) (f : Ring → Ring) : (b.alterRing i f).active = b.active := rfl
@[simp] theorem alterRing_host (b : Body) (i : Nat) (f : Ring → Ring) : (b.alterRing i f).host = b.host := rfl
@[simp] theorem alterRing_pitches (b : Body) (i : Nat) (f : Ring → Ring) : (b.alterRing i f).pitches = b.pitches := rfl
@[simp] theorem alterRing_engines (b : Body) (i : Nat) (f : Ring → Ring) : (b.alterRing i f).engines = b.engines := rfl
@[simp] theorem alterRing_parts (b : Body) (i : Nat) (f : Ring → Ring) : (b.alterRing i f).parts = b.parts := rfl
@[simp] theorem alterRing_free (b : Body) (i : Nat) (f : Ring → Ring) : (b.alterRing i f).free = b.free := rfl

/-! ### Body.alterLink -/

@[simp] theorem alterLink_boot (b : Body) (l : Nat) (f : Link → Link) : (b.alterLink l f).boot = b.boot := rfl
@[simp] theorem alterLink_clock (b : Body) (l : Nat) (f : Link → Link) : (b.alterLink l f).clock = b.clock := rfl
@[simp] theorem alterLink_sched (b : Body) (l : Nat) (f : Link → Link) : (b.alterLink l f).sched = b.sched := rfl
@[simp] theorem alterLink_power (b : Body) (l : Nat) (f : Link → Link) : (b.alterLink l f).power = b.power := rfl
@[simp] theorem alterLink_keepers (b : Body) (l : Nat) (f : Link → Link) : (b.alterLink l f).keepers = b.keepers := rfl
@[simp] theorem alterLink_doves (b : Body) (l : Nat) (f : Link → Link) : (b.alterLink l f).doves = b.doves := rfl
@[simp] theorem alterLink_book (b : Body) (l : Nat) (f : Link → Link) : (b.alterLink l f).book = b.book := rfl
@[simp] theorem alterLink_store (b : Body) (l : Nat) (f : Link → Link) : (b.alterLink l f).store = b.store := rfl
@[simp] theorem alterLink_whistle (b : Body) (l : Nat) (f : Link → Link) : (b.alterLink l f).whistle = b.whistle := rfl
@[simp] theorem alterLink_score (b : Body) (l : Nat) (f : Link → Link) : (b.alterLink l f).score = b.score := rfl
@[simp] theorem alterLink_rings (b : Body) (l : Nat) (f : Link → Link) : (b.alterLink l f).rings = b.rings := rfl
@[simp] theorem alterLink_active (b : Body) (l : Nat) (f : Link → Link) : (b.alterLink l f).active = b.active := rfl
@[simp] theorem alterLink_host (b : Body) (l : Nat) (f : Link → Link) : (b.alterLink l f).host = b.host := rfl
@[simp] theorem alterLink_pitches (b : Body) (l : Nat) (f : Link → Link) : (b.alterLink l f).pitches = b.pitches := rfl
@[simp] theorem alterLink_engines (b : Body) (l : Nat) (f : Link → Link) : (b.alterLink l f).engines = b.engines := rfl
@[simp] theorem alterLink_parts (b : Body) (l : Nat) (f : Link → Link) : (b.alterLink l f).parts = b.parts := rfl
@[simp] theorem alterLink_free (b : Body) (l : Nat) (f : Link → Link) : (b.alterLink l f).free = b.free := rfl

/-! ### Body.alterSlot -/

@[simp] theorem alterSlot_boot (b : Body) (i : Nat) (f : Slot → Slot) : (b.alterSlot i f).boot = b.boot := rfl
@[simp] theorem alterSlot_clock (b : Body) (i : Nat) (f : Slot → Slot) : (b.alterSlot i f).clock = b.clock := rfl
@[simp] theorem alterSlot_sched (b : Body) (i : Nat) (f : Slot → Slot) : (b.alterSlot i f).sched = b.sched := rfl
@[simp] theorem alterSlot_power (b : Body) (i : Nat) (f : Slot → Slot) : (b.alterSlot i f).power = b.power := rfl
@[simp] theorem alterSlot_keepers (b : Body) (i : Nat) (f : Slot → Slot) : (b.alterSlot i f).keepers = b.keepers := rfl
@[simp] theorem alterSlot_book (b : Body) (i : Nat) (f : Slot → Slot) : (b.alterSlot i f).book = b.book := rfl
@[simp] theorem alterSlot_store (b : Body) (i : Nat) (f : Slot → Slot) : (b.alterSlot i f).store = b.store := rfl
@[simp] theorem alterSlot_net (b : Body) (i : Nat) (f : Slot → Slot) : (b.alterSlot i f).net = b.net := rfl
@[simp] theorem alterSlot_whistle (b : Body) (i : Nat) (f : Slot → Slot) : (b.alterSlot i f).whistle = b.whistle := rfl
@[simp] theorem alterSlot_score (b : Body) (i : Nat) (f : Slot → Slot) : (b.alterSlot i f).score = b.score := rfl
@[simp] theorem alterSlot_rings (b : Body) (i : Nat) (f : Slot → Slot) : (b.alterSlot i f).rings = b.rings := rfl
@[simp] theorem alterSlot_active (b : Body) (i : Nat) (f : Slot → Slot) : (b.alterSlot i f).active = b.active := rfl
@[simp] theorem alterSlot_host (b : Body) (i : Nat) (f : Slot → Slot) : (b.alterSlot i f).host = b.host := rfl
@[simp] theorem alterSlot_pitches (b : Body) (i : Nat) (f : Slot → Slot) : (b.alterSlot i f).pitches = b.pitches := rfl
@[simp] theorem alterSlot_engines (b : Body) (i : Nat) (f : Slot → Slot) : (b.alterSlot i f).engines = b.engines := rfl
@[simp] theorem alterSlot_parts (b : Body) (i : Nat) (f : Slot → Slot) : (b.alterSlot i f).parts = b.parts := rfl
@[simp] theorem alterSlot_free (b : Body) (i : Nat) (f : Slot → Slot) : (b.alterSlot i f).free = b.free := rfl

/-! ### Body.answer -/

@[simp] theorem answer_boot (b : Body) (o : Output) : (b.answer o).boot = b.boot := rfl
@[simp] theorem answer_clock (b : Body) (o : Output) : (b.answer o).clock = b.clock := rfl
@[simp] theorem answer_sched (b : Body) (o : Output) : (b.answer o).sched = b.sched := rfl
@[simp] theorem answer_power (b : Body) (o : Output) : (b.answer o).power = b.power := rfl
@[simp] theorem answer_keepers (b : Body) (o : Output) : (b.answer o).keepers = b.keepers := rfl
@[simp] theorem answer_doves (b : Body) (o : Output) : (b.answer o).doves = b.doves := rfl
@[simp] theorem answer_book (b : Body) (o : Output) : (b.answer o).book = b.book := rfl
@[simp] theorem answer_store (b : Body) (o : Output) : (b.answer o).store = b.store := rfl
@[simp] theorem answer_net (b : Body) (o : Output) : (b.answer o).net = b.net := rfl
@[simp] theorem answer_whistle (b : Body) (o : Output) : (b.answer o).whistle = b.whistle := rfl
@[simp] theorem answer_score (b : Body) (o : Output) : (b.answer o).score = b.score := rfl
@[simp] theorem answer_rings (b : Body) (o : Output) : (b.answer o).rings = b.rings := rfl
@[simp] theorem answer_active (b : Body) (o : Output) : (b.answer o).active = b.active := rfl
@[simp] theorem answer_pitches (b : Body) (o : Output) : (b.answer o).pitches = b.pitches := rfl
@[simp] theorem answer_engines (b : Body) (o : Output) : (b.answer o).engines = b.engines := rfl
@[simp] theorem answer_parts (b : Body) (o : Output) : (b.answer o).parts = b.parts := rfl
@[simp] theorem answer_free (b : Body) (o : Output) : (b.answer o).free = b.free := rfl

/-! ### Body.attention -/

@[simp] theorem attention_boot (b : Body) (i bit : Nat) : (b.attention i bit).boot = b.boot := rfl
@[simp] theorem attention_clock (b : Body) (i bit : Nat) : (b.attention i bit).clock = b.clock := rfl
@[simp] theorem attention_sched (b : Body) (i bit : Nat) : (b.attention i bit).sched = b.sched := rfl
@[simp] theorem attention_power (b : Body) (i bit : Nat) : (b.attention i bit).power = b.power := rfl
@[simp] theorem attention_keepers (b : Body) (i bit : Nat) : (b.attention i bit).keepers = b.keepers := rfl
@[simp] theorem attention_book (b : Body) (i bit : Nat) : (b.attention i bit).book = b.book := rfl
@[simp] theorem attention_store (b : Body) (i bit : Nat) : (b.attention i bit).store = b.store := rfl
@[simp] theorem attention_net (b : Body) (i bit : Nat) : (b.attention i bit).net = b.net := rfl
@[simp] theorem attention_whistle (b : Body) (i bit : Nat) : (b.attention i bit).whistle = b.whistle := rfl
@[simp] theorem attention_score (b : Body) (i bit : Nat) : (b.attention i bit).score = b.score := rfl
@[simp] theorem attention_rings (b : Body) (i bit : Nat) : (b.attention i bit).rings = b.rings := rfl
@[simp] theorem attention_active (b : Body) (i bit : Nat) : (b.attention i bit).active = b.active := rfl
@[simp] theorem attention_host (b : Body) (i bit : Nat) : (b.attention i bit).host = b.host := rfl
@[simp] theorem attention_pitches (b : Body) (i bit : Nat) : (b.attention i bit).pitches = b.pitches := rfl
@[simp] theorem attention_engines (b : Body) (i bit : Nat) : (b.attention i bit).engines = b.engines := rfl
@[simp] theorem attention_parts (b : Body) (i bit : Nat) : (b.attention i bit).parts = b.parts := rfl
@[simp] theorem attention_free (b : Body) (i bit : Nat) : (b.attention i bit).free = b.free := rfl

/-! ### Body.record -/

@[simp] theorem record_boot (b : Body) (ty src : Nat) (m : Word64) (d : List Nat) : (b.record ty src m d).boot = b.boot := rfl
@[simp] theorem record_clock (b : Body) (ty src : Nat) (m : Word64) (d : List Nat) : (b.record ty src m d).clock = b.clock := rfl
@[simp] theorem record_sched (b : Body) (ty src : Nat) (m : Word64) (d : List Nat) : (b.record ty src m d).sched = b.sched := rfl
@[simp] theorem record_power (b : Body) (ty src : Nat) (m : Word64) (d : List Nat) : (b.record ty src m d).power = b.power := rfl
@[simp] theorem record_keepers (b : Body) (ty src : Nat) (m : Word64) (d : List Nat) : (b.record ty src m d).keepers = b.keepers := rfl
@[simp] theorem record_doves (b : Body) (ty src : Nat) (m : Word64) (d : List Nat) : (b.record ty src m d).doves = b.doves := rfl
@[simp] theorem record_book (b : Body) (ty src : Nat) (m : Word64) (d : List Nat) : (b.record ty src m d).book = b.book := rfl
@[simp] theorem record_store (b : Body) (ty src : Nat) (m : Word64) (d : List Nat) : (b.record ty src m d).store = b.store := rfl
@[simp] theorem record_net (b : Body) (ty src : Nat) (m : Word64) (d : List Nat) : (b.record ty src m d).net = b.net := rfl
@[simp] theorem record_whistle (b : Body) (ty src : Nat) (m : Word64) (d : List Nat) : (b.record ty src m d).whistle = b.whistle := rfl
@[simp] theorem record_rings (b : Body) (ty src : Nat) (m : Word64) (d : List Nat) : (b.record ty src m d).rings = b.rings := rfl
@[simp] theorem record_active (b : Body) (ty src : Nat) (m : Word64) (d : List Nat) : (b.record ty src m d).active = b.active := rfl
@[simp] theorem record_host (b : Body) (ty src : Nat) (m : Word64) (d : List Nat) : (b.record ty src m d).host = b.host := rfl
@[simp] theorem record_pitches (b : Body) (ty src : Nat) (m : Word64) (d : List Nat) : (b.record ty src m d).pitches = b.pitches := rfl
@[simp] theorem record_engines (b : Body) (ty src : Nat) (m : Word64) (d : List Nat) : (b.record ty src m d).engines = b.engines := rfl
@[simp] theorem record_parts (b : Body) (ty src : Nat) (m : Word64) (d : List Nat) : (b.record ty src m d).parts = b.parts := rfl
@[simp] theorem record_free (b : Body) (ty src : Nat) (m : Word64) (d : List Nat) : (b.record ty src m d).free = b.free := rfl

/-! ### Body.until_ -/

@[simp] theorem until_boot (b : Body) (t : Nat) : (b.until_ t).boot = b.boot := rfl
@[simp] theorem until_sched (b : Body) (t : Nat) : (b.until_ t).sched = b.sched := rfl
@[simp] theorem until_power (b : Body) (t : Nat) : (b.until_ t).power = b.power := rfl
@[simp] theorem until_keepers (b : Body) (t : Nat) : (b.until_ t).keepers = b.keepers := rfl
@[simp] theorem until_doves (b : Body) (t : Nat) : (b.until_ t).doves = b.doves := rfl
@[simp] theorem until_book (b : Body) (t : Nat) : (b.until_ t).book = b.book := rfl
@[simp] theorem until_store (b : Body) (t : Nat) : (b.until_ t).store = b.store := rfl
@[simp] theorem until_net (b : Body) (t : Nat) : (b.until_ t).net = b.net := rfl
@[simp] theorem until_whistle (b : Body) (t : Nat) : (b.until_ t).whistle = b.whistle := rfl
@[simp] theorem until_score (b : Body) (t : Nat) : (b.until_ t).score = b.score := rfl
@[simp] theorem until_rings (b : Body) (t : Nat) : (b.until_ t).rings = b.rings := rfl
@[simp] theorem until_active (b : Body) (t : Nat) : (b.until_ t).active = b.active := rfl
@[simp] theorem until_host (b : Body) (t : Nat) : (b.until_ t).host = b.host := rfl
@[simp] theorem until_parts (b : Body) (t : Nat) : (b.until_ t).parts = b.parts := rfl
@[simp] theorem until_free (b : Body) (t : Nat) : (b.until_ t).free = b.free := rfl

/-! ## Accessors after an update -/

theorem alterPart_part (b : Body) (p q : Nat) (f : Partition → Partition) :
    (b.alterPart p f).part q = if p = q ∧ q < b.parts.length then f (b.part q) else b.part q := by
  simp only [Body.part, Body.alterPart, alter_getD]

@[simp] theorem alterPart_other (b : Body) (p q : Nat) (f : Partition → Partition) (h : q ≠ p) : (b.alterPart p f).part q = b.part q := by
  rw [alterPart_part, if_neg (fun e => h e.1.symm)]

theorem alterPart_same (b : Body) (p : Nat) (f : Partition → Partition) (h : p < b.parts.length) :
    (b.alterPart p f).part p = f (b.part p) := by
  rw [alterPart_part, if_pos ⟨rfl, h⟩]

/-- A partition whose state is not that of one that holds nothing is one of the module's. -/
theorem part_lt (b : Body) (p : Nat) (h : (b.part p).fstate ≠ .empty) : p < b.parts.length := by
  by_contra hn
  apply h
  simp [Body.part, List.getD_eq_getElem?_getD, List.getElem?_eq_none (Nat.le_of_not_lt hn), Partition.reset]

theorem alterLink_link (b : Body) (l k : Nat) (f : Link → Link) :
    (b.alterLink l f).link k = if l = k ∧ k < b.net.links.length then f (b.link k) else b.link k := by
  simp only [Body.link, Body.alterLink, alter_getD]

@[simp] theorem alterLink_other (b : Body) (l k : Nat) (f : Link → Link) (h : k ≠ l) : (b.alterLink l f).link k = b.link k := by
  rw [alterLink_link, if_neg (fun e => h e.1.symm)]

theorem alterLink_same (b : Body) (l : Nat) (f : Link → Link) (h : l < b.net.links.length) :
    (b.alterLink l f).link l = f (b.link l) := by
  rw [alterLink_link, if_pos ⟨rfl, h⟩]

@[simp] theorem alterLink_length (b : Body) (l : Nat) (f : Link → Link) : (b.alterLink l f).net.links.length = b.net.links.length := by
  simp [Body.alterLink]

/-- A link that is not DOWN is one of the module's. -/
theorem link_lt (b : Body) (l : Nat) (h : (b.link l).state ≠ .down) : l < b.net.links.length := by
  by_contra hn
  apply h
  simp [Body.link, List.getD_eq_getElem?_getD, List.getElem?_eq_none (Nat.le_of_not_lt hn), Link.reset]

theorem alterPitch_pitch (b : Body) (i j : Nat) (f : Pitch → Pitch) :
    (b.alterPitch i f).pitch j = if i = j ∧ j < b.pitches.length then f (b.pitch j) else b.pitch j := by
  simp only [Body.pitch, Body.alterPitch, alter_getD]

theorem alterEngine_engine (b : Body) (i j : Nat) (f : Engine → Engine) :
    (b.alterEngine i f).engine j = if i = j ∧ j < b.engines.length then f (b.engine j) else b.engine j := by
  simp only [Body.engine, Body.alterEngine, alter_getD]

theorem alterSlot_slot (b : Body) (i j : Nat) (f : Slot → Slot) :
    (b.alterSlot i f).slot j = if i = j ∧ j < b.doves.slots.length then f (b.slot j) else b.slot j := by
  simp only [Body.slot, Body.alterSlot, alter_getD]

theorem attention_slot (b : Body) (i bit j : Nat) : (b.attention i bit).slot j = b.slot j := rfl

/-- An update that leaves its unit as it is leaves the list. -/
theorem alter_id {α : Type} (i : Nat) (f : α → α) (xs : List α) (h : ∀ x, xs[i]? = some x → f x = x) : alter i f xs = xs := by
  rw [alter_congr i f id xs (by simpa using h)]
  unfold alter
  apply List.ext_getElem?
  intro j
  rw [List.getElem?_modify]
  cases xs[j]? <;> simp

/-- Units of a list, each changed by its number. -/
theorem zipIdx_map_getD {α : Type} (f : α × Nat → α) (xs : List α) (i : Nat) (d : α) :
    (xs.zipIdx.map f).getD i d = if i < xs.length then f (xs.getD i d, i) else d := by
  simp only [List.getD_eq_getElem?_getD, List.getElem?_map, List.getElem?_zipIdx]
  by_cases h : i < xs.length
  · simp [h, List.getElem?_eq_getElem h]
  · simp [h, List.getElem?_eq_none (Nat.le_of_not_lt h)]

end Sys2Proof.Laws
end

