-- ==== Sys2Proof/Laws/Fault.lean ====
section
/-!
SUPPORT. Fault messages: the fields of a message word, and everything that a message, a timer and a fatal action can change.
-/

namespace Sys2Proof.Laws

open Sys2Proof Sys2Proof.Machine

/-! ## The word (R330) -/

theorem code_lt (c : FaultClass) : c.code < 4 := by cases c <;> decide

theorem faultWord_toNat (ty i : Nat) (c : FaultClass) (pr av : Bool) (k a : Nat) (ht : ty < 64) (hi : i < 64) :
    (faultWord ty i c pr av k a).toNat = ((ty * 64 + i) * 4 + c.code) * 2 ^ 50 + (cond pr 1 0) * 2 ^ 49 + (cond av 1 0) * 2 ^ 48
      + k % 256 * 2 ^ 40 + a % 2 ^ 40 := by
  have hc := code_lt c
  unfold faultWord
  rw [BitVec.toNat_ofNat, Nat.mod_eq_of_lt]
  have h1 : (cond pr 1 0 : Nat) ≤ 1 := by cases pr <;> decide
  have h2 : (cond av 1 0 : Nat) ≤ 1 := by cases av <;> decide
  have h3 : k % 256 < 256 := Nat.mod_lt _ (by decide)
  have h4 : a % 2 ^ 40 < 2 ^ 40 := Nat.mod_lt _ (by decide)
  omega

theorem msgType_faultWord (ty i : Nat) (c : FaultClass) (pr av : Bool) (k a : Nat) (ht : ty < 64) (hi : i < 64) :
    msgType (faultWord ty i c pr av k a) = ty := by
  have hc := code_lt c
  have h1 : (cond pr 1 0 : Nat) ≤ 1 := by cases pr <;> decide
  have h2 : (cond av 1 0 : Nat) ≤ 1 := by cases av <;> decide
  have h3 : k % 256 < 256 := Nat.mod_lt _ (by decide)
  have h4 : a % 2 ^ 40 < 2 ^ 40 := Nat.mod_lt _ (by decide)
  unfold msgType
  rw [BitVec.extractLsb'_toNat, faultWord_toNat _ _ _ _ _ _ _ ht hi, Nat.shiftRight_eq_div_pow]
  omega

theorem msgInst_faultWord (ty i : Nat) (c : FaultClass) (pr av : Bool) (k a : Nat) (ht : ty < 64) (hi : i < 64) :
    msgInst (faultWord ty i c pr av k a) = i := by
  have hc := code_lt c
  have h1 : (cond pr 1 0 : Nat) ≤ 1 := by cases pr <;> decide
  have h2 : (cond av 1 0 : Nat) ≤ 1 := by cases av <;> decide
  have h3 : k % 256 < 256 := Nat.mod_lt _ (by decide)
  have h4 : a % 2 ^ 40 < 2 ^ 40 := Nat.mod_lt _ (by decide)
  unfold msgInst
  rw [BitVec.extractLsb'_toNat, faultWord_toNat _ _ _ _ _ _ _ ht hi, Nat.shiftRight_eq_div_pow]
  omega

theorem msgKind_faultWord (ty i : Nat) (c : FaultClass) (pr av : Bool) (k a : Nat) (ht : ty < 64) (hi : i < 64) (hk : k < 256) :
    msgKind (faultWord ty i c pr av k a) = k := by
  have hc := code_lt c
  have h1 : (cond pr 1 0 : Nat) ≤ 1 := by cases pr <;> decide
  have h2 : (cond av 1 0 : Nat) ≤ 1 := by cases av <;> decide
  have h4 : a % 2 ^ 40 < 2 ^ 40 := Nat.mod_lt _ (by decide)
  unfold msgKind
  rw [BitVec.extractLsb'_toNat, faultWord_toNat _ _ _ _ _ _ _ ht hi, Nat.shiftRight_eq_div_pow]
  omega

theorem msgClass_faultWord (ty i : Nat) (c : FaultClass) (pr av : Bool) (k a : Nat) (ht : ty < 64) (hi : i < 64) :
    msgClass (faultWord ty i c pr av k a) = c := by
  have hc := code_lt c
  have h1 : (cond pr 1 0 : Nat) ≤ 1 := by cases pr <;> decide
  have h2 : (cond av 1 0 : Nat) ≤ 1 := by cases av <;> decide
  have h3 : k % 256 < 256 := Nat.mod_lt _ (by decide)
  have h4 : a % 2 ^ 40 < 2 ^ 40 := Nat.mod_lt _ (by decide)
  have e : ((faultWord ty i c pr av k a).extractLsb' 50 2).toNat = c.code := by
    rw [BitVec.extractLsb'_toNat, faultWord_toNat _ _ _ _ _ _ _ ht hi, Nat.shiftRight_eq_div_pow]
    omega
  unfold msgClass
  rw [e]
  cases c <;> rfl

/-! ## What a message can change -/

theorem alterPage_form (w : Whistle) (ty i : Nat) (f : FaultPage → FaultPage) :
    w.alterPage ty i f = { w with pages := (w.alterPage ty i f).pages } := by
  unfold Whistle.alterPage
  cases pageSlot ty i <;> rfl

@[simp] theorem alterPage_halves (w : Whistle) (ty i : Nat) (f : FaultPage → FaultPage) : (w.alterPage ty i f).halves = w.halves := by
  rw [alterPage_form]

@[simp] theorem alterPage_wh (w : Whistle) (ty i : Nat) (f : FaultPage → FaultPage) : (w.alterPage ty i f).wh = w.wh := by
  rw [alterPage_form]

@[simp] theorem alterPage_length (w : Whistle) (ty i : Nat) (f : FaultPage → FaultPage) : (w.alterPage ty i f).pages.length = w.pages.length := by
  unfold Whistle.alterPage
  cases pageSlot ty i <;> simp

/-- FAULT of an attention word, if the message has one. -/
theorem noteFault_form (b : Body) (m : Word64) : ∃ dv, b.noteFault m = { b with doves := dv } := by
  unfold Body.noteFault
  cases b.attentionOf m
  · exact ⟨b.doves, rfl⟩
  · exact ⟨_, rfl⟩

/-- A contained message: the Whistle's pages, the log and an attention word. -/
theorem contained_form (b : Body) (m : Word64) : ∃ ps wh mf sc dv,
    b.contained m = { b with whistle := { b.whistle with pages := ps, wh := wh, moduleFirst := mf }, score := sc, doves := dv } := by
  unfold Body.contained
  dsimp only
  obtain ⟨dv, e⟩ := noteFault_form _ m
  rw [e]
  unfold Body.latchMessage Whistle.first Whistle.alterPage
  cases pageSlot (msgType m) (msgInst m)
  · exact ⟨b.whistle.pages, _, _, _, dv, rfl⟩
  · exact ⟨_, _, _, _, dv, rfl⟩

/-- Whatever the message, partitions, rings, registers of the host and of power, and all memory contents stay. -/
theorem corrected_form (b : Body) (m : Word64) : ∃ ps wh mf pr sc dv ca la,
    b.corrected m = { b with whistle := { b.whistle with pages := ps, wh := wh, moduleFirst := mf, promo := pr }, score := sc, doves := dv,
                             store := { b.store with correctedAt := ca }, net := { b.net with laneFailedAt := la } } := by
  have hf : ∃ ca la, b.forecastInput (msgKind m) =
      { b with store := { b.store with correctedAt := ca }, net := { b.net with laneFailedAt := la } } := by
    unfold Body.forecastInput
    split
    · exact ⟨_, b.net.laneFailedAt, rfl⟩
    · split
      · exact ⟨b.store.correctedAt, _, rfl⟩
      · exact ⟨b.store.correctedAt, b.net.laneFailedAt, rfl⟩
  obtain ⟨ca, la, e⟩ := hf
  unfold Body.corrected
  dsimp only
  rw [e]
  split
  · obtain ⟨ps, wh, mf, sc, dv, e2⟩ := contained_form _ _
    exact ⟨ps, wh, mf, _, sc, dv, ca, la, e2⟩
  · unfold Body.latchMessage Whistle.first Whistle.alterPage
    cases pageSlot (msgType m) (msgInst m)
    · exact ⟨b.whistle.pages, _, _, _, b.score, b.doves, ca, la, rfl⟩
    · exact ⟨_, _, _, _, b.score, b.doves, ca, la, rfl⟩

/-- A message of a source that Table 14.2 lists, by its class. -/
theorem message_contained (b : Body) (m : Word64) (s : Nat) (hs : pageSlot (msgType m) (msgInst m) = some s) (hc : msgClass m = .contained) :
    b.message m = b.contained m := by
  unfold Body.message; rw [hs]; simp only [hc]

theorem message_corrected (b : Body) (m : Word64) (s : Nat) (hs : pageSlot (msgType m) (msgInst m) = some s) (hc : msgClass m = .corrected) :
    b.message m = b.corrected m := by
  unfold Body.message; rw [hs]; simp only [hc]

theorem message_fatal (b : Body) (m : Word64) (s : Nat) (hs : pageSlot (msgType m) (msgInst m) = some s) (hc : msgClass m = .fatal) :
    b.message m = b.fatalMessage m := by
  unfold Body.message; rw [hs]; simp only [hc]

theorem raise_contained (b : Body) (ty i k a s : Nat) (ht : ty < 64) (hi : i < 64) (hs : pageSlot ty i = some s) :
    b.raise ty i .contained k a = b.contained (faultWord ty i .contained false false k a) :=
  message_contained b _ s (by rw [msgType_faultWord _ _ _ _ _ _ _ ht hi, msgInst_faultWord _ _ _ _ _ _ _ ht hi]; exact hs)
    (msgClass_faultWord _ _ _ _ _ _ _ ht hi)

theorem raise_corrected (b : Body) (ty i k a s : Nat) (ht : ty < 64) (hi : i < 64) (hs : pageSlot ty i = some s) :
    b.raise ty i .corrected k a = b.corrected (faultWord ty i .corrected false false k a) :=
  message_corrected b _ s (by rw [msgType_faultWord _ _ _ _ _ _ _ ht hi, msgInst_faultWord _ _ _ _ _ _ _ ht hi]; exact hs)
    (msgClass_faultWord _ _ _ _ _ _ _ ht hi)

theorem raise_fatal (b : Body) (ty i k a s : Nat) (ht : ty < 64) (hi : i < 64) (hs : pageSlot ty i = some s) :
    b.raise ty i .fatal k a = b.fatalMessage (faultWord ty i .fatal false false k a) :=
  message_fatal b _ s (by rw [msgType_faultWord _ _ _ _ _ _ _ ht hi, msgInst_faultWord _ _ _ _ _ _ _ ht hi]; exact hs)
    (msgClass_faultWord _ _ _ _ _ _ _ ht hi)

theorem pageSlot_bounds (ty i s : Nat) (h : pageSlot ty i = some s) : ty < 64 ∧ i < 64 := by
  unfold pageSlot at h
  split at h
  · rename_i hh
    obtain ⟨h1, h2, h3⟩ := hh
    refine ⟨by omega, ?_⟩
    have : sourceInstances.getD (ty - 1) 0 ≤ 48 := by
      have : ty - 1 < 15 := by omega
      interval_cases ty - 1 <;> decide
    omega
  · cases h

/-- A contained message of a block: pages, log and attention alone. -/
theorem raise_contained_form (b : Body) (ty i k a s : Nat) (hs : pageSlot ty i = some s) : ∃ ps wh mf sc dv,
    b.raise ty i .contained k a =
      { b with whistle := { b.whistle with pages := ps, wh := wh, moduleFirst := mf }, score := sc, doves := dv } := by
  obtain ⟨ht, hi⟩ := pageSlot_bounds ty i s hs
  rw [raise_contained b ty i k a s ht hi hs]
  exact contained_form b _

theorem raise_corrected_form (b : Body) (ty i k a s : Nat) (hs : pageSlot ty i = some s) : ∃ ps wh mf pr sc dv ca la,
    b.raise ty i .corrected k a =
      { b with whistle := { b.whistle with pages := ps, wh := wh, moduleFirst := mf, promo := pr }, score := sc, doves := dv,
               store := { b.store with correctedAt := ca }, net := { b.net with laneFailedAt := la } } := by
  obtain ⟨ht, hi⟩ := pageSlot_bounds ty i s hs
  rw [raise_corrected b ty i k a s ht hi hs]
  exact corrected_form b _

end Sys2Proof.Laws
end

