-- ==== Sys2Proof/Laws/Memory.lean ====
section
/-!
SUPPORT. Memory: what a read gives after a write, and that every operation keeps the canonical form.
-/

namespace Sys2Proof.Laws

open Sys2Proof Sys2Proof.Machine

@[simp] theorem memory_get_nil (x : Nat) : Memory.get [] x = 0 := rfl

theorem memory_get_insert (m : Memory) (x : Nat) (v : Byte) (y : Nat) (h : ∀ c ∈ m, c.1 ≠ x) :
    (Memory.insert m x v).get y = if y = x then v else m.get y := by
  induction m with
  | nil =>
    by_cases hy : y = x
    · simp [Memory.insert, Memory.get, hy]
    · simp [Memory.insert, Memory.get, hy, Ne.symm hy]
  | cons c m ih =>
    obtain ⟨a, b⟩ := c
    have ha : a ≠ x := h (a, b) (by simp)
    have ih' := ih (fun c hc => h c (by simp [hc]))
    unfold Memory.insert
    split
    · by_cases hy : y = x
      · simp [Memory.get, hy]
      · simp [Memory.get, hy, Ne.symm hy]
    · by_cases hy : y = a
      · subst hy; simp [Memory.get, ha]
      · simp [Memory.get, Ne.symm hy, ih']

theorem memory_get_filter (m : Memory) (p : Nat → Bool) (y : Nat) :
    Memory.get (m.filter (fun c => p c.1)) y = if p y then m.get y else 0 := by
  induction m with
  | nil => simp
  | cons c m ih =>
    obtain ⟨a, b⟩ := c
    rw [List.filter_cons]
    by_cases ha : a = y
    · subst ha; cases hp : p a <;> simp [Memory.get, hp, ih]
    · cases hp : p a <;> simp [Memory.get, ih, ha]

/-- A byte written reads back; every other byte reads as before. -/
theorem memory_get_set (m : Memory) (x : Nat) (v : Byte) (y : Nat) :
    (Memory.set m x v).get y = if y = x then v else m.get y := by
  have hf := memory_get_filter m (fun a => decide (a ≠ x)) y
  unfold Memory.set
  by_cases hv : v = 0
  · simp only [hv, if_true]
    rw [hf]
    by_cases hy : y = x <;> simp [hy]
  · simp only [hv, if_false]
    rw [memory_get_insert _ _ _ _ (by simp), hf]
    by_cases hy : y = x <;> simp [hy]

theorem memory_get_write (vs : List Byte) (m : Memory) (x y : Nat) :
    (Memory.write m x vs).get y = if x ≤ y ∧ y < x + vs.length then vs.getD (y - x) 0 else m.get y := by
  induction vs generalizing m x with
  | nil => simp [Memory.write]
  | cons v vs ih =>
    simp only [Memory.write, ih, memory_get_set, List.length_cons]
    by_cases h1 : y = x
    · subst h1
      simp
    · by_cases h2 : x + 1 ≤ y ∧ y < x + 1 + vs.length
      · have h3 : x ≤ y ∧ y < x + (vs.length + 1) := by omega
        have h4 : y - x = (y - (x + 1)) + 1 := by omega
        simp [h2, h3, h4]
      · have h3 : ¬(x ≤ y ∧ y < x + (vs.length + 1)) := by omega
        rw [if_neg h2, if_neg h3, if_neg h1]

/-! ## The canonical form -/

theorem memory_wf_iff (m : Memory) :
    Memory.wf m = true ↔ m.Pairwise (fun c d => c.1 < d.1) ∧ ∀ c ∈ m, c.2 ≠ 0 := by
  induction m with
  | nil => simp [Memory.wf]
  | cons c m ih =>
    obtain ⟨a, b⟩ := c
    cases m with
    | nil => simp [Memory.wf]
    | cons d m =>
      obtain ⟨a', b'⟩ := d
      simp only [Memory.wf, Bool.and_eq_true, bne_iff_ne, ne_eq, decide_eq_true_eq, ih]
      constructor
      · rintro ⟨⟨hb, hlt⟩, hp, hz⟩
        refine ⟨?_, ?_⟩
        · rw [List.pairwise_cons] at hp ⊢
          refine ⟨fun e he => ?_, List.pairwise_cons.2 hp⟩
          rcases List.mem_cons.1 he with rfl | he
          · exact hlt
          · exact Nat.lt_trans hlt (hp.1 e he)
        · intro c hc
          rcases List.mem_cons.1 hc with rfl | hc
          · exact hb
          · exact hz c hc
      · rintro ⟨hp, hz⟩
        rw [List.pairwise_cons] at hp
        exact ⟨⟨hz (a, b) (by simp), hp.1 (a', b') (by simp)⟩, hp.2, fun c hc => hz c (by simp [hc])⟩

theorem memory_wf_filter (m : Memory) (p : Host.Cell → Bool) (h : Memory.wf m = true) : Memory.wf (m.filter p) = true := by
  rw [memory_wf_iff] at h ⊢
  exact ⟨h.1.filter p, fun c hc => h.2 c (List.mem_filter.1 hc).1⟩

theorem memory_mem_insert (m : Memory) (x : Nat) (v : Byte) (c : Host.Cell) (h : c ∈ Memory.insert m x v) :
    c = (x, v) ∨ c ∈ m := by
  induction m with
  | nil => simp_all [Memory.insert]
  | cons d m ih =>
    obtain ⟨a, b⟩ := d
    unfold Memory.insert at h
    split at h <;> simp_all
    rcases h with h | h
    · exact .inr (.inl h)
    · rcases ih h with h | h
      · exact .inl h
      · exact .inr (.inr h)

theorem memory_wf_insert (m : Memory) (x : Nat) (v : Byte) (hv : v ≠ 0) (hx : ∀ c ∈ m, c.1 ≠ x) (h : Memory.wf m = true) :
    Memory.wf (Memory.insert m x v) = true := by
  rw [memory_wf_iff] at h ⊢
  refine ⟨?_, fun c hc => ?_⟩
  · induction m with
    | nil => simp [Memory.insert]
    | cons d m ih =>
      obtain ⟨a, b⟩ := d
      have hp := List.pairwise_cons.1 h.1
      unfold Memory.insert
      split
      · rename_i hlt
        refine List.pairwise_cons.2 ⟨fun c hc => ?_, h.1⟩
        rcases List.mem_cons.1 hc with rfl | hc
        · exact hlt
        · exact Nat.lt_trans hlt (hp.1 c hc)
      · rename_i hlt
        refine List.pairwise_cons.2 ⟨fun c hc => ?_, ih (fun c hc => hx c (by simp [hc])) ⟨hp.2, fun c hc => h.2 c (by simp [hc])⟩⟩
        rcases memory_mem_insert m x v c hc with rfl | hc
        · have := hx (a, b) (by simp)
          simp only at this ⊢; omega
        · exact hp.1 c hc
  · rcases memory_mem_insert m x v c hc with rfl | hc
    · exact hv
    · exact h.2 c hc

theorem memory_wf_set (m : Memory) (x : Nat) (v : Byte) (h : Memory.wf m = true) : Memory.wf (Memory.set m x v) = true := by
  unfold Memory.set
  by_cases hv : v = 0
  · simp only [hv, if_true]; exact memory_wf_filter _ _ h
  · simp only [hv, if_false]
    exact memory_wf_insert _ _ _ hv (by simp) (memory_wf_filter _ _ h)

theorem memory_wf_write (vs : List Byte) (m : Memory) (x : Nat) (h : Memory.wf m = true) :
    Memory.wf (Memory.write m x vs) = true := by
  induction vs generalizing m x with
  | nil => exact h
  | cons v vs ih => exact ih _ _ (memory_wf_set _ _ _ h)

theorem memory_wf_clear (m : Memory) (x n : Nat) (h : Memory.wf m = true) : Memory.wf (Memory.clear m x n) = true :=
  memory_wf_filter _ _ h

theorem memory_get_clear (m : Memory) (x n y : Nat) :
    (Memory.clear m x n).get y = if x ≤ y ∧ y < x + n then 0 else m.get y := by
  unfold Memory.clear
  rw [memory_get_filter m (fun a => decide (a < x) || decide (x + n ≤ a))]
  by_cases h : x ≤ y ∧ y < x + n
  · have h1 : ¬ y < x := by omega
    have h2 : ¬ x + n ≤ y := by omega
    simp [h, h1, h2]
  · have h1 : y < x ∨ x + n ≤ y := by omega
    simp [h, h1]

/-- Two memories in canonical form that read the same are equal. -/
theorem memory_wf_ext (m n : Memory) (hm : Memory.wf m = true) (hn : Memory.wf n = true) (h : ∀ x, m.get x = n.get x) : m = n := by
  rw [memory_wf_iff] at hm hn
  have key : ∀ k : Memory, k.Pairwise (fun c d => c.1 < d.1) → (∀ c ∈ k, c.2 ≠ 0) → ∀ x v, (x, v) ∈ k ↔ (k.get x = v ∧ v ≠ 0) := by
    intro k
    induction k with
    | nil => intro _ _ x v; simp; intro h; exact h.symm
    | cons d k ih =>
      obtain ⟨a, b⟩ := d
      intro hp hz x v
      have hp' := List.pairwise_cons.1 hp
      have ih' := ih hp'.2 (fun c hc => hz c (by simp [hc])) x v
      have hb : b ≠ 0 := hz (a, b) (by simp)
      simp only [List.mem_cons, Prod.mk.injEq, Memory.get]
      by_cases hx : a = x
      · subst hx
        simp only [true_and, if_true]
        constructor
        · rintro (rfl | h)
          · exact ⟨rfl, hb⟩
          · exact absurd (hp'.1 _ h) (by simp)
        · rintro ⟨rfl, _⟩; exact .inl rfl
      · simp only [Ne.symm hx, hx, false_and, false_or, if_false]; exact ih'
  have hperm : m.Perm n := by
    rw [List.perm_ext_iff_of_nodup]
    · rintro ⟨x, v⟩
      rw [key m hm.1 hm.2, key n hn.1 hn.2, h]
    · exact hm.1.imp (fun h => by intro e; subst e; simp at h)
    · exact hn.1.imp (fun h => by intro e; subst e; simp at h)
  exact hperm.eq_of_pairwise (fun a b _ _ h1 h2 => by omega) hm.1 hn.1

/-! ## Bytes of the store -/

@[simp] theorem cleanCw_cells (s : Store) (c : Nat) : (s.cleanCw c).cells = s.cells := rfl
@[simp] theorem cleanCw_lost (s : Store) (c : Nat) : (s.cleanCw c).lost = s.lost := rfl

theorem cleanCws_cells (cs : List Nat) (s : Store) : (cs.foldl Store.cleanCw s).cells = s.cells := by
  induction cs generalizing s with
  | nil => rfl
  | cons c cs ih => simp [ih]

theorem cleanCws_lost (cs : List Nat) (s : Store) : (cs.foldl Store.cleanCw s).lost = s.lost := by
  induction cs generalizing s with
  | nil => rfl
  | cons c cs ih => simp [ih]

/-- Storing bytes keeps the canonical form. -/
theorem writeBytes_wf (s : Store) (a : Nat) (vs : List Byte) (h : Memory.wf s.cells = true) :
    Memory.wf (s.writeBytes a vs).cells = true := by
  unfold Store.writeBytes
  simp only [cleanCws_cells]
  exact memory_wf_write _ _ _ h

theorem holds_rewritten (l : LostSlot) (a n x : Nat) :
    LostSlot.holds { l with rewritten := (a, n) :: l.rewritten } x = (l.holds x && !decide (a ≤ x ∧ x < a + n)) := by
  have e1 : LostSlot.origin { l with rewritten := (a, n) :: l.rewritten } x = l.origin x := rfl
  have e2 : ∀ y, LostSlot.inSlot { l with rewritten := (a, n) :: l.rewritten } y = l.inSlot y := fun _ => rfl
  simp only [LostSlot.holds, e1, e2, List.any_cons, Bool.not_or]
  cases l.inSlot (l.origin x) <;> cases (l.rewritten.any fun w => decide (w.1 ≤ x ∧ x < w.1 + w.2)) <;> simp

/-- Bytes stored read back, poison or lost content before them or not; every other byte reads as before. -/
theorem writeBytes_byte (s : Store) (a : Nat) (vs : List Byte) (x : Nat) :
    (s.writeBytes a vs).byte x = if a ≤ x ∧ x < a + vs.length then vs.getD (x - a) 0 else s.byte x := by
  unfold Store.byte Store.writeBytes
  simp only [cleanCws_cells, cleanCws_lost, List.find?_map, memory_get_write]
  by_cases h : a ≤ x ∧ x < a + vs.length
  · have : List.find? ((fun l : LostSlot => LostSlot.holds l x) ∘ fun l : LostSlot => { l with rewritten := (a, vs.length) :: l.rewritten }) s.lost = none := by
      simp [List.find?_eq_none, holds_rewritten, h]
    rw [this]; simp [h]
  · have : ((fun l : LostSlot => LostSlot.holds l x) ∘ fun l : LostSlot => { l with rewritten := (a, vs.length) :: l.rewritten }) = fun l : LostSlot => l.holds x := by
      funext l
      simp [holds_rewritten]
      intro _
      omega
    rw [this]
    cases s.lost.find? (fun l => l.holds x) <;> simp [h]

end Sys2Proof.Laws
end

