-- ==== Sys2Proof/Laws/Slots.lean ====
section
/-!
SUPPORT. What writes to dovecote slots and stop requests can do: each changes one part of the state, in one of the listed ways.
-/

namespace Sys2Proof.Laws

open Sys2Proof Sys2Proof.Machine

/-- Latching wake events changes nothing but them. -/
theorem latchWakes_form (ds : List Nat) (b : Body) : ∃ ws, ds.foldl Body.latchWake b = { b with doves := { b.doves with wake := ws } } := by
  induction ds generalizing b with
  | nil => exact ⟨b.doves.wake, rfl⟩
  | cons d ds ih =>
    obtain ⟨ws, h⟩ := ih (b.latchWake d)
    exact ⟨ws, h⟩

/-- A word for a range of slots: the first empty one takes it, and its receivers' wake events are latched. -/
theorem writeFirst_empty (b : Body) (slots domains : List Nat) (w : Word64) (s : Nat)
    (h : slots.find? (fun s => !(b.slot s).full) = some s) : ∃ ws,
    b.writeFirst slots w domains = (some s, { b with doves := { b.doves with
      slots := alter s (fun x => { x with word := w, full := true }) b.doves.slots, wake := ws } }) := by
  obtain ⟨ws, e⟩ := latchWakes_form domains (b.alterSlot s (fun x => { x with word := w, full := true }))
  exact ⟨ws, by simp only [Body.writeFirst, h, e]; rfl⟩

/-- With every slot of the range full the word is lost: the overrun bit of the first is all that changes. -/
theorem writeFirst_full (b : Body) (slots domains : List Nat) (w : Word64) (h : slots.find? (fun s => !(b.slot s).full) = none) :
    b.writeFirst slots w domains = (none, { b with doves := { b.doves with
      slots := alter (slots.headD 64) (fun x => { x with overrun := true }) b.doves.slots } }) := by
  simp only [Body.writeFirst, h, Body.alterSlot]

/-- A write to a range of slots changes slots and wake events, and nothing else. -/
theorem writeFirst_form (b : Body) (slots domains : List Nat) (w : Word64) : ∃ ss ws,
    (b.writeFirst slots w domains).2 = { b with doves := { b.doves with slots := ss, wake := ws } } := by
  cases h : slots.find? (fun s => !(b.slot s).full) with
  | some s =>
    obtain ⟨ws, e⟩ := writeFirst_empty b slots domains w s h
    exact ⟨alter s (fun x => { x with word := w, full := true }) b.doves.slots, ws, congrArg Prod.snd e⟩
  | none =>
    exact ⟨alter (slots.headD 64) (fun x => { x with overrun := true }) b.doves.slots, b.doves.wake,
      congrArg Prod.snd (writeFirst_full b slots domains w h)⟩

/-- A reply of the Lodge also draws the free value of its word. -/
theorem replyIn_form (b : Body) (slots domains : List Nat) : ∃ ss ws,
    b.replyIn slots domains = { b with doves := { b.doves with slots := ss, wake := ws }, free := b.free + 1 } := by
  obtain ⟨ss, ws, e⟩ := writeFirst_form b slots domains (Config.replyWord b.free)
  exact ⟨ss, ws, by simp only [Body.replyIn, e]⟩

/-- R65, R68: after a stop request a pitch is in STOPPING, or was in STOPPED already, and it will not resume by itself. -/
theorem pitchStop_cases (now : Nat) (x : Pitch) :
    (x.state = .stopped ∧ x.stop now = x) ∨ ((x.stop now).state = .stopping ∧ (x.stop now).resume = false) := by
  cases hx : x.state <;> simp [Pitch.stop, hx]

/-- R195: after a stop request an engine is in STOPPED, or in STOPPING where a closing burst has begun. -/
theorem engineStop_cases (now : Nat) (burst : Bool) (x : Engine) :
    (x.stop now burst).state = .stopped ∨
      ((x.stop now burst).state = .stopping ∧ (burst = true ∨ x.state = .stopping) ∧ (x.stop now burst).accs = x.accs) := by
  cases hx : x.state <;> cases burst <;> simp [Engine.stop, Engine.stopped, hx]

end Sys2Proof.Laws
end

