-- ==== Sys2Proof/Tests/Slice0.lean ====
section
/-!
SUPPORT. Tests of the model: ill-formed commands that each check of `Instr.wf` refuses, small tests of one step against values
worked by hand from the spec, and, for every statement that has hypotheses, states and operands that meet all of them together,
clause by clause.
-/

namespace Sys2Proof.Tests

open Sys2Proof.Machine

set_option Elab.async false

/-! ## States that the witnesses start from -/

/-- A module in service on beat 100, LOCKED, every bank ON, every ring on; partition 0 owns pitch 0 under full quotas. -/
def ready : State where
  pending := []
  vault := { Vault.reset with serial := 77, ownerKey := some 1, fixtureKeys := [2], rulebookKeys := [3] }
  body := { Body.reset with
    boot := { Boot.reset with start := .ready, step := 9, inputOk := true, standby := true, rails := true, tested := true, readyMs := 4135 },
    clock := { Clock.reset with
      now := 10000000, refPresent := true, band := .locked, beat := 100, beatNs := 100000, beatStart := 9950000, made := true },
    score := { Score.reset with counterRead := true },
    store := { Store.reset with banks := List.replicate 192 ⟨.on, none⟩ },
    rings := List.replicate 5 { Ring.reset with enable := true },
    parts := { Partition.reset with pitches := [0], quotas := Quotas.full } :: List.replicate 3 Partition.reset }

def onB (f : Body → Body) (s : State) : State := { s with body := f s.body }
def onV (f : Vault → Vault) (s : State) : State := { s with vault := f s.vault }
def part0 (f : Partition → Partition) : State → State := onB (·.alterPart 0 f)
def link0 (f : Link → Link) : State → State := onB (·.alterLink 0 f)
def clk (f : Clock → Clock) : State → State := onB (fun b => { b with clock := f b.clock })
def pow (f : Power → Power) : State → State := onB (fun b => { b with power := f b.power })
def mem (f : Store → Store) : State → State := onB (fun b => { b with store := f b.store })
def sch (f : Sched → Sched) : State → State := onB (fun b => { b with sched := f b.sched })
def host (f : HostIf → HostIf) : State → State := onB (fun b => { b with host := f b.host })
def whis (f : Whistle → Whistle) : State → State := onB (fun b => { b with whistle := f b.whistle })
def book (f : Rulebook → Rulebook) : State → State := onB (fun b => { b with book := { b.book with tables := f b.book.tables } })
def slots (f : List Slot → List Slot) : State → State := onB (fun b => { b with doves := { b.doves with slots := f b.doves.slots } })

/-- The doorbell of ring `r` has announced one entry. -/
def rung (r : Nat) : State → State := onB (·.alterRing r (fun x => { x with tail := 1 }))

def hdr0 : Hdr := ⟨0, 0, 7, false⟩
def hdrM : Hdr := ⟨4, 15, 7, false⟩

def at0 (n : Nat) : Loc := ⟨.infield, n⟩

def plainStage (k : StageKind) : Stage where
  kind := k
  rects := []
  blockRows := 1
  engine := some 0
  die := none
  half := some 0
  mode := .mac
  read := .row
  fmtA := .fp32
  fmtB := .fp32
  topk := 0
  epilogue := ⟨.absent, .absent, .none, none, .fp32, [], false⟩
  diagonal := none
  attn := none
  maxTerms := 0
  accumulators := 0
  parkBytes := 0
  parkAt := ⟨.scratch, 0⟩
  badFormat := false
  arrival := false

/-- An operation of step 0 on stage `st`. -/
def opOf (st : Nat) (x : Payload) : StreamOp where
  step := 0
  mb := 0
  stage := st
  layer := 0
  waits := []
  payload := x
  reported := false
  bench := none
  frees := none
  uses := ⟨false, false, []⟩
  arrival := false

def group0 : GroupRec where
  id := 0
  rule := 1
  fallback := 1
  flags := 0
  lrPeak := 0
  lrEnd := 0
  warmup := 0
  decaySteps := 0
  weightDecay := 0
  beta1 := 0
  beta2 := 0
  eps := 0x3F800000
  clip := 0
  matrixScale := 0x3F800000
  kronBeta := 0
  kronDamping := 0
  kronInterval := 1
  kronDimMax := 128
  rsvdZero := true

/-- A fixture of one group whose streams are given; stages 0 to 3 are a DMA, a VECTOR, a COLLECTIVE and
a MATMUL stage. -/
def image (fwd bwd upd : List StreamOp) : FixtureImage where
  header := ⟨fixtureMagic, 3, 0x0000000B, 4096, 1, 1, 1, 8, 0, true⟩
  sections := [⟨1, 384, 0, true⟩, ⟨2, 384, 0, true⟩, ⟨3, 384, 0, true⟩, ⟨4, 384, 0, true⟩, ⟨5, 384, 0, true⟩, ⟨6, 384, 0, true⟩,
               ⟨9, 384, 0, true⟩, ⟨0xFF, 4000, 96, true⟩]
  signer := some 2
  hash := 5
  stages := [plainStage .dma, plainStage .vector, plainStage .collective,
    { plainStage .matmul with rects := [⟨0, 0, 0, 1, 1⟩], fmtA := .bf16, fmtB := .bf16 }]
  plan := ⟨0, 0, some 0, [⟨.scratch, 0⟩, ⟨.infield, 0⟩, ⟨.outfield, 0⟩], ⟨.infield, 8192⟩, 0⟩
  fwd := fwd
  bwd := bwd
  upd := upd
  groups := [group0]
  tensors := []
  buckets := []
  pools := []
  listRegions := []
  windows := []
  demands := ⟨1, 0, 0, 0, 8192, 0, 0, [], [16, 16, 16]⟩
  earlyWindow := 0
  blocks := []
  firstStep := 9
  microBatches := []

/-- Partition 0 runs a fixture with these streams, 8 KiB of infield bound to it from address 0. -/
def runs (f : FixtureImage) : State → State :=
  part0 (fun x => { x with fix := some f, fstate := .running, grant := ⟨[0], [⟨0, 8192⟩], [], [], 0⟩ })

/-! ## Hypotheses that are structures -/

theorem ringReady_of {b : Body} {h : Hdr}
    (e : (h.wf && !h.rsvd && b.serves && b.host.pcieUp && b.active.isEmpty && (b.ring h.ring).enable && (b.ring h.ring).entries.isEmpty
      && (b.ring h.ring).held.isEmpty && decide ((b.ring h.ring).open_ + 4 < (b.ring h.ring).free) && decide ((b.ring h.ring).cmdHead ≠ (b.ring h.ring).tail)
      && decide ((b.ring h.ring).reads < 16)) = true) : RingReady b h := by
  simp only [Bool.and_eq_true, decide_eq_true_eq, List.isEmpty_iff, Bool.not_eq_true'] at e
  obtain ⟨⟨⟨⟨⟨⟨⟨⟨⟨⟨a, b⟩, c⟩, d⟩, e⟩, f⟩, g⟩, h⟩, i⟩, j⟩, k⟩ := e
  exact ⟨a, b, c, d, e, f, g, h, i, j, k⟩

theorem taken_of {s : State} {l : Nat} {h : FlitHdr} {c : Nat}
    (e : (decide (l < 48) && decide (l < s.body.net.links.length) && h.wf && decide ((s.body.link l).state = .up)
      && decide (h.type = c) && !s.body.malformed (s.body.ownMember s.vault.serial) l h
      && decide (h.seq = (s.body.link l).rxSeq)) = true) : Taken s l h c := by
  simp only [Bool.and_eq_true, decide_eq_true_eq, Bool.not_eq_true'] at e
  obtain ⟨⟨⟨⟨⟨⟨a, b⟩, c⟩, d⟩, e⟩, f⟩, g⟩ := e
  exact ⟨a, b, c, d, e, f, g⟩

theorem verdictReady_of {b : Body} {p : Nat}
    (e : p < 4 ∧ (b.part p).verdictReady = true ∧ (b.part p).snap.verify = none ∧ (b.part p).bound = none ∧
      (b.part p).snap.run = none ∧ (b.ring p).held = [] ∧ (b.ring p).hasRoom b.host.pcieUp = true) : VerdictReady b p := by
  obtain ⟨a, b, c, d, e, f, g⟩ := e
  exact ⟨a, b, c, d, e, f, g⟩

theorem issueFront_of {b : Body} {h p i : Nat} {op : StreamOp}
    (e : h < 2 ∧ p < 4 ∧ i < 3 ∧ b.roleRuns (4 * h + 1) = true ∧ (b.half h).fatal = none ∧ b.boot.start = .ready ∧
      b.partHalf p = some h ∧ (b.part p).fstate = .running ∧ (b.part p).streams.length = 3 ∧ (b.part p).next? i = some op ∧
      (∀ j, j < 3 → j ≠ i → (b.part p).next? j = none) ∧
      (∀ q, q < 4 → q ≠ p → ¬(b.partHalf q = some h ∧ (b.part q).fstate = .running)) ∧ (b.part p).upd.withheld = []) :
    IssueFront b h p i op := by
  obtain ⟨a, b, c, d, e, f, g, h, i, j, k, l, m⟩ := e
  exact ⟨a, b, c, d, e, f, g, h, i, j, k, l, m⟩

theorem noHalfFatal (b : Body) (e : b.whistle.halves = List.replicate 2 ⟨none, none, false⟩) (h : Nat) : (b.half h).fatal = none := by
  simp only [Body.half, e]
  match h with
  | 0 => rfl
  | 1 => rfl
  | _ + 2 => rfl

/-- What holds of every source of Table 14.2 but the bandstand holds of every page but its own. -/
theorem otherPages (b : Body)
    (e : ∀ a, a < 16 → ∀ i, i < 48 → (a, i) ≠ (tBand, 0) → (b.page a i).unhandled = []) (a i : Nat) (h : (a, i) ≠ (tBand, 0)) :
    (b.page a i).unhandled = [] := by
  by_cases ha : a < 16 ∧ i < 48
  · exact e a ha.1 i ha.2 h
  · have : pageSlot a i = none := by
      unfold pageSlot
      split
      · rename_i x
        exfalso
        apply ha
        refine ⟨by omega, ?_⟩
        have : sourceInstances.getD (a - 1) 0 ≤ 48 := by
          have h15 : a - 1 < 15 := by omega
          generalize a - 1 = n at h15
          revert n
          decide
        omega
      · rfl
    simp [Body.page, this, FaultPage.reset]
/-! ## Ring commands -/

def holding (st : FixState) : State → State :=
  part0 (fun x => { x with fix := some (image [] [] []), fstate := st, grant := ⟨[0], [⟨0, 8192⟩], [], [], 0⟩ })
def pitch0 (u : UnitState) : State → State := onB (·.alterPitch 0 (fun x => { x with state := u }))
/-- One pool and its list region. -/
def paged : FixtureImage := { image [] [] [] with
  pools := [⟨5, .bf16, 1, 32, 1, 1, 2048, 2048, 2048, 0, true⟩], listRegions := [⟨5, 0, 2048⟩] }
/-- A fixture that trains: it has an update stream. -/
def trainee : FixtureImage := image [] [] [opOf 0 .idle]
def rbImage : RulebookImage := ⟨0x52424F4F4B4D564B, 2, 1, 4096, true, [⟨0x0E, 80, 64⟩], [.streamWaitLimit 100], some 3⟩
/-- An attention operation of the partition names list 0. -/
def naming : StreamOp := opOf 0 (.attention .forward [⟨some 0, 0, 0, 0, at0 0, at0 0, at0 0, at0 0, at0 0, 0, [], at0 0, none, at0 0, at0 0, at0 0, at0 0⟩] none)
def walking : State := part0 (fun x => { x with
  flights := [⟨0, 0, 1, none, 90, 0, 0, Config.update, [], 0, [0], 0⟩], streams := alter 0 (fun _ => ⟨1, 1, none⟩) x.streams })
  (runs { paged with fwd := [naming] } ready)
/-- An image of every section that a fixture of one group has. -/
def fullImage : Image := ⟨0, 2, 2, 77, 9, 5, 1, [0, 0, 0], .sealed, 0, 0, [.control [4, 5, 6] [7, 8, 9, 3] [⟨2, none⟩] 10 16 5 1 2 [0], .schedule [], .lists [],
  .groups [⟨0, 3, 4⟩], .layer 0 [(⟨.infield, 16⟩, [1, 2, 3])]], [1, 1, 1, 1, 1], 0, outfieldBase, false, false, 0⟩
def ownImage : Image := ⟨0, 1, 1, 77, 9, 5, 1, [0, 0, 0], .sealed, 0, 0, [], [], 0, outfieldBase, false, false, 0⟩

/-! ## Host traffic and the Lodge -/

/-- The page of a source latches `m`, which it sent. -/
def latched (type inst : Nat) (m : Word64) : State → State :=
  whis (fun w => { w with pages := alter ((pageSlot type inst).getD 0) (fun p => { p with message := m, sent := [m] }) w.pages })
def window (staging : Bool) : State → State := host (fun x => { x with bar2Enable := true, stagingOnly := staging })

/-! ## Bandstand, schedule, power -/

def banded (x : BandState) : State → State := clk (fun c => { c with band := x })
def holdover (n : Nat) : State → State := clk (fun c => { c with band := .holdover, holdBeats := n })
def installed (es : List SchedEntry) : State → State := sch (fun x => { x with entries := es })
/-- Member 0 of a domain of two, joined by link 0, with one group. -/
def routed : State → State := book (fun r => { r with route :=
  ⟨1, [⟨0, 77, [(0, 1)]⟩, ⟨1, 78, [(0, 0)]⟩], [⟨[0, 1], [⟨0, [(0, [1])]⟩, ⟨1, [(1, [0])]⟩], ⟨0, [(0, [1])]⟩⟩],
   [⟨0, 1, ⟨0, 0, 1, 0⟩, []⟩, ⟨1, 0, ⟨1, 0, 0, 0⟩, []⟩]⟩ })
/-- Barrier 7 of partition 0 for beat 100 over group 0, with slack 2, and its entry. -/
def barE : SchedEntry := ⟨100, 5, 2, 0, 0xC0000001, 0x00020007, 0, false⟩
def barE2 : SchedEntry := ⟨98, 5, 2, 0, 0xC0000001, 0x00020007, 0, false⟩
def bar7 (ns : List Notice) : BarrierInfo := ⟨0, 7, false, ns, 0, none, none⟩
def barred (e : SchedEntry) (ns : List Notice) : State → State :=
  sch (fun x => { x with entries := [e], barriers := [bar7 ns] })
def twoReady : List Notice := [⟨7, 0, .ready, 99, 0⟩, ⟨7, 1, .ready, 99, 80000⟩]
def waiter : FixtureImage := image [{ opOf 0 .idle with waits := [0xC0000001] }] [] []
def sample (p : Nat) : PowerSample := ⟨p, p, [], 0, 0, [96, 20], [95], [], []⟩
def granted (w : Word64) : State → State := slots (alter 32 (fun _ => ⟨w, true, false⟩))

/-! ## Memories, streams -/

def chan (c : Nat) (f : Channel → Channel) : State → State := mem (fun m => { m with channels := alter c f m.channels })
def crcs (n : Nat) : State → State := chan 383 (fun x => { x with crcAt := List.replicate n 9500000 })
def bank (k : Nat) (x : Bank) : State → State := mem (fun m => { m with banks := alter k (fun _ => x) m.banks })
def addR (ordered : Bool) : AddReq := ⟨6144, .int32, .int32, [1], ordered, 0, 2, false, 0, 0x00000001, []⟩
def halfGone (h : Nat) : State → State :=
  whis (fun w => { w with halves := alter h (fun _ => ⟨some .fatal, some ⟨1, 1, true⟩, true⟩) w.halves })
def fly (tok : Token) (failed : Option Nat) : Flight := ⟨0, 0, tok, failed, 90, 0, 0, Config.update, [], 0, [], 0⟩
/-- The first operation of the forward stream of partition 0 is in flight. -/
def flying (op : StreamOp) (failed : Option Nat) (s : State) : State :=
  part0 (fun x => { x with flights := [fly 1 failed], streams := alter 0 (fun _ => ⟨1, 1, none⟩) x.streams }) (runs (image [op] [] []) s)
def copyOp : StreamOp := { opOf 0 (.dma (at0 0) (at0 4096) 8) with frees := some (3, 1) }
def addOp : StreamOp := opOf 1 (.vector [[.op2 .add .fp32 (at0 4096) (at0 0) (at0 64) 2]])
def accOp : StreamOp := opOf 1 (.vector [[.xsumAdd 2 .fp32 (at0 0) 1]])
def bucketOf (st : Nat) : Bucket := ⟨0, st, some st, false, none⟩
/-- Every bucket of the step has its reduced status. -/
def reduced (st : Nat) : State → State := part0 (fun x => { x with pass := { x.pass with buckets := [bucketOf st], step := 9 } })
def benchOp : StreamOp := { opOf 0 .idle with bench := some ⟨3, 1, 100, at0 0⟩ }
/-- A training fixture whose forward stream writes a bench entry; the overflow region of its plan has `n` bytes. -/
def benching (n : Nat) : State → State := runs { image [benchOp] [opOf 0 .idle] [] with plan := ⟨0, 0, some n, [at0 0, at0 0, ⟨.outfield, 0⟩], at0 8192, 0⟩ }
/-- The backward stream is past its one operation. -/
def backDone : State → State := part0 (fun x => { x with pass := { x.pass with step := 9 }, streams := alter 1 (fun _ => ⟨1, 1, none⟩) x.streams })
def bucketOp (mb : Nat) : StreamOp := opOf 0 (.bucketAdd 0 0 0 1 (at0 0) mb)
/-- The additions of micro-batches 0 and 1 to one bucket are both in flight. -/
def twoAdds : State := part0 (fun x => { x with
  flights := [fly 1 none, { fly 2 none with idx := 1 }], streams := alter 0 (fun _ => ⟨2, 2, none⟩) x.streams }) (runs (image [bucketOp 0, bucketOp 1] [] []) ready)
/-- 2 KiB of values of one window. -/
def granuleAdd : AddReq := ⟨outfieldBase, .int64, .int64, List.replicate 256 0, true, 0, 2, false, 0, 1, []⟩
def bufferFull : State := mem (fun m => { m with windows := List.replicate 512 ⟨outfieldBase / 2048, 2, 50, [granuleAdd]⟩ }) ready
def manyAccs : List AccState := List.replicate 4096 ⟨7, Arith.XSum.zero⟩
theorem manyAccs_length : manyAccs.length = residentAccs := List.length_replicate
def snapRun (due : List Nat) : SnapRun := ⟨ownImage, due, false, 9000000, 0⟩
def asking : Active := { opened hdr0 (.snapshot 1 0) with running := true }
def copying (due : List Nat) : State → State := part0 (fun x => { x with snap := { x.snap with run := some (snapRun due) } })

/-! ## Links -/

def linkIn (st : LinkState) : State → State := link0 (fun g => { g with state := st, partner := 1, lanes := [0, 1, 2, 3], since := 9000000 })
/-- Link 0 is UP to member 1 of the domain. -/
def joined (s : State) : State := linkIn .up (routed s)
def far (l : Nat) (st : LinkState) : State → State := onB (·.alterLink l (fun g => { g with state := st }))
def flitH (type vc : Nat) : FlitHdr := ⟨type, vc, 0, 0, 0, 0, 0, 1, 0, 0, 0, false, 0, 0, []⟩
def goodAuth : AuthMsg := ⟨78, true, true, 1, 0⟩
def badAuth : AuthMsg := ⟨78, true, false, 1, 0⟩
def proofs (n : Nat) : State → State := onV (fun v => { v with proofsAt := List.replicate n 9999999 })
def unackedOne : Link → Link := fun g => { g with txSeq := 6, unacked := [⟨⟨0x20, 2, 0, 5, 0, 0, 0, 0, 1, 3, 0, false, 0, 0, []⟩, .write ⟨1, 0, [1]⟩⟩] }
/-- A maintenance window stands open. -/
def slotOpen : State → State := sch (fun x => { x with windowEnd := some 20000000 })
def bads (n : Nat) : State → State := link0 (fun g => { g with badAt := List.replicate n 9999999 })
def starved (vc : Nat) : State → State := link0 (fun g => { g with
  credits := [0, 0, 0, 0], queued := [⟨⟨0x20, vc, 0, 5, 0, 0, 0, 0, 1, 3, 0, false, 0, 0, []⟩, .idle⟩],
  dryAt := alter vc (fun _ => some (9000000, 90)) g.dryAt })
def open0 (w : Window) : State → State := onB (fun b => { b with net := { b.net with windows := alter 0 (fun _ => w) b.net.windows } })
def win0 : Window := ⟨0, 5, true, 1, 4096, 64, 1, none⟩
def write2 : WriteMsg := ⟨1, 62, [8, 9]⟩
def coll (k : CollectiveKind) : Collective := ⟨k, 0, 0, 0, (if k = .add then 1 else 0), at0 4096, 4, 0, .int32, [0], 0⟩
def collOp (k : CollectiveKind) : StreamOp := opOf 2 (.collective (coll k))
/-- Member 0 has its parent 1 by link 0 and its child 2 by link 1 on the status tree. -/
def between (s : State) : State := far 1 .up (book (fun r => { r with route := { r.route with
  groups := [⟨[0, 1, 2], [], ⟨1, [(1, [0]), (0, [2])]⟩⟩], edges := [⟨0, 1, ⟨0, 0, 1, 0⟩, []⟩, ⟨0, 2, ⟨0, 1, 2, 1⟩, []⟩] } }) (joined s))
def hdr9 : BucketHdr := ⟨0, 9, 2, 16, 0, 0⟩
def red (k : CollectiveKind) (sent : Bool) : Reduction := ⟨0, 1, coll k, 0, 0, hdr9, [0x3C00, 0x4000], [], sent, 0⟩
def reducing (r : Reduction) : State → State := onB (fun b => { b with net := { b.net with reductions := [r] } })
def open9 (b : Bucket) : State → State := part0 (fun x => { x with pass := { x.pass with buckets := [b], step := 9 } })
/-- Member 0 relays from member 1, link 0, to member 2, link 1; from 1 to 0 a detour arrives by link 1. -/
def relaying (s : State) : State := far 1 .up (book (fun r => { r with route := { r.route with
  edges := [⟨1, 2, ⟨1, 3, 2, 3⟩, [[⟨1, 0, 0, 0⟩, ⟨0, 1, 2, 0⟩]]⟩, ⟨1, 0, ⟨1, 0, 0, 0⟩, [[⟨1, 1, 2, 1⟩, ⟨2, 1, 0, 1⟩]]⟩] } }) (joined s))
def wflit (dst : Nat) : FlitHdr := ⟨0x32, 3, 0, 0, 0, 0, 0, 1, dst, 0, 0, false, 0, 0, []⟩

/-! ## Faults, keepers, log and supply -/

def tile3 : Word64 := faultWord tPitch 3 .contained false true kTileFailed 0
def lostBeat : Word64 := faultWord tBand 0 .contained false false kBeatLost 0
def east : Word64 := faultWord tHalf 1 .fatal false false kControlPath 0
def west : Word64 := faultWord tHalf 0 .fatal false false kControlPath 0
def corrected11 : Word64 := faultWord tStack 11 .corrected false true kMemCorrected 5
def page (type inst : Nat) (f : FaultPage → FaultPage) : State → State :=
  whis (fun w => { w with pages := alter ((pageSlot type inst).getD 0) f w.pages })
def halfIs (h : Nat) (x : HalfState) : State → State := whis (fun w => { w with halves := alter h (fun _ => x) w.halves })
def reported (m : Word64) : FatalSeq := ⟨9000000, m, true⟩
def keeper (k : Nat) (f : Keeper → Keeper) : State → State :=
  onB (fun b => { b with keepers := { b.keepers with cores := alter k f b.keepers.cores } })
def woken (k : Nat) : State → State := onB (fun b => { b with doves := { b.doves with wake := alter k (fun _ => true) b.doves.wake } })
def logOf (f : Score → Score) : State → State := onB (fun b => { b with score := f b.score })
def rec0 : Record := ⟨0, 3, false, 0, 0, 0, 1, 100, 5, [1]⟩
def waitRef : State := onB (fun b => { b with boot := { b.boot with start := .waitRef, step := 4, inputOk := true, standby := true, rails := true } }) State.reset
/-- A log of `n` used positions with two records queued. -/
def fullLog (n : Nat) : State := logOf (fun x => { x with queue := [rec0, rec0], flash := List.replicate n (List.replicate 128 0) }) ready
theorem fullLog_length (n : Nat) : (fullLog n).body.score.flash.length + 1 = n + 1 := by simp [fullLog, logOf, onB]


theorem witness_FixtureAdmission :
  (∃ (s : State) (h : Hdr) (off : Nat) (len : Nat) (img : FixtureImage), RingReady s.body h ∧ OwnRing h ∧ h.part <
      s.body.parts.length ∧ s.body.lodgeBusy s.vault = false ∧ (s.body.running h (.fixtureLoad off len img)).stagingArgs off
      len = true ∧ (s.body.running h (.fixtureLoad off len img)).check s.vault h.part off len img = []) ∧
  (∃ (s : State) (h : Hdr) (off : Nat) (len : Nat) (img : FixtureImage), RingReady s.body h ∧ OwnRing h ∧ s.body.lodgeBusy
      s.vault = false ∧ (s.body.running h (.fixtureCheck off len img)).stagingArgs off len = true ∧ (s.body.running h
      (.fixtureCheck off len img)).check s.vault h.part off len img = []) :=
  ⟨⟨(rung 0 ready), hdr0, 0, 4096, (image [] [] []), ringReady_of (by decide +kernel), ⟨by decide, rfl⟩, by decide +kernel⟩,
   ⟨(rung 0 ready), hdr0, 0, 4096, (image [] [] []), ringReady_of (by decide +kernel), ⟨by decide, rfl⟩, by decide +kernel⟩⟩

theorem witness_FixtureStates :
  (∃ (s : State) (h : Hdr), RingReady s.body h ∧ OwnRing h ∧ ((s.body.part h.part).fstate = .admitted ∨ (s.body.part
      h.part).fstate = .stopped) ∧ s.body.quarantined h.part = false ∧ (s.body.part h.part).snap.incomplete = false ∧ (∀ k, k
      < 8 → (s.body.keeper k).mode ≠ .retain)) ∧
  (∃ (s : State) (h : Hdr), RingReady s.body h ∧ OwnRing h ∧ (s.body.part h.part).fstate = .running) ∧
  (∃ (s : State) (h : Hdr) (half : Nat), RingReady s.body h ∧ OwnRing h ∧ ((s.body.part h.part).fstate = .admitted ∨
      (s.body.part h.part).fstate = .stopped) ∧ s.body.quarantined h.part = false ∧ (s.body.part h.part).snap.incomplete =
      false ∧ h.part < s.body.parts.length ∧ s.body.partHalf h.part = some half ∧ half < 2 ∧ (s.body.keeper (4 * half +
      1)).mode = .retain ∧ s.body.doves.slots.length = 64 ∧ s.body.doves.wake.length = 9 ∧ (s.body.slot (50 + 8 * half)).full
      = false) ∧
  (∃ (s : State) (h : Hdr), RingReady s.body h ∧ OwnRing h ∧ h.part < s.body.parts.length ∧ ((s.body.part h.part).fstate =
      .admitted ∨ (s.body.part h.part).fstate = .stopped) ∧ (s.body.part h.part).bound = none ∧ (s.body.part
      h.part).snap.verify = none) :=
  ⟨⟨(rung 0 (holding .stopped (pitch0 .stopped ready))), hdr0, ringReady_of (by decide +kernel), ⟨by decide, rfl⟩, by
      decide +kernel⟩,
   ⟨(rung 0 (holding .running (pitch0 .running ready))), hdr0, ringReady_of (by decide +kernel), ⟨by decide, rfl⟩, by
      decide +kernel⟩,
   ⟨(rung 0 (onB (fun b =>
      { b with keepers := { b.keepers with cores := alter 1 (fun x => { x with mode := .retain }) b.keepers.cores } })
      (holding .stopped (pitch0 .stopped ready)))), hdr0, 0, ringReady_of (by decide +kernel), ⟨by decide, rfl⟩, by
      decide +kernel⟩,
   ⟨(rung 0 (holding .admitted ready)), hdr0, ringReady_of (by decide +kernel), ⟨by decide, rfl⟩, by decide +kernel⟩⟩

theorem witness_PartitionSettings :
  (∃ (s : State) (h : Hdr) (st : Nat), RingReady s.body h ∧ OwnRing h ∧ (s.body.part h.part).holds = true ∧ (s.body.part
      h.part).bound = none ∧ (s.body.part h.part).pass.step < st ∧ st < 2 ^ 48) ∧
  (∃ (s : State) (h : Hdr) (p : Nat) (row : Nat) (v : Nat), RingReady s.body h ∧ ModuleRing h ∧ p < 4 ∧ row < 7 ∧ v ≤
      Quotas.full.row row ∧ (row = 6 → s.body.inflightSum p v ≤ 768)) ∧
  (∃ (s : State) (h : Hdr) (p : Nat) (mask : Nat), RingReady s.body h ∧ ModuleRing h ∧ p < 4 ∧ mask < 16 ∧ (∀ i q, i < 4 →
      mask.testBit i = true → q < 4 → q ≠ p → i ∉ (s.body.part q).pitches) ∧ (s.body.part p).holds = false) :=
  ⟨⟨(rung 0 (holding .running ready)), hdr0, (2 ^ 48 - 1), ringReady_of (by decide +kernel), ⟨by decide, rfl⟩, by
      decide +kernel⟩,
   ⟨(rung 4 ready), hdrM, 3, 6, 0, ringReady_of (by decide +kernel), ⟨rfl, rfl⟩, by decide +kernel⟩,
   ⟨(rung 4 ready), hdrM, 3, 14, ringReady_of (by decide +kernel), ⟨rfl, rfl⟩, by decide +kernel, by decide +kernel, (fun i q _
      hm hq hne hin => by simpa [hm] using List.all_eq_true.mp ((by decide +kernel : ∀ q, q < 4 → q ≠ 3 → ((rung 4
      ready).body.part q).pitches.all (fun i => !Nat.testBit 14 i) = true) q hq hne) i hin), by decide +kernel⟩⟩

theorem witness_ScheduleEntries :
  (∃ (s : State) (h : Hdr) (e : SchedEntry), RingReady s.body h ∧ (ModuleRing h ∨ (OwnRing h ∧ e.part = h.ring)) ∧ 1 ≤ e.kind
      ∧ e.kind ≤ 7 ∧ e.kind ≠ 2 ∧ (e.part < 4 ∨ e.part = 15) ∧ s.body.clock.band ≠ .seeking ∧ e.rsvd = false ∧
      s.body.clock.beat + 2 ≤ e.beat ∧ e.beat < 2 ^ 48 ∧ e.tick < s.body.beatNs ∧ (tickFixed e.kind = true → e.tick = 0) ∧
      s.body.tokenCheck e = 0 ∧ s.body.sched.entries.length < 1024) ∧
  (∃ (s : State) (h : Hdr) (tok : Token) (e : SchedEntry), RingReady s.body h ∧ (ModuleRing h ∨ (OwnRing h ∧ e.part = h.ring))
      ∧ tok ≠ 0 ∧ s.body.sched.entries.find? (fun x => x.token == tok && decide (x.part = e.part)) = some e ∧
      s.body.clock.beat + 2 ≤ e.beat ∧ e.kind ≠ 2) :=
  ⟨⟨(rung 4 ready), hdrM, ⟨102, 0, 3, 15, 0xC0000001, 0, 0, false⟩, ringReady_of (by decide +kernel), .inl ⟨rfl, rfl⟩, by
      decide +kernel⟩,
   ⟨(rung 0 (sch (fun x => { x with entries := [⟨102, 0, 1, 0, 0xC0000001, 0, 0, false⟩] }) ready)), hdr0, 0xC0000001, ⟨102, 0,
      1, 0, 0xC0000001, 0, 0, false⟩, ringReady_of (by decide +kernel), .inr ⟨⟨by decide, rfl⟩, rfl⟩, by decide +kernel⟩⟩

theorem witness_PageLists :
  (∃ (s : State) (h : Hdr) (img : FixtureImage) (off : Nat) (pool : Nat) (cap : Nat) (car : Nat), RingReady s.body h ∧ OwnRing
      h ∧ h.part < s.body.parts.length ∧ (s.body.part h.part).holds = true ∧ (s.body.part h.part).fix = some img ∧ (poolOf img
      pool).isSome = true ∧ 0 < cap ∧ cap ≤ 65536 ∧ car ≤ 1 ∧ listFits img (some pool) off cap = true ∧ (s.body.part
      h.part).listBusy off = false) ∧
  (∃ (s : State) (h : Hdr) (img : FixtureImage) (off : Nat) (last : Nat), RingReady s.body h ∧ OwnRing h ∧ h.part <
      s.body.parts.length ∧ (s.body.part h.part).holds = true ∧ (s.body.part h.part).fix = some img ∧ listFits img none off 0
      = true ∧ (s.body.part h.part).listBusy off = false) ∧
  (∃ (s : State) (h : Hdr) (img : FixtureImage) (off : Nat) (pool : Nat) (cap : Nat) (car : Nat), RingReady s.body h ∧ OwnRing
      h ∧ (s.body.part h.part).holds = true ∧ (s.body.part h.part).fix = some img ∧ (poolOf img pool).isSome = true ∧ 0 < cap
      ∧ cap ≤ 65536 ∧ car ≤ 1 ∧ listFits img (some pool) off cap = true ∧ (s.body.part h.part).listBusy off = true) ∧
  (∃ (s : State) (h : Hdr) (img : FixtureImage) (off : Nat) (last : Nat), RingReady s.body h ∧ OwnRing h ∧ (s.body.part
      h.part).holds = true ∧ (s.body.part h.part).fix = some img ∧ listFits img none off 0 = true ∧ (s.body.part
      h.part).listBusy off = true) :=
  ⟨⟨(rung 0 (runs paged ready)), hdr0, paged, 0, 5, 1, 1, ringReady_of (by decide +kernel), ⟨by decide, rfl⟩, by
      decide +kernel⟩,
   ⟨(rung 0 (runs paged ready)), hdr0, paged, 0, 0, ringReady_of (by decide +kernel), ⟨by decide, rfl⟩, by decide +kernel⟩,
   ⟨(rung 0 walking), hdr0, ({ paged with fwd := [naming] }), 0, 5, 1, 1, ringReady_of (by decide +kernel), ⟨by decide, rfl⟩,
      by decide +kernel⟩,
   ⟨(rung 0 walking), hdr0, ({ paged with fwd := [naming] }), 0, 0, ringReady_of (by decide +kernel), ⟨by decide, rfl⟩, by
      decide +kernel⟩⟩

theorem witness_RulebookStaging :
  (∃ (s : State) (h : Hdr) (off : Nat) (len : Nat) (slot : Nat) (img : RulebookImage), RingReady s.body h ∧ ModuleRing h ∧
      slot < 4 ∧ len ≤ 64 * 2 ^ 20 ∧ off + len ≤ s.body.book.tables.outfield.stagingGib * 2 ^ 30 ∧ (s.body.book.staging.getD
      slot .empty = .empty ∨ s.body.book.staging.getD slot .empty = .refused) ∧ s.body.lodgeBusy s.vault = false ∧
      s.body.stageCode s.vault len img = rbOk) ∧
  (∃ (s : State) (h : Hdr) (slot : Nat), RingReady s.body h ∧ ModuleRing h ∧ slot < 4 ∧ s.body.book.staging.getD slot .empty ≠
      .verifying ∧ s.body.swapNames slot = false) :=
  ⟨⟨(rung 4 ready), hdrM, 0, 4096, 3, rbImage, ringReady_of (by decide +kernel), ⟨rfl, rfl⟩, by decide +kernel⟩,
   ⟨(rung 4 ready), hdrM, 3, ringReady_of (by decide +kernel), ⟨rfl, rfl⟩, by decide +kernel⟩⟩

theorem witness_SnapshotCommands :
  (∃ (s : State) (h : Hdr) (f : FixtureImage) (mask : Nat) (addr : Nat), RingReady s.body h ∧ OwnRing h ∧ 0 < mask ∧ mask < 8
      ∧ (s.body.part h.part).fstate = .running ∧ (s.body.part h.part).fix = some f ∧ f.upd ≠ [] ∧ (s.body.part
      h.part).snap.run = none ∧ (s.body.part h.part).snap.waiting = none ∧ ((s.body.running h (.snapshot mask addr)).placement
      h.part mask f).isSome = true) ∧
  (∃ (s : State) (h : Hdr) (f : FixtureImage) (mask : Nat) (addr : Nat) (placed : List Nat), RingReady s.body h ∧ OwnRing h ∧
      0 < mask ∧ mask < 8 ∧ h.part < s.body.parts.length ∧ (s.body.part h.part).holds = true ∧ (s.body.part h.part).fix = some
      f ∧ ((s.body.part h.part).fstate = .stopped ∨ f.upd = []) ∧ (s.body.part h.part).snap.run = none ∧ (s.body.part
      h.part).snap.waiting = none ∧ (s.body.running h (.snapshot mask addr)).placement h.part mask f = some placed) ∧
  (∃ (s : State) (h : Hdr) (f : FixtureImage) (i : Image) (source : Nat) (addr : Nat) (out : SourceOutcome), RingReady s.body
      h ∧ OwnRing h ∧ h.part < s.body.parts.length ∧ out.wf = true ∧ source % 4 ≠ 0 ∧ source < 16 ∧ ((s.body.part
      h.part).fstate = .admitted ∨ (s.body.part h.part).fstate = .stopped) ∧ (s.body.part h.part).fix = some f ∧
      s.body.restoreSource h.part source addr f out = (some i, true, .whole) ∧ (s.body.part h.part).snap.verify = none ∧
      s.body.restoreRefusal s.vault.serial h.part f (some i) true false false = 0) ∧
  (∃ (s : State) (h : Hdr) (f : FixtureImage) (i : Image) (source : Nat) (addr : Nat) (a : Nat) (l : Nat) (out :
      SourceOutcome) (pos : List Nat) (counts : List Nat) (board : List Done) (step : Nat) (e : Int) (clean : Nat) (hist :
      Nat) (skips : Nat) (sums : List Nat) (gs : List GroupState) (loc : Loc) (vs : List Byte), RingReady s.body h ∧ OwnRing h
      ∧ h.part < s.body.parts.length ∧ out.wf = true ∧ source % 4 ≠ 0 ∧ source < 16 ∧ ((s.body.part h.part).fstate = .admitted
      ∨ (s.body.part h.part).fstate = .stopped) ∧ (s.body.part h.part).fix = some f ∧ f.buckets = [] ∧ s.body.restoreSource
      h.part source addr f out = (some i, true, .whole) ∧ i.sections = [.control pos counts board step e clean hist skips
      sums, .schedule [], .lists [], .groups gs, .layer l [(loc, vs)]] ∧ (s.body.part h.part).spans loc vs.length = [(a,
      vs.length)] ∧ s.body.restoreRefusal s.vault.serial h.part f (some i) true false false = 0) :=
  ⟨⟨(rung 0 (runs trainee ready)), hdr0, trainee, 4, 0, ringReady_of (by decide +kernel), ⟨by decide, rfl⟩, by decide +kernel⟩,
   ⟨(rung 0 (part0 (fun x => { x with fstate := .stopped }) (runs trainee ready))), hdr0, trainee, 4, 4096, [2, 2, 2, 2],
      ringReady_of (by decide +kernel), ⟨by decide, rfl⟩, by decide +kernel⟩,
   ⟨(rung 0 (part0 (fun x => { x with fstate := .stopped, snap := { x.snap with images := [fullImage] } }) (runs trainee
      ready))), hdr0, trainee, fullImage, 2, 0, .good, ringReady_of (by decide +kernel), ⟨by decide, rfl⟩, by decide +kernel⟩,
   ⟨(rung 0 (part0 (fun x => { x with fstate := .stopped, snap := { x.snap with images := [fullImage] } }) (runs trainee
      ready))), hdr0, trainee, fullImage, 2, 0, 16, 0, .good, [4, 5, 6], [7, 8, 9, 3], [⟨2, none⟩], 10, 16, 5, 1, 2, [0], [⟨0,
      3, 4⟩], ⟨.infield, 16⟩, [1, 2, 3], ringReady_of (by decide +kernel), ⟨by decide, rfl⟩, by decide +kernel⟩⟩

theorem witness_LogCommands :
  (∃ (s : State) (h : Hdr) (first : Nat) (count : Nat) (buf : Nat), RingReady s.body h ∧ (ModuleRing h ∨ OwnRing h) ∧ 0 <
      count ∧ count ≤ 65536) ∧
  (∃ (s : State) (h : Hdr) (auth : Nat) (number : Nat), RingReady s.body h ∧ ModuleRing h ∧ auth < 2 ^ 32 ∧ number =
      (s.body.score.clears + 1) % 2 ^ 32 ∧ s.body.lodgeBusy s.vault = false ∧ s.vault.debug = false) ∧
  (∃ (s : State) (h : Hdr) (auth : Nat) (number : Nat) (code : Nat), RingReady s.body h ∧ ModuleRing h ∧ auth < 2 ^ 32 ∧
      number < 2 ^ 32 ∧ code < 2 ^ 64 ∧ s.body.lodgeBusy s.vault = false ∧ (s.vault.debug = true ∨ code ≠ (Config.clearCode
      s.vault.serial auth number).toNat ∨ number ≠ (s.body.score.clears + 1) % 2 ^ 32)) :=
  ⟨⟨(rung 0 ready), hdr0, 0, 65536, 0, ringReady_of (by decide +kernel), .inr ⟨by decide, rfl⟩, by decide +kernel⟩,
   ⟨(rung 4 ready), hdrM, 1, 1, ringReady_of (by decide +kernel), ⟨rfl, rfl⟩, by decide +kernel⟩,
   ⟨(rung 4 ready), hdrM, 1, 2, 0, ringReady_of (by decide +kernel), ⟨rfl, rfl⟩, by decide +kernel, by decide +kernel, by
      decide +kernel, by decide +kernel, .inr (.inr (by decide +kernel))⟩⟩

theorem witness_MaintenanceCommands :
  (∃ (s : State) (h : Hdr) (c : Nat) (pat : Nat) (r : BallResult), RingReady s.body h ∧ ModuleRing h ∧ c < 256 ∧ pat ≤ 3 ∧
      s.body.chanGranted c = false ∧ s.body.fenced (c / 192) = false) ∧
  (∃ (s : State) (h : Hdr) (l : Nat), RingReady s.body h ∧ ModuleRing h ∧ l < 48 ∧ (s.body.link l).state = .quarantine) ∧
  (∃ (s : State) (h : Hdr) (c : Nat), RingReady s.body h ∧ ModuleRing h ∧ c < 256 ∧ s.body.chanRetired c = false ∧
      s.body.fenced (c / 192) = false) :=
  ⟨⟨(rung 4 ready), hdrM, 255, 3, ⟨0, 0⟩, ringReady_of (by decide +kernel), ⟨rfl, rfl⟩, by decide +kernel⟩,
   ⟨(rung 4 (link0 (fun g => { g with state := .quarantine, reason := 3 }) ready)), hdrM, 0, ringReady_of (by decide +kernel),
      ⟨rfl, rfl⟩, by decide +kernel⟩,
   ⟨(rung 4 ready), hdrM, 255, ringReady_of (by decide +kernel), ⟨rfl, rfl⟩, by decide +kernel⟩⟩

theorem witness_AbandonAndUnknown :
  (∃ (s : State) (h : Hdr), RingReady s.body h ∧ (OwnRing h ∨ (h.ring = 4 ∧ h.part < 4)) ∧ h.part < s.body.parts.length ∧
      (s.body.part h.part).holds = true ∧ (s.body.part h.part).bound = none ∧ (s.body.part h.part).snap.verify = none) ∧
  (∃ (s : State) (h : Hdr) (op : Nat), RingReady s.body h ∧ op ∉ listedOpcodes) :=
  ⟨⟨(rung 0 (holding .running ready)), hdr0, ringReady_of (by decide +kernel), .inl ⟨by decide, rfl⟩, by decide +kernel⟩,
   ⟨(rung 0 ready), hdr0, 0x3E, ringReady_of (by decide +kernel), by decide +kernel⟩⟩

theorem witness_SlotAccesses :
  (∃ (s : State) (k : Nat) (w : Word64), 16 ≤ k ∧ k ≤ 20 ∧ (s.body.slot k).full = false) ∧
  (∃ (s : State) (k : Nat) (w : Word64), 16 ≤ k ∧ k ≤ 20 ∧ (s.body.slot k).full = true) ∧
  (∃ (s : State) (k : Nat) (w : Word64), k < 64 ∧ (k < 16 ∨ 20 < k)) ∧
  (∃ (s : State) (k : Nat), 24 ≤ k ∧ k ≤ 28) ∧
  (∃ (s : State) (k : Nat), 8 ≤ k ∧ k < 16) :=
  ⟨⟨ready, 20, 1, by decide +kernel⟩,
   ⟨(slots (alter 16 (fun _ => ⟨3, true, false⟩)) ready), 16, 2, by decide +kernel⟩,
   ⟨ready, 63, 1, by decide +kernel, .inr (by decide)⟩,
   ⟨(slots (alter 28 (fun _ => ⟨3, true, false⟩)) ready), 28, by decide +kernel⟩,
   ⟨(slots (alter 15 (fun _ => ⟨3, true, false⟩)) ready), 15, by decide +kernel⟩⟩

theorem witness_Clears :
  (∃ (s : State) (type : Nat) (inst : Nat) (k : Nat) (v : Word64), pageSlot type inst = some k ∧ inst < 256 ∧ v.getLsbD 0 =
      true ∧ s.body.cause type inst = false ∧ (s.body.page type inst).timer = none ∧ ((s.body.page type inst).latchedClass =
      some .fatal → ∀ h ∈ s.body.fatalHalves type inst, s.body.fenced h = true)) ∧
  (∃ (s : State) (type : Nat) (inst : Nat) (k : Nat) (v : Word64), pageSlot type inst = some k ∧ inst < 256 ∧ v.getLsbD 0 =
      true ∧ (s.body.cause type inst = true ∨ (s.body.page type inst).timer ≠ none ∨ ((s.body.page type inst).latchedClass =
      some .fatal ∧ ∃ h ∈ s.body.fatalHalves type inst, s.body.fenced h = false))) ∧
  (∃ (s : State) (i : Nat) (v : Word64), i < 2 ∧ v.getLsbD 0 = true ∧ s.body.whHolds i = false) ∧
  (∃ (s : State) (v : Word64), v.getLsbD 0 = true ∧ s.body.whHolds 2 = false) ∧
  (∃ (s : State) (i : Nat) (v : Word64), i < 3 ∧ s.body.whHolds i = true) :=
  ⟨⟨(latched tPitch 3 (faultWord tPitch 3 .contained false true kTileFailed 0) ready), tPitch, 3, 3, 1, by decide +kernel, by
      decide +kernel, by decide +kernel, by decide +kernel, by decide +kernel, (fun h => absurd h (by decide +kernel))⟩,
   ⟨(latched tLodge 0 (faultWord tLodge 0 .contained false false kLodge 0) ready), tLodge, 0, (pageSlot tLodge 0).getD 0, 1, by
      decide +kernel, by decide +kernel, by decide +kernel, .inl (by decide +kernel)⟩,
   ⟨(whis (fun w => { w with wh := alter 1 (fun g => { g with first := 5 }) w.wh }) ready), 1, 1, by decide +kernel⟩,
   ⟨(whis (fun w => { w with moduleFirst := 5 }) ready), 1, by decide +kernel⟩,
   ⟨(latched tPitch 3 (faultWord tPitch 3 .contained false true kTileFailed 0) ready), 1, 1, by decide +kernel⟩⟩

theorem witness_FreezeView :
  (∃ (s : State) (page : Nat) (off : Nat) (v : Word64), page < 16384 ∧ assignedPage page = true ∧ v.getLsbD 0 = true) ∧
  (∃ (s : State) (page : Nat) (off : Nat) (v : Word64), page < 16384 ∧ assignedPage page = true ∧ v.getLsbD 0 = false) :=
  ⟨⟨ready, 0x0C00, 0x48, 1, by decide +kernel⟩,
   ⟨(host (fun x => { x with views := [⟨0x0C00, [(0x48, 99)]⟩] }) ready), 0x0C00, 0x48, 0, by decide +kernel⟩⟩

theorem witness_RingRegisters :
  (∃ (s : State) (i : Nat) (v : Word64), i < 5 ∧ v.getLsbD 0 = true ∧ (s.body.ring i).enable = false ∧ i <
      s.body.rings.length) ∧
  (∃ (s : State) (i : Nat) (v : Word64), i < 5 ∧ v.getLsbD 0 = false) ∧
  (∃ (s : State) (i : Nat) (v : Word64), i < 5 ∧ (s.body.ring i).enable = false ∧ i < s.body.rings.length) ∧
  (∃ (s : State) (i : Nat) (c : Bool) (v : Word64), i < 5 ∧ (s.body.ring i).enable = true) ∧
  (∃ (s : State) (i : Nat) (v : Word64), i < 5 ∧ (s.body.ring i).held = [] ∧
      ({ s.body.ring i with cplHead := (v.extractLsb' 0 32).toNat } : Ring).high = false ∧ i < s.body.rings.length) :=
  ⟨⟨(onB (·.alterRing 4 (fun r => { r with enable := false, cmdSize := 4096, open_ := 1 })) ready), 4, 1, by decide +kernel⟩,
   ⟨ready, 4, 0, by decide +kernel⟩,
   ⟨(onB (·.alterRing 4 (fun r => { r with enable := false })) ready), 4, 0x1000, by decide +kernel⟩,
   ⟨ready, 4, true, 0x1000, by decide +kernel⟩,
   ⟨(onB (·.alterRing 4 (fun r => { r with cplTail := 50 })) ready), 4, 3, by decide +kernel⟩⟩

theorem witness_WindowRegisters :
  (∃ (s : State) (v : Word64), (s.vault.level = 1 ∨ s.vault.level = 2)) ∧
  (∃ (s : State) (v : Word64), s.vault.level ≠ 1 ∧ s.vault.level ≠ 2) :=
  ⟨⟨(onV (fun v => { v with debug := true, level := 2 }) ready), 0x0807060504030201, .inr (by decide +kernel)⟩,
   ⟨ready, 0x0807060504030201, by decide +kernel⟩⟩

theorem witness_RegisterAccess :
  (∃ (s : State) (page : Nat) (off : Nat) (v : Word64), page < 16384 ∧ off < 4096 ∧ off % 8 = 0 ∧ assignedPage page = false) ∧
  (∃ (s : State) (page : Nat) (v : Word64), page < 16384 ∧ assignedPage page = true) ∧
  (∃ (s : State) (page : Nat) (v : Word64), page < 16384 ∧ assignedPage page = true) ∧
  (∃ (s : State) (i : Nat) (v : Word64), i < 5) ∧
  (∃ (s : State) (i : Nat) (v : Word64), i < 5 ∧ (s.body.ring i).enable = false) ∧
  (∃ (s : State) (i : Nat) (v : Word64), i < 5 ∧ (s.body.ring i).enable = true) ∧
  (∃ (s : State) (page : Nat) (off : Nat) (size : Nat), page < 16384 ∧ off < 4096 ∧ (¬(off % 8 = 0 ∧ size = 8))) :=
  ⟨⟨ready, 16383, 4088, 1, by decide +kernel⟩,
   ⟨ready, 0x1700, 7, by decide +kernel⟩,
   ⟨(latched tPitch 3 (faultWord tPitch 3 .contained false true kTileFailed 0) ready), 0x0103, 1, by decide +kernel⟩,
   ⟨ready, 4, 0, by decide +kernel⟩,
   ⟨(onB (·.alterRing 4 (fun r => { r with enable := false })) ready), 4, 0x1FFF, by decide +kernel⟩,
   ⟨ready, 4, 0x1FFF, by decide +kernel⟩,
   ⟨ready, 16383, 4095, 8, by decide +kernel⟩⟩

theorem witness_WindowAccess :
  (∃ (s : State) (off : Nat) (vs : List Byte), off + vs.length ≤ 2 ^ 36 ∧ s.body.answersConfig = true ∧ s.body.host.bar2Enable
      = true ∧ (s.body.host.stagingOnly = false ∨ s.body.inStaging (s.body.bar2Addr off) vs.length = true) ∧ s.body.bar2Mapped
      (s.body.bar2Addr off) vs.length = true) ∧
  (∃ (s : State) (off : Nat) (n : Nat), off + n ≤ 2 ^ 36 ∧ s.body.answersConfig = true ∧ s.body.host.bar2Enable = true ∧
      s.body.bar2Mapped (s.body.bar2Addr off) n = true ∧ s.body.store.anyPoison (s.body.bar2Addr off) n = false) ∧
  (∃ (s : State) (off : Nat) (vs : List Byte) (es : List CwError), off + vs.length ≤ 2 ^ 36 ∧ s.body.answersConfig = true ∧
      s.body.host.bar2Enable = true ∧ s.body.host.stagingOnly = true ∧ s.body.inStaging (s.body.bar2Addr off) vs.length =
      false) ∧
  (∃ (s : State) (off : Nat) (n : Nat) (es : List CwError), off + n ≤ 2 ^ 36 ∧ s.body.answersConfig = true ∧
      s.body.host.bar2Enable = true ∧ s.body.bar2Mapped (s.body.bar2Addr off) n = false) ∧
  (∃ (s : State) (off : Nat) (n : Nat) (vs : List Byte) (es : List CwError), off + n ≤ 2 ^ 36 ∧ off + vs.length ≤ 2 ^ 36 ∧
      (s.body.answersConfig = false ∨ s.body.host.bar2Enable = false)) :=
  ⟨⟨(window false ready), (2 ^ 36 - 2), [1, 2], by decide +kernel, by decide +kernel, by decide +kernel, .inl (by
      decide +kernel), by decide +kernel⟩,
   ⟨(window false ready), (2 ^ 36 - 2), 2, by decide +kernel⟩,
   ⟨(window true ready), 0, [1], [], by decide +kernel⟩,
   ⟨(window false (host (fun x => { x with bar2Base := 0xFFF }) ready)), 0, 1, [], by decide +kernel⟩,
   ⟨ready, 0, 1, [1], [], by decide +kernel, by decide +kernel, .inr (by decide +kernel)⟩⟩

theorem witness_HostLink :
  (∃ (s : State), (∀ r ∈ s.body.rings, r.held = [] ∧ r.high = false)) ∧
  (∃ (s : State) (i : Nat) (c : CplRecord), i < 5 ∧ i < s.body.rings.length ∧ s.body.rings = alter i (fun r =>
      { r with held := [c] }) (s.body.rings.map (fun r => { r with held := [] })) ∧ (∀ r ∈ s.body.rings, r.high = false) ∧
      (s.body.ring i).enable = true ∧ 4 < (s.body.ring i).free ∧ ((s.body.ring i).write c).high = false) :=
  ⟨⟨(host (fun x => { x with pcieUp := false }) ready), by decide +kernel⟩,
   ⟨(onB (·.alterRing 4 (fun r => { r with held := [⟨1, 2, 0, false, 0, 0, .none⟩] })) (host (fun x =>
      { x with pcieUp := false }) ready)), 4, ⟨1, 2, 0, false, 0, 0, .none⟩, by decide +kernel⟩⟩

theorem witness_GrantForward :
  (∃ (s : State) (w : Word64), ((s.body.slot 32).full = false ∨ (s.body.slot 32).word.toNat % 2 ^ 32 < w.toNat % 2 ^ 32)) ∧
  (∃ (s : State) (w : Word64), (s.body.slot 32).full = true ∧ w.toNat % 2 ^ 32 ≤ (s.body.slot 32).word.toNat % 2 ^ 32) :=
  ⟨⟨(slots (alter 32 (fun _ => ⟨1, true, false⟩)) ready), 2, .inr (by decide +kernel)⟩,
   ⟨(slots (alter 32 (fun _ => ⟨1, true, false⟩)) ready), 1, by decide +kernel⟩⟩

theorem witness_KeyCustody :
  (∃ (s : State) (k : Nat), s.lodgeFree ∧ s.vault.ownerKey = none) ∧
  (∃ (s : State) (k : Nat) (o : Nat), s.lodgeFree ∧ s.vault.ownerKey = some o) ∧
  (∃ (s : State) (o : Nat) (k : Nat), s.lodgeFree ∧ s.vault.ownerKey = some o ∧ s.vault.fixtureKeys.length < 8 ∧ k ∉
      s.vault.fixtureKeys) ∧
  (∃ (s : State) (o : Nat) (k : Nat), s.lodgeFree ∧ s.vault.ownerKey = some o ∧ s.vault.rulebookKeys.length < 8 ∧ k ∉
      s.vault.rulebookKeys) ∧
  (∃ (s : State) (cls : KeyClass) (o : Nat) (k : Nat), s.lodgeFree ∧ s.vault.ownerKey = some o ∧ k ∈ s.vault.keys cls) ∧
  (∃ (s : State) (cls : KeyClass) (o : Nat) (k : Nat), s.lodgeFree ∧ s.vault.ownerKey = some o ∧ 8 ≤ (s.vault.keys cls).length
      ∧ k ∉ s.vault.keys cls) ∧
  (∃ (s : State) (cls : KeyClass) (k : Nat) (signer : Option Nat), s.lodgeFree ∧ (s.vault.ownerKey = none ∨ signer ≠
      s.vault.ownerKey)) :=
  ⟨⟨(onV (fun v => { v with ownerKey := none }) ready), 9, by decide +kernel⟩,
   ⟨ready, 9, 1, by decide +kernel⟩,
   ⟨(onV (fun v => { v with fixtureKeys := [2, 3, 4, 5, 6, 7, 8] }) ready), 1, 9, by decide +kernel⟩,
   ⟨(onV (fun v => { v with rulebookKeys := [2, 3, 4, 5, 6, 7, 8] }) ready), 1, 9, by decide +kernel⟩,
   ⟨(onV (fun v => { v with rulebookKeys := [9] }) ready), .rulebook, 1, 9, by decide +kernel⟩,
   ⟨(onV (fun v => { v with fixtureKeys := [2, 3, 4, 5, 6, 7, 8, 10] }) ready), .fixture, 1, 9, by decide +kernel⟩,
   ⟨ready, .rulebook, 9, (some 2), by decide +kernel, .inr (by decide +kernel)⟩⟩

theorem witness_LodgeAnswers :
  (∃ (s : State), s.lodgeFree) ∧
  (∃ (s : State) (auth : Nat) (o : Nat), s.lodgeFree ∧ auth < 2 ^ 32 ∧ s.vault.ownerKey = some o ∧ s.body.doves.slots.length =
      64 ∧ (s.body.slot 8).full = false ∧ (s.body.slot 9).full = false) ∧
  (∃ (s : State) (auth : Nat) (signer : Option Nat), s.lodgeFree ∧ auth < 2 ^ 32 ∧ (s.vault.ownerKey = none ∨ signer ≠
      s.vault.ownerKey)) ∧
  (∃ (s : State) (cls : KeyClass) (signer : Option Nat), s.vault.engineOn = true ∧ s.body.doves.asks = [] ∧ (s.body.slot
      40).full = false) ∧
  (∃ (s : State), s.vault.engineOn = false ∧ (s.body.slot 1).full = false) ∧
  (∃ (s : State), s.vault.engineOn = false ∧ (∀ k < 8, k ≠ 0 → (s.body.slot k).full = true)) :=
  ⟨⟨ready, by decide +kernel⟩,
   ⟨ready, 4, 1, by decide +kernel⟩,
   ⟨ready, 4, none, by decide +kernel, by decide +kernel, .inr (by decide +kernel)⟩,
   ⟨ready, .rulebook, (some 2), by decide +kernel⟩,
   ⟨(onV (fun v => { v with engineOn := false }) ready), by decide +kernel⟩,
   ⟨(slots (fun _ => List.replicate 64 ⟨0, true, false⟩) (onV (fun v => { v with engineOn := false }) ready)), by
      decide +kernel⟩⟩

theorem witness_DebugEntry :
  (∃ (s : State) (o : Nat) (n : Nat) (halves : Nat), s.lodgeFree ∧ halves < 4 ∧ s.body.boot.start = .ready ∧ s.vault.healthy =
      true ∧ s.vault.ownerKey = some o ∧ s.vault.nonce = some n ∧ s.vault.level = 0) ∧
  (∃ (s : State) (serial : Word64) (n : Nat) (level : Nat) (halves : Nat) (signer : Option Nat), s.lodgeFree ∧ level < 4 ∧
      halves < 4 ∧ s.vault.nonce ≠ some n) :=
  ⟨⟨(onV (fun v => { v with nonce := some 5 }) ready), 1, 5, 3, by decide +kernel⟩,
   ⟨(onV (fun v => { v with nonce := some 5 }) ready), 77, 6, 3, 3, (some 1), by decide +kernel⟩⟩

theorem witness_BeatEdges :
  (∃ (s : State) (d : Int), s.body.hasBeat = true ∧ d.natAbs ≤ s.body.book.tables.beat.edgeTol) ∧
  (∃ (s : State) (d : Int), s.body.clock.band = .locked ∧ s.body.book.tables.beat.edgeTol < d.natAbs) ∧
  (∃ (s : State) (d : Int), (s.body.clock.band = .holdover ∨ s.body.clock.band = .unlocked) ∧ s.body.book.tables.beat.edgeTol
      < d.natAbs) ∧
  (∃ (s : State), s.body.clock.band = .locked) ∧
  (∃ (s : State), (s.body.clock.band = .holdover ∨ s.body.clock.band = .unlocked)) ∧
  (∃ (s : State), s.body.clock.band = .holdover ∧ s.body.book.tables.beat.holdoverBeats < s.body.clock.holdBeats) :=
  ⟨⟨(holdover 3 ready), 100, by decide +kernel⟩,
   ⟨ready, -101, by decide +kernel⟩,
   ⟨(holdover 3 ready), 101, .inl (by decide +kernel), by decide +kernel⟩,
   ⟨ready, by decide +kernel⟩,
   ⟨(banded .unlocked ready), .inr (by decide +kernel)⟩,
   ⟨(holdover 101 ready), by decide +kernel⟩⟩

theorem witness_TimeOfDay :
  (∃ (s : State) (tai : Nat) (n : Nat), s.body.clock.band = .seeking ∧ s.body.clock.refPresent = true ∧ s.body.clock.edgeAt =
      some s.body.clock.now ∧ 0 < s.body.book.tables.beat.beatNs ∧ tai = s.body.book.tables.beat.beatEpoch + n *
      s.body.book.tables.beat.beatNs) ∧
  (∃ (s : State) (tai : Nat), s.body.hasBeat = true ∧ (tai - s.body.book.tables.beat.beatEpoch) / s.body.beatNs % 2 ^ 48 ≠
      s.body.clock.beat) ∧
  (∃ (s : State) (tai : Nat), s.body.hasBeat = true ∧ (tai - s.body.book.tables.beat.beatEpoch) / s.body.beatNs % 2 ^ 48 =
      s.body.clock.beat) :=
  ⟨⟨(clk (fun c => { c with band := .seeking, edgeAt := some 10000000 }) (installed [⟨5, 0, 1, 0, 0xC0000001, 0, 0, false⟩,
      barE2, barE] ready)), 500000, 5, by decide +kernel⟩,
   ⟨ready, 9999999, by decide +kernel⟩,
   ⟨ready, 10000000, by decide +kernel⟩⟩

theorem witness_ReferenceLost :
  (∃ (s : State), s.body.boot.start = .ready ∧ s.body.clock.band ≠ .free) :=
  ⟨(runs waiter ready), by decide +kernel⟩

theorem witness_BeatBoundary :
  (∃ (s : State), s.body.hasBeat = true ∧ s.body.store.pendingRetire = [] ∧ (∀ k ∈ s.body.sched.barriers, k.releasing = none)) ∧
  (∃ (s : State) (w : Nat) (d : Nat), s.body.hasBeat = true ∧ s.body.store.pendingRetire = [] ∧ s.body.sched.barriers = [] ∧
      s.body.power.fixed = false ∧ s.body.power.nearest s.body.power.op = s.body.power.op ∧ s.body.lowers = false ∧
      s.body.power.switch = some ⟨w, d, true⟩ ∧ d ≤ s.body.clock.beat + 1 ∧ s.body.power.op < s.body.power.opCeiling ∧
      s.body.power.deferred = 0 ∧ s.body.power.droopWest = false ∧ s.body.power.droopEast = false ∧ s.body.power.lastStretch =
      none ∧ (∀ e ∈ s.body.sched.entries, e.kind ≠ 3 ∧ e.kind ≠ 4 ∧ e.kind ≠ 7)) :=
  ⟨⟨(pow (fun p => { p with pendingRaise := some (2000, 101), sumP := 100000000, sumNs := 50000 }) (runs waiter ready)), by
      decide +kernel⟩,
   ⟨(pow (fun p => { p with op := 3, opFloor := 0, opCeiling := 9, switch := some ⟨4, 101, true⟩ }) (runs waiter ready)), 4,
      101, by decide +kernel⟩⟩

theorem witness_FiringOrder :
  (∃ (b : Body) (e : SchedEntry), b.nextEntry = some e) ∧
  (∃ (b : Body), b.hasBeat = true ∧ (∃ e ∈ b.sched.entries, (b.dueAt e).isSome = true)) :=
  ⟨⟨(installed [barE, ⟨100, 9, 1, 0, 0xC0000001, 0, 0, false⟩, ⟨100, 5, 3, 0, 0, 0, 0, false⟩] ready).body, ⟨100, 5, 3, 0, 0,
      0, 0, false⟩, by decide +kernel⟩,
   ⟨(installed [⟨100, 5, 3, 0, 0, 0, 0, false⟩] ready).body, by decide +kernel⟩⟩

theorem witness_EntriesFire :
  (∃ (s : State) (e : SchedEntry), s.body.nextEntry = some e ∧ e.kind = 1 ∧ e.beat = s.body.clock.beat ∧ e.part < 4 ∧ e.token
      ≠ 0 ∧ e.part < s.body.parts.length) ∧
  (∃ (s : State) (e : SchedEntry), s.body.nextEntry = some e ∧ e.kind = 7 ∧ s.body.power.droopWest = false ∧
      s.body.power.droopEast = false ∧ s.body.power.lastStretch = none) ∧
  (∃ (s : State) (e : SchedEntry), s.body.nextEntry = some e ∧ e.kind = 3 ∧ s.body.power.fixed = false ∧
      s.body.power.droopWest = false ∧ s.body.power.droopEast = false ∧ s.body.power.lastStretch = none) ∧
  (∃ (s : State) (e : SchedEntry), s.body.nextEntry = some e ∧ e.kind = 5 ∧ e.token = 0 ∧ e.beat = s.body.clock.beat) :=
  ⟨⟨(installed [⟨100, 99999, 1, 0, 0xC0000001, 0, 0, false⟩] ready), ⟨100, 99999, 1, 0, 0xC0000001, 0, 0, false⟩, by
      decide +kernel⟩,
   ⟨(installed [⟨100, 0, 7, 15, 0, 0x301, 0, false⟩] ready), ⟨100, 0, 7, 15, 0, 0x301, 0, false⟩, by decide +kernel⟩,
   ⟨(installed [⟨100, 0, 3, 15, 0, 0x31, 0, false⟩] ready), ⟨100, 0, 3, 15, 0, 0x31, 0, false⟩, by decide +kernel⟩,
   ⟨(installed [⟨100, 0, 5, 15, 0, 7, 0, false⟩] ready), ⟨100, 0, 5, 15, 0, 7, 0, false⟩, by decide +kernel⟩⟩

theorem witness_SwapAndSnapshotEntries :
  (∃ (s : State) (e : SchedEntry) (img : RulebookImage), s.body.nextEntry = some e ∧ e.kind = 4 ∧ s.body.book.staging.getD
      (e.arg0.toNat % 4) .empty = .staged img ∧ s.body.swapCode img = rbOk) ∧
  (∃ (s : State) (e : SchedEntry) (img : RulebookImage), s.body.nextEntry = some e ∧ e.kind = 4 ∧ s.body.book.staging.getD
      (e.arg0.toNat % 4) .empty = .staged img ∧ s.body.swapCode img = rbOk ∧ imageInterleave img = none ∧ (withImage
      s.body.book.tables img).op = s.body.book.tables.op ∧ (withImage s.body.book.tables img).power = s.body.book.tables.power
      ∧ (withImage s.body.book.tables img).link.enable = s.body.book.tables.link.enable ∧ (withImage s.body.book.tables
      img).snapshot = s.body.book.tables.snapshot ∧ (withImage s.body.book.tables img).outfield = s.body.book.tables.outfield
      ∧ s.body.store.pendingRetire = []) ∧
  (∃ (s : State) (e : SchedEntry), s.body.nextEntry = some e ∧ e.kind = 4 ∧ s.body.book.staging.getD (e.arg0.toNat % 4) .empty
      = .empty ∧ e.part < 4 ∧ e.token ≠ 0 ∧ e.part < s.body.parts.length) ∧
  (∃ (s : State) (e : SchedEntry) (f : FixtureImage) (placed : List Nat), s.body.nextEntry = some e ∧ e.kind = 6 ∧ e.part < 4
      ∧ e.part < s.body.parts.length ∧ e.token = 0 ∧ (e.arg0.toNat % 8 ≠ 0) ∧ (s.body.part e.part).holds = true ∧ (s.body.part
      e.part).fix = some f ∧ ((s.body.part e.part).fstate = .stopped ∨ f.upd = []) ∧ (s.body.part e.part).snap.run = none ∧
      (s.body.part e.part).snap.waiting = none ∧ (({ s.body with sched := s.body.sched.remove e } : Body).placement e.part
      (e.arg0.toNat % 8) f) = some placed) ∧
  (∃ (s : State) (e : SchedEntry) (f : FixtureImage), s.body.nextEntry = some e ∧ e.kind = 6 ∧ e.part < 4 ∧ e.token = 0 ∧
      (e.arg0.toNat % 8 ≠ 0) ∧ (s.body.part e.part).fstate = .running ∧ (s.body.part e.part).fix = some f ∧ f.upd ≠ [] ∧
      (s.body.part e.part).snap.run = none ∧ (s.body.part e.part).snap.waiting = none ∧
      (({ s.body with sched := s.body.sched.remove e } : Body).placement e.part (e.arg0.toNat % 8) f).isSome = true) :=
  ⟨⟨(installed [⟨100, 0, 4, 0, 0xC0000001, 3, 0, false⟩] (onB (·.setStaging 3 (.staged rbImage)) ready)), ⟨100, 0, 4, 0,
      0xC0000001, 3, 0, false⟩, rbImage, by decide +kernel⟩,
   ⟨(installed [⟨100, 0, 4, 0, 0xC0000001, 3, 0, false⟩] (onB (·.setStaging 3 (.staged rbImage)) ready)), ⟨100, 0, 4, 0,
      0xC0000001, 3, 0, false⟩, rbImage, by decide +kernel⟩,
   ⟨(installed [⟨100, 0, 4, 0, 0xC0000001, 3, 0, false⟩] ready), ⟨100, 0, 4, 0, 0xC0000001, 3, 0, false⟩, by decide +kernel⟩,
   ⟨(installed [⟨99, 0, 6, 0, 0, 4, 4096, false⟩] (part0 (fun x => { x with fstate := .stopped }) (runs trainee ready))), ⟨99,
      0, 6, 0, 0, 4, 4096, false⟩, trainee, [2, 2, 2, 2], by decide +kernel⟩,
   ⟨(installed [⟨99, 0, 6, 0, 0, 4, 0, false⟩] (runs trainee ready)), ⟨99, 0, 6, 0, 0, 4, 0, false⟩, trainee, by
      decide +kernel⟩⟩

theorem witness_BarrierLife :
  (∃ (s : State) (k : BarrierInfo) (e : SchedEntry), k.part < 4 ∧ (s.body.sched.barriers.find? (fun x => decide (x.part =
      k.part ∧ x.id = k.id)) = some k) ∧ s.body.barrierEntry k = some e ∧ k.arrived = false ∧ (s.body.part k.part).arrived
      e.token = true) ∧
  (∃ (s : State) (k : BarrierInfo) (e : SchedEntry) (x : Nat), k.part < 4 ∧ (s.body.sched.barriers.find? (fun y => decide
      (y.part = k.part ∧ y.id = k.id)) = some k) ∧ s.body.barrierEntry k = some e ∧ k.arrived = false ∧ (if k.noticed = 0 then
      e.beat else k.noticed) < x) ∧
  (∃ (s : State) (k : BarrierInfo) (e : SchedEntry) (g : RouteGroup), s.body.hasBeat = true ∧ s.body.nextEntry.any (fun x =>
      decide (firingOrder x.kind < 3)) = false ∧ s.body.clock.made = true ∧ k.releasing = none ∧ s.body.sched.barriers = [k] ∧
      s.body.barrierEntry k = some e ∧ e.beat ≤ s.body.clock.beat ∧ k.decided ≠ some s.body.clock.beat ∧ (∀ x ∈
      s.body.sched.entries, x ≠ e → ∀ m, s.body.dueAt x = some m → earlier (s.body.clock.beat, e.tick, 3) m = true) ∧
      s.body.groupOk s.vault.serial (barrierGroup e) = true ∧ s.body.group? (barrierGroup e) = some g ∧ (∀ n ∈ k.notices,
      n.kind = .ready) ∧ (∀ m ∈ g.members, ∃ n ∈ k.notices, n.member = m ∧ s.body.counts n s.body.clock.beat = true) ∧ e.part
      < 4 ∧ e.part < s.body.parts.length ∧ e.token ≠ 0) ∧
  (∃ (s : State) (k : BarrierInfo) (e : SchedEntry) (x : SchedEntry) (g : RouteGroup), s.body.hasBeat = true ∧
      s.body.clock.made = true ∧ k.releasing = none ∧ s.body.sched.barriers = [k] ∧ s.body.barrierEntry k = some e ∧ e.beat ≤
      s.body.clock.beat ∧ k.decided ≠ some s.body.clock.beat ∧ s.body.sched.entries = [e, x] ∧ x.kind ≠ 2 ∧ 3 < firingOrder
      x.kind ∧ x.beat = s.body.clock.beat ∧ x.tick < e.tick ∧ s.body.groupOk s.vault.serial (barrierGroup e) = true ∧
      s.body.group? (barrierGroup e) = some g ∧ (∀ n ∈ k.notices, n.kind = .ready) ∧ (∀ m ∈ g.members, ∃ n ∈ k.notices,
      n.member = m ∧ s.body.counts n s.body.clock.beat = true)) ∧
  (∃ (s : State) (k : BarrierInfo) (e : SchedEntry) (g : RouteGroup), s.body.hasBeat = true ∧ s.body.clock.made = true ∧
      k.releasing = none ∧ s.body.nextEntry.any (fun x => decide (firingOrder x.kind < 3)) = false ∧ s.body.sched.barriers =
      [k] ∧ s.body.barrierEntry k = some e ∧ e.beat + barrierSlack e ≤ s.body.clock.beat ∧ k.decided ≠ some s.body.clock.beat
      ∧ s.body.groupOk s.vault.serial (barrierGroup e) = true ∧ s.body.group? (barrierGroup e) = some g ∧ g.members ≠ [] ∧
      k.notices = [] ∧ e.part < 4 ∧ e.part < s.body.parts.length ∧ e.token ≠ 0 ∧ (s.body.part e.part).fstate = .running) :=
  ⟨⟨(barred barE [] (routed (runs waiter ready))), (bar7 []), barE, by decide +kernel⟩,
   ⟨(barred barE [] (routed (runs waiter ready))), (bar7 []), barE, 101, by decide +kernel⟩,
   ⟨(barred barE twoReady (routed (runs waiter ready))), (bar7 twoReady), barE, ⟨[0, 1], [⟨0, [(0, [1])]⟩, ⟨1, [(1, [0])]⟩],
      ⟨0, [(0, [1])]⟩⟩, by decide +kernel⟩,
   ⟨(sch (fun x => { x with entries := [barE, ⟨100, 2, 1, 0, 0xC0000002, 0, 0, false⟩] }) (barred barE twoReady (routed (runs
      waiter ready)))), (bar7 twoReady), barE, ⟨100, 2, 1, 0, 0xC0000002, 0, 0, false⟩, ⟨[0, 1], [⟨0, [(0, [1])]⟩, ⟨1, [(1,
      [0])]⟩], ⟨0, [(0, [1])]⟩⟩, by decide +kernel⟩,
   ⟨(barred barE2 [] (routed (runs waiter ready))), (bar7 []), barE2, ⟨[0, 1], [⟨0, [(0, [1])]⟩, ⟨1, [(1, [0])]⟩], ⟨0, [(0,
      [1])]⟩⟩, by decide +kernel⟩⟩

theorem witness_PowerControl :
  (∃ (s : State) (m : PowerSample), (s.body.slot 32).full = false) ∧
  (∃ (s : State), s.body.hasBeat = true ∧ s.body.power.fixed = false ∧ s.body.power.switch = none ∧ s.body.power.op <
      s.body.power.opCeiling ∧ s.body.power.dutyAlwaysZero = true ∧ s.body.power.duty = 0 ∧ (s.body.meanAt
      (s.body.clock.beatStart + (s.body.beatNs - 20000)) + s.body.book.tables.power.upMargin) * 1000000 ≤ s.body.ceiling ∧ (∀
      e ∈ s.body.sched.entries, e.kind ≠ 3 ∧ e.kind ≠ 4 ∧ e.kind ≠ 7)) ∧
  (∃ (s : State), s.body.hasBeat = true ∧ s.body.power.switch = none ∧ (s.body.power.fixed = true ∨ s.body.power.opCeiling ≤
      s.body.power.op ∨ s.body.power.duty ≠ 0 ∨ s.body.power.dutyAlwaysZero = false ∨ s.body.ceiling < (s.body.meanAt
      (s.body.clock.beatStart + (s.body.beatNs - 20000)) + s.body.book.tables.power.upMargin) * 1000000) ∧ (∀ e ∈
      s.body.sched.entries, e.kind ≠ 3 ∧ e.kind ≠ 4 ∧ e.kind ≠ 7)) ∧
  (∃ (s : State) (e : SchedEntry), s.body.hasBeat = true ∧ s.body.power.fixed = true ∧ s.body.power.switch = none ∧
      s.body.sched.entries = [e] ∧ e.kind = 7 ∧ e.beat = s.body.clock.beat + 1 ∧ e.tick = 0 ∧ e.arg0.getLsbD 0 = true ∧
      s.body.power.op < e.arg0.toNat / 2 ^ 8 % 16 ∧ s.body.power.vcoreMv ≤ s.body.coreMv (e.arg0.toNat / 2 ^ 8 % 16)) ∧
  (∃ (s : State), s.body.hasBeat = false) ∧
  (∃ (s : State), s.body.hasBeat = true ∧ s.body.power.lapsed = false ∧ s.body.power.grantBeat +
      s.body.book.tables.beat.grantRefresh ≤ s.body.clock.beat) ∧
  (∃ (s : State), (s.body.hasBeat = false ∨ s.body.power.lapsed = true ∨ s.body.clock.beat < s.body.power.grantBeat +
      s.body.book.tables.beat.grantRefresh)) :=
  ⟨⟨(pow (fun p => { p with duty := 14, pavgPrev := 1000, lastEnd := 9950000 }) ready), (sample 1500), by decide +kernel⟩,
   ⟨(pow (fun p => { p with sumNs := 5, sumP := 500, pavgPrev := 1000, lastEnd := 10030000 }) ready), by decide +kernel⟩,
   ⟨(pow (fun p => { p with sumNs := 5, sumP := 500, pavgPrev := 1000, lastEnd := 10030000, fixed := true }) ready), by
      decide +kernel, by decide +kernel, .inl (by decide +kernel), by decide +kernel⟩,
   ⟨(installed [⟨101, 0, 7, 15, 0, 0x701, 0, false⟩] (pow (fun p => { p with fixed := true, op := 2, vcoreMv := 1 }) ready)),
      ⟨101, 0, 7, 15, 0, 0x701, 0, false⟩, by decide +kernel⟩,
   ⟨(banded .seeking ready), by decide +kernel⟩,
   ⟨(clk (fun c => { c with beat := 10000 }) (pow (fun p => { p with grant := 2000 }) ready)), by decide +kernel⟩,
   ⟨(banded .seeking ready), .inl (by decide +kernel)⟩⟩

theorem witness_GrantTaken :
  (∃ (s : State) (m : PowerSample), s.body.boot.tested = true ∧ (s.body.slot 32).full = true ∧ s.body.power.seq < (s.body.slot
      32).word.toNat % 2 ^ 32 ∧ min 3400 ((s.body.slot 32).word.toNat / 2 ^ 32 % 2 ^ 12) ≤ s.body.power.grant) ∧
  (∃ (s : State) (m : PowerSample), s.body.boot.tested = true ∧ (s.body.slot 32).full = true ∧ s.body.power.seq < (s.body.slot
      32).word.toNat % 2 ^ 32 ∧ s.body.hasBeat = true ∧ s.body.power.grant < min 3400 ((s.body.slot 32).word.toNat / 2 ^ 32 %
      2 ^ 12) ∧ s.body.clock.beat < s.body.doves.grantBeat + 2) ∧
  (∃ (s : State) (m : PowerSample), s.body.boot.tested = true ∧ (s.body.slot 32).full = true ∧ (s.body.slot 32).word.toNat % 2
      ^ 32 ≤ s.body.power.seq) ∧
  (∃ (s : State) (m : PowerSample), s.body.boot.tested = false) :=
  ⟨⟨(granted 0x3E800000005 ready), (sample 100), by decide +kernel⟩,
   ⟨(granted 0x7D000000005 (onB (fun b => { b with doves := { b.doves with grantBeat := 100 } }) ready)), (sample 100), by
      decide +kernel⟩,
   ⟨(granted 0x7D000000000 ready), (sample 100), by decide +kernel⟩,
   ⟨(onB (fun b => { b with boot := { b.boot with tested := false } }) (granted 0x7D000000005 ready)), (sample 100), by
      decide +kernel⟩⟩

theorem witness_DroopAndHeat :
  (∃ (s : State) (n : Nat), s.body.power.droopWest = true) ∧
  (∃ (s : State) (n : Nat), s.body.power.droopEast = true) ∧
  (∃ (s : State) (n : Nat), s.body.power.droopWest = false) ∧
  (∃ (s : State) (n : Nat), s.body.power.droopEast = false) ∧
  (∃ (s : State) (h : Nat) (i : Nat), h < 2 ∧ s.body.sensorOut h i = false ∧ h ∉ s.body.power.hotStopped) ∧
  (∃ (s : State) (h : Nat) (i : Nat), h < 2 ∧ s.body.sensorOut h i = false ∧ h ∈ s.body.power.hotStopped) ∧
  (∃ (s : State) (h : Nat) (i : Nat), h < 2 ∧ s.body.sensorOut h i = true) ∧
  (∃ (s : State) (h : Nat), h < 2 ∧ h ∈ s.body.power.hotStopped ∧ s.body.halfWarm h = false) ∧
  (∃ (s : State) (h : Nat), h < 2 ∧ (h ∉ s.body.power.hotStopped ∨ s.body.halfWarm h = true)) ∧
  (∃ (s : State) (h : Nat) (i : Nat), h < 2 ∧ s.body.sensorOut h i = false ∧ (s.body.half h).fatal = none ∧ s.body.fenced h =
      false ∧ h < s.body.whistle.halves.length) ∧
  (∃ (s : State) (k : Nat) (c : Int) (l : ThermalLevel), k < 12 ∧ k < s.body.store.stackCtl.length ∧ s.body.fenced (k / 6) =
      false ∧ (s.body.store.stackCtl.getD k MemCtl.reset).level ≠ .shutdown ∧ (l = (if (s.body.book.tables.thermal.critC :
      Int) ≤ c ∨ ((s.body.store.stackCtl.getD k MemCtl.reset).level = .critical ∧ (s.body.book.tables.thermal.critC : Int) - 3
      < c) then .critical else if (s.body.book.tables.thermal.hotC : Int) ≤ c ∨ ((s.body.store.stackCtl.getD k
      MemCtl.reset).level ≠ .normal ∧ (s.body.book.tables.thermal.hotC : Int) - 3 < c) then .hot else .normal))) ∧
  (∃ (s : State) (k : Nat) (c : Int), k < 12 ∧ k < s.body.store.stackCtl.length ∧ s.body.fenced (k / 6) = false ∧
      (s.body.store.stackCtl.getD k MemCtl.reset).level ≠ .shutdown ∧ s.body.active = [] ∧ s.body.whistle.pages.length = 96) ∧
  (∃ (s : State) (k : Nat) (c : Int) (sd : Bool), k < 12 ∧ s.body.fenced (k / 6) = false ∧ (s.body.store.stackCtl.getD k
      MemCtl.reset).level = .shutdown) ∧
  (∃ (s : State) (k : Nat) (c : Int) (sd : Bool), k < 12 ∧ s.body.fenced (k / 6) = true) :=
  ⟨⟨(pow (fun p => { p with droopWest := true }) ready), 9, by decide +kernel⟩,
   ⟨(pow (fun p => { p with droopEast := true }) ready), 9, by decide +kernel⟩,
   ⟨ready, 9, by decide +kernel⟩,
   ⟨ready, 9, by decide +kernel⟩,
   ⟨(pitch0 .running (runs waiter ready)), 0, 63, by decide +kernel⟩,
   ⟨(pow (fun p => { p with hotStopped := [1] }) ready), 1, 63, by decide +kernel⟩,
   ⟨(onB (fun b => { b with boot := { b.boot with sensorsOut := [65539] } }) ready), 1, 3, by decide +kernel⟩,
   ⟨(pitch0 .stopped (pow (fun p => { p with hotStopped := [0] }) (runs waiter ready))), 0, by decide +kernel⟩,
   ⟨ready, 1, by decide +kernel, .inl (by decide +kernel)⟩,
   ⟨(runs waiter ready), 1, 63, by decide +kernel⟩,
   ⟨(mem (fun m => { m with stackCtl := alter 11 (fun x => { x with level := .critical }) m.stackCtl }) ready), 11, 93,
      .critical, by decide +kernel⟩,
   ⟨ready, 11, 120, by decide +kernel⟩,
   ⟨(mem (fun m => { m with stackCtl := alter 11 (fun x => { x with level := .shutdown }) m.stackCtl }) ready), 11, 60, false,
      by decide +kernel⟩,
   ⟨(halfIs 1 ⟨some .fatal, none, false⟩ ready), 11, 60, true, by decide +kernel⟩⟩

theorem witness_Retrains :
  (∃ (s : State) (c : Nat) (beat : Nat) (cmd : Bool), c < 384 ∧ s.body.store.retrainQueue = [⟨c, true, beat, cmd⟩] ∧
      s.body.trainable c = true ∧ (∀ x ∈ s.body.store.channels, x.retraining = false)) ∧
  (∃ (s : State) (c : Nat) (ns : Nat) (r : BallResult), c < 384 ∧ (s.body.store.chan c).retraining = true ∧ s.body.active = []
      ∧ c / 32 < s.body.store.stackCtl.length) ∧
  (∃ (s : State) (c : Nat) (ns : Nat) (r : BallResult), c < 384 ∧ (s.body.store.chan c).retraining = true ∧ (s.body.store.chan
      c).attempts < s.body.book.tables.memory.retrainAttempts) ∧
  (∃ (s : State) (c : Nat) (ns : Nat) (r : BallResult), c < 384 ∧ (s.body.store.chan c).retraining = true ∧ s.body.active = []
      ∧ s.body.book.tables.memory.retrainAttempts ≤ (s.body.store.chan c).attempts) ∧
  (∃ (s : State) (c : Nat), c < 384 ∧ c < s.body.store.channels.length ∧ ((s.body.store.chan c).crcAt.filter (fun x => decide
      (s.body.clock.now < x + 1000000))).length < 15) ∧
  (∃ (s : State) (c : Nat), c < 384 ∧ s.body.trainable c = true ∧ (s.body.store.chan c).retraining = false ∧
      s.body.store.retrainQueue = [] ∧ 15 ≤ ((s.body.store.chan c).crcAt.filter (fun x => decide (s.body.clock.now < x +
      1000000))).length) :=
  ⟨⟨(mem (fun m => { m with retrainQueue := [⟨383, true, 100, false⟩] }) ready), 383, 100, false, by decide +kernel⟩,
   ⟨(chan 383 (fun x => { x with retraining := true, attempts := 1 }) ready), 383, 500, ⟨0, 0⟩, by decide +kernel⟩,
   ⟨(chan 383 (fun x => { x with retraining := true, attempts := 2 }) ready), 383, 500, ⟨0, 0⟩, by decide +kernel⟩,
   ⟨(chan 383 (fun x => { x with retraining := true, attempts := 3 }) ready), 383, 500, ⟨0, 0⟩, by decide +kernel⟩,
   ⟨(crcs 14 ready), 383, by decide +kernel⟩,
   ⟨(crcs 15 ready), 383, by decide +kernel⟩⟩

theorem witness_ScrubPass :
  (∃ (s : State) (k : Nat) (e : CwError), k < 12 ∧ e.cw * 64 < s.body.store.limit ∧ s.body.sourceAt (e.cw * 64) = .infield k ∧
      3 ≤ e.symbols ∧ e.symbols ≤ 6 ∧ s.body.store.poisoned e.cw = false) ∧
  (∃ (s : State) (src : MemSource), src.wf = true ∧ (∀ c ∈ s.body.store.poison, s.body.sourceAt (c * 64) ≠ src)) ∧
  (∃ (s : State) (src : MemSource) (c : Nat), src.wf = true ∧ c ∈ s.body.store.poison ∧ s.body.sourceAt (c * 64) = src) ∧
  (∃ (m : Store) (c : Nat), m.poisoned c = false) ∧
  (∃ (m : Store) (c : Nat), m.poisoned c = true) :=
  ⟨⟨ready, 11, ⟨352, 6⟩, by decide +kernel⟩,
   ⟨(mem (fun m => { m with lists := m.lists.map (fun l => { l with ovf := true }) }) ready), (.infield 11), by decide +kernel⟩,
   ⟨(mem (fun m => { m with poison := [352] }) ready), (.infield 11), 352, by decide +kernel⟩,
   ⟨ready.body.store, 0, by decide +kernel⟩,
   ⟨(mem (fun m => { m with poison := [352] }) ready).body.store, 352, by decide +kernel⟩⟩

theorem witness_MemoryAdds :
  (∃ (s : State) (addr : Nat) (v : Nat) (source : Nat) (part : Nat) (tok : Token), s.body.store.addable addr 4 = true) ∧
  (∃ (s : State) (a : AddReq), addFormats a.fmt a.inFmt = true ∧ a.ordered = true ∧ a.last = false ∧ 0 < a.expected ∧
      s.body.store.addable a.addr (addBytes a) = true ∧ s.body.store.heldAdds = [] ∧ s.body.buffered (s.body.sourceAt a.addr)
      + addBytes a ≤ orderedRoom (s.body.sourceAt a.addr) ∧ s.body.store.windows.find? (fun x => decide (x.index = a.addr /
      granuleBytes)) = none) ∧
  (∃ (s : State) (a : AddReq), addFormats a.fmt a.inFmt = true ∧ a.ordered = true ∧ s.body.store.addable a.addr (addBytes a) =
      true ∧ s.body.store.heldAdds = [] ∧ orderedRoom (s.body.sourceAt a.addr) < s.body.buffered (s.body.sourceAt a.addr) +
      addBytes a) ∧
  (∃ (s : State) (i : Nat) (w : AddWindow), s.body.store.windows.find? (fun x => decide (x.index = i)) = some w ∧ w.firstBeat
      + s.body.book.tables.memory.orderTimeout ≤ s.body.clock.beat ∧ (∀ p ∈ s.body.parts, p.flights = []) ∧
      s.body.store.heldAdds = []) :=
  ⟨⟨(mem (fun m => { m with cells := [(0, 5)], poison := [0] }) ready), 0, 0xFFFFFFFF, 1, 0, 1, by decide +kernel⟩,
   ⟨ready, (addR true), by decide +kernel⟩,
   ⟨bufferFull, ({ addR true with addr := outfieldBase }), by decide +kernel⟩,
   ⟨(mem (fun m => { m with windows := [⟨3, 2, 50, [addR true]⟩] }) ready), 3, ⟨3, 2, 50, [addR true]⟩, by decide +kernel⟩⟩

theorem witness_BankStates :
  (∃ (s : State) (k : Nat), k < 192 ∧ s.body.fenced (k / 96) = false ∧ (s.body.store.banks.getD k ⟨.unusable, none⟩).state =
      .retain) ∧
  (∃ (s : State) (k : Nat), k < 192 ∧ s.body.fenced (k / 96) = false ∧ (s.body.store.banks.getD k ⟨.unusable, none⟩).state =
      .off) ∧
  (∃ (s : State) (k : Nat), k < 192 ∧ s.body.fenced (k / 96) = false ∧ (s.body.store.banks.getD k ⟨.unusable, none⟩).state =
      .on ∧ s.body.mayRetain k = true) ∧
  (∃ (s : State) (k : Nat), k < 192 ∧ s.body.fenced (k / 96) = false ∧ (s.body.store.banks.getD k ⟨.unusable, none⟩).state =
      .on ∧ s.body.bankOwner k = none) ∧
  (∃ (s : State) (k : Nat) (st : BankState), k < 192 ∧ s.body.fenced (k / 96) = false ∧ (s.body.store.banks.getD k ⟨.unusable,
      none⟩).target = some st) ∧
  (∃ (s : State) (k : Nat) (p : Nat), k < 192 ∧ s.body.fenced (k / 96) = false ∧ (s.body.store.banks.getD k ⟨.unusable,
      none⟩).state = .retain ∧ s.body.bankOwner k = some p) ∧
  (∃ (s : State) (k : Nat), k < 192 ∧ s.body.fenced (k / 96) = false ∧ (s.body.store.banks.getD k ⟨.unusable, none⟩).state =
      .off) ∧
  (∃ (s : State) (k : Nat) (st : Nat), k < 192 ∧ st < 4 ∧ s.body.fenced (k / 96) = true) ∧
  (∃ (s : State) (k : Nat) (p : Nat), k < 192 ∧ s.body.fenced (k / 96) = true ∧ (s.body.store.banks.getD k ⟨.unusable,
      none⟩).state = .retain ∧ s.body.bankOwner k = some p) :=
  ⟨⟨(bank 191 ⟨.retain, none⟩ ready), 191, by decide +kernel⟩,
   ⟨(bank 191 ⟨.off, none⟩ (mem (fun m =>
      { m with cells := [(scratchBase + 190 * bankBytes, 7), (scratchBase + 191 * bankBytes, 5)] }) ready)), 191, by
      decide +kernel⟩,
   ⟨(holding .stopped ready), 0, by decide +kernel⟩,
   ⟨ready, 191, by decide +kernel⟩,
   ⟨(bank 191 ⟨.on, some .off⟩ ready), 191, .off, by decide +kernel⟩,
   ⟨(bank 0 ⟨.retain, none⟩ (holding .running ready)), 0, 0, by decide +kernel⟩,
   ⟨(bank 191 ⟨.off, none⟩ ready), 191, by decide +kernel⟩,
   ⟨(halfGone 1 ready), 191, 3, by decide +kernel⟩,
   ⟨(bank 0 ⟨.retain, none⟩ (holding .running (halfGone 0 ready))), 0, 0, by decide +kernel⟩⟩

theorem witness_RetireAndReturn :
  (∃ (s : State) (c : Nat), c < 384 ∧ s.body.chanFailed c = true ∧ (s.body.store.stackCtl.getD (c / 32) MemCtl.reset).level ≠
      .shutdown ∧ s.body.chanSlot c ∉ s.body.store.retired ∧ s.body.store.pendingRetire = []) ∧
  (∃ (s : State) (c : Nat), 384 ≤ c ∧ c < 392 ∧ s.body.chanFailed c = true ∧ (∃ d, d / 4 = c / 4 ∧ s.body.chanFailed d =
      false) ∧ s.body.chanSlot c ∉ s.body.store.outRetired ∧ s.body.store.pendingRetire = []) ∧
  (∃ (s : State) (c : Nat), c < 392 ∧ s.body.chanFailed c = false ∧ (c < 384 → (s.body.store.stackCtl.getD (c / 32)
      MemCtl.reset).level ≠ .shutdown)) ∧
  (∃ (s : State) (h : Nat), h < 2 ∧ (s.body.half h).fenced = some .fatal ∧ (s.body.half h).cleared = true ∧ s.body.boot.start
      = .ready ∧ s.body.leadRuns = true ∧ s.body.store.pendingRetire = [] ∧ s.body.active = [] ∧ s.body.keepers.cores.length =
      8 ∧ s.body.whistle.halves.length = 2) :=
  ⟨⟨(chan 383 (fun x => { x with failed := true }) ready), 383, by decide +kernel⟩,
   ⟨(mem (fun m => { m with outChannels := alter 7 (fun x => { x with failed := true }) m.outChannels }) ready), 391, by
      decide +kernel, by decide +kernel, by decide +kernel, ⟨388, by decide, by decide +kernel⟩, by decide +kernel⟩,
   ⟨ready, 391, by decide +kernel, by decide +kernel, (fun h => absurd h (by decide))⟩,
   ⟨(halfGone 1 ready), 1, by decide +kernel⟩⟩

theorem witness_UnitStops :
  (∃ (s : State) (i : Nat), i < 4 ∧ s.body.fenced (i / 2) = false ∧ ((s.body.pitch i).state = .idle ∨ (s.body.pitch i).state =
      .running)) ∧
  (∃ (s : State) (i : Nat), i < 4 ∧ s.body.fenced (i / 2) = false ∧ (s.body.pitch i).state = .stopping) ∧
  (∃ (s : State) (i : Nat), i < 4 ∧ ((s.body.pitch i).state = .stopped ∨ s.body.fenced (i / 2) = true)) ∧
  (∃ (s : State) (i : Nat), i < 4 ∧ s.body.fenced (i / 2) = false ∧ (s.body.pitch i).state = .stopping) ∧
  (∃ (s : State) (i : Nat) (blocks : List (Token × Nat)), i < 4 ∧ i < s.body.pitches.length ∧ s.body.fenced (i / 2) = false ∧
      (s.body.pitch i).state = .stopping) ∧
  (∃ (s : State) (i : Nat) (blocks : List (Token × Nat)), i < 4 ∧ ((s.body.pitch i).state ≠ .stopping ∨ s.body.fenced (i / 2)
      = true)) ∧
  (∃ (s : State) (e : Nat) (burst : Bool), e < 4 ∧ s.body.fenced (e / 2) = false ∧ ((s.body.engine e).state = .idle ∨
      (s.body.engine e).state = .running) ∧ (burst = true → s.body.vectorFlight e = none)) ∧
  (∃ (s : State) (e : Nat), e < 4 ∧ s.body.fenced (e / 2) = false ∧ ((s.body.engine e).state = .idle ∨ (s.body.engine e).state
      = .running) ∧ s.body.vectorFlight e ≠ none) ∧
  (∃ (s : State) (e : Nat) (burst : Bool), e < 4 ∧ s.body.fenced (e / 2) = false ∧ (s.body.engine e).state = .stopping) ∧
  (∃ (s : State) (e : Nat) (burst : Bool), e < 4 ∧ ((s.body.engine e).state = .stopped ∨ s.body.fenced (e / 2) = true)) ∧
  (∃ (s : State) (i : Nat) (row : Nat) (col : Nat), i < 4 ∧ row < 33 ∧ col < 32 ∧ s.body.fenced (i / 2) = false ∧
      (s.body.pitch i).lost (row, col) = false ∧ (s.body.pitch i).dead = false ∧ ((s.body.pitch i).state = .idle ∨
      (s.body.pitch i).state = .running)) ∧
  (∃ (s : State) (i : Nat) (row : Nat) (col : Nat), i < 4 ∧ row < 33 ∧ col < 32 ∧ s.body.fenced (i / 2) = false ∧
      (s.body.pitch i).lost (row, col) = false ∧ (s.body.pitch i).dead = false ∧ (s.body.pitch i).state = .stopping) ∧
  (∃ (s : State) (i : Nat) (row : Nat) (col : Nat), i < 4 ∧ row < 33 ∧ col < 32 ∧ s.body.fenced (i / 2) = false ∧
      (s.body.pitch i).lost (row, col) = false ∧ (s.body.pitch i).dead = false ∧ (s.body.pitch i).state = .stopped) :=
  ⟨⟨ready, 3, by decide +kernel, by decide +kernel, .inl (by decide +kernel)⟩,
   ⟨(onB (·.alterPitch 0 (fun x => { x with state := .stopping, resume := true })) ready), 0, by decide +kernel⟩,
   ⟨(halfGone 0 (onB (·.alterPitch 0 (fun x => { x with state := .stopping, resume := true })) ready)), 0, by decide +kernel,
      .inr (by decide +kernel)⟩,
   ⟨(onB (·.alterPitch 0 (fun x => { x with state := .stopping, stopAt := 9000000, maxNs := 5, resume := true })) ready), 0, by
      decide +kernel⟩,
   ⟨(onB (·.alterPitch 0 (fun x => { x with state := .stopping, stopAt := 9000000, maxNs := 5 })) ready), 0, [(1, 2)], by
      decide +kernel⟩,
   ⟨ready, 0, [], by decide +kernel, .inl (by decide +kernel)⟩,
   ⟨ready, 3, false, by decide +kernel, by decide +kernel, .inl (by decide +kernel), (fun h => absurd h (by decide))⟩,
   ⟨(flying (opOf 1 (.vector [[.xsumClear 4]])) none ready), 0, by decide +kernel, by decide +kernel, .inl (by decide +kernel),
      by decide +kernel⟩,
   ⟨(onB (·.alterEngine 3 (fun x => { x with state := .stopping, resume := true })) ready), 3, true, by decide +kernel⟩,
   ⟨(onB (·.alterEngine 3 (fun x => { x with state := .stopped })) ready), 3, true, by decide +kernel, .inl (by
      decide +kernel)⟩,
   ⟨ready, 3, 32, 31, by decide +kernel, by decide +kernel, by decide +kernel, by decide +kernel, by decide +kernel, by
      decide +kernel, .inl (by decide +kernel)⟩,
   ⟨(onB (·.alterPitch 3 (fun x => { x with state := .stopping, resume := true })) ready), 3, 32, 31, by decide +kernel⟩,
   ⟨(onB (·.alterPitch 3 (fun x => { x with state := .stopped })) ready), 3, 32, 31, by decide +kernel⟩⟩

theorem witness_IssuePass :
  (∃ (s : State) (h : Nat) (p : Nat) (i : Nat) (op : StreamOp) (errs : List CwError), IssueFront s.body h p i op ∧
      (s.body.part p).hasRoom i = true ∧ s.body.moduleRoom = true ∧ (s.body.part p).ready i op = true ∧ s.body.recordHold p i
      = false ∧ s.body.unitsRun p op = true ∧ collectiveOf op = none ∧ (s.body.part p).copyWait op = false ∧ (s.body.part
      p).benchWrite i op = none) ∧
  (∃ (s : State) (h : Nat) (p : Nat) (tier : Nat) (gs : List Nat) (op : StreamOp) (w : BenchWrite) (errs : List CwError),
      IssueFront s.body h p 0 op ∧ (s.body.part p).hasRoom 0 = true ∧ s.body.moduleRoom = true ∧ (s.body.part p).ready 0 op =
      true ∧ s.body.recordHold p 0 = false ∧ s.body.unitsRun p op = true ∧ collectiveOf op = none ∧ (s.body.part p).copyWait
      op = false ∧ (s.body.part p).benchWrite 0 op = some w ∧ op.waits.findSome? (s.body.part p).tokenFailed = none ∧
      (s.body.part p).benchTier (((s.body.part p).entryBytes w + 64 + 65535) / 65536) = some (tier, gs)) ∧
  (∃ (s : State) (h : Nat) (p : Nat) (op : StreamOp) (w : BenchWrite) (errs : List CwError), IssueFront s.body h p 0 op ∧
      (s.body.part p).hasRoom 0 = true ∧ s.body.moduleRoom = true ∧ (s.body.part p).ready 0 op = true ∧ s.body.recordHold p 0
      = false ∧ s.body.unitsRun p op = true ∧ (s.body.part p).copyWait op = false ∧ collectiveOf op = none ∧ (s.body.part
      p).benchWrite 0 op = some w ∧ op.waits.findSome? (s.body.part p).tokenFailed = none ∧ (s.body.part p).benchTier
      (((s.body.part p).entryBytes w + 64 + 65535) / 65536) = none) ∧
  (∃ (s : State) (h : Nat) (p : Nat) (i : Nat) (op : StreamOp) (errs : List CwError), IssueFront s.body h p i op ∧
      (s.body.part p).hasRoom i = false) ∧
  (∃ (s : State) (h : Nat) (p : Nat) (i : Nat) (op : StreamOp) (errs : List CwError), IssueFront s.body h p i op ∧
      (s.body.part p).hasRoom i = true ∧ (s.body.part p).ready i op = true ∧ (s.body.moduleRoom = false ∨ s.body.recordHold p
      i = true ∨ s.body.unitsRun p op = false ∨ (s.body.part p).copyWait op = true)) ∧
  (∃ (s : State) (h : Nat) (p : Nat) (i : Nat) (op : StreamOp) (errs : List CwError), IssueFront s.body h p i op ∧
      (s.body.part p).hasRoom i = true ∧ (s.body.part p).ready i op = false ∧ s.body.boundedWait p i op = true) ∧
  (∃ (s : State) (h : Nat) (errs : List CwError), h < 2 ∧ s.body.roleRuns (4 * h + 1) = false) :=
  ⟨⟨(part0 (fun x => { x with pass := { x.pass with step := 9 } }) (runs (image [opOf 0 .idle] [] []) ready)), 0, 0, 0, (opOf 0
      .idle), [], issueFront_of (by decide +kernel), by decide +kernel⟩,
   ⟨(backDone (benching 131072 ready)), 0, 0, 2, [0], benchOp, ⟨3, 1, 100, at0 0⟩, [], issueFront_of (by decide +kernel), by
      decide +kernel⟩,
   ⟨(backDone (benching 0 ready)), 0, 0, benchOp, ⟨3, 1, 100, at0 0⟩, [], issueFront_of (by decide +kernel), by decide +kernel⟩,
   ⟨(part0 (fun x => { x with quotas := { x.quotas with inflight := 0 } }) (runs (image [opOf 0 .idle] [] []) ready)), 0, 0, 0,
      (opOf 0 .idle), [], issueFront_of (by decide +kernel), by decide +kernel⟩,
   ⟨(onB (fun b =>
      { b with parts := alter 0 (fun x => { x with pass := { x.pass with step := 9 } }) (alter 1 (fun x => { x with flights := List.replicate 768 (fly 9 none) }) b.parts) })
      (runs (image [opOf 0 .idle] [] []) ready)), 0, 0, 0, (opOf 0 .idle), [], issueFront_of (by decide +kernel), by
      decide +kernel, by decide +kernel, .inl (by decide +kernel)⟩,
   ⟨(runs waiter ready), 0, 0, 0, ({ opOf 0 .idle with waits := [0xC0000001] }), [], issueFront_of (by decide +kernel), by
      decide +kernel⟩,
   ⟨(onB (fun b =>
      { b with keepers := { b.keepers with cores := alter 1 (fun k => { k with failed := true }) (alter 5 (fun k => { k with mode := .off }) b.keepers.cores) } })
      ready), 0, [], by decide +kernel⟩⟩

theorem witness_SubOperationCommits :
  (∃ (s : State) (e : Nat) (p : Nat) (n : Nat) (fl : Flight) (op : StreamOp) (st : Stage) (hits : List Nat) (errs : List
      CwError), e < 4 ∧ e < s.body.engines.length ∧ s.body.vectorFlight e = some (p, fl, op, [.xsumClear n]) ∧ s.body.unitsRun
      p op = true ∧ (s.body.part p).stage? op = some st ∧ (s.body.engine e).parked = [] ∧ (s.body.engine e).accs.length <
      residentAccs) ∧
  (∃ (s : State) (e : Nat) (p : Nat) (n : Nat) (fl : Flight) (op : StreamOp) (st : Stage), e < 4 ∧ e < s.body.engines.length ∧
      s.body.vectorFlight e = some (p, fl, op, [.xsumClear n]) ∧ s.body.unitsRun p op = true ∧ (s.body.part p).stage? op =
      some st ∧ (s.body.engine e).parked = [] ∧ (s.body.engine e).accs.length = residentAccs ∧ (s.body.engine e).resident n =
      false ∧ s.body.placeOn p st.parkAt 40 = true ∧ (s.body.accessFault p [] ((s.body.part p).planPlaces [(st.parkAt,
      40)])).isNone = true) ∧
  (∃ (s : State) (e : Nat) (p : Nat) (n : Nat) (d : Loc) (a : Loc) (c : Loc) (fl : Flight) (op : StreamOp), e < 4 ∧
      s.body.vectorFlight e = some (p, fl, op, [.op2 .add .fp32 d a c n]) ∧ s.body.unitsRun p op = true ∧ ((s.body.part
      p).stage? op).isSome = true ∧ (∀ l ∈ [d, a, c], l.space = .infield ∨ l.space = .outfield) ∧ s.body.unmappedAt p [(a,
      bytesFor .fp32 n), (c, bytesFor .fp32 n), (d, bytesFor .fp32 n)] = none ∧ s.body.poisonAt p a (bytesFor .fp32 n) = false
      ∧ s.body.poisonAt p c (bytesFor .fp32 n) = false) ∧
  (∃ (s : State) (e : Nat) (p : Nat) (n : Nat) (acc : Nat) (a : Loc) (fl : Flight) (op : StreamOp) (f : FixtureImage) (st :
      Stage) (hits : List Nat), e < 4 ∧ s.body.vectorFlight e = some (p, fl, op, [.xsumAdd acc .fp32 a n]) ∧ s.body.unitsRun p
      op = true ∧ (s.body.part p).fix = some f ∧ (s.body.part p).stage? op = some st ∧ (a.space = .infield ∨ a.space =
      .outfield) ∧ (s.body.engine e).parked = [] ∧ (s.body.engine e).accs.length < residentAccs ∧ s.body.unmappedAt p [(a,
      bytesFor .fp32 n)] = none ∧ s.body.poisonAt p a (bytesFor .fp32 n) = true) :=
  ⟨⟨(flying (opOf 1 (.vector [[.xsumClear 4]])) none ready), 0, 0, 4, (fly 1 none), (opOf 1 (.vector [[.xsumClear 4]])),
      (plainStage .vector), [5], [⟨5, 1⟩], by decide +kernel⟩,
   ⟨(onB (·.alterEngine 0 (fun x => { x with accs := manyAccs })) (flying (opOf 1 (.vector [[.xsumClear 4]])) none ready)), 0,
      0, 4, (fly 1 none), (opOf 1 (.vector [[.xsumClear 4]])), (plainStage .vector), by decide +kernel, by decide +kernel, by
      decide +kernel, by decide +kernel, by decide +kernel, by decide +kernel, manyAccs_length, by decide +kernel⟩,
   ⟨(mem (fun m => { m with cells := [(3, 0x3F), (66, 0x80), (67, 0x3F)] }) (flying addOp none ready)), 0, 0, 2, (at0 4096),
      (at0 0), (at0 64), (fly 1 none), addOp, by decide +kernel⟩,
   ⟨(mem (fun m => { m with poison := [0] }) (flying accOp none ready)), 0, 0, 1, 2, (at0 0), (fly 1 none), accOp, (image
      [accOp] [] []), (plainStage .vector), [], by decide +kernel⟩⟩

theorem witness_OperationCompletes :
  (∃ (s : State) (p : Nat) (k : Nat) (fl : Flight) (op : StreamOp) (errs : List CwError) (hits : List Nat), p < 4 ∧ p <
      s.body.parts.length ∧ (s.body.part p).flights.find? (fun f => f.token == fl.token) = some fl ∧ (s.body.part p).op? fl =
      some op ∧ fl.failed = some k ∧ s.body.unitsRun p op = true ∧ (s.body.part p).addsBefore op = false) ∧
  (∃ (s : State) (p : Nat) (n : Nat) (a : Nat) (d : Nat) (block : Nat) (mb : Nat) (src : Loc) (dst : Loc) (fl : Flight) (op :
      StreamOp), p < 4 ∧ p < s.body.parts.length ∧ (s.body.part p).flights.find? (fun f => f.token == fl.token) = some fl ∧
      (s.body.part p).op? fl = some op ∧ fl.failed = none ∧ s.body.unitsRun p op = true ∧ op.payload = .dma src dst n ∧
      op.bench = none ∧ op.frees = some (block, mb) ∧ ((s.body.part p).stage? op).isSome = true ∧ (∀ l ∈ [src, dst], l.space =
      .infield ∨ l.space = .outfield) ∧ (s.body.part p).spans src n = [(a, n)] ∧ (s.body.part p).spans dst n = [(d, n)] ∧
      s.body.unmappedAt p [(src, n), (dst, n)] = none ∧ s.body.poisonAt p src n = false) ∧
  (∃ (s : State) (p : Nat) (tok : Token) (errs : List CwError) (hits : List Nat), p < 4 ∧ (∀ f ∈ (s.body.part p).flights,
      f.token ≠ tok)) ∧
  (∃ (s : State) (p : Nat) (fl : Flight) (op : StreamOp) (errs : List CwError) (hits : List Nat), p < 4 ∧ (s.body.part
      p).flights.find? (fun f => f.token == fl.token) = some fl ∧ (s.body.part p).op? fl = some op ∧ (s.body.part
      p).addsBefore op = true) :=
  ⟨⟨(flying copyOp (some 0x11) ready), 0, 0x11, (fly 1 (some 0x11)), copyOp, [], [], by decide +kernel⟩,
   ⟨(part0 (fun x => { x with pass := { x.pass with bench := [⟨3, 1, 2, [0], 100, []⟩, ⟨3, 2, 2, [1], 100, []⟩] } }) (mem (fun
      m => { m with cells := [(0, 9), (7, 1), (4097, 3)] }) (flying copyOp none ready))), 0, 8, 0, 4096, 3, 1, (at0 0), (at0
      4096), (fly 1 none), copyOp, by decide +kernel⟩,
   ⟨(flying copyOp none ready), 0, 2, [], [], by decide +kernel⟩,
   ⟨twoAdds, 0, ({ fly 2 none with idx := 1 }), (bucketOp 1), [], [], by decide +kernel⟩⟩

theorem witness_WaitLimits :
  (∃ (s : State) (p : Nat) (i : Nat) (b0 : Nat), p < 4 ∧ i < 3 ∧ ((s.body.part p).streams.getD i Stream.reset).waitSince =
      some b0 ∧ b0 + s.body.book.tables.streamWait < s.body.clock.beat ∧ ((s.body.part p).next? i).any (s.body.boundedWait p
      i) = true) ∧
  (∃ (s : State) (p : Nat) (i : Nat) (b0 : Nat), p < 4 ∧ i < 3 ∧ ((s.body.part p).streams.getD i Stream.reset).waitSince =
      some b0 ∧ (s.body.clock.beat ≤ b0 + s.body.book.tables.streamWait ∨ ((s.body.part p).next? i).any (s.body.boundedWait p
      i) = false)) ∧
  (∃ (s : State) (p : Nat) (b0 : Nat) (mb : Nat), p < 4 ∧ (s.body.part p).pass.benchHold = some (b0, mb) ∧ (s.body.part
      p).fstate = .running ∧ b0 + s.body.book.tables.bench.timer ≤ s.body.clock.beat) ∧
  (∃ (s : State) (p : Nat) (b0 : Nat) (mb : Nat), p < 4 ∧ (s.body.part p).pass.benchHold = some (b0, mb) ∧ s.body.clock.beat <
      b0 + s.body.book.tables.bench.timer) :=
  ⟨⟨(clk (fun c => { c with beat := 10091 }) (part0 (fun x =>
      { x with streams := alter 0 (fun y => { y with waitSince := some 90 }) x.streams }) (runs waiter ready))), 0, 0, 90, by
      decide +kernel⟩,
   ⟨(clk (fun c => { c with beat := 10090 }) (part0 (fun x =>
      { x with streams := alter 0 (fun y => { y with waitSince := some 90 }) x.streams }) (runs waiter ready))), 0, 0, 90, by
      decide +kernel, by decide +kernel, by decide +kernel, .inl (by decide +kernel)⟩,
   ⟨(clk (fun c => { c with beat := 1090 }) (part0 (fun x => { x with pass := { x.pass with benchHold := some (90, 3) } })
      (runs waiter ready))), 0, 90, 3, by decide +kernel⟩,
   ⟨(clk (fun c => { c with beat := 1089 }) (part0 (fun x => { x with pass := { x.pass with benchHold := some (90, 3) } })
      (runs waiter ready))), 0, 90, 3, by decide +kernel⟩⟩

theorem witness_StepVerdict :
  (∃ (s : State) (p : Nat), VerdictReady s.body p ∧ (s.body.part p).pass.verdictWord % 2 = 0) ∧
  (∃ (s : State) (p : Nat), VerdictReady s.body p ∧ (s.body.part p).pass.verdictWord % 2 = 1 ∧ (s.body.part p).flights = []) ∧
  (∃ (s : State) (p : Nat), p < 4 ∧ (s.body.part p).verdictReady = false) :=
  ⟨⟨(part0 (fun x => { x with pass := { x.pass with clean := 1999, skips := 3 } }) (reduced 4 (runs trainee ready))), 0,
      verdictReady_of (by decide +kernel), by decide +kernel⟩,
   ⟨(part0 (fun x => { x with pass := { x.pass with skips := 31, scaleExp := 0 } }) (reduced 1 (runs trainee ready))), 0,
      verdictReady_of (by decide +kernel), by decide +kernel⟩,
   ⟨(runs trainee ready), 0, by decide +kernel⟩⟩

theorem witness_SnapshotCompletes :
  (∃ (s : State) (p : Nat) (r : SnapRun) (f : FixtureImage), p < 4 ∧ p < s.body.parts.length ∧ (s.body.part p).snap.run = some
      r ∧ (s.body.part p).fix = some f ∧ r.layersDue = [] ∧ r.command = false ∧ (s.body.part p).snap.waiting = none) ∧
  (∃ (s : State) (p : Nat) (r : SnapRun) (f : FixtureImage) (a : Active), p < 4 ∧ p < s.body.parts.length ∧ (s.body.part
      p).snap.run = some r ∧ (s.body.part p).fix = some f ∧ r.layersDue = [] ∧ r.command = true ∧ (s.body.part p).snap.waiting
      = none ∧ s.body.active = [a] ∧ a.key = p ∧ a.running = true ∧ a.cmd.opcode = 0x28 ∧ a.ring < s.body.rings.length ∧
      (s.body.ring a.ring).held = [] ∧ (s.body.ring a.ring).hasRoom s.body.host.pcieUp = true) ∧
  (∃ (s : State) (p : Nat) (r : SnapRun), p < 4 ∧ (s.body.part p).snap.run = some r ∧ r.layersDue ≠ []) ∧
  (∃ (s : State) (p : Nat), p < 4 ∧ (s.body.part p).snap.run = none) :=
  ⟨⟨(copying [] (runs trainee ready)), 0, (snapRun []), trainee, by decide +kernel⟩,
   ⟨(onB (fun b => { b with active := [asking] }) (part0 (fun x =>
      { x with snap := { x.snap with run := some { snapRun [] with command := true } } }) (runs trainee ready))), 0,
      ({ snapRun [] with command := true }), trainee, asking, by decide +kernel⟩,
   ⟨(copying [3] (runs trainee ready)), 0, (snapRun [3]), by decide +kernel⟩,
   ⟨ready, 0, by decide +kernel⟩⟩

theorem witness_LinkTraining :
  (∃ (s : State) (l : Nat), l < 48 ∧ l < s.body.net.links.length ∧ (s.body.link l).state = .down ∧ s.body.mayTrain l = true) ∧
  (∃ (s : State) (l : Nat) (m : Nat) (rtt : Nat), l < 48 ∧ m < 16 ∧ (s.body.link l).state = .train) ∧
  (∃ (s : State) (l : Nat), l < 48 ∧ (s.body.link l).state = .train) ∧
  (∃ (s : State) (l : Nat), l < 48 ∧ (s.body.link l).state ∈ [LinkState.up, .resize, .auth, .train]) ∧
  (∃ (s : State) (c : Nat) (l : Nat), c < 8 ∧ l ∈ cageLinks c ∧ s.body.net.links.length = 48 ∧ s.body.boot.start = .ready ∧
      s.body.book.tables.link.enable.getD l false = true ∧ (s.body.link l).fitted = false ∧ (s.body.link l).state = .down) ∧
  (∃ (s : State) (c : Nat) (l : Nat), c < 8 ∧ l ∈ cageLinks c ∧ s.body.net.links.length = 48 ∧
      s.body.book.tables.link.enable.getD l false = true ∧ s.body.linkDead l = false ∧ (s.body.link l).fitted = false ∧
      (s.body.link l).state = .disabled) ∧
  (∃ (s : State) (c : Nat) (l : Nat), c < 8 ∧ l ∈ cageLinks c ∧ s.body.net.links.length = 48) :=
  ⟨⟨ready, 47, by decide +kernel⟩,
   ⟨(onB (·.alterLink 47 (fun g => { g with state := .train, badLanes := [0, 1, 2] })) ready), 47, 15, 80, by decide +kernel⟩,
   ⟨(far 47 .train ready), 47, by decide +kernel⟩,
   ⟨(joined ready), 0, by decide +kernel⟩,
   ⟨(onB (·.alterLink 47 (fun g => { g with fitted := false })) ready), 7, 47, by decide +kernel⟩,
   ⟨(onB (·.alterLink 47 (fun g => { g with fitted := false, state := .disabled })) ready), 7, 47, by decide +kernel⟩,
   ⟨(far 47 .up ready), 7, 47, by decide +kernel⟩⟩

theorem witness_PartnerProof :
  (∃ (s : State) (l : Nat) (h : FlitHdr) (m : AuthMsg), l < 48 ∧ h.wf = true ∧ (s.body.link l).state = .auth ∧ h.type = 0x02 ∧
      h.vc = 0 ∧ h.rsvd = false ∧ s.lodgeAsked ∧ s.vault.debug = false ∧ (s.vault.recentProofs s.body.clock.now).length < 16 ∧
      s.body.proofReason s.vault l m = 0 ∧ l < s.body.net.links.length ∧ (s.body.link l).proofsStale = 0) ∧
  (∃ (s : State) (l : Nat) (h : FlitHdr) (m : AuthMsg), l < 48 ∧ h.wf = true ∧ (s.body.link l).state = .auth ∧ h.type = 0x02 ∧
      h.vc = 0 ∧ h.rsvd = false ∧ s.lodgeAsked ∧ s.vault.debug = false ∧ (s.vault.recentProofs s.body.clock.now).length < 16 ∧
      s.body.proofReason s.vault l m ≠ 0 ∧ l < s.body.net.links.length ∧ (s.body.link l).proofsStale = 0) ∧
  (∃ (s : State) (l : Nat) (h : FlitHdr) (m : AuthMsg), l < 48 ∧ h.wf = true ∧ (s.body.link l).state = .auth ∧ h.type = 0x02 ∧
      h.vc = 0 ∧ h.rsvd = false ∧ s.lodgeAsked ∧ s.vault.debug = false ∧ 16 ≤ (s.vault.recentProofs s.body.clock.now).length) ∧
  (∃ (s : State) (l : Nat) (h : FlitHdr) (m : AuthMsg), l < 48 ∧ h.wf = true ∧ (s.body.link l).state = .auth ∧ h.type = 0x02 ∧
      h.vc = 0 ∧ h.rsvd = false ∧ s.vault.engineOn = false ∧ (s.body.slot 40).full = false ∧ s.body.doves.asks = []) ∧
  (∃ (s : State) (l : Nat), l < 48 ∧ (s.body.link l).state = .auth) ∧
  (∃ (s : State) (l : Nat), l < 48 ∧ (s.body.link l).state = .quarantine ∧ (s.body.link l).reason = 1 ∧ (s.body.link
      l).thirdFailure = false) ∧
  (∃ (s : State) (l : Nat), l < 48 ∧ (s.body.link l).state = .quarantine ∧ ((s.body.link l).thirdFailure = true ∨ (s.body.link
      l).reason ≠ 1)) :=
  ⟨⟨(linkIn .auth (routed (proofs 15 ready))), 0, (flitH 2 0), goodAuth, by decide +kernel⟩,
   ⟨(linkIn .auth (routed ready)), 0, (flitH 2 0), badAuth, by decide +kernel⟩,
   ⟨(linkIn .auth (routed (proofs 16 ready))), 0, (flitH 2 0), goodAuth, by decide +kernel⟩,
   ⟨(linkIn .auth (routed (onV (fun v => { v with engineOn := false }) ready))), 0, (flitH 2 0), goodAuth, by decide +kernel⟩,
   ⟨(far 47 .auth ready), 47, by decide +kernel⟩,
   ⟨(link0 (fun g => { g with reason := 1, authFailAt := [1, 2] }) (linkIn .quarantine ready)), 0, by decide +kernel⟩,
   ⟨(link0 (fun g => { g with reason := 1, authFailAt := [1, 2, 3] }) (linkIn .quarantine ready)), 0, by decide +kernel, by
      decide +kernel, .inl (by decide +kernel)⟩⟩

theorem witness_LaneResize :
  (∃ (s : State) (l : Nat) (lane : Nat), l < 48 ∧ lane < 4 ∧ l < s.body.net.links.length ∧ ((s.body.link l).state = .up ∨
      (s.body.link l).state = .resize) ∧ lane ∈ (s.body.link l).lanes) ∧
  (∃ (s : State) (l : Nat) (m : Nat) (h : FlitHdr), l < 48 ∧ l < s.body.net.links.length ∧ h.wf = true ∧ m < 16 ∧ (s.body.link
      l).state = .resize ∧ h.type = 0x03 ∧ s.body.malformed (s.body.ownMember s.vault.serial) l h = false ∧ h.seq =
      (s.body.link l).rxSeq ∧ (s.body.link l).queued = [] ∧ s.body.book.tables.link.minWidth ≤ ((maskLanes m).filter
      (s.body.link l).lanes.contains).length) ∧
  (∃ (s : State) (l : Nat) (m : Nat) (h : FlitHdr), Taken s l h 0x03 ∧ m < 16 ∧ s.body.book.tables.link.minWidth ≤ ((maskLanes
      m).filter (s.body.link l).lanes.contains).length) ∧
  (∃ (s : State) (l : Nat) (lane : Nat) (m : AuthMsg), l < 48 ∧ lane < 4 ∧ (s.body.link l).state = .up ∧ l <
      s.body.net.links.length ∧ lane ∉ (s.body.link l).lanes ∧ lane ∉ (s.body.link l).badLanes ∧ s.body.laneSlot = true ∧
      s.body.laneEarly l lane = false ∧ m.sigOk = true ∧ s.vault.debug = false ∧ s.lodgeAsked ∧ (s.vault.recentProofs
      s.body.clock.now).length < 16) ∧
  (∃ (s : State) (l : Nat) (lane : Nat) (m : AuthMsg), l < 48 ∧ lane < 4 ∧ (s.body.link l).state = .up ∧ l <
      s.body.net.links.length ∧ lane ∉ (s.body.link l).lanes ∧ lane ∉ (s.body.link l).badLanes ∧ s.body.laneSlot = true ∧
      s.body.laneEarly l lane = false ∧ m.sigOk = false ∧ s.lodgeAsked ∧ (s.vault.recentProofs s.body.clock.now).length < 16) ∧
  (∃ (s : State) (l : Nat) (lane : Nat) (m : AuthMsg), l < 48 ∧ lane < 4 ∧ (s.body.link l).state = .up ∧ lane ∉ (s.body.link
      l).lanes ∧ lane ∉ (s.body.link l).badLanes ∧ s.body.laneSlot = true ∧ s.body.laneEarly l lane = false ∧ s.vault.engineOn
      = false ∧ (s.body.slot 40).full = false ∧ s.body.doves.asks = []) ∧
  (∃ (s : State) (l : Nat) (lane : Nat) (m : AuthMsg), l < 48 ∧ lane < 4 ∧ (s.body.link l).state = .up ∧ l <
      s.body.net.links.length ∧ lane ∉ (s.body.link l).lanes ∧ lane ∉ (s.body.link l).badLanes ∧ s.body.laneSlot = true ∧
      s.body.laneEarly l lane = false) ∧
  (∃ (s : State) (l : Nat) (lane : Nat) (trained : Bool) (m : AuthMsg), l < 48 ∧ lane < 4 ∧ ((s.body.link l).state ≠ .up ∨
      lane ∈ (s.body.link l).lanes ∨ lane ∈ (s.body.link l).badLanes ∨ s.body.laneSlot = false ∨ s.body.laneEarly l lane =
      true)) :=
  ⟨⟨(joined ready), 0, 3, by decide +kernel, by decide +kernel, by decide +kernel, .inl (by decide +kernel), by decide +kernel⟩,
   ⟨(link0 (fun g => { unackedOne g with state := .resize }) (joined ready)), 0, 8, (flitH 3 0), by decide +kernel⟩,
   ⟨(link0 unackedOne (joined ready)), 0, 8, (flitH 3 0), taken_of (by decide +kernel), by decide +kernel⟩,
   ⟨(slotOpen (link0 (fun g => { g with lanes := [0, 1, 2] }) (joined ready))), 0, 3, goodAuth, by decide +kernel⟩,
   ⟨(slotOpen (link0 (fun g => { g with lanes := [0, 1, 2] }) (joined ready))), 0, 3, badAuth, by decide +kernel⟩,
   ⟨(slotOpen (link0 (fun g => { g with lanes := [0, 1, 2] }) (joined (onV (fun v => { v with engineOn := false }) ready)))),
      0, 3, goodAuth, by decide +kernel⟩,
   ⟨(slotOpen (link0 (fun g => { g with lanes := [0, 1, 2] }) (joined ready))), 0, 3, goodAuth, by decide +kernel⟩,
   ⟨(joined ready), 0, 3, true, badAuth, by decide +kernel, by decide +kernel, .inr (.inl (by decide +kernel))⟩⟩

theorem witness_FlitErrors :
  (∃ (s : State) (l : Nat), l < 48 ∧ carries (s.body.link l).state = true ∧ l < s.body.net.links.length) ∧
  (∃ (s : State) (l : Nat) (n : Nat), l < 48 ∧ n < 4 ∧ (s.body.link l).state = .up ∧ l < s.body.net.links.length) ∧
  (∃ (s : State) (l : Nat) (h : FlitHdr), l < 48 ∧ h.wf = true ∧ carries (s.body.link l).state = true ∧ h.type = 0x01 ∧
      s.body.malformed (s.body.ownMember s.vault.serial) l h = false ∧ l < s.body.net.links.length) ∧
  (∃ (s : State) (l : Nat) (h : FlitHdr), l < 48 ∧ h.wf = true ∧ (s.body.link l).state = .up ∧ h.type = 0x00 ∧
      s.body.malformed (s.body.ownMember s.vault.serial) l h = false ∧ l < s.body.net.links.length ∧ (s.body.link l).queued =
      []) ∧
  (∃ (s : State) (l : Nat) (h : FlitHdr), l < 48 ∧ h.wf = true ∧ (s.body.link l).state = .up ∧ l < s.body.net.links.length ∧
      s.body.malformed (s.body.ownMember s.vault.serial) l h = true) ∧
  (∃ (s : State) (l : Nat) (x : Nat) (b0 : Nat), l < 48 ∧ l < s.body.net.links.length ∧ (s.body.link l).starves 0 = some (x,
      b0)) ∧
  (∃ (s : State) (l : Nat) (vc : Nat) (x : Nat) (b0 : Nat), l < 48 ∧ l < s.body.net.links.length ∧ 1 ≤ vc ∧ vc < 4 ∧
      (s.body.link l).starves vc = some (x, b0) ∧ b0 + s.body.book.tables.link.dataStarveBeats ≤ s.body.clock.beat) ∧
  (∃ (s : State) (l : Nat) (vc : Nat) (x : Nat) (b0 : Nat), l < 48 ∧ 1 ≤ vc ∧ vc < 4 ∧ (s.body.link l).starves vc = some (x,
      b0) ∧ s.body.clock.beat < b0 + s.body.book.tables.link.dataStarveBeats) ∧
  (∃ (s : State) (l : Nat) (vc : Nat), l < 48 ∧ 1 ≤ vc ∧ vc < 4) :=
  ⟨⟨(linkIn .resize (routed ready)), 0, by decide +kernel⟩,
   ⟨(joined ready), 0, 3, by decide +kernel⟩,
   ⟨(link0 unackedOne (joined ready)), 0, ({ flitH 1 0 with ack := 4 }), by decide +kernel⟩,
   ⟨(link0 unackedOne (joined ready)), 0, ({ flitH 0 0 with ack := 4, crVc := 3, crCount := 1023 }), by decide +kernel⟩,
   ⟨(bads 15 (joined ready)), 0, (flitH 0x20 1), by decide +kernel⟩,
   ⟨(starved 0 (joined ready)), 0, 9000000, 90, by decide +kernel⟩,
   ⟨(clk (fun c => { c with beat := 1000000 }) (starved 3 (joined ready))), 0, 3, 9000000, 90, by decide +kernel⟩,
   ⟨(starved 3 (joined ready)), 0, 3, 9000000, 90, by decide +kernel⟩,
   ⟨(starved 1 (joined ready)), 0, 1, by decide +kernel⟩⟩

theorem witness_WindowFlits :
  (∃ (s : State) (l : Nat) (a : Nat) (p : Nat) (h : FlitHdr) (m : WriteMsg), Taken s l h 0x20 ∧ s.body.windowCheck h.window 0
      m.domain m.off m.bytes.length = .granted a p ∧ s.body.repeatedSegment h = false ∧ (∀ k ∈ s.body.store.banksAt a
      m.bytes.length, (s.body.store.banks.getD k ⟨.unusable, none⟩).state = .on)) ∧
  (∃ (s : State) (l : Nat) (a : Nat) (p : Nat) (h : FlitHdr) (m : WriteMsg) (errs : List CwError), Taken s l h 0x20 ∧
      s.body.windowCheck h.window 0 m.domain m.off m.bytes.length = .granted a p ∧ s.body.repeatedSegment h = true) ∧
  (∃ (s : State) (l : Nat) (a : Nat) (p : Nat) (k : Nat) (h : FlitHdr) (m : WriteMsg) (errs : List CwError), Taken s l h 0x20
      ∧ s.body.windowCheck h.window 0 m.domain m.off m.bytes.length = .granted a p ∧ k ∈ s.body.store.banksAt a m.bytes.length
      ∧ (s.body.store.banks.getD k ⟨.unusable, none⟩).state = .off) ∧
  (∃ (s : State) (l : Nat) (a : Nat) (p : Nat) (v : Nat) (h : FlitHdr) (m : AddMsg), Taken s l h 0x21 ∧ m.ordered = false ∧
      m.fmt = .int32 ∧ m.inFmt = .int32 ∧ m.values = [v] ∧ s.body.windowCheck h.window 2 m.domain m.off 4 = .granted a p ∧
      s.body.store.addable a 4 = true ∧ s.body.repeatedSegment h = false) ∧
  (∃ (s : State) (l : Nat) (own : Nat) (h : FlitHdr) (m : WriteMsg) (e : Edge) (errs : List CwError), Taken s l h 0x20 ∧
      s.body.windowCheck h.window 0 m.domain m.off m.bytes.length = .denied ∧ s.body.ownMember s.vault.serial = some own ∧
      s.body.edge? own h.src = some e ∧ (s.body.link e.primary.outLink).state = .up ∧ ((s.body.link l).badAt.filter (fun x =>
      decide (s.body.clock.now < x + s.body.book.tables.link.badFrameWindowNs))).length + 1 <
      s.body.book.tables.link.badFrameLimit) ∧
  (∃ (s : State) (l : Nat) (h : FlitHdr) (m : WriteMsg) (errs : List CwError), Taken s l h 0x20 ∧ s.body.windowCheck h.window
      0 m.domain m.off m.bytes.length = .grace) ∧
  (∃ (s : State) (l : Nat) (p : Nat) (h : FlitHdr) (fl : Flight) (c : Collective) (op : StreamOp), Taken s l h 0x22 ∧ p < 4 ∧
      p < s.body.parts.length ∧ (∀ q, q < 4 → q ≠ p → (s.body.part q).flights = []) ∧ (s.body.part p).flights = [fl] ∧
      (s.body.part p).op? fl = some op ∧ op.payload = .collective c ∧ c.kind = .add ∧ c.source = h.src ∧ fl.sent = h.op ∧
      fl.failed = none) ∧
  (∃ (s : State) (l : Nat) (h : FlitHdr), Taken s l h 0x22 ∧ s.body.deniedOp h = none) :=
  ⟨⟨(open0 win0 (joined ready)), 0, 4158, 0, (flitH 0x20 2), write2, taken_of (by decide +kernel), by decide +kernel⟩,
   ⟨(onB (fun b => { b with net := { b.net with accepted := [segKey (flitH 0x20 2)] } }) (open0 win0 (joined ready))), 0, 4158,
      0, (flitH 0x20 2), write2, [], taken_of (by decide +kernel), by decide +kernel⟩,
   ⟨(bank 0 ⟨.off, none⟩ (open0 { win0 with base := scratchBase } (joined ready))), 0, (scratchBase + 62), 0, 0, (flitH 0x20
      2), write2, [], taken_of (by decide +kernel), by decide +kernel⟩,
   ⟨(mem (fun m => { m with cells := [(4096, 7)] }) (open0 win0 (joined ready))), 0, 4096, 0, 0xFFFFFFFF, (flitH 0x21 2), ⟨1,
      0, .int32, .int32, [0xFFFFFFFF], false, 1, true⟩, taken_of (by decide +kernel), by decide +kernel⟩,
   ⟨(bads 14 (open0 win0 (joined ready))), 0, 0, (flitH 0x20 2), ⟨1, 63, [8, 9]⟩, ⟨0, 1, ⟨0, 0, 1, 0⟩, []⟩, [], taken_of (by
      decide +kernel), by decide +kernel⟩,
   ⟨(open0 { win0 with valid := false, fencedAt := some 9000001 } (joined ready)), 0, (flitH 0x20 2), write2, [], taken_of (by
      decide +kernel), by decide +kernel⟩,
   ⟨(joined (flying (collOp .add) none ready)), 0, 0, (flitH 0x22 0), (fly 1 none), (coll .add), (collOp .add), taken_of (by
      decide +kernel), by decide +kernel⟩,
   ⟨(joined (flying (collOp .add) none ready)), 0, ({ flitH 0x22 0 with op := 1 }), taken_of (by decide +kernel), by
      decide +kernel⟩⟩

theorem witness_Collectives :
  (∃ (s : State) (l : Nat) (own : Nat) (h : FlitHdr) (m : StatusMsg) (k : Bucket) (f : FixtureImage), Taken s l h 0x06 ∧
      s.body.ownMember s.vault.serial = some own ∧ (s.body.part h.part).fix = some f ∧ (s.body.part h.part).pass.bucket?
      m.hdr.bucket = some k ∧ k.reduced = none ∧ k.failed = false ∧ m.failed = false ∧ m.hdr.step = (s.body.part
      h.part).pass.step ∧ h.part < s.body.parts.length) ∧
  (∃ (s : State) (l : Nat) (own : Nat) (h : FlitHdr) (m : StatusMsg), Taken s l h 0x06 ∧ s.body.ownMember s.vault.serial =
      some own ∧ m.hdr.step ≠ (s.body.part h.part).pass.step ∧ s.body.statusOnward own h.part (some h.src) m.hdr.bucket = []) ∧
  (∃ (s : State) (l : Nat) (own : Nat) (n : Nat) (h : FlitHdr) (m : StatusMsg) (e : Edge), Taken s l h 0x06 ∧ s.body.ownMember
      s.vault.serial = some own ∧ (s.body.part h.part).pass.bucket? m.hdr.bucket = none ∧ s.body.statusOnward own h.part (some
      h.src) m.hdr.bucket = [n] ∧ s.body.edge? own n = some e ∧ (s.body.link e.primary.outLink).state = .up) ∧
  (∃ (s : State) (l : Nat) (own : Nat) (h : FlitHdr) (m : ReduceMsg) (r : Reduction), Taken s l h 0x10 ∧ s.body.ownMember
      s.vault.serial = some own ∧ s.body.reductionFor own h.part h.src m.hdr = some r ∧ s.body.repeatedSegment h = false ∧ (∀
      x ∈ r.partials, x.1 = h.src → x.2.first ≠ m.first) ∧ ((treeChildren (s.body.collTree r.coll) own).all
      (Reduction.childDone { r with partials := r.partials ++ [(h.src, m)] })) = false) ∧
  (∃ (s : State) (l : Nat) (own : Nat) (h : FlitHdr) (m : ReduceMsg) (r : Reduction), Taken s l h 0x10 ∧ s.body.ownMember
      s.vault.serial = some own ∧ s.body.reductionFor own h.part h.src m.hdr = some r ∧ r.coll.kind = .reduceScatter ∧ r.sent
      = false ∧ r.partials = [] ∧ m.failed = false ∧ hdrDiffers r.hdr m.hdr = false ∧ treeChildren (s.body.collTree r.coll)
      own = [h.src] ∧ treeParent (s.body.collTree r.coll) own = none ∧ m.hdr.elements ≤ m.values.length ∧ r.part = h.part ∧
      s.body.repeatedSegment h = false ∧ h.errs = [] ∧ (r.coll.loc.space = .infield ∨ r.coll.loc.space = .outfield) ∧
      s.body.unmappedAt r.part [(r.coll.loc, 2 * r.values.length)] = none) ∧
  (∃ (s : State) (l : Nat) (own : Nat) (h : FlitHdr) (m : ResultMsg) (r : Reduction), Taken s l h 0x11 ∧ s.body.ownMember
      s.vault.serial = some own ∧ s.body.resultFor own h.part h.src m.coll = some r ∧ r.coll.kind ≠ .xsum ∧ (r.coll.loc.space
      = .infield ∨ r.coll.loc.space = .outfield ∨ r.coll.loc.space = .scratch) ∧ s.body.repeatedSegment h = false ∧ h.errs =
      [] ∧ s.body.placeOn h.part { r.coll.loc with off := r.coll.loc.off + m.addr } m.bytes.length = true ∧
      (s.body.accessFault h.part [] [({ r.coll.loc with off := r.coll.loc.off + m.addr }, m.bytes.length)]).isNone = true) ∧
  (∃ (s : State) (l : Nat) (own : Nat) (h : FlitHdr) (m : ResultMsg), Taken s l h 0x11 ∧ s.body.ownMember s.vault.serial =
      some own ∧ s.body.resultFor own h.part h.src m.coll = none ∧ s.body.repeatedSegment h = false) ∧
  (∃ (s : State) (p : Nat) (fl : Flight) (op : StreamOp) (c : Collective), p < 4 ∧ p < s.body.parts.length ∧ (s.body.part
      p).flights = [fl] ∧ (s.body.part p).op? fl = some op ∧ op.payload = .collective c ∧ fl.failed = none ∧
      s.body.collectiveDone p fl op c = false ∧ fl.issuedBeat + s.body.book.tables.link.collectiveTimeout ≤ s.body.clock.beat
      ∧ (s.body.part p).fstate = .running) :=
  ⟨⟨(open9 ⟨0, 0, none, false, none⟩ (joined (runs trainee ready))), 0, 0, (flitH 6 0), ⟨{ hdr9 with status := 1 }, false⟩, ⟨0,
      0, none, false, none⟩, trainee, taken_of (by decide +kernel), by decide +kernel⟩,
   ⟨(open9 ⟨0, 0, none, false, none⟩ (joined (runs trainee ready))), 0, 0, (flitH 6 0), ⟨{ hdr9 with step := 8 }, false⟩,
      taken_of (by decide +kernel), by decide +kernel⟩,
   ⟨(between ready), 0, 0, 2, (flitH 6 0), ⟨{ hdr9 with step := 8 }, true⟩, ⟨0, 2, ⟨0, 1, 2, 1⟩, []⟩, taken_of (by
      decide +kernel), by decide +kernel⟩,
   ⟨(reducing (red .reduceScatter false) (open9 ⟨0, 0, none, false, none⟩ (joined (runs trainee ready)))), 0, 0, (flitH 0x10
      1), ⟨hdr9, 0, [0x3C00], false⟩, (red .reduceScatter false), taken_of (by decide +kernel), by decide +kernel⟩,
   ⟨(reducing (red .reduceScatter false) (open9 ⟨0, 0, none, false, none⟩ (joined (runs trainee ready)))), 0, 0, (flitH 0x10
      1), ⟨hdr9, 0, [0x3C00, 0x4000], false⟩, (red .reduceScatter false), taken_of (by decide +kernel), by decide +kernel⟩,
   ⟨(reducing (red .broadcast true) (joined (runs trainee ready))), 0, 0, (flitH 0x11 1), ⟨⟨.broadcast, 0, 9⟩, 0, [5, 6],
      true⟩, (red .broadcast true), taken_of (by decide +kernel), by decide +kernel⟩,
   ⟨(reducing (red .broadcast true) (joined (runs trainee ready))), 0, 0, (flitH 0x11 1), ⟨⟨.allGather, 0, 9⟩, 0, [5, 6],
      true⟩, taken_of (by decide +kernel), by decide +kernel⟩,
   ⟨(clk (fun c => { c with beat := 590 }) (reducing (red .broadcast true) (joined (flying (collOp .broadcast) none ready)))),
      0, (fly 1 none), (collOp .broadcast), (coll .broadcast), by decide +kernel⟩⟩

theorem witness_RelayFenceNotice :
  (∃ (s : State) (l : Nat) (out : Nat) (h : FlitHdr) (x : FlitBody), Taken s l h h.type ∧ relayFits h.type x = true ∧
      s.body.relayStep (s.body.ownMember s.vault.serial) l h = .forward out ∧ out < s.body.net.links.length ∧ (s.body.link
      out).state = .up) ∧
  (∃ (s : State) (l : Nat) (out : Nat) (h : FlitHdr) (x : FlitBody), Taken s l h h.type ∧ relayFits h.type x = true ∧
      s.body.relayStep (s.body.ownMember s.vault.serial) l h = .forward out ∧ s.body.linkUp out = false) ∧
  (∃ (s : State) (l : Nat) (own : Nat) (a : Nat) (p : Nat) (h : FlitHdr) (m : WriteMsg), Taken s l h 0x32 ∧ s.body.ownMember
      s.vault.serial = some own ∧ s.body.relayStep (some own) l h = .arrived ∧ s.body.windowCheck h.window 0 m.domain m.off
      m.bytes.length = .granted a p ∧ s.body.repeatedSegment h = false ∧ h.errs = [] ∧ (∀ k ∈ s.body.store.banksAt a
      m.bytes.length, (s.body.store.banks.getD k ⟨.unusable, none⟩).state = .on)) ∧
  (∃ (s : State) (l : Nat) (own : Nat) (a : Nat) (p : Nat) (h : FlitHdr) (m : WriteMsg), Taken s l h 0x32 ∧ s.body.ownMember
      s.vault.serial = some own ∧ s.body.relayStep (some own) l h = .arrived ∧ s.body.windowCheck h.window 0 m.domain m.off
      m.bytes.length = .granted a p ∧ s.body.repeatedSegment h = true) ∧
  (∃ (s : State) (l : Nat) (h : FlitHdr), Taken s l h 0x04 ∧ h.part < s.body.parts.length) ∧
  (∃ (s : State) (l : Nat) (own : Nat) (h : FlitHdr) (n : Notice), Taken s l h 0x05 ∧ s.body.ownMember s.vault.serial = some
      own ∧ (∀ k ∈ s.body.sched.barriers, k.id ≠ n.barrier) ∧ (∀ x ∈ s.body.sched.closed, x.1 ≠ n.barrier)) ∧
  (∃ (s : State) (l : Nat) (own : Nat) (p : Nat) (b0 : Nat) (h : FlitHdr) (n : Notice), Taken s l h 0x05 ∧ s.body.ownMember
      s.vault.serial = some own ∧ s.body.sched.barriers = [] ∧ s.body.sched.closed = [(n.barrier, p, b0)] ∧ s.body.counts n b0
      = true ∧ p < 4 ∧ s.body.whistle.pages.length = allSources.length) ∧
  (∃ (s : State) (l : Nat) (own : Nat) (h : FlitHdr) (n : Notice) (k : BarrierInfo), Taken s l h 0x05 ∧ s.body.ownMember
      s.vault.serial = some own ∧ s.body.sched.barriers = [k] ∧ k.id = n.barrier ∧ k.decided = none) :=
  ⟨⟨(relaying ready), 0, 1, (wflit 2), (.write write2), taken_of (by decide +kernel), by decide +kernel⟩,
   ⟨(far 1 .down (relaying ready)), 0, 1, (wflit 2), (.write write2), taken_of (by decide +kernel), by decide +kernel⟩,
   ⟨(onB (·.alterLink 1 (fun g => { g with partner := 2 })) (open0 win0 (relaying ready))), 1, 0, 4158, 0, (wflit 0), write2,
      taken_of (by decide +kernel), by decide +kernel⟩,
   ⟨(onB (fun b =>
      { b.alterLink 1 (fun g => { g with partner := 2 }) with net := { (b.alterLink 1 (fun g => { g with partner := 2 })).net with accepted := [segKey (wflit 0)] } })
      (open0 win0 (relaying ready))), 1, 0, 4158, 0, (wflit 0), write2, taken_of (by decide +kernel), by decide +kernel⟩,
   ⟨(joined (flying (collOp .broadcast) none ready)), 0, (flitH 4 0), taken_of (by decide +kernel), by decide +kernel⟩,
   ⟨(sch (fun x => { x with held := List.replicate 1024 ⟨6, 1, .ready, 99, 0⟩ }) (joined ready)), 0, 0, (flitH 5 0), ⟨7, 1,
      .ready, 99, 0⟩, taken_of (by decide +kernel), by decide +kernel⟩,
   ⟨(sch (fun x => { x with closed := [(7, 0, 100)] }) (joined ready)), 0, 0, 0, 100, (flitH 5 0), ⟨7, 1, .ready, 90, 0⟩,
      taken_of (by decide +kernel), by decide +kernel⟩,
   ⟨(barred barE [] (joined ready)), 0, 0, (flitH 5 0), ⟨7, 1, .ready, 99, 0⟩, (bar7 []), taken_of (by decide +kernel), by
      decide +kernel⟩⟩

theorem witness_FaultMessages :
  (∃ (s : State) (w : Word64) (k : Nat), pageSlot (msgType w) (msgInst w) = some k ∧ msgClass w = .contained ∧ k <
      s.body.whistle.pages.length ∧ s.body.doves.attn.length = 5) ∧
  (∃ (s : State) (w : Word64) (h : Nat) (k : Nat), pageSlot (msgType w) (msgInst w) = some k ∧ msgClass w = .fatal ∧
      s.body.fatalHalves (msgType w) (msgInst w) = [h] ∧ (s.body.half h).fatal = none ∧ s.body.fenced h = false ∧ h <
      s.body.whistle.halves.length) ∧
  (∃ (s : State) (w : Word64) (k : Nat), pageSlot (msgType w) (msgInst w) = some k ∧ msgClass w = .corrected ∧ k <
      s.body.whistle.pages.length ∧ (countPromo s.body.whistle.promo (msgSource w) (msgKind w) s.body.clock.now (promotionOf
      s.body.book.tables.faults (msgKind w)).windowNs).1 < (promotionOf s.body.book.tables.faults (msgKind w)).limit) ∧
  (∃ (s : State) (w : Word64), (pageSlot (msgType w) (msgInst w) = none ∨ msgClass w = .reserved)) :=
  ⟨⟨(page tPitch 3 (fun p => { p with message := 5 }) ready), tile3, 3, by decide +kernel⟩,
   ⟨(runs waiter ready), east, 1, (pageSlot tHalf 1).getD 0, by decide +kernel⟩,
   ⟨(whis (fun w => { w with promo := [⟨msgSource corrected11, kMemCorrected, 1022, 9000000⟩] }) ready), corrected11, (pageSlot
      tStack 11).getD 0, by decide +kernel⟩,
   ⟨ready, 0x04FC000000000000, .inl (by decide +kernel)⟩⟩

theorem witness_TimersAndFences :
  (∃ (s : State) (p : Nat) (d : Nat), p < 4 ∧ (s.body.page tPartition p).timer = some d ∧ (s.body.part p).fstate = .running ∧
      (s.body.part p).snap.run = none ∧ s.body.whistle.pages.length = allSources.length) ∧
  (∃ (s : State) (page : Nat), assignedPage page = true ∧ page / 256 < 16 ∧ (s.body.page (page / 256) (page % 256)).timer =
      none) ∧
  (∃ (s : State) (h : Nat) (f : FatalSeq), h < 2 ∧ (s.body.half h).fatal = some f ∧ f.reported = true ∧ s.body.fenced h =
      false ∧ s.body.fenced (1 - h) = false ∧ s.body.whistle.halves.length = 2 ∧ s.body.active = []) ∧
  (∃ (s : State) (h : Nat) (f : FatalSeq), h < 2 ∧ (s.body.half h).fatal = some f ∧ f.reported = true ∧ s.body.fenced h =
      false ∧ s.body.fenced (1 - h) = true ∧ s.body.whistle.halves.length = 2 ∧ s.body.active = [] ∧ s.body.boot.inputOk =
      true) ∧
  (∃ (s : State) (h : Nat) (f : FatalSeq), h < 2 ∧ (s.body.half h).fatal = some f ∧ f.reported = true ∧ s.body.fenced h =
      false ∧ s.body.fenced (1 - h) = true ∧ s.body.whistle.halves.length = 2 ∧ s.body.active = [] ∧ s.body.boot.inputOk =
      false) ∧
  (∃ (s : State) (h : Nat), h < 2 ∧ (s.body.half h).fatal = none) :=
  ⟨⟨(page tPartition 0 (fun p => { p with timer := some 11000000 }) (onB (fun b =>
      { b with net := { b.net with windows := alter 0 (fun _ => ⟨0, 5, true, 1, 0, 64, 1, none⟩) b.net.windows } }) (runs
      waiter ready))), 0, 11000000, by decide +kernel⟩,
   ⟨ready, 0x0F00, by decide +kernel⟩,
   ⟨(halfIs 1 ⟨none, some (reported east), false⟩ (onB (·.alterEngine 3 (fun x => { x with accs := [⟨0, Arith.XSum.zero⟩] }))
      (runs waiter ready))), 1, (reported east), by decide +kernel⟩,
   ⟨(halfIs 0 ⟨some .fatal, some (reported west), false⟩ (halfIs 1 ⟨none, some (reported east), false⟩ ready)), 1, (reported
      east), by decide +kernel⟩,
   ⟨(onB (fun b => { b with boot := { b.boot with inputOk := false } }) (halfIs 0 ⟨some .fatal, some (reported west), false⟩
      (halfIs 1 ⟨none, some (reported east), false⟩ ready))), 1, (reported east), by decide +kernel⟩,
   ⟨ready, 1, by decide +kernel⟩⟩

theorem witness_Keepers :
  (∃ (s : State) (k : Nat) (late : Bool), k < 8 ∧ k % 4 = 1 ∧ s.body.marksFrames k = true ∧ s.body.doves.asks = [] ∧ k <
      s.body.keepers.cores.length) ∧
  (∃ (s : State) (k : Nat) (late : Bool), k < 8 ∧ k % 4 = 1 ∧ s.body.marksFrames k = true ∧ s.body.doves.asks = [] ∧ k <
      s.body.keepers.cores.length ∧ (∀ x ∈ s.body.parts, x.fstate ≠ .running) ∧ s.body.sched.entries = []) ∧
  (∃ (s : State) (m : Word64) (x : FrameRun), s.body.marksFrames 0 = true ∧ s.body.doves.asks = [] ∧ (s.body.page tBand
      0).unhandled = [m] ∧ msgKind m = kBeatLost ∧ msgType m = tBand ∧ (∀ x ∈ s.body.whistle.pages, x.timer = none) ∧ (∀ a i,
      (a, i) ≠ (tBand, 0) → (s.body.page a i).unhandled = []) ∧ (∀ h, (s.body.half h).fatal = none)) ∧
  (∃ (s : State) (w : Nat) (i : Nat) (x : FrameRun), s.body.marksFrames s.body.leadKeeper = true ∧ s.body.doves.asks = [] ∧
      s.body.active = [] ∧ (∀ r, r < 5 → (s.body.slot (16 + r)).full = false ∧ (s.body.ring r).entries = []) ∧ i < 5 ∧
      s.body.doves.attn.getD i 0 = w ∧ w ≠ 0 ∧ (s.body.slot (24 + i)).full = false ∧ s.body.doves.slots.length = 64) ∧
  (∃ (s : State) (k : Nat), k < 8 ∧ s.body.powered = true ∧ s.body.keeperRuns k = true ∧ (s.body.keeper k).expiredAt = none ∧
      s.body.fenced (1 - k / 4) = false) ∧
  (∃ (s : State) (k : Nat) (a : Nat), k < 8 ∧ s.body.powered = true ∧ s.body.keeperRuns k = true ∧ (s.body.keeper k).expiredAt
      = some a ∧ max s.body.clock.now ((s.body.keeper k).frameAt + 25000) < a + 1000000000 ∧ (s.body.half (k / 4)).fatal =
      none ∧ s.body.whistle.halves.length = 2) ∧
  (∃ (s : State) (k : Nat), k < 8 ∧ s.body.doves.wake.getD k false = true ∧ ((s.body.keeper k).mode = .retain ∨ (s.body.keeper
      k).mode = .off)) ∧
  (∃ (s : State), s.body.doves.wake.getD 8 false = true ∧ s.body.doves.mail = [] ∧ s.body.doves.asks = []) ∧
  (∃ (s : State), s.body.doves.wake.getD 8 false = true ∧ s.body.doves.mail = [(1, .nonce)] ∧ s.body.doves.asks = []) ∧
  (∃ (s : State), s.vault.engineOn = true ∧ engineIdle s.body = true) ∧
  (∃ (s : State), (s.vault.engineOn = false ∨ engineIdle s.body = false)) :=
  ⟨⟨(slots (alter 59 (fun _ => ⟨3, true, false⟩)) ready), 5, true, by decide +kernel⟩,
   ⟨ready, 5, false, by decide +kernel⟩,
   ⟨(page tBand 0 (fun p => { p with message := lostBeat, unhandled := [lostBeat], sent := [lostBeat] }) ready), lostBeat,
      ⟨false, true⟩, by decide +kernel, by decide +kernel, by decide +kernel, by decide +kernel, by decide +kernel, by
      decide +kernel, otherPages _ (by decide +kernel), noHalfFatal _ (by decide +kernel)⟩,
   ⟨(onB (·.attention 4 3) ready), 8, 4, ⟨false, true⟩, by decide +kernel⟩,
   ⟨ready, 7, by decide +kernel⟩,
   ⟨(keeper 7 (fun x => { x with expiredAt := some 9000000, frameAt := 9990000 }) ready), 7, 9000000, by decide +kernel⟩,
   ⟨(woken 7 (keeper 7 (fun x => { x with mode := .off }) ready)), 7, by decide +kernel, by decide +kernel, .inr (by
      decide +kernel)⟩,
   ⟨(woken 8 ready), by decide +kernel⟩,
   ⟨(woken 8 (onV (fun v => { v with engineOn := false }) (onB (fun b =>
      { b with doves := { b.doves with mail := [(1, .nonce)], slots := alter 1 (fun _ => ⟨4, true, false⟩) b.doves.slots } })
      ready))), by decide +kernel⟩,
   ⟨ready, by decide +kernel⟩,
   ⟨(woken 8 ready), .inr (by decide +kernel)⟩⟩

theorem witness_LogAndSupply :
  (∃ (s : State) (r : Record) (rs : List Record), s.body.boot.inputOk = true ∧ s.body.score.counterRead = true ∧
      s.body.score.queue = r :: rs ∧ s.body.score.flash.length + 1 ≠ recordPositions) ∧
  (∃ (s : State) (r : Record) (rs : List Record), s.body.boot.inputOk = true ∧ s.body.score.counterRead = true ∧
      s.body.score.queue = r :: rs ∧ s.body.score.flash.length + 1 = recordPositions) ∧
  (∃ (s : State), s.body.boot.inputOk = true ∧ s.body.score.counterRead = true) ∧
  (∃ (s : State), s.body.boot.inputOk = false ∧ s.body.boot.eFuseOpen = false) ∧
  (∃ (s : State), (s.body.boot.start = .waitRef ∨ s.body.boot.start = .testing) ∧ s.body.keepers.cores.length = 8 ∧
      s.body.fenced 0 = false ∧ s.body.score.queue = [] ∧ s.body.score.full = false ∧ (∀ r, r < 5 → (s.body.slot (16 +
      r)).full = false ∧ (s.body.ring r).entries = []) ∧ s.body.parts.length = 4) ∧
  (∃ (s : State) (x : SelfTest), s.body.boot.start = .ready ∧ s.body.clock.band = .free) ∧
  (∃ (s : State) (v : Nat) (ns : Nat), s.body.boot.inputOk = true ∧ s.body.boot.readyMs ≠ 0 ∧ (v < 400 ∨ 580 < v) ∧ 50000 < ns
      ∧ (∀ h, h < 2 → (s.body.half h).fatal = none ∧ s.body.fenced h = false) ∧ s.body.whistle.halves.length = 2) ∧
  (∃ (s : State) (v : Nat) (ns : Nat), s.body.boot.inputOk = true ∧ s.body.boot.readyMs = 0 ∧ (v < 400 ∨ 580 < v) ∧ 50000 <
      ns) ∧
  (∃ (s : State) (v : Nat) (ns : Nat), (400 ≤ v ∧ v ≤ 580 ∨ ns ≤ 50000)) ∧
  (∃ (s : State), s.body.boot.standby = true ∧ s.body.boot.inputOk = false) ∧
  (∃ (s : State), (s.body.boot.standby = false ∨ s.body.boot.inputOk = true)) :=
  ⟨⟨(logOf (fun x => { x with queue := [rec0, rec0] }) ready), rec0, [rec0], by decide +kernel⟩,
   ⟨(fullLog (recordPositions - 1)), rec0, [rec0], by decide +kernel, by decide +kernel, by decide +kernel, (fullLog_length
      _).trans (by decide +kernel)⟩,
   ⟨ready, by decide +kernel⟩,
   ⟨(onV (fun v => { v with serial := 77, ownerKey := some 1, fixtureKeys := [2], nonce := some 5, debug := true, level := 1 })
      State.reset), by decide +kernel⟩,
   ⟨waitRef, .inl (by decide +kernel), by decide +kernel⟩,
   ⟨(banded .free ready), cleanTest, by decide +kernel⟩,
   ⟨ready, 581, 50001, by decide +kernel⟩,
   ⟨waitRef, 581, 50001, by decide +kernel⟩,
   ⟨ready, 580, 60000, .inl (by decide)⟩,
   ⟨(onB (fun b => { b with boot := { b.boot with inputOk := false } }) (logOf (fun x =>
      { x with queue := List.replicate 12 rec0 }) ready)), by decide +kernel⟩,
   ⟨ready, .inr (by decide +kernel)⟩⟩

theorem witness_StepRunsFront :
  (∃ (s : State) (c : Instr) (rest : List Instr), s.pending = c :: rest) ∧
  (∃ (s : State), s.pending = []) :=
  ⟨⟨({ ready with pending := [.perst] }), .perst, [], by decide +kernel⟩,
   ⟨ready, by decide +kernel⟩⟩

theorem witness_EveryCommandAnswers :
  (∃ (c : Instr) (s : State), c.wf = true) ∧
  (∃ (c : Instr) (s : State), c.wf = false) :=
  ⟨⟨.perst, ready, by decide +kernel⟩,
   ⟨(.doorbellWrite 64 0), ready, by decide +kernel⟩⟩

theorem witness_LodgeInvariant :
  (∃ (s : State) (t : State), step s = .next t) :=
  ⟨State.reset, (onB (fun b => { b with clock := { b.clock with now := b.clock.now + 1 } }) State.reset), rfl⟩


/-! ## Ill-formed commands: one for each check -/

def badHdr : Hdr := ⟨5, 0, 7, false⟩
def badPart : Hdr := ⟨0, 256, 7, false⟩
def badFlit (f : FlitHdr → FlitHdr) : Instr := .idleFlit 0 (f (flitH 0 0))

def illRing : List Instr :=
  [.fixtureStart badHdr, .fixtureStop badPart, .fixtureRetire badHdr, .stepBound badHdr 1, .scheduleCancel badHdr 1 0,
   .listInit badHdr 0 0 1 0, .listRetire badHdr 0 0, .tableDiscard badHdr 0, .budget badHdr 0 0 0, .partitionSet badHdr 0 0,
   .snapshot badHdr 1 0, .restore badHdr 1 0 0 .good, .logRead badHdr 0 1 0, .logClear badHdr 0 0 0, .logClear hdr0 (2 ^ 32) 0 0, .logClear hdr0 0 (2 ^ 32) 0,
   .logClear hdr0 0 0 (2 ^ 64), .restore hdr0 1 0 0 (.image true { ownImage with step := 2 ^ 48 } .whole), .selfTest badHdr 0 0 ⟨0, 0⟩,
   .linkRelease badHdr 0, .retrain badHdr 0, .abandon badPart, .opcodeUnknown badHdr 0x3E, .opcodeUnknown hdr0 0x3F,
   .schedule badHdr barE, .tableLoad badHdr 0 0 0 rbImage, .fixtureLoad badHdr 0 0 paged, .fixtureCheck badPart 0 0 paged]

def illHost : List Instr :=
  [.doorbellWrite 64 0, .attentionWordRead 23, .attentionWordRead 29, .blkClear 16384 1, .whClearFirst 3 1, .freezeViewWrite 16384 1,
   .ringEnableWrite 5 1, .ringSizeWrite 5 true 0, .cplHeadWrite 5 0, .registerWrite 16384 0 0, .registerWrite 0 4096 0,
   .registerWrite 0 4 0, .registerAccessMisaligned 0 8 8 true, .registerAccessMisaligned 16384 1 1 true,
   .registerAccessMisaligned 0 4096 1 true, .bar2Read (2 ^ 36) 1 [], .bar2Write (2 ^ 36) [0] [], .replySlotRead 7, .replySlotRead 16,
   .debugRequest 0 0 4 0 none, .debugRequest 0 0 1 4 none, .lodgeRequest (.proof 48 goodAuth),
   .clearTokenRequest (2 ^ 32) none, .memorySideAdd ⟨4, .fp64, .fp64, [1], false, 0, 1, true, 0, 1, []⟩]

def illUnit : List Instr :=
  [.barrierArrival 4 0, .lateNotice 14 0 0, .droopDetected 2, .droopRelease 2 0, .dieOvertemp 2 0, .dieOvertempResume 2, .dieOvertrip 2 0,
   .stackThermalChange 12 0 false, .retrainAttemptEnd 392 true 0 ⟨0, 0⟩ .none, .dataCrcFailure 392, .channelRetire 392,
   .scrubPass (.scratch 2) [], .scrubPass (.infield 12) [], .scrubPass (.outfield 2) [], .bankStateRequest 192 0, .bankStateRequest 0 4,
   .bankStateEnter 192, .bankWake 192, .halfReturn 2 cleanTest, .tileFailed 4 0 0, .tileFailed 0 33 0, .tileFailed 0 0 32, .pitchStop 4,
   .pitchStopComplete ⟨4, []⟩, .vectorStop ⟨4, false⟩, .subOperationCommit ⟨4, [], []⟩, .issuePass ⟨2, []⟩, .operationComplete 4 0 ⟨[], []⟩, .benchExhausted 4, .stepVerdict 4,
   .snapshotComplete 4, .collectiveTimeout 4 0, .streamWaitExpired 4 0, .streamWaitExpired 0 3, .halfFence 2,
   .containedTimerExpired 0x0104, .containedTimerExpired 0x1000, .keeperFrame 8 ⟨false, false⟩, .keeperWatchdogExpired 8,
   .wakeEvent (.keeper 8)]

def illLink : List Instr :=
  [.trainRetry 48, .trainTimeout 48, .authTimeout 48, .authFailedRetry 48, .lockLoss 48, .vc0Starvation 48, .flitCrcError 48 none,
   .flitCrcError 0 (some 4),
   .trainComplete 48 0 0, .trainComplete 0 16 0, .laneFailed 48 0, .laneFailed 0 4, .laneRetrain 48 0 true goodAuth,
   .laneRetrain 0 4 true goodAuth, .dataStarvation 48 1, .dataStarvation 0 0, .dataStarvation 0 4, .resizeFlit 0 (flitH 3 0) 16,
   .resizeFlit 48 (flitH 3 0) 0, .authFlit 48 (flitH 2 0) goodAuth, .nakFlit 48 (flitH 1 0), .malformedFlit 48 (flitH 0 0),
   .writeFlit 48 (flitH 0x20 2) write2 [], .addFlit 48 (flitH 0x21 2) ⟨1, 0, .int32, .int32, [], false, 1, true⟩ [],
   .addFlit 0 (flitH 0x21 2) ⟨1, 0, .fp64, .fp64, [], false, 1, true⟩ [],
   .relayFlit 0 (wflit 0) (.add ⟨1, 0, .fp64, .fp64, [], false, 1, true⟩),
   .denyFlit 48 (flitH 0x22 0), .reduceFlit 48 (flitH 0x10 1) ⟨hdr9, 0, [], false⟩, .resultFlit 48 (flitH 0x11 1) ⟨⟨.broadcast, 0, 9⟩, 0, [], true⟩,
   .statusFlit 48 (flitH 6 0) ⟨hdr9, false⟩, .fenceFlit 48 (flitH 4 0), .relayFlit 48 (wflit 0) .deny,
   .noticeFlit 48 (flitH 5 0) ⟨7, 1, .ready, 0, 0⟩, .pluggableInsert 8, .pluggableRemove 8,
   badFlit (fun h => { h with type := 256 }), badFlit (fun h => { h with vc := 4 }), badFlit (fun h => { h with part := 4 }),
   badFlit (fun h => { h with seq := 4096 }), badFlit (fun h => { h with ack := 4096 }), badFlit (fun h => { h with crVc := 4 }),
   badFlit (fun h => { h with crCount := 1024 }), badFlit (fun h => { h with src := 4096 }), badFlit (fun h => { h with dst := 4096 }),
   badFlit (fun h => { h with window := 256 }), badFlit (fun h => { h with segment := 65536 })]

theorem test_wf_ring : illRing.all (fun c => !c.wf) = true := by decide +kernel
theorem test_wf_host : illHost.all (fun c => !c.wf) = true := by decide +kernel
theorem test_wf_unit : illUnit.all (fun c => !c.wf) = true := by decide +kernel
theorem test_wf_link : illLink.all (fun c => !c.wf) = true := by decide +kernel
theorem test_wf_good : [Instr.fixtureStart hdr0, .doorbellWrite 63 0, .channelRetire 391, .idleFlit 47 (flitH 0 0), .barrierArrival 15 0,
    .containedTimerExpired 0x0F00, .tileFailed 3 32 31].all (·.wf) = true := by decide +kernel

/-! ## One step each, against values worked by hand -/

/-- What a step answers, for a state that the command at the front of its queue does not stop on. -/
def after (c : Instr) (s : State) : State :=
  match step { s with pending := [c] } with
  | .next t => t
  | _ => State.reset

/-- R330, Table 14.4: SOURCE 0x043, CLASS 01, ADDR_VALID, KIND 0x01. -/
theorem test_fault_word : tile3 = 0x0435010000000000 := by decide +kernel
/-- Table 13.5, R318: an unlisted opcode is answered with its status, its TAG and PHASE 1. -/
theorem test_unknown_record : ((after (.opcodeUnknown hdr0 0x3E) (rung 0 ready)).body.ring 0).written.map
    (fun r => (r.tag, r.opcode, r.phase)) = [(7, 0x3E, true)] := by decide +kernel
/-- R305: the second doorbell into a full slot leaves the first word. -/
theorem test_doorbell_overrun : ((after (.doorbellWrite 16 9) (slots (alter 16 (fun _ => ⟨1, true, false⟩)) ready)).body.slot 16) = ⟨1, true, true⟩ := by decide +kernel
/-- Table 13.7: a size of 0x1FFF is cut to 4 096. -/
theorem test_ring_size : ((after (.ringSizeWrite 4 false 0x1FFF)
    (onB (·.alterRing 4 (fun r => { r with enable := false })) ready)).body.ring 4).cmdSize = 4096 := by decide +kernel
/-- R403: only bits 47 to 36 of BAR2_BASE are kept. -/
theorem test_bar2_base : (after (.bar2BaseWrite 0xFFFF8001FFFFFFFF) ready).body.host.bar2Base = 0x800 := by decide +kernel
/-- R118, Table 5.7: the 2 000th clean verdict doubles the scale. -/
theorem test_loss_doubles : ((after (.stepVerdict 0)
    (part0 (fun x => { x with pass := { x.pass with clean := 1999, scaleExp := 16 } }) (reduced 0 (runs trainee ready)))).body.part 0).pass.scaleExp
      = 17 := by decide +kernel
/-- R118: a NONFINITE verdict halves it. -/
theorem test_loss_halves : ((after (.stepVerdict 0)
    (part0 (fun x => { x with pass := { x.pass with scaleExp := 16 } }) (reduced 1 (runs trainee ready)))).body.part 0).pass.scaleExp
      = 15 := by decide +kernel
/-- R277: 1 500 W over a ceiling of 1 030 W at 105 W a step raises the duty by 5. -/
theorem test_duty : (after (.powerInterval (sample 1500))
    (pow (fun p => { p with duty := 2, op := 9, pavgPrev := 1000, history := [1000], lastEnd := 9950000 }) ready)).body.power.duty = 7 := by decide +kernel
/-- R215: an INT32 add wraps; its word lies little-endian. -/
theorem test_add_wraps : (after (.memorySideAdd ⟨4, .int32, .int32, [0xFFFFFFFF], false, 0, 1, true, 0, 1, []⟩)
    (mem (fun m => { m with cells := [(4, 0x01), (5, 0x02)] }) ready)).body.store.cells = [(5, 0x02)] := by decide +kernel
/-- R195, R200: 0.5 + 1.0 and 0 + 0 in FP32. -/
theorem test_vector_add : ((after (.subOperationCommit ⟨0, [], []⟩)
    (mem (fun m => { m with cells := [(3, 0x3F), (66, 0x80), (67, 0x3F)] }) (flying addOp none ready))).body.store.bytes 4096 8)
      = [0, 0, 0xC0, 0x3F, 0, 0, 0, 0] := by decide +kernel
/-- R238, Table 10.6: a released link trains. -/
theorem test_release : ((after (.linkRelease hdrM 0)
    (rung 4 (linkIn .quarantine ready))).body.link 0).state = .train := by decide +kernel
/-- R261: beat 101 past HOLDOVER_BEATS of 100. -/
theorem test_unlocked : (after .holdoverExpired (holdover 101 ready)).body.clock.band = .unlocked := by decide +kernel
/-- Log 2: with nothing waiting, 1 ns passes. -/
theorem test_idle : (match step ready with | .next t => t.body.clock.now | _ => 0) = 10000001 := by decide +kernel

end Sys2Proof.Tests
end

section
/-!
PROOFS. Every command is its body's meaning behind its own well-formedness check, and a register write is the meaning of its row
(R5, R7, R313, R411, Tables 12.12, 13.7, 18.4).
-/

namespace Sys2Proof.Proofs

open Sys2Proof Sys2Proof.Machine Sys2Proof.Laws

/-! ## Every command checks its operands, then acts -/

/-- The dispatch, once: whatever the state, a command's own check alone decides whether it acts, and it acts on the Lodge and the rest,
never on the queue. -/
theorem exec_eq_ite_wf (c : Instr) (s : State) :
    ∃ v b, exec c s = if c.wf then .next { s with vault := v, body := b } else .refused .illFormed := by
  cases c <;> exact ⟨_, _, rfl⟩

/-- Settles O58: the check is the command's own, and behind it every command answers. -/
theorem everyCommandAnswers : Obligations.EveryCommandAnswers := by
  refine ⟨fun c s hwf => ?_, fun c s hwf => ?_⟩ <;> obtain ⟨v, b, h⟩ := exec_eq_ite_wf c s
  · exact ⟨{ s with vault := v, body := b }, by rw [h, if_pos hwf], rfl⟩
  · rw [h, hwf, if_neg Bool.false_ne_true]

/-! ## Commands with a page, ring or slot that the module has -/

theorem exec_doorbellWrite (s : State) (slot : Nat) (v : Word64) (h : slot < 64) :
    exec (.doorbellWrite slot v) s = .next { s with body := s.body.hostSlotWrite slot v } :=
  onBody_of (decide (slot < 64)) s (fun b => b.hostSlotWrite slot v) (decide_eq_true h)

theorem exec_blkClear (s : State) (page : Nat) (v : Word64) (h : page < 16384) :
    exec (.blkClear page v) s = .next { s with body := s.body.blkClear page v } :=
  onBody_of (decide (page < 16384)) s (fun b => b.blkClear page v) (decide_eq_true h)

theorem exec_freezeViewWrite (s : State) (page : Nat) (v : Word64) (h : page < 16384) :
    exec (.freezeViewWrite page v) s = .next { s with body := s.body.freezeView s.vault page v } :=
  onBody_of (decide (page < 16384)) s (fun b => b.freezeView s.vault page v) (decide_eq_true h)

theorem exec_ringEnableWrite (s : State) (i : Nat) (v : Word64) (h : i < 5) :
    exec (.ringEnableWrite i v) s = .next { s with body := s.body.alterRing i (fun r => r.setEnable (v.getLsbD 0)) } :=
  onBody_of (decide (i < 5)) s (fun b => b.alterRing i (fun r => r.setEnable (v.getLsbD 0))) (decide_eq_true h)

theorem exec_ringSizeWrite (s : State) (i : Nat) (c : Bool) (v : Word64) (h : i < 5) :
    exec (.ringSizeWrite i c v) s = .next { s with body := s.body.alterRing i (fun r => r.setSize c v) } :=
  onBody_of (decide (i < 5)) s (fun b => b.alterRing i (fun r => r.setSize c v)) (decide_eq_true h)

theorem exec_cplHeadWrite (s : State) (i : Nat) (v : Word64) (h : i < 5) :
    exec (.cplHeadWrite i v) s = .next { s with body := s.body.setCplHead i v } :=
  onBody_of (decide (i < 5)) s (fun b => b.setCplHead i v) (decide_eq_true h)

/-! ## The row of a register (Table 18.4) -/

theorem exec_registerWrite (s : State) (page off : Nat) (v : Word64) (hp : page < 16384) (ho : off < 4096) (h8 : off % 8 = 0) :
    exec (.registerWrite page off v) s = .next { s with body := s.body.writeReg s.vault page off v } :=
  onBody_of (decide (page < 16384) && decide (off < 4096) && decide (off % 8 = 0)) s (fun b => b.writeReg s.vault page off v)
    (by simp [hp, ho, h8])

/-- Every page of Table 18.3 lies in the 16 384 pages of a register address. -/
theorem assignedPage_lt (page : Nat) (h : assignedPage page = true) : page < 16384 := by
  simp only [assignedPage, Bool.and_eq_true, decide_eq_true_eq] at h
  omega

/-- R411: an unassigned page takes nothing. -/
theorem writeReg_unassigned (vt : Vault) (b : Body) (page off : Nat) (v : Word64) (h : assignedPage page = false) :
    b.writeReg vt page off v = b := by
  simp [Body.writeReg, h]

theorem readReg_unassigned (s : State) (page off : Nat) (h : assignedPage page = false) : readReg s page off = 0 := by
  simp [readReg, h]

section Rows

variable (vt : Vault) (b : Body) (page : Nat) (v : Word64) (h : assignedPage page = true)
include h

theorem writeReg_freezeView : b.writeReg vt page 0x08 v = b.freezeView vt page v := by simp [Body.writeReg, h]

theorem writeReg_blkClear : b.writeReg vt page 0x28 v = b.blkClear page v := by simp [Body.writeReg, h]

theorem writeReg_setScratch : b.writeReg vt page 0x38 v = b.setScratch page v := by simp [Body.writeReg, h]

end Rows

/-- Table 13.7: behind the header, a ring page's registers are its ring's. -/
theorem writeReg_ringPage (vt : Vault) (b : Body) (i off : Nat) (v : Word64) (hi : i < 5) (ho : 0x40 ≤ off) :
    b.writeReg vt (0x1300 + i) off v = b.ringWrite i off v := by
  have ha : assignedPage (0x1300 + i) = true := by interval_cases i <;> decide
  have ht : (0x1300 + i) / 256 = 0x13 := by omega
  have hn : (0x1300 + i) % 256 = i := by omega
  have h08 : off ≠ 0x08 := by omega
  have h28 : off ≠ 0x28 := by omega
  have h38 : off ≠ 0x38 := by omega
  simp [Body.writeReg, ha, ht, hn, h08, h28, h38]

/-- Table 12.12: behind the header, the control page's. -/
theorem writeReg_controlPage (vt : Vault) (b : Body) (off : Nat) (v : Word64) (ho : 0x40 ≤ off) :
    b.writeReg vt 0x0D00 off v = b.controlWrite off v := by
  have ha : assignedPage 0x0D00 = true := by decide
  have h08 : off ≠ 0x08 := by omega
  have h28 : off ≠ 0x28 := by omega
  have h38 : off ≠ 0x38 := by omega
  simp [Body.writeReg, ha, h08, h28, h38]

/-- R313: the doorbells are the control page's registers from 0x100 on. -/
theorem controlWrite_doorbell (b : Body) (i : Nat) (v : Word64) (hi : i < 5) :
    b.controlWrite (0x100 + 8 * i) v = b.hostSlotWrite (16 + i) v := by
  have h50 : 0x100 + 8 * i ≠ 0x50 := by omega
  have hr : 0x100 ≤ 0x100 + 8 * i ∧ 0x100 + 8 * i ≤ 0x178 := by omega
  have hq : 16 + (0x100 + 8 * i - 0x100) / 8 = 16 + i := by omega
  simp only [Body.controlWrite, h50, hr, if_false, if_true, hq, and_self]

/-! ## The bases of a ring (Table 13.7) -/

/-- A ring of the list is the ring of its number. -/
theorem ring_of_getElem? (b : Body) (i : Nat) (r : Ring) (h : b.rings[i]? = some r) : b.ring i = r := by
  simp [Body.ring, List.getD_eq_getElem?_getD, h]

/-- R329: while the ring is off, its bases take bits 63 to 12. -/
theorem alterRing_setBase_off (b : Body) (i : Nat) (c : Bool) (v : Word64) (h : (b.ring i).enable = false) :
    b.alterRing i (fun r => r.setBase c v) = { b with rings := alter i (fun r =>
      if c then { r with cplBase := v.toNat / 4096 * 4096 } else { r with cmdBase := v.toNat / 4096 * 4096 }) b.rings } := by
  refine congrArg (fun rs => { b with rings := rs }) (alter_congr i _ _ b.rings (fun r hr => ?_))
  rw [ring_of_getElem? b i r hr] at h
  simp [Ring.setBase, h]

/-- R329: while it is on, they take nothing. -/
theorem alterRing_setBase_on (b : Body) (i : Nat) (c : Bool) (v : Word64) (h : (b.ring i).enable = true) :
    b.alterRing i (fun r => r.setBase c v) = b := by
  refine congrArg (fun rs => { b with rings := rs }) (alter_id i _ b.rings (fun r hr => ?_))
  rw [ring_of_getElem? b i r hr] at h
  simp [Ring.setBase, h]

/-! ## BLK_SCRATCH (Table 18.4) -/

/-- The word that a list of scratch registers holds for a page, 0 where it lists none. -/
def scratchAt (xs : List (Nat × Word64)) (page : Nat) : Word64 := ((xs.find? (fun x => decide (x.1 = page))).map (·.2)).getD 0

theorem readReg_scratch (s : State) (page : Nat) (h : assignedPage page = true) :
    readReg s page 0x38 = scratchAt s.body.host.scratch page := by
  have hp : page / 256 * 256 + page % 256 = page := by omega
  simp only [readReg, h, Body.regHeader, hp, scratchAt, Bool.not_true, Bool.false_eq_true, if_false, Nat.reduceLT, if_true]
  cases s.body.host.scratch.find? (fun x => decide (x.1 = page)) <;> simp

/-- Without the entries of one page, that page reads 0 and every other page as before. -/
theorem scratchAt_filter (xs : List (Nat × Word64)) (page q : Nat) :
    scratchAt (xs.filter (fun x => decide (x.1 ≠ page))) q = if q = page then 0 else scratchAt xs q := by
  unfold scratchAt
  rw [List.find?_filter]
  simp only [decide_eq_true_eq]
  by_cases hq : q = page
  · have hnone : xs.find? (fun x => decide (x.1 ≠ page ∧ x.1 = q)) = none := by simp [List.find?_eq_none, hq]
    rw [hnone, if_pos hq]
    rfl
  · have hsame : (fun x : Nat × Word64 => decide (x.1 ≠ page ∧ x.1 = q)) = fun x => decide (x.1 = q) := by
      funext x
      by_cases hx : x.1 = q <;> simp [hx, hq]
    rw [hsame, if_neg hq]

theorem scratchAt_cons (xs : List (Nat × Word64)) (page q : Nat) (v : Word64) :
    scratchAt ((page, v) :: xs) q = if q = page then v else scratchAt xs q := by
  by_cases hq : q = page
  · simp [scratchAt, hq]
  · simp [scratchAt, hq, Ne.symm hq]

/-- A page's scratch register reads what was written; every other page's reads as before. -/
theorem scratchAt_setScratch (b : Body) (page q : Nat) (v : Word64) :
    scratchAt (b.setScratch page v).host.scratch q = if q = page then v else scratchAt b.host.scratch q := by
  simp only [Body.setScratch]
  by_cases hv : v = 0
  · simp only [hv, if_true, scratchAt_filter]
  · simp only [hv, if_false, scratchAt_cons, scratchAt_filter]
    by_cases hq : q = page <;> simp [hq]

/-- A write of one page's scratch register changes what no other page's reads. -/
theorem readReg_scratch_setScratch_other (s : State) (page q : Nat) (v : Word64) (hq : q ≠ page) :
    readReg { s with body := s.body.setScratch page v } q 0x38 = readReg s q 0x38 := by
  cases ha : assignedPage q with
  | false => rw [readReg_unassigned _ _ _ ha, readReg_unassigned _ _ _ ha]
  | true => rw [readReg_scratch _ _ ha, readReg_scratch _ _ ha, scratchAt_setScratch, if_neg hq]

/-! ## Register writes through their rows -/

theorem registerWrite_scratch (s : State) (page : Nat) (v : Word64) (h : assignedPage page = true) : ∃ t : State,
    exec (.registerWrite page 0x38 v) s = .next t ∧ readReg t page 0x38 = v ∧
    (∀ q, q ≠ page → readReg t q 0x38 = readReg s q 0x38) ∧
    t = { s with body := { s.body with host := { s.body.host with scratch := t.body.host.scratch } } } := by
  refine ⟨{ s with body := s.body.setScratch page v }, ?_, ?_, fun q => readReg_scratch_setScratch_other s page q v, rfl⟩
  · rw [exec_registerWrite s page _ v (assignedPage_lt page h) (by decide) (by decide), writeReg_setScratch _ _ _ _ h]
  · rw [readReg_scratch _ _ h, scratchAt_setScratch, if_pos rfl]

/-- A write behind the header of a ring page. -/
theorem exec_registerWrite_ringPage (s : State) (i off : Nat) (v : Word64) (hi : i < 5) (hlo : 0x40 ≤ off) (hhi : off < 4096)
    (h8 : off % 8 = 0) : exec (.registerWrite (0x1300 + i) off v) s = .next { s with body := s.body.ringWrite i off v } := by
  rw [exec_registerWrite s _ off v (by omega) hhi h8, writeReg_ringPage _ _ i off v hi hlo]

theorem registerWrite_header (s : State) (page : Nat) (v : Word64) (h : assignedPage page = true) :
    exec (.registerWrite page 0x28 v) s = exec (.blkClear page v) s ∧
    exec (.registerWrite page 0x08 v) s = exec (.freezeViewWrite page v) s := by
  have hp := assignedPage_lt page h
  constructor
  · rw [exec_registerWrite s page _ v hp (by decide) (by decide), writeReg_blkClear _ _ _ _ h, exec_blkClear s page v hp]
  · rw [exec_registerWrite s page _ v hp (by decide) (by decide), writeReg_freezeView _ _ _ _ h, exec_freezeViewWrite s page v hp]

theorem registerWrite_ring (s : State) (i : Nat) (v : Word64) (hi : i < 5) :
    exec (.registerWrite (0x1300 + i) 0x40 v) s = exec (.ringEnableWrite i v) s ∧
    exec (.registerWrite (0x1300 + i) 0x50 v) s = exec (.ringSizeWrite i false v) s ∧
    exec (.registerWrite (0x1300 + i) 0x68 v) s = exec (.ringSizeWrite i true v) s ∧
    exec (.registerWrite (0x1300 + i) 0x70 v) s = exec (.cplHeadWrite i v) s := by
  rw [exec_ringEnableWrite s i v hi, exec_ringSizeWrite s i false v hi, exec_ringSizeWrite s i true v hi, exec_cplHeadWrite s i v hi]
  have hw := fun off => exec_registerWrite_ringPage s i off v hi
  exact ⟨hw 0x40 (by decide) (by decide) (by decide), hw 0x50 (by decide) (by decide) (by decide),
    hw 0x68 (by decide) (by decide) (by decide), hw 0x70 (by decide) (by decide) (by decide)⟩

theorem registerWrite_doorbell (s : State) (i : Nat) (v : Word64) (hi : i < 5) :
    exec (.registerWrite 0x0D00 (0x100 + 8 * i) v) s = exec (.doorbellWrite (16 + i) v) s := by
  rw [exec_registerWrite s _ _ v (by decide) (by omega) (by omega), writeReg_controlPage _ _ _ v (by omega),
    controlWrite_doorbell _ i v hi, exec_doorbellWrite s _ v (by omega)]

/-- A write to the base of a ring's command (0x48) or completion (0x60) buffer. -/
theorem registerWrite_ringBase (s : State) (i : Nat) (v : Word64) (hi : i < 5) :
    exec (.registerWrite (0x1300 + i) 0x48 v) s = .next { s with body := s.body.alterRing i (fun r => r.setBase false v) } ∧
    exec (.registerWrite (0x1300 + i) 0x60 v) s = .next { s with body := s.body.alterRing i (fun r => r.setBase true v) } :=
  ⟨exec_registerWrite_ringPage s i 0x48 v hi (by decide) (by decide) (by decide),
    exec_registerWrite_ringPage s i 0x60 v hi (by decide) (by decide) (by decide)⟩

/-- The registers of the control, self-test and host pages that have a command of their own (Tables 12.12, 17.6, 18.5): the row is found by
evaluating the page and the offset. -/
theorem registerWrite_modulePages (s : State) (v : Word64) :
    exec (.registerWrite 0x0D00 0x50 v) s = exec (.doveOverrunClear v) s ∧
    exec (.registerWrite 0x1600 0x68 v) s = exec (.stTouchWrite v) s ∧
    exec (.registerWrite 0x1700 0x40 v) s = exec (.bar2BaseWrite v) s ∧
    exec (.registerWrite 0x1700 0x48 v) s = exec (.bar2CtrlWrite v) s :=
  ⟨rfl, rfl, rfl, rfl⟩

/-- R7: any other access: the write leaves the state, the read leaves all ones with the host. -/
theorem exec_registerAccessMisaligned (s : State) (page off size : Nat) (w : Bool) (hp : page < 16384) (ho : off < 4096)
    (hm : ¬(off % 8 = 0 ∧ size = 8)) : exec (.registerAccessMisaligned page off size w) s =
      .next { s with body := if w then s.body else s.body.answer (.word (BitVec.allOnes 64)) } :=
  onBody_of (decide (page < 16384) && decide (off < 4096) && !(decide (off % 8 = 0) && decide (size = 8))) s
    (fun b => if w then b else b.answer (.word (BitVec.allOnes 64))) (by simpa [hp, ho, imp_iff_not_or] using hm)

/-- Settles O16: each access goes through the row of its register, and the row's own command does the same. -/
theorem registerAccess : Obligations.RegisterAccess := by
  refine ⟨fun s page off v hp ho h8 ha => ⟨?_, readReg_unassigned s page off ha⟩, fun s page v _ => registerWrite_scratch s page v,
    fun s page v _ => registerWrite_header s page v, fun s i v hi => ?_, fun s i v hi hoff => ?_, fun s i v hi hon => ?_,
    registerWrite_modulePages, fun s page off size hp ho hm => ?_⟩
  · rw [exec_registerWrite s page off v hp ho h8, writeReg_unassigned _ _ _ _ _ ha]
  · obtain ⟨hen, hsize, hcsize, hhead⟩ := registerWrite_ring s i v hi
    exact ⟨hen, hsize, hcsize, hhead, registerWrite_doorbell s i v hi⟩
  · obtain ⟨hcmd, hcpl⟩ := registerWrite_ringBase s i v hi
    rw [alterRing_setBase_off _ _ _ _ hoff] at hcmd hcpl
    exact ⟨hcmd, hcpl⟩
  · obtain ⟨hcmd, hcpl⟩ := registerWrite_ringBase s i v hi
    rw [alterRing_setBase_on _ _ _ _ hon] at hcmd hcpl
    exact ⟨hcmd, hcpl⟩
  · exact ⟨exec_registerAccessMisaligned s page off size true hp ho hm, exec_registerAccessMisaligned s page off size false hp ho hm⟩

end Sys2Proof.Proofs
end

section
/-!
PROOFS. The limits of waits and holds (02, R26; 05, R108): what has lasted long enough raises its message, and what has not changes nothing.
-/

namespace Sys2Proof.Proofs

open Sys2Proof Sys2Proof.Machine Sys2Proof.Laws

/-! ## STREAM_WAIT_LIMIT (R26) -/

theorem exec_streamWaitExpired (s : State) (p i : Nat) (hp : p < 4) (hi : i < 3) :
    exec (.streamWaitExpired p i) s = .next { s with body := s.body.waitExpired p i } :=
  onBody_of (decide (p < 4) && decide (i < 3)) s (fun b => b.waitExpired p i) (by simp [hp, hi])

/-- The stream has waited longer than the limit, on something that it still waits for. -/
def Overdue (b : Body) (p i since : Nat) : Prop :=
  since + b.book.tables.streamWait < b.clock.beat ∧ ((b.part p).next? i).any (b.boundedWait p i) = true

/-- R26: an overdue wait ends with a message. -/
theorem waitExpired_overdue (b : Body) (p i since : Nat) (hw : ((b.part p).streams.getD i Stream.reset).waitSince = some since)
    (ho : Overdue b p i since) :
    b.waitExpired p i =
      (b.alterPart p (fun x => { x with streams := alter i (fun y => { y with waitSince := none }) x.streams })).raise
        tPartition p .contained kStreamWait i := by
  simp only [Body.waitExpired, hw]
  exact if_pos ho

/-- R26: any other wait goes on. -/
theorem waitExpired_not_overdue (b : Body) (p i since : Nat) (hw : ((b.part p).streams.getD i Stream.reset).waitSince = some since)
    (ho : ¬ Overdue b p i since) : b.waitExpired p i = b := by
  simp only [Body.waitExpired, hw]
  exact if_neg ho

/-! ## BENCH_TIMER (R108) -/

theorem exec_benchExhausted (s : State) (p : Nat) (hp : p < 4) :
    exec (.benchExhausted p) s = .next { s with body := s.body.benchExhausted p } :=
  onBody_of (decide (p < 4)) s (fun b => b.benchExhausted p) (decide_eq_true hp)

/-- R108: a deadlocked hold of a running fixture ends with a message once it has lasted BENCH_TIMER. -/
theorem benchExhausted_due (b : Body) (p since mb : Nat) (hh : (b.part p).pass.benchHold = some (since, mb))
    (hr : (b.part p).fstate = .running) (hd : since + b.book.tables.bench.timer ≤ b.clock.beat) :
    b.benchExhausted p = (b.alterPart p (fun x => { x with pass := { x.pass with benchHold := none } })).raise
      tPartition p .contained kBenchExhausted mb := by
  simp only [Body.benchExhausted, hh]
  exact if_pos ⟨hr, hd⟩

/-- R108: before that nothing happens. -/
theorem benchExhausted_early (b : Body) (p since mb : Nat) (hh : (b.part p).pass.benchHold = some (since, mb))
    (he : b.clock.beat < since + b.book.tables.bench.timer) : b.benchExhausted p = b := by
  simp only [Body.benchExhausted, hh]
  exact if_neg (fun h => Nat.not_le_of_lt he h.2)

/-- Settles O43: whether a limit is reached is decided by the beat alone, on both sides of its boundary. -/
theorem waitLimits : Obligations.WaitLimits := by
  refine ⟨fun s p i b0 hp hi hw hlt hany => ?_, fun s p i b0 hp hi hw hnot => ?_, fun s p b0 mb hp hh hr hd => ?_,
    fun s p b0 mb hp hh he => ?_⟩
  · rw [exec_streamWaitExpired s p i hp hi, waitExpired_overdue s.body p i b0 hw ⟨hlt, hany⟩]
  · have ho : ¬ Overdue s.body p i b0 := by
      rintro ⟨hlt, hany⟩
      rcases hnot with hle | hnone
      · exact Nat.not_lt_of_le hle hlt
      · exact Bool.false_ne_true (hnone.symm.trans hany)
    rw [exec_streamWaitExpired s p i hp hi, waitExpired_not_overdue s.body p i b0 hw ho]
  · rw [exec_benchExhausted s p hp, benchExhausted_due s.body p b0 mb hh hr hd]
  · rw [exec_benchExhausted s p hp, benchExhausted_early s.body p b0 mb hh he]

end Sys2Proof.Proofs
end

section
/-!
PROOFS. Ring commands that set something in a partition or on the schedule (13, Table 13.4): STEP_BOUND, BUDGET and PARTITION_SET
(02, R30, R42, R287, R436), SCHEDULE and SCHEDULE_CANCEL (R25, R263, R266).
-/

namespace Sys2Proof.Proofs

open Sys2Proof Sys2Proof.Machine Sys2Proof.Laws

/-! ## The entry in its ring -/

/-- A partition's own ring carries its partition's commands (Table 13.3). -/
theorem ringRight_own (h : Hdr) (cmd : Cmd) (ho : OwnRing h) (hk : cmd.ringKind = .partition) : ringRight ⟨h, cmd⟩ = true := by
  obtain ⟨hlt, hpart⟩ := ho
  simp only [ringRight, if_pos hlt, hpart, decide_true, Bool.true_and]
  split
  · exact absurd hk (by simp [Cmd.ringKind])
  · exact absurd hk (by simp [Cmd.ringKind])
  · exact decide_eq_true (by rw [hk]; decide)

/-- The module ring carries the module's commands (Table 13.3). -/
theorem ringRight_module (h : Hdr) (cmd : Cmd) (hm : ModuleRing h) (hk : cmd.ringKind = .module) : ringRight ⟨h, cmd⟩ = true := by
  obtain ⟨hring, hpart⟩ := hm
  have hge : ¬ h.ring < 4 := by omega
  simp only [ringRight, if_neg hge, hpart, decide_true, Bool.and_true]
  split
  · exact absurd hk (by simp [Cmd.ringKind])
  · exact decide_eq_true (by rw [hk]; decide)

/-- Either ring carries the commands of the schedule: a partition's its own entries, the module ring all (Table 13.3). -/
theorem ringRight_schedule (h : Hdr) (e : SchedEntry) (hr : ModuleRing h ∨ (OwnRing h ∧ e.part = h.ring)) :
    ringRight ⟨h, .schedule e⟩ = true := by
  rcases hr with ⟨hring, hpart⟩ | ⟨⟨hlt, hpart⟩, he⟩
  · simp [ringRight, hring, hpart, Cmd.ringKind]
  · simp [ringRight, hlt, hpart, he]

theorem ringRight_scheduleCancel (h : Hdr) (tok : Token) (part : Nat) (hr : ModuleRing h ∨ (OwnRing h ∧ part = h.ring)) :
    ringRight ⟨h, .scheduleCancel tok part⟩ = true := by
  rcases hr with ⟨hring, hpart⟩ | ⟨⟨hlt, hpart⟩, he⟩
  · simp [ringRight, hring, hpart, Cmd.ringKind]
  · simp [ringRight, hlt, hpart, he]

/-- A well-formed entry goes into its ring: `submit` of each row of Table 13.4 is decided by the header alone. -/
theorem submit_wf (h : Hdr) (cmd : Cmd) (s : State) (hwf : h.wf = true) : submit h.wf ⟨h, cmd⟩ s = submit true ⟨h, cmd⟩ s := by
  rw [hwf]

/-- `submit_answers` for a command that leaves doves, rings and the list of commands alone. -/
theorem submit_answers_of_edit (s : State) (h : Hdr) (cmd : Cmd) (f : Body → Body) (st code : Nat) (d : Detail)
    (hr : RingReady s.body h) (right : ringRight ⟨h, cmd⟩ = true) (plain : plainCmd cmd = true) (hl : needsLodge cmd = false)
    (hrun : runCmd s.vault (opened h cmd) (s.body.running h cmd) = (f (s.body.running h cmd), .done st code d))
    (hframe : ∀ b, (f b).active = b.active ∧ (f b).rings = b.rings ∧ (f b).doves = b.doves ∧ (f b).host = b.host) :
    ∃ t : State, submit h.wf ⟨h, cmd⟩ s = .next t ∧ RingFrame s t h ∧ Answered s.body t.body h cmd st code d ∧
      t.body = { f (s.body.running h cmd) with active := [], doves := t.body.doves, rings := t.body.rings } := by
  obtain ⟨hact, hrings, hdoves, hhost⟩ := hframe (s.body.running h cmd)
  rw [submit_wf h cmd s hr.wf]
  exact submit_answers s h cmd (f (s.body.running h cmd)) st code d hr right plain (by rw [hl, Bool.false_and]) hrun hact hrings
    (by rw [hhost]; exact hr.pcie) (by rw [hdoves])

/-- What an answered command that changes one partition leaves of the body it ran in. -/
theorem running_alterPart (b : Body) (h : Hdr) (cmd : Cmd) (p : Nat) (f : Partition → Partition) (dv : Doves) (rs : List Ring)
    (hidle : b.active = []) :
    { (b.running h cmd).alterPart p f with active := [], doves := dv, rings := rs } =
      { b with doves := dv, rings := rs, parts := alter p f b.parts } := by
  rw [← hidle]
  rfl

/-! ## An entry whose record comes later -/

/-- The lead MODULE keeper carries its duties out while rings are served (R317). -/
theorem leadRuns_of_serves (b : Body) (h : b.serves = true) : b.leadRuns = true := by
  simp only [Body.serves, Bool.and_eq_true] at h
  exact h.2

/-- `start` on one waiting command that is kept elsewhere until it ends. -/
theorem start_deferred (v : Vault) (b b' : Body) (a : Active) (ha : b.active = [a]) (hn : a.running = false) (hs : a.signed = none)
    (hk : b.leadRuns = true) (hq : needsLodge a.cmd = false) (hrun : runCmd v a b = (b', .deferred)) (hact : b'.active = [a]) :
    b.start v = { b' with active := [] } := by
  have hone : startOne v b = some { b' with active := [] } := by
    simp [startOne, ha, nextReady, hn, hs, hq, hrun, hact]
  have hidle : startOne v ({ b' with active := [] } : Body) = none := by simp [startOne, nextReady]
  simp only [Body.start, hk, if_true, ha, List.length_cons, List.length_nil, startReady, hone, hidle]

/-- An entry of a partition or the schedule that its ring may carry is opened, and commands start. -/
theorem accept_plain (b : Body) (v : Vault) (h : Hdr) (cmd : Cmd) (right : ringRight ⟨h, cmd⟩ = true) (plain : plainCmd cmd = true)
    (hrsvd : h.rsvd = false) : b.accept v ⟨h, cmd⟩ =
      Body.start v { b.alterRing h.ring (fun x => { x with open_ := x.open_ + 1 }) with active := b.active ++ [opened h cmd] } := by
  cases cmd <;> simp [plainCmd] at plain <;> simp [Body.accept, right, hrsvd, opened, cmdKey]

/-- `RingReady` read for the one entry that is put into the ring. -/
theorem readEntry_ready (s : State) (h : Hdr) (cmd : Cmd) (hr : RingReady s.body h) (right : ringRight ⟨h, cmd⟩ = true)
    (plain : plainCmd cmd = true) :
    Body.readEntry (s.body.alterRing h.ring (fun x => { x with entries := x.entries ++ [(⟨h, cmd⟩ : RingCmd)] })) s.vault h.ring =
      some ((s.body.running h cmd).start s.vault) := by
  have hlen := ring_lt s.body h.ring hr.on
  have hring : (s.body.alterRing h.ring (fun x => { x with entries := x.entries ++ [(⟨h, cmd⟩ : RingCmd)] })).ring h.ring
      = { s.body.ring h.ring with entries := [(⟨h, cmd⟩ : RingCmd)] } := by
    rw [alterRing_ring]; simp [hlen, hr.unread]
  have hroom : Ring.accepts { s.body.ring h.ring with entries := [(⟨h, cmd⟩ : RingCmd)] } cmd = true := by
    have hlt : (s.body.ring h.ring).open_ < (s.body.ring h.ring).free - cplReserve := by
      have := hr.room
      simp only [cplReserve]; omega
    unfold Ring.accepts
    split
    · rfl
    · exact decide_eq_true hlt
  have hreach : (s.body.alterRing h.ring (fun x => { x with entries := x.entries ++ [(⟨h, cmd⟩ : RingCmd)] })).reachable cmd = true := by
    simp [Body.reachable, hr.pcie]
  unfold Body.readEntry
  simp only [hring]
  rw [if_pos (by rw [hreach, hroom]; simp [hr.on, hr.ahead, hr.reads]), accept_plain _ _ _ _ right plain hr.rsvd,
    entered_eq s.body h cmd hr]
  simp only [alterRing_active, hr.idle, List.nil_append]
  rfl

theorem readRing_unread (v : Vault) (i n : Nat) (b : Body) (h : (b.ring i).entries = []) : Body.readRing v i n b = b := by
  cases n <;> simp [Body.readRing, Body.readEntry, h]

theorem running_ring (b : Body) (h : Hdr) (cmd : Cmd) (hr : RingReady b h) : (b.running h cmd).ring h.ring =
    { b.ring h.ring with cmdHead := ((b.ring h.ring).cmdHead + 1) % (b.ring h.ring).cmdSize, reads := (b.ring h.ring).reads + 1,
                         open_ := (b.ring h.ring).open_ + 1 } := by
  show (alter h.ring _ b.rings).getD h.ring Ring.reset = _
  rw [alter_getD, if_pos ⟨rfl, ring_lt b h.ring hr.on⟩]
  rfl

/-- A command that is kept elsewhere until it ends: the whole of what its row does. -/
theorem submit_deferred (s : State) (h : Hdr) (cmd : Cmd) (b' : Body) (hr : RingReady s.body h) (right : ringRight ⟨h, cmd⟩ = true)
    (plain : plainCmd cmd = true) (hq : needsLodge cmd = false)
    (hrun : runCmd s.vault (opened h cmd) (s.body.running h cmd) = (b', .deferred)) (hact : b'.active = [opened h cmd])
    (hring : b'.rings = (s.body.running h cmd).rings) :
    submit h.wf ⟨h, cmd⟩ s = .next { s with body := { b' with active := [] } } := by
  have hstart : (s.body.running h cmd).start s.vault = { b' with active := [] } :=
    start_deferred s.vault (s.body.running h cmd) b' (opened h cmd) rfl rfl rfl (leadRuns_of_serves _ hr.serves) hq hrun hact
  have hunread : (({ b' with active := [] } : Body).ring h.ring).entries = [] := by
    show (b'.rings.getD h.ring Ring.reset).entries = []
    rw [hring]
    show ((s.body.running h cmd).ring h.ring).entries = []
    rw [running_ring s.body h cmd hr]
    exact hr.unread
  have hserves : ∀ f, (s.body.alterRing h.ring f).serves = true := fun _ => hr.serves
  rw [submit_wf h cmd s hr.wf, submit, onBody_true]
  congr 2
  rw [Body.serveRing, hserves, if_pos rfl, Body.readRing, readEntry_ready s h cmd hr right plain, hstart]
  exact readRing_unread _ _ _ _ hunread

/-! ## STEP_BOUND, BUDGET, PARTITION_SET (R30, R42, R287, R436) -/

/-- R436: a bound that lies ahead of the step counter is kept, where none was. -/
theorem cmdStepBound_ahead (p ring st : Nat) (tag : Word32) (b : Body) (hh : (b.part p).holds = true) (hb : (b.part p).bound = none)
    (hlo : (b.part p).pass.step < st) (hhi : st < 2 ^ 48) :
    cmdStepBound p ring tag st b = (b.alterPart p (fun x => { x with bound := some (st, tag, ring) }), .deferred) := by
  have hpos : st ≠ 0 := Nat.ne_of_gt (Nat.lt_of_le_of_lt (Nat.zero_le _) hlo)
  have hend : b.endBound p stStateWrong = b := by simp only [Body.endBound, hb]
  rw [cmdStepBound, if_neg (Nat.not_le_of_lt hhi), if_neg hpos, hh, Bool.not_true, if_neg Bool.false_ne_true,
    if_neg (Nat.not_le_of_lt hlo), hend]

theorem stepBound_kept (s : State) (h : Hdr) (st : Nat) (hr : RingReady s.body h) (ho : OwnRing h)
    (hh : (s.body.part h.part).holds = true) (hb : (s.body.part h.part).bound = none) (hlo : (s.body.part h.part).pass.step < st)
    (hhi : st < 2 ^ 48) : ∃ t : State, exec (.stepBound h st) s = .next t ∧ RingFrame s t h ∧
      t.body = { s.body with doves := t.body.doves, rings := t.body.rings, parts := alter h.part (fun x => { x with
        bound := some (st, h.tag, h.ring) }) s.body.parts } ∧
      (t.body.ring h.ring).written = (s.body.ring h.ring).written ∧
      (t.body.ring h.ring).open_ = (s.body.ring h.ring).open_ + 1 := by
  have hrun := cmdStepBound_ahead h.part h.ring st h.tag (s.body.running h (.stepBound st)) hh hb hlo hhi
  have hsub := submit_deferred s h (.stepBound st) _ hr (ringRight_own h _ ho rfl) rfl rfl hrun rfl rfl
  have hown := running_ring s.body h (.stepBound st) hr
  refine ⟨_, hsub, ⟨rfl, rfl, rfl, fun i hi => ?_⟩, ?_, ?_, ?_⟩
  · show (alter h.ring _ s.body.rings).getD i Ring.reset = _
    rw [alter_getD, if_neg (fun x => hi x.1.symm)]
    rfl
  · exact running_alterPart _ _ _ _ _ s.body.doves _ hr.idle
  · show ((s.body.running h (.stepBound st)).ring h.ring).written = _
    rw [hown]
  · show ((s.body.running h (.stepBound st)).ring h.ring).open_ = _
    rw [hown]

/-- R42, R287: a value within its row's range, and within the sum of R27, becomes the quota. -/
theorem cmdBudget_inRange (p row v : Nat) (b : Body) (hp : p < 4) (hrow : row < 7) (hv : v ≤ Quotas.full.row row)
    (hsum : row = 6 → b.inflightSum p v ≤ 768) :
    cmdBudget p row v b = (b.alterPart p (fun x => { x with quotas := x.quotas.setRow row v }), ok) := by
  have hargs : ¬(4 ≤ p ∨ 7 ≤ row ∨ quotaMax row < v) := by
    simp only [quotaMax]
    omega
  have hover : ¬(row = 6 ∧ 768 < b.inflightSum p v) := fun hc => Nat.not_lt_of_le (hsum hc.1) hc.2
  rw [cmdBudget, if_neg hargs, if_neg hover]

/-- R30: pitches that no other partition owns become those of a partition that holds no fixture. -/
theorem cmdPartitionSet_free (p mask : Nat) (b : Body) (hp : p < 4) (hm : mask < 16)
    (hfree : ∀ i q, i < 4 → mask.testBit i = true → q < 4 → q ≠ p → i ∉ (b.part q).pitches) (hh : (b.part p).holds = false) :
    cmdPartitionSet p mask b =
      (b.alterPart p (fun x => { x with pitches := (List.range 4).filter (fun i => mask.testBit i) }), ok) := by
  have hargs : ¬(4 ≤ p ∨ 16 ≤ mask) := by omega
  have hnone : ((List.range 4).filter (fun i => mask.testBit i)).any
      (fun i => (List.range 4).any (fun q => q != p && (b.part q).pitches.contains i)) = false := by
    simp only [List.any_eq_false, List.mem_filter, List.mem_range, List.any_eq_true, Bool.and_eq_true, bne_iff_ne,
      List.contains_iff_mem]
    rintro i ⟨hi, hbit⟩ ⟨q, hq, hqp, hmem⟩
    exact hfree i q hi hbit hq hqp hmem
  simp only [cmdPartitionSet, if_neg hargs, hnone, hh, Bool.and_false, Bool.false_eq_true, if_false]

/-- Settles O3: a bound joins its partition and its entry stays open; quotas and pitches are answered at once. -/
theorem partitionSettings : Obligations.PartitionSettings := by
  refine ⟨fun s h st hr ho hh hb hlo hhi => stepBound_kept s h st hr ho hh hb hlo hhi, fun s h p row v hr hm hp hrow hv hsum => ?_,
    fun s h p mask hr hm hp hmask hfree hh => ?_⟩
  · have hrun := cmdBudget_inRange p row v (s.body.running h (.budget p row v)) hp hrow hv hsum
    obtain ⟨t, hexec, hframe, hans, hbody⟩ := submit_answers_of_edit s h (.budget p row v)
      (fun b => b.alterPart p (fun x => { x with quotas := x.quotas.setRow row v })) stOk 0 .none hr (ringRight_module h _ hm rfl)
      rfl rfl hrun (fun _ => ⟨rfl, rfl, rfl, rfl⟩)
    exact ⟨t, hexec, hframe, hans, hbody.trans (running_alterPart _ _ _ _ _ _ _ hr.idle)⟩
  · have hrun := cmdPartitionSet_free p mask (s.body.running h (.partitionSet p mask)) hp hmask hfree hh
    obtain ⟨t, hexec, hframe, hans, hbody⟩ := submit_answers_of_edit s h (.partitionSet p mask)
      (fun b => b.alterPart p (fun x => { x with pitches := (List.range 4).filter (fun i => mask.testBit i) })) stOk 0 .none hr
      (ringRight_module h _ hm rfl) rfl rfl hrun (fun _ => ⟨rfl, rfl, rfl, rfl⟩)
    exact ⟨t, hexec, hframe, hans, hbody.trans (running_alterPart _ _ _ _ _ _ _ hr.idle)⟩

/-! ## SCHEDULE, SCHEDULE_CANCEL (R25, R263, R266) -/

/-- R25: a partition that counts one more beat token, which is not complete. -/
def beatCounted (tok : Token) (x : Partition) : Partition :=
  { x with beatCount := (x.beatCount + 1) % 2 ^ 30, board := x.board.filter (fun d => d.token != tok) }

/-- An entry that is no barrier: behind the others, its token counted by its partition or by the module. -/
theorem install_of_not_barrier (b : Body) (e : SchedEntry) (hk : e.kind ≠ 2) : b.install e =
    { b with sched := { b.sched with entries := b.sched.entries ++ [e],
                                     moduleCount := if e.token ≠ 0 ∧ ¬ e.part < 4 then (b.sched.moduleCount + 1) % 2 ^ 30
                                       else b.sched.moduleCount },
             parts := if e.token ≠ 0 ∧ e.part < 4 then alter e.part (beatCounted e.token) b.parts else b.parts } := by
  unfold Body.install
  by_cases ht : e.token = 0
  · simp only [ht, hk, if_true, if_false, ne_eq, not_true_eq_false, false_and]
  · by_cases hp : e.part < 4
    · simp only [ht, hp, hk, if_true, if_false, ne_eq, not_false_eq_true, not_true_eq_false, and_true, and_false, Body.alterPart]
      rfl
    · simp only [ht, hp, hk, if_true, if_false, ne_eq, not_false_eq_true, and_true, and_false]

/-- Tables 11.4 and 11.5, R25, R263, R266: an entry that passes every check of SCHEDULE, and is no barrier. -/
structure Accepted (b : Body) (e : SchedEntry) : Prop where
  kindLo : 1 ≤ e.kind
  kindHi : e.kind ≤ 7
  noBarrier : e.kind ≠ 2
  part : e.part < 4 ∨ e.part = 15
  band : b.clock.band ≠ .seeking
  rsvd : e.rsvd = false
  ahead : b.clock.beat + 2 ≤ e.beat
  beat : e.beat < 2 ^ 48
  tick : e.tick < b.beatNs
  fixed : tickFixed e.kind = true → e.tick = 0
  token : b.tokenCheck e = 0
  room : b.sched.entries.length < 1024

theorem cmdSchedule_accepted (v : Vault) (e : SchedEntry) (b : Body) (ha : Accepted b e) : cmdSchedule v e b = (b.install e, ok) := by
  have hlisted : entryListed e = true := by
    have := ha.kindLo
    have := ha.kindHi
    rcases ha.part with hp | hp <;> simp [entryListed, *]
  have htick : b.tickBad e = false := by
    have hfixed := ha.fixed
    have hns := ha.tick
    have hbeat := ha.beat
    simp only [Body.tickBad, ha.rsvd, Bool.false_or, Bool.or_eq_false_iff, Bool.and_eq_false_imp, decide_eq_false_iff_not]
    exact ⟨⟨by omega, by omega⟩, fun ht => not_not.2 (hfixed ht)⟩
  have hgroup : ¬(e.kind = 2 ∧ (!b.groupOk v.serial (barrierGroup e)) = true) := fun hc => ha.noBarrier hc.1
  simp only [cmdSchedule, hlisted, htick, ha.band, ha.token, hgroup, Nat.not_lt_of_le ha.ahead, Nat.not_le_of_lt ha.room, ne_eq,
    not_true_eq_false, Bool.not_true, Bool.false_eq_true, if_false]

theorem schedule_accepted (s : State) (h : Hdr) (e : SchedEntry) (hr : RingReady s.body h)
    (hring : ModuleRing h ∨ (OwnRing h ∧ e.part = h.ring)) (ha : Accepted s.body e) : ∃ t : State,
    exec (.schedule h e) s = .next t ∧ RingFrame s t h ∧ Answered s.body t.body h (.schedule e) stOk 0 .none ∧
    t.body = { s.body.install e with doves := t.body.doves, rings := t.body.rings } := by
  have hinst := install_of_not_barrier (s.body.running h (.schedule e)) e ha.noBarrier
  have hrun : cmdSchedule s.vault e (s.body.running h (.schedule e)) = ((s.body.running h (.schedule e)).install e, ok) :=
    cmdSchedule_accepted s.vault e _ { ha with }
  obtain ⟨t, hexec, hframe, hans, hbody⟩ := submit_answers_of_edit s h (.schedule e) (fun b => b.install e) stOk 0 .none hr
    (ringRight_schedule h e hring) rfl rfl hrun (fun b => by rw [install_of_not_barrier b e ha.noBarrier]; exact ⟨rfl, rfl, rfl, rfl⟩)
  refine ⟨t, hexec, hframe, hans, hbody.trans ?_⟩
  rw [install_of_not_barrier s.body e ha.noBarrier, hinst, ← hr.idle]
  rfl

/-- R266: an entry that is two beats away or more, and no barrier, leaves the schedule. -/
theorem cmdScheduleCancel_ahead (tok : Token) (e : SchedEntry) (b : Body) (ht : tok ≠ 0)
    (hf : b.sched.entries.find? (fun x => x.token == tok && decide (x.part = e.part)) = some e) (hb : b.clock.beat + 2 ≤ e.beat)
    (hk : e.kind ≠ 2) : cmdScheduleCancel tok e.part b =
      ({ b with sched := { b.sched with entries := b.sched.entries.erase e } }, ok) := by
  have hsame : (fun x : SchedEntry => x.token == tok && tok != 0 && decide (x.part = e.part)) =
      fun x => x.token == tok && decide (x.part = e.part) := by
    funext x
    rw [bne_iff_ne.2 ht, Bool.and_true]
  simp only [cmdScheduleCancel, hsame, hf, Nat.not_lt_of_le hb, Sched.remove, hk, if_false]

theorem scheduleCancel_ahead (s : State) (h : Hdr) (tok : Token) (e : SchedEntry) (hr : RingReady s.body h)
    (hring : ModuleRing h ∨ (OwnRing h ∧ e.part = h.ring)) (ht : tok ≠ 0)
    (hf : s.body.sched.entries.find? (fun x => x.token == tok && decide (x.part = e.part)) = some e)
    (hb : s.body.clock.beat + 2 ≤ e.beat) (hk : e.kind ≠ 2) : ∃ t : State,
    exec (.scheduleCancel h tok e.part) s = .next t ∧ RingFrame s t h ∧
    Answered s.body t.body h (.scheduleCancel tok e.part) stOk 0 .none ∧
    t.body = { s.body with doves := t.body.doves, rings := t.body.rings, sched := { s.body.sched with
      entries := s.body.sched.entries.erase e } } := by
  have hrun := cmdScheduleCancel_ahead tok e (s.body.running h (.scheduleCancel tok e.part)) ht hf hb hk
  obtain ⟨t, hexec, hframe, hans, hbody⟩ := submit_answers_of_edit s h (.scheduleCancel tok e.part)
    (fun b => { b with sched := { b.sched with entries := b.sched.entries.erase e } }) stOk 0 .none hr
    (ringRight_scheduleCancel h tok e.part hring) rfl rfl hrun (fun _ => ⟨rfl, rfl, rfl, rfl⟩)
  refine ⟨t, hexec, hframe, hans, hbody.trans ?_⟩
  rw [← hr.idle]
  rfl

/-- Settles O4: what passes the checks is installed, and what `cmdScheduleCancel` finds ahead is erased. -/
theorem scheduleEntries : Obligations.ScheduleEntries := by
  refine ⟨fun s h e hr hring hlo hhi hk hpart hband hrsvd hahead hbeat htick hfixed htoken hroom => ?_,
    fun s h tok e hr hring ht hf hb hk => scheduleCancel_ahead s h tok e hr hring ht hf hb hk⟩
  obtain ⟨t, hexec, hframe, hans, hbody⟩ := schedule_accepted s h e hr hring
    ⟨hlo, hhi, hk, hpart, hband, hrsvd, hahead, hbeat, htick, hfixed, htoken, hroom⟩
  rw [install_of_not_barrier s.body e hk] at hbody
  have hsched := congrArg Body.sched hbody
  have hparts := congrArg Body.parts hbody
  refine ⟨t, hexec, hframe, hans, ?_, ?_, ?_, fun h0 => ⟨?_, ?_⟩, fun h0 hp hlen => ?_⟩
  · rw [hsched]
  · rw [hsched]
  · rw [hsched, hparts]
    exact hbody
  · exact hparts.trans (if_neg (fun hc => hc.1 h0))
  · exact (congrArg Sched.moduleCount hsched).trans (if_neg (fun hc => hc.1 h0))
  · have hcounted : t.body.parts = alter e.part (beatCounted e.token) s.body.parts := hparts.trans (if_pos ⟨h0, hp⟩)
    rw [Body.part, hcounted, alter_getD, if_pos ⟨rfl, hlen⟩]
    rfl

end Sys2Proof.Proofs
end

section
/-!
PROOFS. Admission of a fixture image (02, R34 to R37; 13, Table 13.4): what FIXTURE_LOAD binds and sets in its partition, and that
FIXTURE_CHECK answers the same and changes nothing.
-/

namespace Sys2Proof.Proofs

open Sys2Proof Sys2Proof.Machine Sys2Proof.Laws

/-! ## What each step of an admission can change -/

/-- R72: stages are counted on pitches, and nowhere else. -/
theorem placeStages_form (b : Body) (p : Nat) (img : FixtureImage) : ∃ ps, b.placeStages p img = { b with pitches := ps } := by
  unfold Body.placeStages
  generalize (b.part p).pitches.zipIdx = xs
  induction xs generalizing b with
  | nil => exact ⟨b.pitches, rfl⟩
  | cons x xs ih => exact ih _

/-- R244: granting windows changes windows alone. -/
theorem grantWindows_form (b : Body) (p : Nat) (ws : List WindowPlan) :
    ∃ gs, ws.foldl (fun b w => b.grantWindow p w) b = { b with net := { b.net with windows := gs } } := by
  induction ws generalizing b with
  | nil => exact ⟨b.net.windows, rfl⟩
  | cons w ws ih =>
    rw [List.foldl_cons, Body.grantWindow]
    split
    · exact ih _
    · exact ih b

/-- R37, R433: a fixture's grants are bound in its partition, with banks, stages and windows. -/
theorem bindGrants_form (b : Body) (p : Nat) (img : FixtureImage) : ∃ g st ps ws, b.bindGrants p img =
    { b with store := st, pitches := ps, net := { b.net with windows := ws },
             parts := alter p (fun x => { x with grant := g }) b.parts } := by
  unfold Body.bindGrants
  dsimp only
  obtain ⟨ps, hps⟩ := placeStages_form _ p img
  obtain ⟨ws, hws⟩ := grantWindows_form _ p img.windows
  rw [hws, hps]
  exact ⟨_, _, ps, ws, rfl⟩

/-- Table 12.5: a fixture state is set with attention bits alone, which stay where the state was the same. -/
theorem setFix_form (b : Body) (p : Nat) (st : FixState) : ∃ bits, b.setFix p st =
    { b with doves := { b.doves with attn := bits }, parts := alter p (fun x => { x with fstate := st }) b.parts } := by
  unfold Body.setFix
  split
  · next heq =>
    refine ⟨b.doves.attn, ?_⟩
    rw [alter_id p _ b.parts (fun x hx => ?_)]
    have hpart : b.part p = x := by simp [Body.part, List.getD_eq_getElem?_getD, hx]
    rw [← heq, hpart]
  · exact ⟨_, rfl⟩

/-- Bytes at a place of the plan lie in memory or in an engine's registers. -/
theorem writeLoc_form (b : Body) (p : Nat) (l : Loc) (vs : List Byte) : ∃ st es, b.writeLoc p l vs = { b with store := st, engines := es } := by
  unfold Body.writeLoc
  split
  · exact ⟨b.store, _, rfl⟩
  · exact ⟨_, b.engines, rfl⟩

/-- R147: zeroing the carry changes memory and engine registers alone. -/
theorem zeroCarry_form (b : Body) (p : Nat) (img : FixtureImage) : ∃ st es, b.zeroCarry p img = { b with store := st, engines := es } := by
  unfold Body.zeroCarry
  generalize img.tensors = ts
  induction ts generalizing b with
  | nil => exact ⟨b.store, b.engines, rfl⟩
  | cons t ts ih =>
    rw [List.foldl_cons]
    split
    · obtain ⟨st, es, hw⟩ := writeLoc_form b p t.c (List.replicate (t.rows * t.cols) 0)
      rw [hw]
      exact ih _
    · exact ih b

/-! ## FIXTURE_LOAD, FIXTURE_CHECK -/

/-- The state in which an image that fails no check has been admitted. -/
def loaded (b : Body) (p : Nat) (img : FixtureImage) : Body :=
  (((b.alterPart p (fun x => x.admitted img b.book.tables.loss.restartExp b.clock.now)).bindGrants p img).setFix p .admitted).zeroCarry p img

/-- A partition with the state of an admission without a restore, and what has been granted to it. -/
def admittedWith (img : FixtureImage) (restartExp : Int) (now : Nat) (g : Grant) (x : Partition) : Partition :=
  { x.admitted img restartExp now with grant := g, fstate := .admitted }

/-- An admission changes its partition, memory, units and windows, and sets attention bits. -/
theorem loaded_form (b : Body) (p : Nat) (img : FixtureImage) : ∃ g bits st es ps ws, loaded b p img =
    { b with doves := { b.doves with attn := bits }, store := st, engines := es, pitches := ps, net := { b.net with windows := ws },
             parts := alter p (admittedWith img b.book.tables.loss.restartExp b.clock.now g) b.parts } := by
  unfold loaded
  obtain ⟨g, st, ps, ws, hbind⟩ := bindGrants_form (b.alterPart p (fun x => x.admitted img b.book.tables.loss.restartExp b.clock.now)) p img
  obtain ⟨bits, hset⟩ := setFix_form
    ((b.alterPart p (fun x => x.admitted img b.book.tables.loss.restartExp b.clock.now)).bindGrants p img) p .admitted
  obtain ⟨st', es, hzero⟩ := zeroCarry_form
    (((b.alterPart p (fun x => x.admitted img b.book.tables.loss.restartExp b.clock.now)).bindGrants p img).setFix p .admitted) p img
  rw [hzero, hset, hbind]
  refine ⟨g, bits, st', es, ps, ws, ?_⟩
  simp only [Body.alterPart, alter_alter]
  rfl

/-- R34 to R37: an image that fails no check is admitted. -/
theorem cmdFixtureLoad_passed (v : Vault) (p off len : Nat) (img : FixtureImage) (b : Body) (hargs : b.stagingArgs off len = true)
    (hcheck : b.check v p off len img = []) : cmdFixtureLoad v p off len img b = (loaded b p img, ok (.check 0 0 0)) := by
  simp only [cmdFixtureLoad, hargs, hcheck, Bool.not_true, Bool.false_eq_true, if_false, List.isEmpty_nil, if_true]
  rfl

theorem cmdFixtureCheck_passed (v : Vault) (p off len : Nat) (img : FixtureImage) (b : Body) (hargs : b.stagingArgs off len = true)
    (hcheck : b.check v p off len img = []) : cmdFixtureCheck v p off len img b = (b, ok (.check 0 0 0)) := by
  simp only [cmdFixtureCheck, hargs, hcheck, Bool.not_true, Bool.false_eq_true, if_false, List.isEmpty_nil, if_true]
  rfl

/-- The row of a FIXTURE_LOAD that admits: one partition is as after an admission, every other as before. -/
theorem fixtureLoad_admits (s : State) (h : Hdr) (off len : Nat) (img : FixtureImage) (hr : RingReady s.body h) (ho : OwnRing h)
    (hfree : s.body.lodgeBusy s.vault = false) (hargs : (s.body.running h (.fixtureLoad off len img)).stagingArgs off len = true)
    (hcheck : (s.body.running h (.fixtureLoad off len img)).check s.vault h.part off len img = []) : ∃ (t : State) (g : Grant),
    exec (.fixtureLoad h off len img) s = .next t ∧ RingFrame s t h ∧
    Answered s.body t.body h (.fixtureLoad off len img) stOk 0 (.check 0 0 0) ∧
    t.body.parts = alter h.part (admittedWith img s.body.book.tables.loss.restartExp s.body.clock.now g) s.body.parts := by
  have hrun := cmdFixtureLoad_passed s.vault h.part off len img _ hargs hcheck
  obtain ⟨g, bits, st, es, ps, ws, hform⟩ := loaded_form (s.body.running h (.fixtureLoad off len img)) h.part img
  rw [hform] at hrun
  obtain ⟨t, hexec, hframe, hans, hbody⟩ := submit_answers s h (.fixtureLoad off len img) _ stOk 0 (.check 0 0 0) hr
    (ringRight_own h _ ho rfl) rfl (by rw [hfree, Bool.and_false]) hrun rfl rfl hr.pcie rfl
  exact ⟨t, g, (submit_wf h _ s hr.wf).trans hexec, hframe, hans, congrArg Body.parts hbody⟩

/-- Settles O1: admission is `admittedWith` in one partition; the check runs `Body.check` on the same state and leaves it. -/
theorem fixtureAdmission : Obligations.FixtureAdmission := by
  refine ⟨fun s h off len img hr ho hlen hfree hargs hcheck => ?_, fun s h off len img hr ho hfree hargs hcheck => ?_⟩
  · obtain ⟨t, g, hexec, hframe, hans, hparts⟩ := fixtureLoad_admits s h off len img hr ho hfree hargs hcheck
    have hown : t.body.part h.part =
        admittedWith img s.body.book.tables.loss.restartExp s.body.clock.now g (s.body.part h.part) := by
      rw [Body.part, hparts, alter_getD, if_pos ⟨rfl, hlen⟩]
      rfl
    have hother : ∀ q, q ≠ h.part → t.body.part q = s.body.part q := fun q hq => by
      rw [Body.part, hparts, alter_getD, if_neg (fun hc => hq hc.1.symm)]
      rfl
    refine ⟨t, hexec, hframe, hans, ?_, ?_, ?_, ?_, ?_, ?_, ?_, ?_, hother⟩ <;> rw [hown] <;> rfl
  · have hrun := cmdFixtureCheck_passed s.vault h.part off len img _ hargs hcheck
    obtain ⟨t, hexec, hframe, hans, hbody⟩ := submit_answers s h (.fixtureCheck off len img) _ stOk 0 (.check 0 0 0) hr
      (ringRight_own h _ ho rfl) rfl (by rw [hfree, Bool.and_false]) hrun rfl rfl hr.pcie rfl
    refine ⟨t, (submit_wf h _ s hr.wf).trans hexec, hframe, hans, hbody.trans ?_⟩
    rw [← hr.idle]
    rfl

end Sys2Proof.Proofs
end

section
/-!
PROOFS. The issue pass (02, R22 to R29, R437; 05, R96, R97, R107, R108): a stream with nothing next loses only the time that it has
waited since, which no other stream looks at, so that a pass with one operation to issue is one turn of one stream.
-/

namespace Sys2Proof.Proofs

open Sys2Proof Sys2Proof.Machine Sys2Proof.Laws

/-! ## What a token's state is read from

`Partition.tokenDone` and `Partition.tokenFailed` are unfolded here as functions, before their arguments: unfolded at an argument, their
match would have the kernel evaluate `tokenAge` on a count that is no numeral. -/

theorem tokenDone_congr (x y : Partition) (hcount : ∀ i, x.countOf i = y.countOf i) (hbit : ∀ t, x.bit? t = y.bit? t) :
    x.tokenDone = y.tokenDone := by
  have hdef : @Partition.tokenDone = @Partition.tokenDone := rfl
  conv at hdef => rhs; delta Partition.tokenDone
  rw [hdef]
  funext t
  simp only [hcount, hbit]

theorem tokenFailed_congr (x y : Partition) (hcount : ∀ i, x.countOf i = y.countOf i) (hbit : ∀ t, x.bit? t = y.bit? t) :
    x.tokenFailed = y.tokenFailed := by
  have hdef : @Partition.tokenFailed = @Partition.tokenFailed := rfl
  conv at hdef => rhs; delta Partition.tokenFailed
  rw [hdef]
  funext t
  simp only [hcount, hbit]

/-! ## Streams whose waiting time is over -/

/-- The partition with the waiting times of some streams off. -/
def waitsCleared (js : List Nat) (x : Partition) : Partition :=
  { x with streams := js.foldl (fun ss j => alter j (fun g => { g with waitSince := none }) ss) x.streams }

theorem waitsCleared_nil (x : Partition) : waitsCleared [] x = x := rfl

theorem waitsCleared_cons (j : Nat) (js : List Nat) (x : Partition) : waitsCleared (j :: js) x = waitsCleared js (waitsCleared [j] x) := rfl

theorem setStream_waitSince (x : Partition) (i : Nat) : x.setStream i (fun g => { g with waitSince := none }) = waitsCleared [i] x := rfl

section Cleared

variable (js : List Nat) (x : Partition)

@[simp] theorem waitsCleared_flights : (waitsCleared js x).flights = x.flights := rfl
@[simp] theorem waitsCleared_image (i : Nat) : (waitsCleared js x).image i = x.image i := rfl
@[simp] theorem waitsCleared_verdictDone (i : Nat) (op : StreamOp) : (waitsCleared js x).verdictDone i op = x.verdictDone i op := rfl

@[simp] theorem waitsCleared_length : (waitsCleared js x).streams.length = x.streams.length := by
  induction js generalizing x with
  | nil => rfl
  | cons j js ih =>
    rw [waitsCleared_cons, ih]
    exact alter_length j _ x.streams

/-- A stream's own waiting time is off where it is among them; nothing else of it changes. -/
theorem waitsCleared_stream (i : Nat) : (waitsCleared js x).streams.getD i Stream.reset =
    if i ∈ js then { x.streams.getD i Stream.reset with waitSince := none } else x.streams.getD i Stream.reset := by
  induction js generalizing x with
  | nil => rfl
  | cons j js ih =>
    have hone : (waitsCleared [j] x).streams.getD i Stream.reset =
        if i = j then { x.streams.getD i Stream.reset with waitSince := none } else x.streams.getD i Stream.reset := by
      show (alter j _ x.streams).getD i Stream.reset = _
      rw [alter_getD]
      by_cases hij : i = j
      · subst hij
        by_cases hl : i < x.streams.length
        · simp [hl]
        · simp [hl, Stream.reset]
      · simp [hij, Ne.symm hij]
    rw [waitsCleared_cons, ih, hone]
    by_cases hij : i = j <;> by_cases hi : i ∈ js <;> simp [hij, hi]

theorem waitsCleared_stream_other (i : Nat) (h : i ∉ js) :
    (waitsCleared js x).streams.getD i Stream.reset = x.streams.getD i Stream.reset := by
  rw [waitsCleared_stream, if_neg h]

@[simp] theorem waitsCleared_pos (i : Nat) :
    ((waitsCleared js x).streams.getD i Stream.reset).pos = (x.streams.getD i Stream.reset).pos := by
  rw [waitsCleared_stream]
  split <;> rfl

@[simp] theorem waitsCleared_count (i : Nat) :
    ((waitsCleared js x).streams.getD i Stream.reset).count = (x.streams.getD i Stream.reset).count := by
  rw [waitsCleared_stream]
  split <;> rfl

@[simp] theorem waitsCleared_next? (i : Nat) : (waitsCleared js x).next? i = x.next? i := by
  simp only [Partition.next?, waitsCleared_pos, waitsCleared_image]

@[simp] theorem waitsCleared_countOf (i : Nat) : (waitsCleared js x).countOf i = x.countOf i := by
  simp only [Partition.countOf, waitsCleared_count]
  rfl

@[simp] theorem waitsCleared_tokenDone : (waitsCleared js x).tokenDone = x.tokenDone :=
  tokenDone_congr _ _ (waitsCleared_countOf js x) (fun _ => rfl)

@[simp] theorem waitsCleared_tokenFailed : (waitsCleared js x).tokenFailed = x.tokenFailed :=
  tokenFailed_congr _ _ (waitsCleared_countOf js x) (fun _ => rfl)

@[simp] theorem waitsCleared_ready (i : Nat) (op : StreamOp) : (waitsCleared js x).ready i op = x.ready i op := by
  simp only [Partition.ready, waitsCleared_tokenDone, waitsCleared_verdictDone]

@[simp] theorem waitsCleared_freeing : (waitsCleared js x).freeing = x.freeing := by
  have hahead : (waitsCleared js x).aheadForward = x.aheadForward := by
    funext t
    simp only [Partition.aheadForward, waitsCleared_countOf]
  simp only [Partition.freeing, hahead, waitsCleared_pos]
  rfl

end Cleared

/-! ## What a pass reads of the body -/

section ClearedBody

variable (b : Body) (p : Nat) (js : List Nat)

/-- Whatever the number of the partition, what of it is read alike with waiting times off is read alike in the body. -/
theorem part_cleared {α : Type} (k : Partition → α) (hk : ∀ x, k (waitsCleared js x) = k x) (q : Nat) :
    k ((b.alterPart p (waitsCleared js)).part q) = k (b.part q) := by
  rw [alterPart_part]
  split
  · exact hk _
  · rfl

@[simp] theorem cleared_moduleRoom : (b.alterPart p (waitsCleared js)).moduleRoom = b.moduleRoom := by
  have hlen : (alter p (waitsCleared js) b.parts).map (·.flights.length) = b.parts.map (·.flights.length) := by
    unfold alter
    apply List.ext_getElem?
    intro j
    rw [List.getElem?_map, List.getElem?_modify, List.getElem?_map]
    by_cases hj : p = j <;> cases b.parts[j]? <;> simp [hj]
  simp only [Body.moduleRoom, Body.alterPart, hlen]

@[simp] theorem cleared_recordHold (i : Nat) : (b.alterPart p (waitsCleared js)).recordHold p i = b.recordHold p i := by
  have hpos := part_cleared b p js (fun x => (x.streams.getD i Stream.reset).pos) (fun x => waitsCleared_pos js x i) p
  have hstart := part_cleared b p js (fun x => x.pass) (fun _ => rfl) p
  simp only [Body.recordHold, hpos, hstart]
  rfl

@[simp] theorem cleared_unitsRun (op : StreamOp) : (b.alterPart p (waitsCleared js)).unitsRun p op = b.unitsRun p op := by
  have hpitches := part_cleared b p js (fun x => x.opPitches op) (fun _ => rfl) p
  have hengine := part_cleared b p js (fun x => x.opEngine op) (fun _ => rfl) p
  have hstage := part_cleared b p js (fun x => x.stage? op) (fun _ => rfl) p
  have hgrant := part_cleared b p js (fun x => x.grant) (fun _ => rfl) p
  simp only [Body.unitsRun, Body.opHalves, Body.retiring, hpitches, hengine, hstage, hgrant]
  rfl

@[simp] theorem cleared_boundedWait (i : Nat) (op : StreamOp) :
    (b.alterPart p (waitsCleared js)).boundedWait p i op = b.boundedWait p i op := by
  have hdone := part_cleared b p js (fun x => x.tokenDone) (fun x => waitsCleared_tokenDone js x) p
  have hcount := part_cleared b p js (fun x => x.countOf 3) (fun x => waitsCleared_countOf js x 3) p
  have hverdict := part_cleared b p js (fun x => x.verdictDone i op) (fun _ => rfl) p
  simp only [Body.boundedWait, Body.waitExempt, hdone, hcount, hverdict]
  rfl

end ClearedBody

/-! ## One turn of one stream -/

theorem waitsCleared_append (js ks : List Nat) (x : Partition) : waitsCleared (js ++ ks) x = waitsCleared ks (waitsCleared js x) := by
  simp only [waitsCleared, List.foldl_append]

theorem cleared_cleared (b : Body) (p : Nat) (js ks : List Nat) :
    (b.alterPart p (waitsCleared js)).alterPart p (waitsCleared ks) = b.alterPart p (waitsCleared (js ++ ks)) := by
  simp only [Body.alterPart, alter_alter, ← waitsCleared_append]

/-- R123, R124: with no step withheld, no operation is passed over. -/
theorem passOver_of_noneWithheld (n : Nat) (x : Partition) (hw : x.upd.withheld = []) : x.passOver n = x := by
  cases n with
  | zero => rfl
  | succ n =>
    rw [Partition.passOver]
    split
    · split
      · rw [hw]
        rfl
      · rfl
    · rfl

theorem passOver_body (b : Body) (p i : Nat) (hw : (b.part p).upd.withheld = []) :
    (if i = 2 then b.alterPart p (fun x => x.passOver (x.image 2).length) else b) = b := by
  split
  · refine congrArg (fun ps => { b with parts := ps }) (alter_id p _ b.parts (fun x hx => ?_))
    have hpart : b.part p = x := by simp [Body.part, List.getD_eq_getElem?_getD, hx]
    exact passOver_of_noneWithheld _ x (hpart ▸ hw)
  · rfl

section Turn

variable (own : Option Nat) (errs : List CwError) (b : Body) (p i : Nat) (op : StreamOp)

/-- A stream with nothing next loses its waiting time. -/
theorem issueStream_idle (hw : (b.part p).upd.withheld = []) (hn : (b.part p).next? i = none) :
    b.issueStream own errs p i = b.alterPart p (waitsCleared [i]) := by
  simp only [Body.issueStream, passOver_body b p i hw, hn]
  rfl

/-- R27 to R29: without room the stream stays as it is. -/
theorem issueStream_noRoom (hw : (b.part p).upd.withheld = []) (hn : (b.part p).next? i = some op)
    (hr : (b.part p).hasRoom i = false) : b.issueStream own errs p i = b := by
  simp only [Body.issueStream, passOver_body b p i hw, hn, hr, Bool.not_false, if_true]

/-- R26: with a bounded wait outstanding its time goes on, or starts at this beat. -/
theorem issueStream_waits (hw : (b.part p).upd.withheld = []) (hn : (b.part p).next? i = some op)
    (hr : (b.part p).hasRoom i = true) (hready : (b.part p).ready i op = false) (hb : b.boundedWait p i op = true) :
    b.issueStream own errs p i = b.alterPart p (fun x => x.setStream i (fun g => { g with
      waitSince := some (((b.part p).streams.getD i Stream.reset).waitSince.getD b.clock.beat) })) := by
  simp only [Body.issueStream, passOver_body b p i hw, hn, hr, hready, hb, Bool.not_true, Bool.not_false, Bool.false_eq_true, if_false,
    if_true]

/-- A next operation whose waits are complete, with room in its stream's window and its partition's quota. -/
structure Candidate : Prop where
  noneWithheld : (b.part p).upd.withheld = []
  next : (b.part p).next? i = some op
  room : (b.part p).hasRoom i = true
  ready : (b.part p).ready i op = true

/-- R27, R237, R320, R351: nothing else holds the stream back. -/
structure Unheld : Prop where
  module : b.moduleRoom = true
  records : b.recordHold p i = false
  units : b.unitsRun p op = true
  copy : (b.part p).copyWait op = false
  share : collectiveOf op = none

variable {own errs b p i op}

/-- The stream holds, its waiting time over. -/
theorem Candidate.holds (hc : Candidate b p i op)
    (hh : b.moduleRoom = false ∨ b.recordHold p i = true ∨ b.unitsRun p op = false ∨ (b.part p).copyWait op = true) :
    b.issueStream own errs p i = b.alterPart p (waitsCleared [i]) := by
  have hheld : (!b.moduleRoom || b.recordHold p i || !b.unitsRun p op || (b.part p).copyWait op || (b.part p).shareHold op) = true := by
    rcases hh with h | h | h | h <;> simp [h]
  simp only [Body.issueStream, passOver_body b p i hc.noneWithheld, hc.next, hc.room, hc.ready, setStream_waitSince,
    cleared_moduleRoom, cleared_recordHold, cleared_unitsRun, hheld, Bool.not_true, Bool.false_eq_true, if_false, if_true]

/-- An operation that nothing holds back is issued, or waits for its bench entry (R96, R107). -/
theorem Candidate.goes (hc : Candidate b p i op) (hu : Unheld b p i op) : b.issueStream own errs p i =
    match (b.part p).benchWrite i op with
    | none => (b.alterPart p (waitsCleared [i])).issueOp own errs p i op none
    | some w =>
      if (op.waits.findSome? (b.part p).tokenFailed).isSome then (b.alterPart p (waitsCleared [i])).issueOp own errs p i op none
      else match (b.part p).benchTier (benchGranules ((b.part p).entryBytes w)) with
        | some (t, gs) => (b.alterPart p (waitsCleared [i])).issueOp own errs p i op
            (some ⟨w.block, w.mb, t, gs, (b.part p).entryBytes w, []⟩)
        | none => (b.alterPart p (waitsCleared [i])).alterPart p (fun x => x.hold b.clock.beat w.mb) := by
  have hshare : (b.part p).shareHold op = false := by rw [Partition.shareHold, hu.share]; rfl
  simp only [Body.issueStream, passOver_body b p i hc.noneWithheld, hc.next, hc.room, hc.ready, setStream_waitSince,
    cleared_moduleRoom, cleared_recordHold, cleared_unitsRun, hu.module, hu.records, hu.units, hu.copy, hshare, Bool.not_true,
    Bool.or_self, Bool.false_eq_true, if_false]
  rfl

end Turn

/-! ## The operation in flight -/

/-- R23, R24, R29: a stream goes on by one operation, whose token is not complete; a bench entry and the end of a hold go with it. -/
def issued (i : Nat) (fl : Flight) (entry : Option BenchEntry) (x : Partition) : Partition :=
  { x.setStream i (fun g => { g with pos := g.pos + 1, count := (g.count + 1) % 2 ^ 30, waitSince := none }) with
    flights := x.flights ++ [fl], board := x.board.filter (fun d => d.token != fl.token),
    pass := { x.pass with bench := x.pass.bench ++ entry.toList, benchHold := if i = 0 then none else x.pass.benchHold } }

/-- R172: the generations that the walks of an operation read first. -/
def walkGens (b : Body) (p : Nat) (op : StreamOp) : List Nat :=
  match op.payload with
  | .attention _ seqs _ => b.generations p seqs
  | _ => []

/-- What goes into flight: the stream's next operation, under its next sequence number, failed where a token it waited on failed (R437). -/
def nextFlight (b : Body) (p i : Nat) (op : StreamOp) : Flight :=
  ⟨i, ((b.part p).streams.getD i Stream.reset).pos, mkToken i ((((b.part p).streams.getD i Stream.reset).count + 1) % 2 ^ 30),
    op.waits.findSome? (b.part p).tokenFailed, b.clock.beat, 0, 0, b.book.tables.update, [], 0, walkGens b p op, b.net.ops⟩

/-- An operation that is no collective meets and sends nothing at its issue. -/
theorem issueOp_noCollective (own : Option Nat) (errs : List CwError) (b : Body) (p i : Nat) (op : StreamOp) (entry : Option BenchEntry)
    (hc : collectiveOf op = none) : b.issueOp own errs p i op entry =
      (b.alterPart p (issued i (nextFlight b p i op) entry)).refreshUnits := by
  have hopens : b.collectiveOpens own p op errs = (b, none) := by simp only [Body.collectiveOpens, hc]
  cases hf : op.waits.findSome? (b.part p).tokenFailed with
  | none =>
    simp only [Body.issueOp, nextFlight, hf, hopens, hc, Option.isSome_none, Bool.false_eq_true, if_false]
    rfl
  | some k =>
    simp only [Body.issueOp, nextFlight, hf, hc, Option.isSome_some, Option.isSome_none, Bool.false_eq_true, if_false, if_true]
    rfl

/-! ## A pass with one stream at work -/

/-- What a turn of stream `i` leaves for the other streams of its partition: their images, where they stand, and what is withheld. -/
structure KeepsOthers (i : Nat) (x y : Partition) : Prop where
  fix : y.fix = x.fix
  upd : y.upd = x.upd
  pos : ∀ j, j ≠ i → (y.streams.getD j Stream.reset).pos = (x.streams.getD j Stream.reset).pos

theorem KeepsOthers.next? {i : Nat} {x y : Partition} (h : KeepsOthers i x y) (j : Nat) (hj : j ≠ i) : y.next? j = x.next? j := by
  have himage : y.image j = x.image j := by simp only [Partition.image, h.fix]
  simp only [Partition.next?, himage, h.pos j hj]

theorem keepsOthers_waitsCleared (i : Nat) (js : List Nat) (x : Partition) : KeepsOthers i x (waitsCleared js x) :=
  ⟨rfl, rfl, fun j _ => waitsCleared_pos js x j⟩

theorem setStream_other (x : Partition) (i j : Nat) (f : Stream → Stream) (hj : j ≠ i) :
    (x.setStream i f).streams.getD j Stream.reset = x.streams.getD j Stream.reset := by
  show (alter i f x.streams).getD j Stream.reset = _
  rw [alter_getD, if_neg (fun hc => hj hc.1.symm)]

theorem setStream_same (x : Partition) (i : Nat) (f : Stream → Stream) (hi : i < x.streams.length) :
    (x.setStream i f).streams.getD i Stream.reset = f (x.streams.getD i Stream.reset) := by
  show (alter i f x.streams).getD i Stream.reset = _
  rw [alter_getD, if_pos ⟨rfl, hi⟩]

theorem KeepsOthers.setStream {i : Nat} {x y : Partition} (h : KeepsOthers i x y) (f : Stream → Stream) :
    KeepsOthers i x (y.setStream i f) :=
  ⟨h.fix, h.upd, fun j hj => (congrArg Stream.pos (setStream_other y i j f hj)).trans (h.pos j hj)⟩

theorem KeepsOthers.issued {i : Nat} {x y : Partition} (h : KeepsOthers i x y) (fl : Flight) (entry : Option BenchEntry) :
    KeepsOthers i x (issued i fl entry y) :=
  ⟨h.fix, h.upd, (h.setStream _).pos⟩

theorem KeepsOthers.hold {i : Nat} {x y : Partition} (h : KeepsOthers i x y) (beat mb : Nat) : KeepsOthers i x (y.hold beat mb) :=
  ⟨h.fix, h.upd, h.pos⟩

/-- Streams with nothing next lose their waiting times. -/
theorem issueStreams_idle (own : Option Nat) (errs : List CwError) (p : Nat) (js : List Nat) (b : Body)
    (hw : (b.part p).upd.withheld = []) (hn : ∀ j ∈ js, (b.part p).next? j = none) :
    js.foldl (Body.issueStream own errs p) b = b.alterPart p (waitsCleared js) := by
  induction js generalizing b with
  | nil => exact congrArg (fun ps => { b with parts := ps }) (alter_id p _ b.parts (fun x _ => waitsCleared_nil x)).symm
  | cons j js ih =>
    have hw' : ((b.alterPart p (waitsCleared [j])).part p).upd.withheld = [] :=
      (part_cleared b p [j] (fun x => x.upd.withheld) (fun _ => rfl) p).trans hw
    have hn' : ∀ k ∈ js, ((b.alterPart p (waitsCleared [j])).part p).next? k = none := fun k hk =>
      (part_cleared b p [j] (fun x => x.next? k) (fun x => waitsCleared_next? [j] x k) p).trans (hn k (List.mem_cons_of_mem _ hk))
    rw [List.foldl_cons, issueStream_idle own errs b p j hw (hn j List.mem_cons_self), ih _ hw' hn', cleared_cleared]
    rfl

/-- Streams, or partitions, before and after the one at work. -/
theorem range_around (n i : Nat) (hi : i < n) : List.range n = List.range i ++ i :: List.range' (i + 1) (n - (i + 1)) := by
  have hn : n = i + (n - (i + 1) + 1) := by omega
  rw [List.range_eq_range', List.range_eq_range', ← List.range'_succ]
  conv => lhs; rw [hn]
  rw [← List.range'_append_1, Nat.zero_add]

/-- A partition's turn in the pass of half `h`. -/
def issueTurn (v : Vault) (h : Nat) (errs : List CwError) (b : Body) (p : Nat) : Body :=
  if b.partHalf p = some h ∧ (b.part p).fstate = .running then (List.range 3).foldl (Body.issueStream (b.ownMember v.serial) errs p) b
  else b

theorem issuePass_turns (v : Vault) (h : Nat) (errs : List CwError) (b : Body) (hk : b.roleRuns (4 * h + 1) = true)
    (hs : (b.half h).fatal = none) (hr : b.boot.start = .ready) :
    b.issuePass v h errs = (List.range 4).foldl (issueTurn v h errs) b := by
  simp only [Body.issuePass, hk, hs, hr, Bool.not_true, Option.isSome_none, bne_self_eq_false, Bool.or_self, Bool.false_eq_true, if_false]
  rfl

theorem issueTurns_skip (v : Vault) (h : Nat) (errs : List CwError) (qs : List Nat) (b : Body)
    (hq : ∀ q ∈ qs, ¬(b.partHalf q = some h ∧ (b.part q).fstate = .running)) : qs.foldl (issueTurn v h errs) b = b := by
  induction qs with
  | nil => rfl
  | cons q qs ih =>
    rw [List.foldl_cons, issueTurn, if_neg (hq q List.mem_cons_self)]
    exact ih (fun r hr => hq r (List.mem_cons_of_mem _ hr))

/-- The later streams of a partition, whose turns come after that of stream `i`. -/
def laterStreams (i : Nat) : List Nat := List.range' (i + 1) (3 - (i + 1))

theorem not_mem_laterStreams (i : Nat) : i ∉ laterStreams i := by
  simp [laterStreams, List.mem_range'_1]

/-- The pass when stream `i` of partition `p` has the one operation to issue: its own turn `c`, the waiting times of the streams before it
off, then those of the streams after it. -/
theorem issuePass_front {b c : Body} {h p i : Nat} {op : StreamOp} (v : Vault) (errs : List CwError) (F : Partition → Partition)
    (hf : IssueFront b h p i op)
    (hc : (b.alterPart p (waitsCleared (List.range i))).issueStream (b.ownMember v.serial) errs p i = c)
    (hparts : c.parts = alter p F b.parts) (hF : KeepsOthers i (b.part p) (F (b.part p))) :
    b.issuePass v h errs = c.alterPart p (waitsCleared (laterStreams i)) := by
  have hlen : p < b.parts.length := part_lt b p (by rw [hf.running]; decide)
  have hown : c.part p = F (b.part p) := by
    rw [Body.part, hparts, alter_getD, if_pos ⟨rfl, hlen⟩]
    rfl
  have hother : ∀ q, q ≠ p → (c.alterPart p (waitsCleared (laterStreams i))).part q = b.part q := fun q hq => by
    rw [alterPart_other _ _ _ _ hq, Body.part, hparts, alter_getD, if_neg (fun hc => hq hc.1.symm)]
    rfl
  have hstreams : (List.range 3).foldl (Body.issueStream (b.ownMember v.serial) errs p) b =
      c.alterPart p (waitsCleared (laterStreams i)) := by
    rw [range_around 3 i hf.stream, List.foldl_append, List.foldl_cons, issueStreams_idle _ _ _ _ _ hf.noneWithheld
      (fun j hj => hf.alone j (Nat.lt_trans (List.mem_range.1 hj) hf.stream) (Nat.ne_of_lt (List.mem_range.1 hj))), hc]
    refine issueStreams_idle _ _ _ _ _ (by rw [hown, hF.upd]; exact hf.noneWithheld) (fun j hj => ?_)
    have hlt := List.mem_range'_1.1 hj
    rw [hown, hF.next? j (by omega)]
    exact hf.alone j (by omega) (by omega)
  have hturn : issueTurn v h errs b p = c.alterPart p (waitsCleared (laterStreams i)) := by
    rw [issueTurn, if_pos ⟨hf.mine, hf.running⟩, hstreams]
  rw [issuePass_turns v h errs b hf.keeper hf.service hf.ready, range_around 4 p hf.part, List.foldl_append, List.foldl_cons,
    issueTurns_skip v h errs _ b (fun q hq => hf.others q (Nat.lt_trans (List.mem_range.1 hq) hf.part) (Nat.ne_of_lt (List.mem_range.1 hq))),
    hturn]
  refine issueTurns_skip v h errs _ _ (fun q hq => ?_)
  have hlt := List.mem_range'_1.1 hq
  have hpart := hother q (by omega)
  have hhalf : (c.alterPart p (waitsCleared (laterStreams i))).partHalf q = b.partHalf q :=
    congrArg (fun x : Partition => (x.pitches.head?).map (· / 2)) hpart
  rw [hhalf, hpart]
  exact hf.others q (by omega) (by omega)

theorem exec_issuePass (s : State) (h : Nat) (errs : List CwError) (hh : h < 2) :
    exec (.issuePass ⟨h, errs⟩) s = .next { s with body := s.body.issuePass s.vault h errs } :=
  onBody_of (decide (h < 2)) s (fun b => b.issuePass s.vault h errs) (decide_eq_true hh)

/-- What such a pass leaves: `F` in its partition, behind it what the turns of the later streams do; no other partition. -/
theorem issuePass_of_turn {s : State} {c : Body} {h p i : Nat} {op : StreamOp} (errs : List CwError) (F : Partition → Partition)
    (hf : IssueFront s.body h p i op)
    (hc : (s.body.alterPart p (waitsCleared (List.range i))).issueStream (s.body.ownMember s.vault.serial) errs p i = c)
    (hparts : c.parts = alter p F s.body.parts) (hF : KeepsOthers i (s.body.part p) (F (s.body.part p))) : ∃ t : State,
    exec (.issuePass ⟨h, errs⟩) s = .next t ∧ t.vault = s.vault ∧ t.pending = s.pending ∧
    t.body.part p = waitsCleared (laterStreams i) (F (s.body.part p)) ∧ (∀ q, q ≠ p → t.body.part q = s.body.part q) ∧
    t.body = { c with parts := t.body.parts } := by
  have hlen : p < s.body.parts.length := part_lt s.body p (by rw [hf.running]; decide)
  refine ⟨_, exec_issuePass s h errs hf.half, rfl, rfl, ?_, fun q hq => ?_, ?_⟩
  · rw [issuePass_front s.vault errs F hf hc hparts hF, alterPart_same _ _ _ (by rw [hparts, alter_length]; exact hlen),
      Body.part, hparts, alter_getD, if_pos ⟨rfl, hlen⟩]
    rfl
  · rw [issuePass_front s.vault errs F hf hc hparts hF, alterPart_other _ _ _ _ hq, Body.part, hparts, alter_getD,
      if_neg (fun hc => hq hc.1.symm)]
    rfl
  · rw [issuePass_front s.vault errs F hf hc hparts hF]
    rfl

/-! ## What the front stream's turn finds -/

section Front

variable {b : Body} {h p i : Nat} {op : StreamOp} (js : List Nat)

theorem front_noneWithheld (hf : IssueFront b h p i op) : ((b.alterPart p (waitsCleared js)).part p).upd.withheld = [] :=
  (part_cleared b p js (fun x => x.upd.withheld) (fun _ => rfl) p).trans hf.noneWithheld

theorem front_next (hf : IssueFront b h p i op) : ((b.alterPart p (waitsCleared js)).part p).next? i = some op :=
  (part_cleared b p js (fun x => x.next? i) (fun x => waitsCleared_next? js x i) p).trans hf.next

theorem front_candidate (hf : IssueFront b h p i op) (hroom : (b.part p).hasRoom i = true) (hready : (b.part p).ready i op = true) :
    Candidate (b.alterPart p (waitsCleared js)) p i op where
  noneWithheld := front_noneWithheld js hf
  next := front_next js hf
  room := (part_cleared b p js (fun x => x.hasRoom i) (fun _ => rfl) p).trans hroom
  ready := (part_cleared b p js (fun x => x.ready i op) (fun x => waitsCleared_ready js x i op) p).trans hready

theorem Unheld.cleared (hu : Unheld b p i op) : Unheld (b.alterPart p (waitsCleared js)) p i op where
  module := (cleared_moduleRoom b p js).trans hu.module
  records := (cleared_recordHold b p js i).trans hu.records
  units := (cleared_unitsRun b p js op).trans hu.units
  copy := (part_cleared b p js (fun x => x.copyWait op) (fun _ => rfl) p).trans hu.copy
  share := hu.share

/-- An operation that writes no bench entry. -/
theorem front_goes_plain (own : Option Nat) (errs : List CwError) (hf : IssueFront b h p i op) (hroom : (b.part p).hasRoom i = true)
    (hready : (b.part p).ready i op = true) (hu : Unheld b p i op) (hw : (b.part p).benchWrite i op = none) :
    (b.alterPart p (waitsCleared js)).issueStream own errs p i =
      ((b.alterPart p (waitsCleared js)).alterPart p (waitsCleared [i])).issueOp own errs p i op none := by
  have hwrite := part_cleared b p js (fun x => x.benchWrite i op) (fun _ => rfl) p
  rw [(front_candidate js hf hroom hready).goes (hu.cleared js), hwrite, hw]

/-- One that does, and that no failed token keeps from carrying anything out: the first tier with room decides. -/
theorem front_goes_bench (own : Option Nat) (errs : List CwError) (hf : IssueFront b h p i op) (hroom : (b.part p).hasRoom i = true)
    (hready : (b.part p).ready i op = true) (hu : Unheld b p i op) (w : BenchWrite) (hw : (b.part p).benchWrite i op = some w)
    (hwaits : op.waits.findSome? (b.part p).tokenFailed = none) :
    (b.alterPart p (waitsCleared js)).issueStream own errs p i =
      match (b.part p).benchTier (benchGranules ((b.part p).entryBytes w)) with
      | some (t, gs) => ((b.alterPart p (waitsCleared js)).alterPart p (waitsCleared [i])).issueOp own errs p i op
          (some ⟨w.block, w.mb, t, gs, (b.part p).entryBytes w, []⟩)
      | none => ((b.alterPart p (waitsCleared js)).alterPart p (waitsCleared [i])).alterPart p (fun x => x.hold b.clock.beat w.mb) := by
  have hwrite := part_cleared b p js (fun x => x.benchWrite i op) (fun _ => rfl) p
  have hfailed := part_cleared b p js (fun x => x.tokenFailed) (fun x => waitsCleared_tokenFailed js x) p
  have hbytes := part_cleared b p js (fun x => x.entryBytes w) (fun _ => rfl) p
  have htier := part_cleared b p js (fun x => x.benchTier (benchGranules ((b.part p).entryBytes w))) (fun _ => rfl) p
  rw [(front_candidate js hf hroom hready).goes (hu.cleared js), hwrite, hw]
  simp only [hfailed, hwaits, hbytes, htier, Option.isSome_none, Bool.false_eq_true, if_false]
  rfl

end Front

theorem nextFlight_cleared (b : Body) (p i : Nat) (js : List Nat) (op : StreamOp) :
    (nextFlight (b.alterPart p (waitsCleared js)) p i op).stream = i ∧
    (nextFlight (b.alterPart p (waitsCleared js)) p i op).idx = ((b.part p).streams.getD i Stream.reset).pos ∧
    (nextFlight (b.alterPart p (waitsCleared js)) p i op).token =
      mkToken i ((((b.part p).streams.getD i Stream.reset).count + 1) % 2 ^ 30) ∧
    (nextFlight (b.alterPart p (waitsCleared js)) p i op).failed = op.waits.findSome? (b.part p).tokenFailed := by
  have hpos := part_cleared b p js (fun x => (x.streams.getD i Stream.reset).pos) (fun x => waitsCleared_pos js x i) p
  have hcount := part_cleared b p js (fun x => (x.streams.getD i Stream.reset).count) (fun x => waitsCleared_count js x i) p
  have hfailed := part_cleared b p js (fun x => x.tokenFailed) (fun x => waitsCleared_tokenFailed js x) p
  exact ⟨rfl, hpos, congrArg (fun c => mkToken i ((c + 1) % 2 ^ 30)) hcount, congrArg (fun f => op.waits.findSome? f) hfailed⟩

/-! ## The outcomes of a pass -/

section Outcomes

variable {s : State} {h p i : Nat} {op : StreamOp} (errs : List CwError) (hf : IssueFront s.body h p i op)
include hf

/-- R22 to R24: the stream's next operation goes into flight, with a bench entry or without. -/
theorem issuePass_issues (hu : Unheld s.body p i op) (entry : Option BenchEntry)
    (hgo : (s.body.alterPart p (waitsCleared (List.range i))).issueStream (s.body.ownMember s.vault.serial) errs p i =
      ((s.body.alterPart p (waitsCleared (List.range i))).alterPart p (waitsCleared [i])).issueOp (s.body.ownMember s.vault.serial) errs p i
        op entry) : ∃ (t : State) (fl : Flight),
    exec (.issuePass ⟨h, errs⟩) s = .next t ∧ t.vault = s.vault ∧ t.pending = s.pending ∧
    (t.body.part p).flights = (s.body.part p).flights ++ [fl] ∧ fl.stream = i ∧
    fl.idx = ((s.body.part p).streams.getD i Stream.reset).pos ∧
    fl.token = mkToken i ((((s.body.part p).streams.getD i Stream.reset).count + 1) % 2 ^ 30) ∧
    fl.failed = op.waits.findSome? (s.body.part p).tokenFailed ∧
    (t.body.part p).streams.getD i Stream.reset = ⟨((s.body.part p).streams.getD i Stream.reset).pos + 1,
      (((s.body.part p).streams.getD i Stream.reset).count + 1) % 2 ^ 30, none⟩ ∧
    (t.body.part p).pass.bench = (s.body.part p).pass.bench ++ entry.toList ∧
    (∀ q, q ≠ p → t.body.part q = s.body.part q) ∧ t.body.store = s.body.store ∧ t.body.net = s.body.net := by
  rw [cleared_cleared, issueOp_noCollective _ _ _ _ _ _ _ hu.share] at hgo
  obtain ⟨hstream, hidx, htoken, hfailed⟩ := nextFlight_cleared s.body p i (List.range i ++ [i]) op
  generalize nextFlight (s.body.alterPart p (waitsCleared (List.range i ++ [i]))) p i op = fl at hgo hstream hidx htoken hfailed
  obtain ⟨t, hexec, hvault, hpending, hpart, hothers, hbody⟩ := issuePass_of_turn errs
    (fun x => issued i fl entry (waitsCleared (List.range i ++ [i]) x)) hf hgo (alter_alter _ _ _ _)
    ((keepsOthers_waitsCleared i _ _).issued fl entry)
  refine ⟨t, fl, hexec, hvault, hpending, ?_, hstream, hidx, htoken, hfailed, ?_, ?_, hothers, ?_, ?_⟩
  · rw [hpart]
    rfl
  · rw [hpart, waitsCleared_stream_other _ _ _ (not_mem_laterStreams i)]
    refine (setStream_same _ i _ (by rw [waitsCleared_length, hf.streams]; exact hf.stream)).trans ?_
    simp only [waitsCleared_pos, waitsCleared_count]
  · rw [hpart]
    rfl
  · rw [hbody]
    rfl
  · rw [hbody]
    rfl

/-- A pass whose turn changes nothing but its partition. -/
theorem issuePass_changes_part (F : Partition → Partition)
    (hturn : (s.body.alterPart p (waitsCleared (List.range i))).issueStream (s.body.ownMember s.vault.serial) errs p i =
      s.body.alterPart p F) (hF : KeepsOthers i (s.body.part p) (F (s.body.part p))) : ∃ t : State,
    exec (.issuePass ⟨h, errs⟩) s = .next t ∧ t.body.part p = waitsCleared (laterStreams i) (F (s.body.part p)) ∧
    t.body = { s.body with parts := t.body.parts } := by
  obtain ⟨t, hexec, -, -, hpart, -, hbody⟩ := issuePass_of_turn errs F hf hturn rfl hF
  exact ⟨t, hexec, hpart, hbody⟩

/-- R97, R107, R108: with no tier for its bench entry a forward operation holds; the hold's time starts if it is a deadlock. -/
theorem issuePass_benchFull (w : BenchWrite) (hroom : (s.body.part p).hasRoom i = true) (hready : (s.body.part p).ready i op = true)
    (hu : Unheld s.body p i op) (hw : (s.body.part p).benchWrite i op = some w)
    (hwaits : op.waits.findSome? (s.body.part p).tokenFailed = none)
    (htier : (s.body.part p).benchTier (benchGranules ((s.body.part p).entryBytes w)) = none) : ∃ t : State,
    exec (.issuePass ⟨h, errs⟩) s = .next t ∧ (t.body.part p).flights = (s.body.part p).flights ∧
    (t.body.part p).pass.bench = (s.body.part p).pass.bench ∧
    (t.body.part p).pass.benchHold = (if (s.body.part p).freeing = true then none
      else some ((s.body.part p).pass.benchHold.getD (s.body.clock.beat, w.mb))) ∧
    t.body = { s.body with parts := t.body.parts } := by
  have hturn := front_goes_bench (List.range i) (s.body.ownMember s.vault.serial) errs hf hroom hready hu w hw hwaits
  rw [htier, cleared_cleared] at hturn
  obtain ⟨t, hexec, hpart, hbody⟩ := issuePass_changes_part errs hf _
    (hturn.trans (congrArg (fun ps => { s.body with parts := ps }) (alter_alter _ _ _ _))) ((keepsOthers_waitsCleared i _ _).hold _ _)
  refine ⟨t, hexec, by rw [hpart]; rfl, by rw [hpart]; rfl, ?_, hbody⟩
  rw [hpart]
  show (if (waitsCleared _ (s.body.part p)).freeing = true then _ else _) = _
  rw [waitsCleared_freeing]
  rfl

/-- R27 to R29: without room in its window or its quota the stream is as it was. -/
theorem issuePass_noRoom (hroom : (s.body.part p).hasRoom i = false) : ∃ t : State,
    exec (.issuePass ⟨h, errs⟩) s = .next t ∧ (t.body.part p).flights = (s.body.part p).flights ∧
    (t.body.part p).streams.getD i Stream.reset = (s.body.part p).streams.getD i Stream.reset ∧
    t.body = { s.body with parts := t.body.parts } := by
  have hturn := issueStream_noRoom (s.body.ownMember s.vault.serial) errs _ p i op (front_noneWithheld (List.range i) hf)
    (front_next (List.range i) hf) ((part_cleared s.body p (List.range i) (fun x => x.hasRoom i) (fun _ => rfl) p).trans hroom)
  obtain ⟨t, hexec, hpart, hbody⟩ := issuePass_changes_part errs hf _ hturn (keepsOthers_waitsCleared i _ _)
  refine ⟨t, hexec, by rw [hpart]; rfl, ?_, hbody⟩
  rw [hpart, waitsCleared_stream_other _ _ _ (not_mem_laterStreams i), waitsCleared_stream_other _ _ _ (by simp)]

/-- A stream whose waits are complete, and that something else holds, waits no longer. -/
theorem issuePass_holds (hroom : (s.body.part p).hasRoom i = true) (hready : (s.body.part p).ready i op = true)
    (hh : s.body.moduleRoom = false ∨ s.body.recordHold p i = true ∨ s.body.unitsRun p op = false ∨ (s.body.part p).copyWait op = true) :
    ∃ t : State, exec (.issuePass ⟨h, errs⟩) s = .next t ∧ (t.body.part p).flights = (s.body.part p).flights ∧
    (t.body.part p).streams.getD i Stream.reset = { (s.body.part p).streams.getD i Stream.reset with waitSince := none } ∧
    t.body = { s.body with parts := t.body.parts } := by
  have hcopy := part_cleared s.body p (List.range i) (fun x => x.copyWait op) (fun _ => rfl) p
  have hturn := (front_candidate (List.range i) hf hroom hready).holds (own := s.body.ownMember s.vault.serial) (errs := errs)
    (by rw [cleared_moduleRoom, cleared_recordHold, cleared_unitsRun, hcopy]; exact hh)
  rw [cleared_cleared] at hturn
  obtain ⟨t, hexec, hpart, hbody⟩ := issuePass_changes_part errs hf _ hturn (keepsOthers_waitsCleared i _ _)
  refine ⟨t, hexec, by rw [hpart]; rfl, ?_, hbody⟩
  rw [hpart, waitsCleared_stream_other _ _ _ (not_mem_laterStreams i), waitsCleared_stream, if_pos (by simp)]

/-- R26: with a bounded wait outstanding its time goes on, or starts at this beat. -/
theorem issuePass_waits (hroom : (s.body.part p).hasRoom i = true) (hready : (s.body.part p).ready i op = false)
    (hb : s.body.boundedWait p i op = true) : ∃ t : State,
    exec (.issuePass ⟨h, errs⟩) s = .next t ∧ (t.body.part p).flights = (s.body.part p).flights ∧
    (t.body.part p).streams.getD i Stream.reset = { (s.body.part p).streams.getD i Stream.reset with
      waitSince := some (((s.body.part p).streams.getD i Stream.reset).waitSince.getD s.body.clock.beat) } ∧
    t.body = { s.body with parts := t.body.parts } := by
  have hturn := issueStream_waits (s.body.ownMember s.vault.serial) errs _ p i op (front_noneWithheld (List.range i) hf)
    (front_next (List.range i) hf) ((part_cleared s.body p (List.range i) (fun x => x.hasRoom i) (fun _ => rfl) p).trans hroom)
    ((part_cleared s.body p (List.range i) (fun x => x.ready i op) (fun x => waitsCleared_ready _ x i op) p).trans hready)
    ((cleared_boundedWait s.body p (List.range i) i op).trans hb)
  have hstream := part_cleared s.body p (List.range i) (fun x => x.streams.getD i Stream.reset)
    (fun x => waitsCleared_stream_other (List.range i) x i (by simp)) p
  rw [hstream] at hturn
  obtain ⟨t, hexec, hpart, hbody⟩ := issuePass_changes_part errs hf _
    (hturn.trans (congrArg (fun ps => { s.body with parts := ps }) (alter_alter _ _ _ _))) ((keepsOthers_waitsCleared i _ _).setStream _)
  refine ⟨t, hexec, by rw [hpart]; rfl, ?_, hbody⟩
  rw [hpart, waitsCleared_stream_other _ _ _ (not_mem_laterStreams i),
    setStream_same _ i _ (by rw [waitsCleared_length, hf.streams]; exact hf.stream), waitsCleared_stream_other _ _ _ (by simp)]
  rfl

end Outcomes

/-- R29, R290: without its ISSUE keeper the half issues nothing. -/
theorem issuePass_noKeeper (v : Vault) (h : Nat) (errs : List CwError) (b : Body) (hk : b.roleRuns (4 * h + 1) = false) :
    b.issuePass v h errs = b := by
  simp only [Body.issuePass, hk, Bool.not_false, Bool.true_or, if_true]

/-- Settles O40: the front stream's turn decides the pass; its outcomes are those of `Body.issueStream`, one by one. -/
theorem issuePass : Obligations.IssuePass := by
  refine ⟨fun s h p i op errs hf hroom hmod hready hrec hunits hcoll hcopy hw => ?_,
    fun s h p tier gs op w errs hf hroom hmod hready hrec hunits hcoll hcopy hw hwaits htier => ?_,
    fun s h p op w errs hf hroom hmod hready hrec hunits hcopy hcoll hw hwaits htier => ?_,
    fun s h p i op errs hf hroom => issuePass_noRoom errs hf hroom,
    fun s h p i op errs hf hroom hready hh => issuePass_holds errs hf hroom hready hh,
    fun s h p i op errs hf hroom hready hb => issuePass_waits errs hf hroom hready hb, fun s h errs hh hk => ?_⟩
  · have hu : Unheld s.body p i op := ⟨hmod, hrec, hunits, hcopy, hcoll⟩
    obtain ⟨t, fl, hexec, hvault, hpending, hflights, hstream, hidx, htoken, hfailed, hgone, -, hothers, hstore, hnet⟩ :=
      issuePass_issues errs hf hu none (front_goes_plain _ _ errs hf hroom hready hu hw)
    exact ⟨t, fl, hexec, hvault, hpending, hflights, hstream, hidx, htoken, hfailed, hgone, hothers, hstore, hnet⟩
  · have hu : Unheld s.body p 0 op := ⟨hmod, hrec, hunits, hcopy, hcoll⟩
    have hgo := front_goes_bench (List.range 0) (s.body.ownMember s.vault.serial) errs hf hroom hready hu w hw hwaits
    rw [show (s.body.part p).benchTier (benchGranules ((s.body.part p).entryBytes w)) = some (tier, gs) from htier] at hgo
    obtain ⟨t, fl, hexec, hvault, hpending, hflights, hstream, -, -, hfailed, -, hbench, hothers, hstore, hnet⟩ :=
      issuePass_issues errs hf hu _ hgo
    exact ⟨t, fl, hexec, hvault, hpending, hflights, hstream, hfailed.trans hwaits, hbench, hothers, hstore, hnet⟩
  · exact issuePass_benchFull errs hf w hroom hready ⟨hmod, hrec, hunits, hcopy, hcoll⟩ hw hwaits htier
  · rw [exec_issuePass s h errs hh, issuePass_noKeeper _ _ _ _ hk]

end Sys2Proof.Proofs
end

section
/-!
PROOFS. The completion of an operation (02, R23, R24, R29, R437; 05, R98, R113): what it ends in its partition, that it ends the same
whatever its payload, and the bytes that a copy moves.
-/

namespace Sys2Proof.Proofs

open Sys2Proof Sys2Proof.Machine Sys2Proof.Laws

/-! ## The partition's side of a completion -/

@[simp] theorem freeBench_board (x : Partition) (op : StreamOp) : (x.freeBench op).board = x.board := by
  unfold Partition.freeBench
  split <;> rfl

@[simp] theorem freeBench_flights (x : Partition) (op : StreamOp) : (x.freeBench op).flights = x.flights := by
  unfold Partition.freeBench
  split <;> rfl

/-- R98: the entry that the operation frees is gone. -/
theorem freeBench_bench (x : Partition) (op : StreamOp) (block mb : Nat) (hf : op.frees = some (block, mb)) :
    ∀ e ∈ (x.freeBench op).pass.bench, ¬(e.block = block ∧ e.mb = mb) := by
  intro e he
  simp only [Partition.freeBench, hf, List.mem_filter, Bool.not_eq_true', decide_eq_false_iff_not] at he
  exact he.2

@[simp] theorem markStep_board (x : Partition) (step flags : Nat) : (x.markStep step flags).board = x.board := by
  unfold Partition.markStep
  split <;> rfl

@[simp] theorem markStep_flights (x : Partition) (step flags : Nat) : (x.markStep step flags).flights = x.flights := by
  unfold Partition.markStep
  split <;> rfl

@[simp] theorem markStep_bench (x : Partition) (step flags : Nat) : (x.markStep step flags).pass.bench = x.pass.bench := by
  unfold Partition.markStep
  split <;> rfl

/-- R23, R29, R98: what of an operation's partition is another once it has completed. -/
structure Ended (x y : Partition) (fl : Flight) (op : StreamOp) (kind : Option Nat) : Prop where
  bit : y.bit? fl.token = some ⟨fl.token, kind⟩
  board : ∀ d, d.token ≠ fl.token → (d ∈ y.board ↔ d ∈ x.board)
  flights : y.flights = x.flights.filter (fun f => f.token != fl.token)
  bench : ∀ block mb, op.frees = some (block, mb) → ∀ e ∈ y.pass.bench, ¬(e.block = block ∧ e.mb = mb)

/-- The token's bit set, the operation out of flight, its bench entry freed and its flags gathered. -/
def ended (fl : Flight) (op : StreamOp) (kind : Option Nat) (step flags : Nat) (x : Partition) : Partition :=
  ({ (x.complete fl.token kind).freeBench op with
    flights := ((x.complete fl.token kind).freeBench op).flights.filter (fun f => f.token != fl.token) }).markStep step flags

/-- Whatever becomes of its snapshots. -/
theorem ended_with_snap (fl : Flight) (op : StreamOp) (kind : Option Nat) (step flags : Nat) (x : Partition) (sn : Snap) :
    Ended x { ended fl op kind step flags x with snap := sn } fl op kind where
  bit := by
    show (ended fl op kind step flags x).board.find? _ = _
    simp [ended, Partition.complete]
  board d hd := by
    show d ∈ (ended fl op kind step flags x).board ↔ _
    simp only [ended, markStep_board, freeBench_board, Partition.complete, List.mem_cons, List.mem_filter, bne_iff_ne]
    constructor
    · rintro (rfl | ⟨hmem, -⟩)
      · exact absurd rfl hd
      · exact hmem
    · exact fun hmem => .inr ⟨hmem, hd⟩
  flights := by
    show (ended fl op kind step flags x).flights = _
    simp only [ended, markStep_flights, freeBench_flights]
    rfl
  bench block mb hf := by
    show ∀ e ∈ (ended fl op kind step flags x).pass.bench, _
    simp only [ended, markStep_bench]
    exact freeBench_bench _ op block mb hf

/-! ## The rest of a completion -/

/-- `c` is `b` but for the snapshots of partition `p`, records and what units show: memory and all else of the partitions is the same. -/
structure SameWork (p : Nat) (b c : Body) : Prop where
  part : ∃ sn, c.part p = { b.part p with snap := sn }
  others : ∀ q, q ≠ p → c.part q = b.part q
  store : c.store = b.store

theorem SameWork.refl (p : Nat) (b : Body) : SameWork p b b := ⟨⟨(b.part p).snap, rfl⟩, fun _ _ => rfl, rfl⟩

theorem SameWork.trans {p : Nat} {b c d : Body} (h : SameWork p b c) (k : SameWork p c d) : SameWork p b d := by
  obtain ⟨sn, hc⟩ := h.part
  obtain ⟨sn', hd⟩ := k.part
  exact ⟨⟨sn', by rw [hd, hc]⟩, fun q hq => (k.others q hq).trans (h.others q hq), k.store.trans h.store⟩

/-- What leaves partitions and memory alone. -/
theorem SameWork.of_eq {p : Nat} {b c : Body} (hparts : c.parts = b.parts) (hstore : c.store = b.store) : SameWork p b c := by
  have hpart : ∀ q, c.part q = b.part q := fun q => by rw [Body.part, Body.part, hparts]
  exact ⟨⟨(b.part p).snap, hpart p⟩, fun q _ => hpart q, hstore⟩

/-- R351: the copy of a layer goes into the snapshot that is being made. -/
theorem copyLayer_sameWork (b : Body) (p layer step : Nat) : SameWork p b (b.copyLayer p layer step) := by
  unfold Body.copyLayer
  split
  · split
    · refine ⟨?_, fun q hq => alterPart_other b p q _ hq, rfl⟩
      rw [alterPart_part]
      split
      · exact ⟨_, rfl⟩
      · exact ⟨(b.part p).snap, rfl⟩
    · exact .refl p b
  · exact .refl p b

/-- R318: a record goes into a ring, with attention bits. -/
theorem putRecord_sameWork (b : Body) (p i : Nat) (c : CplRecord) : SameWork p b (b.putRecord i c) := by
  obtain ⟨bits, hform⟩ := ringAttention_form (b.alterRing i (fun r => r.put b.host.pcieUp c)) i
  rw [Body.putRecord, hform]
  exact .of_eq rfl rfl

theorem refreshUnits_sameWork (b : Body) (p : Nat) : SameWork p b b.refreshUnits := .of_eq rfl rfl

/-- A completion is `ended` in its partition, with the copy of a layer and the record where there are any. -/
theorem completeFlight_sameWork (b : Body) (p : Nat) (fl : Flight) (op : StreamOp) (kind : Option Nat) (flags : Nat) (invalid : List Nat)
    (hop : (b.part p).op? fl = some op) (hvalid : (if kind.isNone then b.putValidity p op invalid else b) = b) :
    SameWork p (b.alterPart p (ended fl op kind ((b.part p).stepOf op) (opFlags ((b.part p).stage? op) op flags invalid)))
      (b.completeFlight p fl kind flags invalid) := by
  unfold Body.completeFlight
  simp only [hop, hvalid]
  refine .trans ?_ (refreshUnits_sameWork _ p)
  have hcopy : ∀ c : Body, SameWork p c (match op.payload with
      | .update layer => c.copyLayer p layer ((b.part p).stepOf op)
      | _ => c) := fun c => by
    split
    · exact copyLayer_sameWork c p _ _
    · exact .refl p c
  split
  · exact .trans (hcopy _) (putRecord_sameWork _ p p _)
  · exact hcopy _

/-- R23, R29, R98: an operation completes; no other partition and no memory changes with that. -/
theorem completeFlight_ended (b : Body) (p : Nat) (fl : Flight) (op : StreamOp) (kind : Option Nat) (flags : Nat) (invalid : List Nat)
    (hlen : p < b.parts.length) (hop : (b.part p).op? fl = some op)
    (hvalid : (if kind.isNone then b.putValidity p op invalid else b) = b) :
    Ended (b.part p) ((b.completeFlight p fl kind flags invalid).part p) fl op kind ∧
    (∀ q, q ≠ p → (b.completeFlight p fl kind flags invalid).part q = b.part q) ∧
    (b.completeFlight p fl kind flags invalid).store = b.store := by
  have hsame := completeFlight_sameWork b p fl op kind flags invalid hop hvalid
  obtain ⟨sn, hpart⟩ := hsame.part
  rw [alterPart_same b p _ hlen] at hpart
  refine ⟨?_, fun q hq => (hsame.others q hq).trans (alterPart_other b p q _ hq), hsame.store⟩
  rw [hpart]
  exact ended_with_snap fl op kind _ _ (b.part p) sn

/-! ## What a copy moves -/

/-- The place lies in the infield or the outfield: its own bytes, and no bank, are what an operation meets there. -/
def InField (l : Loc) : Prop := l.space = .infield ∨ l.space = .outfield

theorem places_inField (x : Partition) (l : Loc) (n : Nat) (hl : InField l) : x.places l n = [(l, n)] := by
  rcases hl with h | h <;> simp [Partition.places, h]

theorem bankOffsets_inField (ps : List (Loc × Nat)) (h : ∀ l ∈ ps, InField l.1) : bankOffsets ps = [] := by
  unfold bankOffsets
  rw [List.flatMap_eq_nil_iff.2 (fun l hl => ?_)]
  · rfl
  · rcases h l hl with h | h <;> simp [h]

/-- R206: no bank in RETAIN is woken. -/
theorem wakePlaces_inField (b : Body) (p : Nat) (ps : List (Loc × Nat)) (h : ∀ l ∈ ps, InField l.1) : b.wakePlaces p ps = b := by
  simp only [Body.wakePlaces, bankOffsets_inField ps h]
  rfl

/-- R206, R210: an address above LIMIT is all that could be met. -/
theorem accessFault_inField (b : Body) (p : Nat) (rs ws : List (Loc × Nat)) (h : ∀ l ∈ rs ++ ws, InField l.1)
    (hmap : b.unmappedAt p (rs ++ ws) = none) : b.accessFault p rs ws = none := by
  simp only [Body.accessFault, Body.badBanks, Body.bankOutside, bankOffsets_inField (rs ++ ws) h, hmap, List.filterMap_nil,
    List.filter_nil, List.any_nil, Bool.false_eq_true, if_false, Option.map_none]

theorem readLoc_inField (b : Body) (p a n : Nat) (l : Loc) (hl : InField l) (hs : (b.part p).spans l n = [(a, n)]) :
    b.readLoc p l n = b.store.bytes a n := by
  rcases hl with h | h <;> simp [Body.readLoc, h, hs]

theorem writeLoc_inField (b : Body) (p d : Nat) (l : Loc) (vs : List Byte) (hl : InField l)
    (hs : (b.part p).spans l vs.length = [(d, vs.length)]) :
    b.writeLoc p l vs = { b with store := b.store.writeBytes d vs } := by
  rcases hl with h | h <;> simp [Body.writeLoc, h, hs, Store.writeRuns]

theorem bytes_length (s : Store) (a n : Nat) : (s.bytes a n).length = n := by simp [Store.bytes]

theorem bytes_getD (s : Store) (a n i : Nat) (hi : i < n) : (s.bytes a n).getD i 0 = s.byte (a + i) := by simp [Store.bytes, hi]

/-- Bytes of one place written to another read there as they read before. -/
theorem copy_byte (s : Store) (a d n : Nat) :
    (∀ i, i < n → (s.writeBytes d (s.bytes a n)).byte (d + i) = s.byte (a + i)) ∧
    (∀ x, ¬(d ≤ x ∧ x < d + n) → (s.writeBytes d (s.bytes a n)).byte x = s.byte x) := by
  refine ⟨fun i hi => ?_, fun x hx => ?_⟩
  · rw [writeBytes_byte, bytes_length, if_pos ⟨by omega, by omega⟩, Nat.add_sub_cancel_left, bytes_getD s a n i hi]
  · rw [writeBytes_byte, bytes_length, if_neg hx]

/-- A copy between sound places, with no error met: its source's bytes go to its destination. -/
theorem compute_dma (b : Body) (p n : Nat) (src dst : Loc) (fl : Flight) (op : StreamOp) (hpay : op.payload = .dma src dst n)
    (hbench : op.bench = none) (hstage : ((b.part p).stage? op).isSome = true) (hsrc : InField src) (hdst : InField dst)
    (hmap : b.unmappedAt p [(src, n), (dst, n)] = none) (hpoison : b.poisonAt p src n = false) :
    b.compute p fl op [] [] = Effect.done (b.writeLoc p dst (b.readLoc p src n)) 0 := by
  obtain ⟨st, hst⟩ := Option.isSome_iff_exists.1 hstage
  obtain ⟨f, hfix, -⟩ := Option.bind_eq_some_iff.1 hst
  have hreads : b.opReads p f st op = [(src, n)] := by
    simp [Body.opReads, Body.payloadReads, Body.benchPlaces, hpay, hbench, Partition.planPlaces, places_inField _ _ _ hsrc]
  have hwrites : b.opWrites p f st op = [(dst, n)] := by
    simp [Body.opWrites, Body.payloadWrites, Body.benchPlaces, hpay, hbench, Partition.planPlaces, places_inField _ _ _ hdst]
  have hboth : ∀ l ∈ [(src, n)] ++ [(dst, n)], InField l.1 := by simp [hsrc, hdst]
  have hwake := wakePlaces_inField b p _ hboth
  have hfault := accessFault_inField b p _ _ hboth hmap
  have hmeet : b.meetErrors p [(src, n)] [(dst, n)] [] = b := rfl
  simp only [Body.compute, hfix, hst, hreads, hwrites, hwake, hfault, hmeet, List.any_cons, List.any_nil, hpoison, Bool.or_self,
    Bool.false_eq_true, if_false, Body.carryOut, hpay]
  rfl

/-! ## OPERATION_COMPLETE -/

theorem exec_operationComplete (s : State) (p : Nat) (tok : Token) (errs : List CwError) (hits : List Nat) (hp : p < 4) :
    exec (.operationComplete p tok ⟨errs, hits⟩) s = .next { s with body := s.body.operationComplete p tok errs hits } :=
  onBody_of (decide (p < 4)) s (fun b => b.operationComplete p tok errs hits) (decide_eq_true hp)

/-- R24: a token that is not in flight completes nothing. -/
theorem operationComplete_notInFlight (b : Body) (p : Nat) (tok : Token) (errs : List CwError) (hits : List Nat)
    (hn : ∀ f ∈ (b.part p).flights, f.token ≠ tok) : b.operationComplete p tok errs hits = b := by
  have hfind : (b.part p).flights.find? (fun f => f.token == tok) = none := by simpa [List.find?_eq_none] using hn
  simp only [Body.operationComplete, hfind]

section InFlight

variable {b : Body} {p : Nat} {fl : Flight} {op : StreamOp} (errs : List CwError) (hits : List Nat)
  (hfind : (b.part p).flights.find? (fun f => f.token == fl.token) = some fl) (hop : (b.part p).op? fl = some op)
include hfind hop

/-- R113: an addition waits for those of lower micro-batches into its bucket. -/
theorem operationComplete_addsBefore (ha : (b.part p).addsBefore op = true) : b.operationComplete p fl.token errs hits = b := by
  simp only [Body.operationComplete, hfind, hop, ha, Bool.or_true, if_true]

/-- R437: one that has failed carries out nothing. -/
theorem operationComplete_failed (k : Nat) (hf : fl.failed = some k) (hu : b.unitsRun p op = true)
    (ha : (b.part p).addsBefore op = false) :
    b.operationComplete p fl.token errs hits = b.completeFlight p fl (some k) fl.flags fl.invalid := by
  simp only [Body.operationComplete, hfind, hop, hu, ha, hf, Body.finishFlight, Bool.not_true, Bool.or_self, Bool.false_eq_true, if_false]

/-- One that is no collective and has not failed is carried out, and completes as that went. -/
theorem operationComplete_carriedOut (hf : fl.failed = none) (hc : collectiveOf op = none) (hu : b.unitsRun p op = true)
    (ha : (b.part p).addsBefore op = false) :
    b.operationComplete p fl.token errs hits = b.finishFlight p fl op errs hits := by
  simp only [Body.operationComplete, hfind, hop, hu, ha, hf, hc, Bool.not_true, Bool.or_self, Bool.false_eq_true, if_false]

end InFlight

/-- A sound copy has written its bytes, and completes well. -/
theorem finishFlight_dma (b : Body) (p n a d : Nat) (src dst : Loc) (fl : Flight) (op : StreamOp) (hf : fl.failed = none)
    (hpay : op.payload = .dma src dst n) (hbench : op.bench = none) (hstage : ((b.part p).stage? op).isSome = true) (hsrc : InField src)
    (hdst : InField dst) (hfrom : (b.part p).spans src n = [(a, n)]) (hto : (b.part p).spans dst n = [(d, n)])
    (hmap : b.unmappedAt p [(src, n), (dst, n)] = none) (hpoison : b.poisonAt p src n = false) :
    b.finishFlight p fl op [] [] =
      ({ b with store := b.store.writeBytes d (b.store.bytes a n) } : Body).completeFlight p fl none (0 ||| fl.flags) (fl.invalid ++ []) := by
  have hwrite := writeLoc_inField b p d dst (b.store.bytes a n) hdst (by rw [bytes_length]; exact hto)
  simp only [Body.finishFlight, hf, compute_dma b p n src dst fl op hpay hbench hstage hsrc hdst hmap hpoison,
    readLoc_inField b p a n src hsrc hfrom, hwrite, Effect.done, Option.isNone_none, if_true, Body.keepEntry, hbench]

/-- Settles O42: every completion ends in `completeFlight`, whose effect on the partition is `Ended`. -/
theorem operationCompletes : Obligations.OperationCompletes := by
  refine ⟨fun s p k fl op errs hits hp hlen hfind hop hf hu ha => ?_,
    fun s p n a d block mb src dst fl op hp hlen hfind hop hf hu hpay hbench hfrees hstage hspace hfrom hto hmap hpoison => ?_,
    fun s p tok errs hits hp hn => ?_, fun s p fl op errs hits hp hfind hop ha => ?_⟩
  · obtain ⟨hended, hothers, hstore⟩ := completeFlight_ended s.body p fl op (some k) fl.flags fl.invalid hlen hop rfl
    refine ⟨_, exec_operationComplete s p fl.token errs hits hp, rfl, rfl, ?_⟩
    dsimp only
    rw [operationComplete_failed errs hits hfind hop k hf hu ha]
    exact ⟨hended.bit, hended.board, hended.flights, hended.bench, hothers, hstore⟩
  · have ha : (s.body.part p).addsBefore op = false := by simp only [Partition.addsBefore, hpay]
    have hc : collectiveOf op = none := by simp only [collectiveOf, hpay]
    have hvalid : ({ s.body with store := s.body.store.writeBytes d (s.body.store.bytes a n) } : Body).putValidity p op (fl.invalid ++ []) =
        { s.body with store := s.body.store.writeBytes d (s.body.store.bytes a n) } := by simp only [Body.putValidity, hpay]
    obtain ⟨hended, hothers, hstore⟩ := completeFlight_ended
      { s.body with store := s.body.store.writeBytes d (s.body.store.bytes a n) } p fl op none (0 ||| fl.flags) (fl.invalid ++ [])
      hlen hop hvalid
    obtain ⟨hcopied, hkept⟩ := copy_byte s.body.store a d n
    refine ⟨_, exec_operationComplete s p fl.token [] [] hp, rfl, rfl, ?_⟩
    dsimp only
    rw [operationComplete_carriedOut [] [] hfind hop hf hc hu ha, finishFlight_dma s.body p n a d src dst fl op hf hpay hbench hstage
      (hspace src (by simp)) (hspace dst (by simp)) hfrom hto hmap hpoison, hstore]
    exact ⟨hcopied, hkept, hended.bit, hended.flights, hended.bench block mb hfrees, hothers⟩
  · rw [exec_operationComplete s p tok errs hits hp, operationComplete_notInFlight s.body p tok errs hits hn]
  · rw [exec_operationComplete s p fl.token errs hits hp, operationComplete_addsBefore errs hits hfind hop ha]

end Sys2Proof.Proofs
end

section
/-!
PROOFS. Stops of pitches and engines, and tiles that fail (03, R65, R68, R71; 08, R195): what a stop does to a unit is read from the unit's
state, and the blocks that a flush writes out change nothing that the end of the flush is counted by.
-/

namespace Sys2Proof.Proofs

open Sys2Proof Sys2Proof.Machine Sys2Proof.Laws

/-! ## The rows -/

theorem exec_pitchStop (s : State) (i : Nat) (hi : i < 4) : exec (.pitchStop i) s = .next { s with
    body := if s.body.fenced (i / 2) then s.body else s.body.alterPitch i (fun x => x.stop s.body.clock.now) } :=
  onBody_of (decide (i < 4)) s (fun b => if b.fenced (i / 2) then b else b.alterPitch i (fun x => x.stop b.clock.now)) (decide_eq_true hi)

theorem exec_pitchStopComplete (s : State) (i : Nat) (blocks : List (Token × Nat)) (hi : i < 4) :
    exec (.pitchStopComplete ⟨i, blocks⟩) s = .next { s with body := s.body.pitchStopEnds i blocks } :=
  onBody_of (decide (i < 4)) s (fun b => b.pitchStopEnds i blocks) (decide_eq_true hi)

theorem exec_vectorStop (s : State) (e : Nat) (burst : Bool) (he : e < 4) : exec (.vectorStop ⟨e, burst⟩) s = .next { s with
    body := if s.body.fenced (e / 2) then s.body
      else s.body.alterEngine e (fun x => x.stop s.body.clock.now (burst && (s.body.vectorFlight e).isSome)) } :=
  onBody_of (decide (e < 4)) s (fun b => if b.fenced (e / 2) then b
    else b.alterEngine e (fun x => x.stop b.clock.now (burst && (b.vectorFlight e).isSome))) (decide_eq_true he)

theorem exec_tileFailed (s : State) (i row col : Nat) (hi : i < 4) (hrow : row < 33) (hcol : col < 32) :
    exec (.tileFailed i row col) s = .next { s with body := s.body.tileFailed i row col } :=
  onBody_of (decide (i < 4) && decide (row < 33) && decide (col < 32)) s (fun b => b.tileFailed i row col) (by simp [hi, hrow, hcol])

/-! ## A unit by its number -/

theorem pitch_of_getElem? (b : Body) (i : Nat) (x : Pitch) (h : b.pitches[i]? = some x) : b.pitch i = x := by
  simp [Body.pitch, List.getD_eq_getElem?_getD, h]

theorem engine_of_getElem? (b : Body) (i : Nat) (x : Engine) (h : b.engines[i]? = some x) : b.engine i = x := by
  simp [Body.engine, List.getD_eq_getElem?_getD, h]

/-- What a change makes of the one pitch that it changes is all that counts. -/
theorem alterPitch_congr (b : Body) (i : Nat) (f g : Pitch → Pitch) (h : f (b.pitch i) = g (b.pitch i)) :
    b.alterPitch i f = b.alterPitch i g :=
  congrArg (fun ps => { b with pitches := ps }) (alter_congr i f g b.pitches (fun x hx => pitch_of_getElem? b i x hx ▸ h))

theorem alterPitch_id (b : Body) (i : Nat) (f : Pitch → Pitch) (h : f (b.pitch i) = b.pitch i) : b.alterPitch i f = b :=
  congrArg (fun ps => { b with pitches := ps }) (alter_id i f b.pitches (fun x hx => pitch_of_getElem? b i x hx ▸ h))

theorem alterEngine_congr (b : Body) (i : Nat) (f g : Engine → Engine) (h : f (b.engine i) = g (b.engine i)) :
    b.alterEngine i f = b.alterEngine i g :=
  congrArg (fun es => { b with engines := es }) (alter_congr i f g b.engines (fun x hx => engine_of_getElem? b i x hx ▸ h))

theorem alterEngine_id (b : Body) (i : Nat) (f : Engine → Engine) (h : f (b.engine i) = b.engine i) : b.alterEngine i f = b :=
  congrArg (fun es => { b with engines := es }) (alter_id i f b.engines (fun x hx => engine_of_getElem? b i x hx ▸ h))

/-! ## A stop request, by the state of its unit (R65, R68, R195) -/

theorem pitch_stop_begins (now : Nat) (x : Pitch) (h : x.state = .idle ∨ x.state = .running) :
    x.stop now = { x with state := .stopping, stopAt := now, resume := false } := by
  rcases h with h | h <;> simp only [Pitch.stop, h]

theorem pitch_stop_joins (now : Nat) (x : Pitch) (h : x.state = .stopping) : x.stop now = { x with resume := false } := by
  simp only [Pitch.stop, h]

theorem pitch_stop_stopped (now : Nat) (x : Pitch) (h : x.state = .stopped) : x.stop now = x := by
  simp only [Pitch.stop, h]

theorem engine_stop_atOnce (now : Nat) (x : Engine) (h : x.state = .idle ∨ x.state = .running) : x.stop now false = x.stopped now := by
  rcases h with h | h <;> simp [Engine.stop, h]

theorem engine_stop_afterBurst (now : Nat) (x : Engine) (h : x.state = .idle ∨ x.state = .running) :
    x.stop now true = { x with state := .stopping, stopAt := now, resume := false } := by
  rcases h with h | h <;> simp only [Engine.stop, h, if_true]

theorem engine_stop_joins (now : Nat) (burst : Bool) (x : Engine) (h : x.state = .stopping) :
    x.stop now burst = { x with resume := false } := by
  simp only [Engine.stop, h]

theorem engine_stop_stopped (now : Nat) (burst : Bool) (x : Engine) (h : x.state = .stopped) : x.stop now burst = x := by
  simp only [Engine.stop, h]

/-! ## A unit in service -/

/-- A stop request to a pitch in service is a change of that pitch alone. -/
theorem pitchStop_inService (s : State) (i : Nat) (f : Pitch → Pitch) (hi : i < 4) (hf : s.body.fenced (i / 2) = false)
    (hstop : (s.body.pitch i).stop s.body.clock.now = f (s.body.pitch i)) :
    exec (.pitchStop i) s = .next { s with body := { s.body with pitches := alter i f s.body.pitches } } := by
  rw [exec_pitchStop s i hi, hf, if_neg Bool.false_ne_true, alterPitch_congr s.body i _ f hstop]
  rfl

theorem vectorStop_inService (s : State) (e : Nat) (burst : Bool) (f : Engine → Engine) (he : e < 4)
    (hf : s.body.fenced (e / 2) = false)
    (hstop : (s.body.engine e).stop s.body.clock.now (burst && (s.body.vectorFlight e).isSome) = f (s.body.engine e)) :
    exec (.vectorStop ⟨e, burst⟩) s = .next { s with body := { s.body with engines := alter e f s.body.engines } } := by
  rw [exec_vectorStop s e burst he, hf, if_neg Bool.false_ne_true, alterEngine_congr s.body e _ f hstop]
  rfl

/-- R71: a pitch that loses a tile is asked to stop. -/
def losesTile (now : Nat) (t : Nat × Nat) (x : Pitch) : Pitch := { x.stop now with unrepaired := x.unrepaired ++ [t] }

/-- R71: a tile not known to have failed, of a pitch in service, is reported. -/
theorem tileFailed_inService (s : State) (i row col : Nat) (f : Pitch → Pitch) (hi : i < 4) (hrow : row < 33) (hcol : col < 32)
    (hf : s.body.fenced (i / 2) = false) (hl : (s.body.pitch i).lost (row, col) = false) (hd : (s.body.pitch i).dead = false)
    (hlost : losesTile s.body.clock.now (row, col) (s.body.pitch i) = f (s.body.pitch i)) : exec (.tileFailed i row col) s = .next { s with
        body := (s.body.alterPitch i f).raise tPitch i .contained kTileFailed (row + col * 256) } := by
  rw [exec_tileFailed s i row col hi hrow hcol, ← alterPitch_congr s.body i _ f hlost]
  simp only [Body.tileFailed, hf, hl, hd, Bool.or_self, Bool.false_eq_true, if_false]
  rfl

/-! ## What the end of a flush is counted by -/

/-- A pitch without its stationary banks. -/
def bare (x : Pitch) : Pitch := { x with sb := [], mxScale := [], active := [] }

/-- A partition whatever blocks its operations in flight have written. -/
def unprogressed (x : Partition) : Partition := { x with flights := x.flights.map (fun fl => { fl with blocks := 0, flags := 0 }) }

/-- From `b` to `c` blocks are written: memory, engines' registers and stationary banks change, and operations in flight note how far they
are. -/
structure Flushes (b c : Body) : Prop where
  clock : c.clock = b.clock
  pitches : c.pitches.map bare = b.pitches.map bare
  parts : c.parts.map unprogressed = b.parts.map unprogressed

theorem Flushes.refl (b : Body) : Flushes b b := ⟨rfl, rfl, rfl⟩

theorem Flushes.trans {b c d : Body} (h : Flushes b c) (k : Flushes c d) : Flushes b d :=
  ⟨k.clock.trans h.clock, k.pitches.trans h.pitches, k.parts.trans h.parts⟩

theorem Flushes.foldl {α : Type} (f : Body → α → Body) (hf : ∀ b a, Flushes b (f b a)) (as : List α) (b : Body) :
    Flushes b (as.foldl f b) := by
  induction as generalizing b with
  | nil => exact .refl b
  | cons a as ih => exact (hf b a).trans (ih _)

theorem map_alter {α β : Type} (g : α → β) (f : α → α) (hf : ∀ x, g (f x) = g x) (i : Nat) (xs : List α) :
    (alter i f xs).map g = xs.map g := by
  unfold alter
  apply List.ext_getElem?
  intro j
  rw [List.getElem?_map, List.getElem?_modify, List.getElem?_map]
  by_cases hij : i = j <;> cases xs[j]? <;> simp [hij, hf]

/-- R57: a load changes the banks alone. -/
theorem bare_load (x : Pitch) (rd : ReadDir) (r : Rect) (h : Held) : bare (x.load rd r h) = bare x := by
  unfold Pitch.load
  dsimp only
  split <;> rfl

theorem loadRect_flushes (b : Body) (p : Nat) (st : Stage) (rd : ReadDir) (h : Held) : Flushes b (b.loadRect p st rd h) := by
  refine ⟨rfl, map_alter bare _ (fun x => ?_) _ b.pitches, rfl⟩
  generalize h.loads rd ((b.part p).stageRect st).1 = ks
  induction ks generalizing x with
  | nil => rfl
  | cons k ks ih => exact (ih _).trans (bare_load x rd _ k)

theorem writeLoc_flushes (b : Body) (p : Nat) (l : Loc) (vs : List Byte) : Flushes b (b.writeLoc p l vs) := by
  obtain ⟨st, es, hform⟩ := writeLoc_form b p l vs
  rw [hform]
  exact ⟨rfl, rfl, rfl⟩

theorem runProduct_flushes (b : Body) (x : ProdCtx) (rd : ReadDir) (a : Mat) (s : Stationary) (out : Loc)
    (mask : Nat → Nat → List Bool) : Flushes b (b.runProduct x rd a s out mask).body := by
  cases s with
  | load m => exact (writeLoc_flushes b x.part _ _).trans (loadRect_flushes _ x.part x.stage rd _)
  | left t rows cols => exact writeLoc_flushes b x.part _ _

theorem runConv_flushes (b : Body) (x : ProdCtx) (c : ConvShape) (rd : ReadDir) (a w : Mat) (out : Loc) (grad : Bool)
    (mask : Nat → Nat → List Bool) : Flushes b (b.runConv x c rd a w out grad mask).body :=
  (writeLoc_flushes b x.part _ _).trans (loadRect_flushes _ x.part x.stage rd _)

theorem alterFlight_flushes (b : Body) (p m flags : Nat) (tok : Token) :
    Flushes b (b.alterPart p (fun y => y.alterFlight tok (fun f => { f with blocks := m, flags := f.flags ||| flags }))) := by
  refine ⟨rfl, rfl, map_alter unprogressed _ (fun x => ?_) p b.parts⟩
  simp only [unprogressed, Partition.alterFlight, List.map_map]
  congr 2
  funext fl
  simp only [Function.comp_apply]
  split <;> rfl

/-- R65 step 3: the blocks of an operation are written out, or it is passed over. -/
theorem writeBlocks_flushes (i p : Nat) (b : Body) (d : Token × Nat) : Flushes b (b.writeBlocks i p d) := by
  unfold Body.writeBlocks
  dsimp only
  split
  · exact .refl b
  · split
    · exact .refl b
    · split
      · exact .refl b
      · split
        · split
          · exact .refl b
          · refine .trans ?_ (alterFlight_flushes _ p _ _ _)
            split
            · exact runProduct_flushes b _ _ _ _ _ _
            · exact runConv_flushes b _ _ _ _ _ _ _ _
            · exact .refl b
        · exact .refl b

/-! ## What a flush leaves -/

section AfterFlush

variable {b c : Body} (h : Flushes b c)
include h

/-- What of a pitch is read alike without its banks is as before. -/
theorem Flushes.pitch {α : Type} (k : Pitch → α) (hk : ∀ x, k (bare x) = k x) (i : Nat) : k (c.pitch i) = k (b.pitch i) := by
  have hbare : bare (c.pitch i) = bare (b.pitch i) := by
    simpa [Body.pitch, List.getD_map] using congrArg (fun xs => xs.getD i (bare Pitch.reset)) h.pitches
  rw [← hk, hbare, hk]

theorem Flushes.pitches_length : c.pitches.length = b.pitches.length := by simpa using congrArg List.length h.pitches

theorem Flushes.part {α : Type} (k : Partition → α) (hk : ∀ x, k (unprogressed x) = k x) (p : Nat) : k (c.part p) = k (b.part p) := by
  have hpart : unprogressed (c.part p) = unprogressed (b.part p) := by
    simpa [Body.part, List.getD_map] using congrArg (fun xs => xs.getD p (unprogressed Partition.reset)) h.parts
  rw [← hk, hpart, hk]

/-- The operations in flight are placed on the pitches that they were placed on. -/
theorem Flushes.busy (i : Nat) : c.parts.any (fun x => x.busyPitch i) = b.parts.any (fun x => x.busyPitch i) := by
  have hbusy : (fun x : Partition => x.busyPitch i) = (fun x => x.busyPitch i) ∘ unprogressed := by
    funext x
    simp only [Function.comp_apply, Partition.busyPitch, unprogressed, List.any_map]
    rfl
  rw [hbusy, ← List.any_map, h.parts, List.any_map]

end AfterFlush

/-! ## PITCH_STOP_COMPLETE -/

/-- The completed blocks of operations in flight on pitch `i`, written out partition by partition. -/
def flushed (i : Nat) (blocks : List (Token × Nat)) (b : Body) : Body :=
  (List.range 4).foldl (fun (c : Body) p => blocks.foldl (Body.writeBlocks i p) c) b

theorem flushed_flushes (i : Nat) (blocks : List (Token × Nat)) (b : Body) : Flushes b (flushed i blocks b) :=
  .foldl _ (fun c p => .foldl _ (writeBlocks_flushes i p) blocks c) _ b

/-- The flush of a pitch that stops ends. -/
theorem pitchStopEnds_stopping (b : Body) (i : Nat) (blocks : List (Token × Nat)) (hf : b.fenced (i / 2) = false)
    (hs : (b.pitch i).state = .stopping) : b.pitchStopEnds i blocks =
      ((flushed i blocks b).alterPitch i (fun x =>
        x.stopEnds (flushed i blocks b).clock.now ((flushed i blocks b).unwrittenOn i))).refreshUnits := by
  simp only [Body.pitchStopEnds, hf, hs, ne_eq, not_true_eq_false, decide_false, Bool.or_self, Bool.false_eq_true, if_false]
  rfl

/-- R65: a flush with no blocks to write out. -/
theorem pitchStopComplete_nothing (s : State) (i : Nat) (f : Pitch → Pitch) (hi : i < 4) (hf : s.body.fenced (i / 2) = false)
    (hs : (s.body.pitch i).state = .stopping)
    (hends : (s.body.pitch i).stopEnds s.body.clock.now (s.body.unwrittenOn i) = f (s.body.pitch i)) :
    exec (.pitchStopComplete ⟨i, []⟩) s =
      .next { s with body := Body.refreshUnits { s.body with pitches := alter i f s.body.pitches } } := by
  have hnone : flushed i [] s.body = s.body := rfl
  rw [exec_pitchStopComplete s i [] hi, pitchStopEnds_stopping s.body i [] hf hs, hnone, alterPitch_congr s.body i _ f hends]
  rfl

theorem pitchStopEnds_other (b : Body) (i : Nat) (blocks : List (Token × Nat))
    (h : (b.pitch i).state ≠ .stopping ∨ b.fenced (i / 2) = true) : b.pitchStopEnds i blocks = b := by
  rcases h with h | h <;> simp [Body.pitchStopEnds, h]

/-- R65, R68, R72: what the end of a flush makes of its pitch. -/
theorem stopEnds_stopping (now : Nat) (un : List (Nat × Nat)) (x : Pitch) (h : x.state = .stopping) : x.stopEnds now un =
    { x with state := if x.resume = true then .idle else .stopped, resume := false, stops := (x.stops + 1) % 2 ^ 32,
             maxNs := max x.maxNs (now - x.stopAt), unwritten := un } := by
  simp only [Pitch.stopEnds, h]
  rfl

theorem refreshUnits_pitch (b : Body) (i : Nat) (hi : i < b.pitches.length) : b.refreshUnits.pitch i =
    { b.pitch i with state := nextState (b.pitch i).state (b.parts.any (fun x => x.busyPitch i)) } := by
  rw [Body.pitch, Body.refreshUnits, zipIdx_map_getD, if_pos hi]
  rfl

/-- The pitch whose flush has ended, with its counts and what it had not written. -/
theorem pitchStopEnds_pitch (b : Body) (i : Nat) (blocks : List (Token × Nat)) (hi : i < b.pitches.length)
    (hf : b.fenced (i / 2) = false) (hs : (b.pitch i).state = .stopping) :
    ((b.pitch i).resume = false → ((b.pitchStopEnds i blocks).pitch i).state = .stopped) ∧
    ((b.pitch i).resume = true →
      ((b.pitchStopEnds i blocks).pitch i).state = nextState .idle (b.parts.any (fun x => x.busyPitch i))) ∧
    ((b.pitchStopEnds i blocks).pitch i).resume = false ∧
    ((b.pitchStopEnds i blocks).pitch i).stops = ((b.pitch i).stops + 1) % 2 ^ 32 ∧
    ((b.pitchStopEnds i blocks).pitch i).maxNs = max (b.pitch i).maxNs (b.clock.now - (b.pitch i).stopAt) ∧
    ((b.pitchStopEnds i blocks).pitch i).unwritten = (b.pitchStopEnds i blocks).unwrittenOn i := by
  have hflush := flushed_flushes i blocks b
  have hlen : i < (flushed i blocks b).pitches.length := hflush.pitches_length ▸ hi
  have hstate := hflush.pitch (fun x => x.state) (fun _ => rfl) i
  have hresume := hflush.pitch (fun x => x.resume) (fun _ => rfl) i
  have hstops := hflush.pitch (fun x => x.stops) (fun _ => rfl) i
  have hmax := hflush.pitch (fun x => x.maxNs) (fun _ => rfl) i
  have hat := hflush.pitch (fun x => x.stopAt) (fun _ => rfl) i
  rw [pitchStopEnds_stopping b i blocks hf hs, refreshUnits_pitch _ i (by simpa [Body.alterPitch] using hlen), alterPitch_pitch,
    if_pos ⟨rfl, hlen⟩, stopEnds_stopping _ _ _ (hstate.trans hs)]
  dsimp only
  rw [hresume, hstops, hmax, hat, hflush.clock, alterPitch_parts, hflush.busy i]
  exact ⟨fun hr => by rw [hr]; rfl, fun hr => by rw [hr]; rfl, rfl, rfl, rfl, rfl⟩

/-- Every other pitch shows what it works on, as before. -/
theorem pitchStopEnds_otherPitch (b : Body) (i j : Nat) (blocks : List (Token × Nat)) (hji : j ≠ i) (hj : j < b.pitches.length)
    (hf : b.fenced (i / 2) = false) (hs : (b.pitch i).state = .stopping) :
    ((b.pitchStopEnds i blocks).pitch j).state = nextState (b.pitch j).state (b.parts.any (fun x => x.busyPitch j)) := by
  have hflush := flushed_flushes i blocks b
  have hlen : j < (flushed i blocks b).pitches.length := hflush.pitches_length ▸ hj
  rw [pitchStopEnds_stopping b i blocks hf hs, refreshUnits_pitch _ j (by simpa [Body.alterPitch] using hlen), alterPitch_pitch,
    if_neg (fun hc => hji hc.1.symm), alterPitch_parts, hflush.busy j]
  exact congrArg (fun st => nextState st _) (hflush.pitch (fun x => x.state) (fun _ => rfl) j)

/-- R65: operations stay in flight, streams and tokens as they are. -/
theorem pitchStopEnds_part (b : Body) (i p : Nat) (blocks : List (Token × Nat)) (hf : b.fenced (i / 2) = false)
    (hs : (b.pitch i).state = .stopping) :
    ((b.pitchStopEnds i blocks).part p).flights.map (·.token) = (b.part p).flights.map (·.token) ∧
    ((b.pitchStopEnds i blocks).part p).streams = (b.part p).streams ∧
    ((b.pitchStopEnds i blocks).part p).board = (b.part p).board := by
  have hflush := flushed_flushes i blocks b
  rw [pitchStopEnds_stopping b i blocks hf hs]
  exact ⟨hflush.part (fun x => x.flights.map (·.token)) (fun x => by simp [unprogressed]) p,
    hflush.part (fun x => x.streams) (fun _ => rfl) p, hflush.part (fun x => x.board) (fun _ => rfl) p⟩

/-- Settles O39: each row does to a unit in service what its state says, and the end of a flush is counted by what the flush leaves. -/
theorem unitStops : Obligations.UnitStops := by
  refine ⟨fun s i hi hf hs => ?_, fun s i hi hf hs => ?_, fun s i hi h => ?_, fun s i hi hf hs => ?_,
    fun s i blocks hi hlen hf hs => ?_, fun s i blocks hi h => ?_, fun s e burst he hf hs hb => ?_, fun s e he hf hs hv => ?_,
    fun s e burst he hf hs => ?_, fun s e burst he h => ?_, fun s i row col hi hrow hcol hf hl hd hs => ?_,
    fun s i row col hi hrow hcol hf hl hd hs => ?_, fun s i row col hi hrow hcol hf hl hd hs => ?_⟩
  · exact pitchStop_inService s i _ hi hf (pitch_stop_begins _ _ hs)
  · exact pitchStop_inService s i _ hi hf (pitch_stop_joins _ _ hs)
  · rw [exec_pitchStop s i hi]
    rcases h with hs | hf
    · rw [alterPitch_id _ i _ (pitch_stop_stopped _ _ hs), ite_self]
    · rw [if_pos hf]
  · exact pitchStopComplete_nothing s i _ hi hf hs (stopEnds_stopping _ _ _ hs)
  · obtain ⟨hstop, hresume, hoff, hstops, hmax, hun⟩ := pitchStopEnds_pitch s.body i blocks hlen hf hs
    exact ⟨_, exec_pitchStopComplete s i blocks hi, rfl, rfl, hstop, hresume, hoff, hstops, hmax, hun,
      fun j hji hj => pitchStopEnds_otherPitch s.body i j blocks hji hj hf hs, fun p => pitchStopEnds_part s.body i p blocks hf hs⟩
  · rw [exec_pitchStopComplete s i blocks hi, pitchStopEnds_other s.body i blocks h]
  · have hnone : (burst && (s.body.vectorFlight e).isSome) = false := by
      cases burst with
      | false => rfl
      | true => rw [hb rfl]; rfl
    exact vectorStop_inService s e burst _ he hf (by rw [hnone]; exact engine_stop_atOnce _ _ hs)
  · have hsome : (s.body.vectorFlight e).isSome = true := Option.isSome_iff_ne_none.2 hv
    exact vectorStop_inService s e true _ he hf (by rw [hsome]; exact engine_stop_afterBurst _ _ hs)
  · exact vectorStop_inService s e burst _ he hf (engine_stop_joins _ _ _ hs)
  · rw [exec_vectorStop s e burst he]
    rcases h with hs | hf
    · rw [alterEngine_id _ e _ (engine_stop_stopped _ _ _ hs), ite_self]
    · rw [if_pos hf]
  · exact tileFailed_inService s i row col _ hi hrow hcol hf hl hd (by rw [losesTile, pitch_stop_begins _ _ hs])
  · exact tileFailed_inService s i row col _ hi hrow hcol hf hl hd (by rw [losesTile, pitch_stop_joins _ _ hs])
  · exact tileFailed_inService s i row col _ hi hrow hcol hf hl hd (by rw [losesTile, pitch_stop_stopped _ _ hs])

end Sys2Proof.Proofs
end

section
/-!
PROOFS. FIXTURE_RETIRE beside a full ORDERED buffer (Table 13.5; 09, R214 to R216, log 97): the retired partition's window leaves the buffer,
an add of another partition that was held back for want of room is taken, and it enters memory within the row of the retirement.
-/

namespace Sys2Proof.Proofs

open Sys2Proof Sys2Proof.Machine Sys2Proof.Laws

/-! ## A full buffer and an add that it holds back -/

/-- The image of a fixture without work of its own. -/
def idleImage : FixtureImage where
  header := ⟨fixtureMagic, 3, 0xB, 4096, 1, 1, 1, 0, 0, true⟩
  sections := []
  signer := some 2
  hash := 5
  stages := []
  plan := ⟨0, 0, none, [], ⟨.outfield, 0⟩, 0⟩
  fwd := []
  bwd := []
  upd := []
  groups := []
  tensors := []
  buckets := []
  pools := []
  listRegions := []
  windows := []
  demands := ⟨0, 0, 0, 0, 0, 2048, 0, [], []⟩
  earlyWindow := 0
  blocks := []
  firstStep := 0
  microBatches := []

/-- A partition whose fixture is STOPPED, with 2 KiB of the outfield from an address. -/
def stoppedAt (pitch addr : Nat) : Partition :=
  { Partition.reset with pitches := [pitch], fix := some idleImage, fstate := .stopped, grant := ⟨[], [], [⟨addr, 2048⟩], [], 0⟩ }

/-- 2 KiB of INT64 zeros for partition 0's place, from one of 513 sources (R214). -/
def earlyAdd (source : Nat) : AddReq := ⟨outfieldBase, .int64, .int64, List.replicate 256 0, true, source, 513, true, 0, 1, []⟩

/-- One INT64 for partition 1's place, on the same controller, from its only source. -/
def lateAdd : AddReq := ⟨outfieldBase + 8 * 2048, .int64, .int64, [1], true, 0, 1, true, 1, 1, []⟩

/-- Partition 0's window has the adds of 512 of its 513 sources: 1 MiB, the whole buffer of its controller (R215). Ring 0 has been told of one
entry. -/
def fullBuffer : State where
  pending := []
  vault := Vault.reset
  body := { Body.reset with
    boot := { Boot.reset with start := .ready, step := 9, inputOk := true, standby := true, rails := true, tested := true },
    clock := { Clock.reset with refPresent := true, band := .locked, beat := 100, beatNs := 100000 },
    rings := List.replicate 5 { Ring.reset with enable := true, tail := 1 },
    store := { Store.reset with windows := [⟨outfieldBase / 2048, 513, 99, (List.range 512).map earlyAdd⟩] },
    parts := [stoppedAt 0 outfieldBase, stoppedAt 1 (outfieldBase + 8 * 2048), Partition.reset, Partition.reset] }

/-- The module after partition 1's add has reached the controller. -/
def heldBack : State := { fullBuffer with body := fullBuffer.body.memoryAdd lateAdd }

/-- The entry of ring 0, for partition 0. -/
def retireHdr : Hdr := ⟨0, 0, 7, false⟩

/-- R215: the buffer has no room for it, so the add waits and memory is as it was. -/
theorem lateAdd_held : exec (.memorySideAdd lateAdd) fullBuffer = .next heldBack ∧
    heldBack.body.store.heldAdds = [lateAdd] ∧ heldBack.body.store.cells = [] :=
  ⟨onBody_of (addFormats lateAdd.fmt lateAdd.inFmt) fullBuffer (fun b => b.memoryAdd lateAdd) rfl, by decide +kernel, by decide +kernel⟩

/-! ## The retirement -/

theorem heldBack_ringReady : RingReady heldBack.body retireHdr where
  wf := by decide +kernel
  rsvd := rfl
  serves := by decide +kernel
  pcie := by decide +kernel
  idle := by decide +kernel
  on := by decide +kernel
  unread := by decide +kernel
  noHeld := by decide +kernel
  room := by decide +kernel
  ahead := by decide +kernel
  reads := by decide +kernel

/-- Bytes in memory after a row, where it answers a state. -/
def memoryAfter : Host.Outcome State Fault Refusal → Memory
  | .next t => t.body.store.cells
  | _ => []

/-- Partition 0's window is gone with its fixture (R216); partition 1's add is taken, completes its own window, and is applied (R214). -/
theorem memoryAfter_retire : memoryAfter (exec (.fixtureRetire retireHdr) heldBack) = [(outfieldBase + 8 * 2048, 1)] := by decide +kernel

/-- Refutes O2: its fourth clause has FIXTURE_RETIRE leave memory as it is, but from `heldBack` the buffer space that the row releases lets
partition 1's add into memory. -/
theorem not_fixtureStates : ¬ Obligations.FixtureStates := by
  rintro ⟨-, -, -, hretire⟩
  obtain ⟨-, -, hempty⟩ := lateAdd_held
  obtain ⟨t, hexec, -, -, -, -, -, -, hkept, -⟩ := hretire heldBack retireHdr heldBack_ringReady ⟨by decide, rfl⟩ (by decide +kernel)
    (.inr (by decide +kernel)) (by decide +kernel) (by decide +kernel)
  have hwritten := memoryAfter_retire
  rw [hexec, memoryAfter, hkept, hempty] at hwritten
  exact List.cons_ne_nil _ _ hwritten.symm

end Sys2Proof.Proofs
end

section
/-!
PROOFS. A verdict whose waiting snapshot no longer fits (05, R120; 15, R354, R361): the cut that the verdict would take is dropped, and the
`SNAPSHOT` command that asked for it gets its record behind the STEP record, in the same ring.
-/

namespace Sys2Proof.Proofs

open Sys2Proof Sys2Proof.Machine Sys2Proof.Laws

/-- The UPDATE of layer 0 in the step after the first. -/
def laterUpdate : StreamOp where
  step := 1
  mb := 0
  stage := 0
  layer := 0
  waits := []
  payload := .update 0
  reported := false
  bench := none
  frees := none
  uses := ⟨false, false, []⟩
  arrival := false

/-- `SNAPSHOT` of partition 0 by ring 0, to the buddy alone, which waits for a verdict. -/
def buddyRequest : Active := ⟨0, 0, 7, .snapshot 2 0, true, none⟩

/-- Partition 0 trains; its one bucket has a reduced status, which is FINITE. The rulebook in force names no buddy, where the one under which
the request was accepted did (R354 lets no other wait). -/
def snapshotDue : State where
  pending := []
  vault := Vault.reset
  body := { Body.reset with
    boot := { Boot.reset with start := .ready, step := 9, inputOk := true, standby := true, rails := true, tested := true }
    active := [buddyRequest]
    rings := List.replicate 5 { Ring.reset with enable := true, open_ := 1 }
    parts := { Partition.reset with
      pitches := [0]
      fix := some { idleImage with upd := [laterUpdate] }
      fstate := .running
      pass := { Pass.reset with buckets := [⟨0, 0, some 0, false, none⟩] }
      snap := { Snap.reset with waiting := some ⟨2, 0, true⟩ } } :: List.replicate 3 Partition.reset }

theorem snapshotDue_verdictReady : VerdictReady snapshotDue.body 0 where
  part := by decide
  ready := by decide +kernel
  noVerify := rfl
  noBound := rfl
  noRun := rfl
  noHeld := rfl
  room := by decide +kernel

/-- Opcodes of the records written into ring 0 after a row, where it answers a state. -/
def recordsAfter : Host.Outcome State Fault Refusal → List Nat
  | .next t => (t.body.ring 0).written.map (·.opcode)
  | _ => []

/-- The STEP record (opcode 0), and behind it that of `SNAPSHOT`. -/
theorem recordsAfter_verdict : recordsAfter (exec (.stepVerdict 0) snapshotDue) = [0x00, 0x28] := by decide +kernel

/-- Refutes O44: its first clause has the verdict write the STEP record and no other, but from `snapshotDue` the row also answers the
command whose snapshot it drops. -/
theorem not_stepVerdict : ¬ Obligations.StepVerdict := by
  rintro ⟨hfinite, -, -⟩
  obtain ⟨t, hexec, -, -, -, -, -, -, -, -, -, -, -, -, hwritten, -⟩ := hfinite snapshotDue 0 snapshotDue_verdictReady (by decide +kernel)
  have hrecords := recordsAfter_verdict
  rw [hexec, recordsAfter, hwritten] at hrecords
  exact absurd (congrArg List.length hrecords) (by simp [snapshotDue, Body.ring, Ring.reset])

end Sys2Proof.Proofs
end

section
/-!
PROOFS. Flits that arrive and leave (10, R232 to R237, R247): what sending leaves of a link, and a flit that is taken as the next in sequence.
-/

namespace Sys2Proof.Proofs

open Sys2Proof Sys2Proof.Machine Sys2Proof.Laws

/-! ## What sending leaves of a link -/

/-- R233, R235, R237: sending touches a link's queue and retry buffer, its credits, counts and shares, and nothing else. -/
def Dispatched (g k : Link) : Prop := ∃ tx cr seq un q sv dry, k =
  { g with tx := tx, credits := cr, txSeq := seq, unacked := un, queued := q, served := sv, dryAt := dry }

theorem Dispatched.trans {g k l : Link} : Dispatched g k → Dispatched k l → Dispatched g l := by
  rintro ⟨_, _, _, _, _, _, _, rfl⟩ ⟨_, _, _, _, _, _, _, rfl⟩
  exact ⟨_, _, _, _, _, _, _, rfl⟩

theorem transmit_dispatched (g : Link) (f : Flit) : Dispatched g (g.transmit f) := by
  unfold Link.transmit
  dsimp only
  split <;> exact ⟨_, _, _, _, _, _, _, rfl⟩

theorem flushQueue_dispatched (a : Arb) (n : Nat) (g : Link) : Dispatched g (flushQueue a n g) := by
  induction n generalizing g with
  | zero => exact ⟨_, _, _, _, _, _, _, rfl⟩
  | succ n ih =>
    unfold flushQueue
    split
    · next f _ =>
      dsimp only
      refine .trans ⟨g.tx, g.credits, g.txSeq, g.unacked, g.queued.erase f, _, g.dryAt, rfl⟩ (.trans (transmit_dispatched _ f) (ih _))
    · exact ⟨_, _, _, _, _, _, _, rfl⟩

theorem flush_dispatched (a : Arb) (g : Link) : Dispatched g (g.flush a) :=
  .trans (flushQueue_dispatched a _ g) ⟨_, _, _, _, _, _, _, rfl⟩

/-! ## A flit that is sent leaves or waits -/

/-- Something that SEQ and ACK of a flit have no part in, of flits that take a SEQ. -/
structure Lasting (P : Flit → Prop) : Prop where
  numbered : ∀ f, P f → seqless f.hdr.type = false
  renumbered : ∀ f seq ack, P f → P { f with hdr := { f.hdr with seq := seq, ack := ack } }

/-- A flit of the kind has left unacknowledged, or waits (R233). -/
def Keeps (g : Link) (P : Flit → Prop) : Prop := ∃ f ∈ g.unacked ++ g.queued, P f

theorem transmit_unacked (g : Link) (f : Flit) (h : seqless f.hdr.type = false) : (g.transmit f).unacked =
    g.unacked ++ [{ f with hdr := { f.hdr with seq := g.txSeq, ack := (g.rxSeq + 4095) % 4096 } }] := by
  simp [Link.transmit, h]

theorem transmit_unacked_mem (g : Link) (f x : Flit) (h : x ∈ g.unacked) : x ∈ (g.transmit f).unacked := by
  unfold Link.transmit
  dsimp only
  split
  · exact h
  · exact List.mem_append_left _ h

theorem transmit_queued (g : Link) (f : Flit) : (g.transmit f).queued = g.queued := by
  unfold Link.transmit
  dsimp only
  split <;> rfl

/-- The flit that leaves the queue enters the retry buffer. -/
theorem transmit_keeps {P : Flit → Prop} (hP : Lasting P) (g : Link) (f : Flit) (sv : List Nat) (h : Keeps g P) :
    Keeps ({ g with queued := g.queued.erase f, served := sv }.transmit f) P := by
  obtain ⟨x, hx, hPx⟩ := h
  rcases List.mem_append.1 hx with hun | hq
  · exact ⟨x, List.mem_append_left _ (transmit_unacked_mem _ f x hun), hPx⟩
  · by_cases hxf : x = f
    · subst hxf
      refine ⟨_, List.mem_append_left _ ?_, hP.renumbered x g.txSeq ((g.rxSeq + 4095) % 4096) hPx⟩
      rw [transmit_unacked _ x (hP.numbered x hPx)]
      exact List.mem_append_right _ (List.mem_singleton.2 rfl)
    · refine ⟨x, List.mem_append_right _ ?_, hPx⟩
      rw [transmit_queued]
      exact (List.mem_erase_of_ne hxf).2 hq

theorem flushQueue_keeps {P : Flit → Prop} (hP : Lasting P) (a : Arb) (n : Nat) (g : Link) (h : Keeps g P) :
    Keeps (flushQueue a n g) P := by
  induction n generalizing g with
  | zero => exact h
  | succ n ih =>
    unfold flushQueue
    split
    · next f _ => exact ih _ (transmit_keeps hP g f _ h)
    · exact h

/-- R233, R237: whatever else leaves with it, a flit that is sent has left unacknowledged, or waits. -/
theorem send_keeps {P : Flit → Prop} (hP : Lasting P) (a : Arb) (g : Link) (f : Flit) (hf : P f) : Keeps (g.send a f) P :=
  flushQueue_keeps hP a _ _ ⟨f, by simp, hf⟩

/-! ## What traffic leaves of the module -/

/-- The module with other links and other accepted segments. -/
def rewired (b : Body) (ls : List Link) (ks : List SegKey) : Body := { b with net := { b.net with links := ls, accepted := ks } }

/-- `c` is `b` but for its links and the segments that it has accepted. -/
def Traffic (b c : Body) : Prop := ∃ ls ks, c = rewired b ls ks

theorem Traffic.refl (b : Body) : Traffic b b := ⟨_, _, rfl⟩

theorem Traffic.trans {b c d : Body} : Traffic b c → Traffic c d → Traffic b d := by
  rintro ⟨_, _, rfl⟩ ⟨_, _, rfl⟩
  exact ⟨_, _, rfl⟩

theorem Traffic.foldl {α : Type} (f : Body → α → Body) (hf : ∀ b a, Traffic b (f b a)) (as : List α) (b : Body) :
    Traffic b (as.foldl f b) := by
  induction as generalizing b with
  | nil => exact .refl b
  | cons a as ih => exact .trans (hf b a) (ih (f b a))

theorem alterLink_traffic (b : Body) (l : Nat) (f : Link → Link) : Traffic b (b.alterLink l f) := ⟨_, _, rfl⟩

/-- R246, R247: whichever path a flit takes, links are all that it touches. -/
theorem sendEdge_traffic (b : Body) (own dst : Nat) (f : Flit) : Traffic b (b.sendEdge own dst f) := by
  unfold Body.sendEdge
  split
  · split
    · exact alterLink_traffic b _ _
    · split <;> exact alterLink_traffic b _ _
  · exact .refl b

theorem sendStatus_traffic (b : Body) (own p : Nat) (m : StatusMsg) (dsts : List Nat) : Traffic b (b.sendStatus own p m dsts) :=
  .foldl _ (fun c d => sendEdge_traffic c own d _) dsts b

/-- R246: over an edge whose primary link is UP the flit is given to that link. -/
theorem sendEdge_primary (b : Body) (own dst : Nat) (f : Flit) (e : Edge) (he : b.edge? own dst = some e)
    (hup : (b.link e.primary.outLink).state = .up) :
    b.sendEdge own dst f = b.alterLink e.primary.outLink (fun g => g.send b.arb f) := by
  have hlink : b.linkUp e.primary.outLink = true := by simp [Body.linkUp, hup]
  simp only [Body.sendEdge, he, hlink, if_true, Body.sendFlit]

/-! ## A flit that is the next in sequence -/

/-- R233, R235: an acknowledgement lets waiting flits leave; what the link receives by stays. -/
theorem acked_receives (a : Arb) (g : Link) (h : FlitHdr) :
    (g.acked a h).state = g.state ∧ (g.acked a h).rx = g.rx ∧ (g.acked a h).rxSeq = g.rxSeq := by
  unfold Link.acked Link.acknowledge
  dsimp only
  split
  all_goals
    obtain ⟨_, _, _, _, _, _, _, hform⟩ := flush_dispatched a _
    rw [hform]
    exact ⟨rfl, rfl, rfl⟩

theorem acked_taken (a : Arb) (g : Link) (h : FlitHdr) : (g.acked a h).taken = { g.acked a h with
    rx := (g.rx + 1) % 2 ^ 64, rxSeq := (g.rxSeq + 1) % 4096, nakSent := false,
    rxBase := retryBase ((g.rxSeq + 1) % 4096) (g.acked a h).rxBase } := by
  obtain ⟨-, hrx, hrxSeq⟩ := acked_receives a g h
  rw [← hrx, ← hrxSeq]
  rfl

theorem took_traffic (s : State) (l : Nat) (h : FlitHdr) : Traffic s.body (s.took l h).body := alterLink_traffic _ _ _

/-- R233: taking a flit leaves every link in its state. -/
theorem took_link_state (s : State) (l k : Nat) (h : FlitHdr) : ((s.took l h).body.link k).state = (s.body.link k).state := by
  unfold State.took
  dsimp only
  rw [alterLink_link]
  split
  · exact (acked_receives _ _ _).1
  · rfl

/-- R232, R233: the next flit in sequence, of a type that the row carries, is taken, and the rest of the row acts on what that leaves. -/
theorem receive_taken {s : State} {l code : Nat} {h : FlitHdr} (ht : Taken s l h code) (k : Body → Body) :
    s.body.receive (s.body.ownMember s.vault.serial) l h [code] k = k (s.took l h).body := by
  have hfec : s.body.countFec l h =
      s.body.alterLink l (fun g => { g with fecCorrected := wrap 32 (g.fecCorrected + h.corrected) }) := by
    simp only [Body.countFec, ht.up]
  have hlink := alterLink_same s.body l (fun g => { g with fecCorrected := wrap 32 (g.fecCorrected + h.corrected) }) ht.fitted
  have hgood : (s.body.countFec l h).malformed (s.body.ownMember s.vault.serial) l h = false := by
    rw [← ht.good, hfec]
    simp only [Body.malformed, hlink]
    rfl
  have hstate : carries ((s.body.countFec l h).link l).state = true := by rw [hfec, hlink]; simp [carries, ht.up]
  have hseq : ((s.body.countFec l h).link l).seqStep h.seq = .next := by rw [hfec, hlink]; simp [Link.seqStep, ht.next]
  have hcode : [code].contains h.type = true := by simp [ht.type]
  simp only [Body.receive, Body.receiveIn, hgood, hstate, hseq, hcode, Bool.not_true, Bool.or_self, Bool.false_eq_true, if_false]
  congr 1
  rw [hfec]
  simp only [Body.alterLink, alter_alter, State.took]
  congr 2
  exact alter_congr _ _ _ _ (fun g _ => acked_taken s.body.arb g h)

/-- R247: the first flit of its segment is acted on, and the segment is noted. -/
theorem once_fresh (b : Body) (h : FlitHdr) (k : Body → Body) (hr : b.repeatedSegment h = false) :
    ∃ c, Traffic b c ∧ b.once h k = k c := by
  refine ⟨{ b with net := { b.net with accepted := noteKey b.net.accepted (segKey h) } }, ⟨_, _, rfl⟩, ?_⟩
  rw [Body.once, hr, if_neg Bool.false_ne_true]

end Sys2Proof.Proofs
end

section
/-!
PROOFS. Collectives (10, R248, R251 to R254; 05, R120, R124): statuses, partials, results, and a collective that takes too long.
-/

namespace Sys2Proof.Proofs

open Sys2Proof Sys2Proof.Machine Sys2Proof.Laws

/-! ## The rows -/

/-- R232, R233: a row of one type of flit, for a member of the domain: the flit is taken, and then acted on. -/
theorem row_taken {s : State} {l code own : Nat} {h : FlitHdr} (ht : Taken s l h code) (ho : s.body.ownMember s.vault.serial = some own)
    (k : Nat → Body → Body) :
    onBody (decide (l < 48) && h.wf) s (fun b =>
      b.receive (b.ownMember s.vault.serial) l h [code] (withOwn (b.ownMember s.vault.serial) k)) =
    .next { s with body := k own (s.took l h).body } := by
  rw [onBody_of _ s _ (by simp [ht.link, ht.wf]), receive_taken ht, ho]
  rfl

/-- R247: one whose segments are each acted on once, for the first of its segment. -/
theorem row_taken_once {s : State} {l code own : Nat} {h : FlitHdr} (ht : Taken s l h code)
    (ho : s.body.ownMember s.vault.serial = some own) (hr : s.body.repeatedSegment h = false) (k : Nat → Body → Body) :
    ∃ c, Traffic s.body c ∧ onBody (decide (l < 48) && h.wf) s (fun b =>
      b.receive (b.ownMember s.vault.serial) l h [code] (withOwn (b.ownMember s.vault.serial) (fun o b => b.once h (k o)))) =
    .next { s with body := k own c } := by
  obtain ⟨c, hc, honce⟩ := once_fresh (s.took l h).body h (k own) hr
  exact ⟨c, .trans (took_traffic s l h) hc, by rw [row_taken ht ho, honce]⟩

theorem exec_statusFlit {s : State} {l own : Nat} {h : FlitHdr} (m : StatusMsg) (ht : Taken s l h 0x06)
    (ho : s.body.ownMember s.vault.serial = some own) :
    exec (.statusFlit l h m) s = .next { s with body := (s.took l h).body.statusArrived own h.part (some h.src) m } :=
  row_taken ht ho (fun o b => b.statusArrived o h.part (some h.src) m)

theorem exec_reduceFlit_fresh {s : State} {l own : Nat} {h : FlitHdr} (m : ReduceMsg) (ht : Taken s l h 0x10)
    (ho : s.body.ownMember s.vault.serial = some own) (hr : s.body.repeatedSegment h = false) :
    ∃ c, Traffic s.body c ∧ exec (.reduceFlit l h m) s = .next { s with body := c.reduceArrived own h.part h.src m h.errs } :=
  row_taken_once ht ho hr (fun o b => b.reduceArrived o h.part h.src m h.errs)

theorem exec_resultFlit_fresh {s : State} {l own : Nat} {h : FlitHdr} (m : ResultMsg) (ht : Taken s l h 0x11)
    (ho : s.body.ownMember s.vault.serial = some own) (hr : s.body.repeatedSegment h = false) :
    ∃ c, Traffic s.body c ∧ exec (.resultFlit l h m) s = .next { s with body := c.resultArrived own h.part h.src m h.errs } :=
  row_taken_once ht ho hr (fun o b => b.resultArrived o h.part h.src m h.errs)

theorem exec_collectiveTimeout (s : State) (p : Nat) (tok : Token) (hp : p < 4) :
    exec (.collectiveTimeout p tok) s = .next { s with body := s.body.collectiveTimeout s.vault p tok } :=
  onBody_of (decide (p < 4)) s (fun b => b.collectiveTimeout s.vault p tok) (decide_eq_true hp)

/-! ## STATUS (R120, R124) -/

/-- A bucket that keeps its number is found changed. -/
theorem bucket?_alterBucket (x : Pass) (id : Nat) (f : Bucket → Bucket) (hf : ∀ k, (f k).id = k.id) :
    (x.alterBucket id f).bucket? id = (x.bucket? id).map f := by
  simp only [Pass.bucket?, Pass.alterBucket, List.find?_map]
  have hid : ((fun k : Bucket => decide (k.id = id)) ∘ fun k => if k.id = id then f k else k) = fun k => decide (k.id = id) := by
    funext k
    simp only [Function.comp_apply]
    split
    · rw [hf]
    · rfl
  rw [hid]
  cases hk : x.buckets.find? (fun k => decide (k.id = id)) with
  | none => rfl
  | some k =>
    have hkid := List.find?_some hk
    simp only [decide_eq_true_eq] at hkid
    simp [hkid]

theorem mem_withhold (u : Upd) (step : Nat) : step ∈ (u.withhold step).withheld := by
  unfold Upd.withhold
  split
  · next h => exact List.contains_iff_mem.1 h
  · exact List.mem_cons_self

/-- R120, R124: a partition in which a bucket's reduced status has come; a NONFINITE one withholds the step's remaining updates. -/
def withStatus (m : StatusMsg) (x : Partition) : Partition :=
  { x with pass := x.pass.alterBucket m.hdr.bucket (fun k => { k with reduced := some m.hdr.status }),
           upd := if m.hdr.status % 2 = 1 then x.upd.withhold x.pass.step else x.upd }

theorem takeStatus_reduced (b : Body) (p : Nat) (m : StatusMsg) (hf : m.failed = false) :
    b.takeStatus p m = b.alterPart p (withStatus m) := by
  unfold Body.takeStatus
  simp only [hf, Bool.false_eq_true, if_false, Bool.not_false, Bool.true_and, decide_eq_true_eq]
  rfl

/-- A status that a bucket of the step in progress waits for is taken, and goes on. -/
theorem statusArrived_awaited (b : Body) (own p : Nat) (from_ : Option Nat) (m : StatusMsg) (k : Bucket)
    (hk : (b.part p).pass.bucket? m.hdr.bucket = some k) (hr : k.reduced = none) (hkf : k.failed = false) (hf : m.failed = false)
    (hs : m.hdr.step = (b.part p).pass.step) : Traffic (b.alterPart p (withStatus m)) (b.statusArrived own p from_ m) := by
  have heq : b.statusArrived own p from_ m = (b.takeStatus p m).sendStatus own p m (b.statusOnward own p from_ m.hdr.bucket) := by
    simp [Body.statusArrived, hk, hr, hkf, hs]
  rw [heq, takeStatus_reduced b p m hf]
  exact sendStatus_traffic _ own p m _

/-- One of another step, or of a bucket that is not here, only goes on. -/
theorem statusArrived_elsewhere (b : Body) (own p : Nat) (from_ : Option Nat) (m : StatusMsg)
    (h : m.hdr.step ≠ (b.part p).pass.step ∨ (b.part p).pass.bucket? m.hdr.bucket = none) :
    b.statusArrived own p from_ m = b.sendStatus own p m (b.statusOnward own p from_ m.hdr.bucket) := by
  unfold Body.statusArrived
  dsimp only
  cases hk : (b.part p).pass.bucket? m.hdr.bucket with
  | none => rfl
  | some k =>
    rcases h with hs | hn
    · exact if_pos hs
    · rw [hk] at hn
      cases hn

/-- A status that has not failed: partitions and links alone. -/
theorem statusArrived_form (b : Body) (own p : Nat) (from_ : Option Nat) (m : StatusMsg) (hf : m.failed = false) :
    ∃ f, Traffic (b.alterPart p f) (b.statusArrived own p from_ m) := by
  have hsame : b.alterPart p id = b := by rw [Body.alterPart, alter_id p id b.parts (fun _ _ => rfl)]
  have hsend : ∀ ns, Traffic (b.alterPart p id) (b.sendStatus own p m ns) := fun ns => by
    rw [hsame]
    exact sendStatus_traffic b own p m ns
  unfold Body.statusArrived
  dsimp only
  split
  · split
    · exact ⟨id, hsend _⟩
    · split
      · exact ⟨id, by rw [hsame]; exact .refl b⟩
      · rw [takeStatus_reduced b p m hf]
        exact ⟨_, sendStatus_traffic _ own p m _⟩
  · exact ⟨id, hsend _⟩

/-- What a STATUS flit to neighbour `n` says. -/
def StatusTo (n : Nat) (m : StatusMsg) (f : Flit) : Prop := f.hdr.type = 0x06 ∧ f.hdr.dst = n ∧ f.body = .status m

theorem statusTo_lasting (n : Nat) (m : StatusMsg) : Lasting (StatusTo n m) where
  numbered f hf := by rw [hf.1]; rfl
  renumbered _ _ _ hf := hf

/-- R120: a status for one neighbour leaves by the link to it, or waits there. -/
theorem sendStatus_keeps (b : Body) (own p n : Nat) (m : StatusMsg) (e : Edge) (he : b.edge? own n = some e)
    (hup : (b.link e.primary.outLink).state = .up) :
    Keeps ((b.sendStatus own p m [n]).link e.primary.outLink) (StatusTo n m) := by
  have hlt : e.primary.outLink < b.net.links.length := link_lt b _ (by rw [hup]; decide)
  rw [Body.sendStatus, List.foldl_cons, List.foldl_nil, sendEdge_primary b own n _ e he hup, alterLink_same _ _ _ hlt]
  exact send_keeps (statusTo_lasting n m) _ _ _ ⟨rfl, rfl, rfl⟩

/-! ## Bytes of a collective take their place (R206, R210) -/

/-- The place lies in a memory of the plan: its own bytes are what an operation meets there. -/
def InMemory (l : Loc) : Prop := l.space = .infield ∨ l.space = .outfield ∨ l.space = .scratch

theorem planPlaces_inMemory (x : Partition) (l : Loc) (n : Nat) (hl : InMemory l) : x.planPlaces [(l, n)] = [(l, n)] := by
  rcases hl with h | h | h <;> simp [Partition.planPlaces, Partition.places, h]

theorem writeLoc_inMemory (b : Body) (p : Nat) (l : Loc) (vs : List Byte) (hl : InMemory l) :
    b.writeLoc p l vs = { b with store := b.store.writeRuns ((b.part p).spans l vs.length) vs } := by
  rcases hl with h | h | h <;> simp [Body.writeLoc, h]

/-- R206: a bank that is ON is not woken. -/
theorem wakeBank_on (b : Body) (k : Nat) (h : (b.store.banks.getD k ⟨.unusable, none⟩).state = .on) : b.wakeBank k = b := by
  unfold Body.wakeBank
  split
  · next hret =>
    rw [h] at hret
    cases hret
  · rfl

theorem wakePlaces_on (b : Body) (p n : Nat) (l : Loc) (hl : InMemory l) (h : b.placeOn p l n = true) :
    b.wakePlaces p [(l, n)] = b := by
  rw [Body.placeOn, planPlaces_inMemory _ l n hl, List.all_eq_true] at h
  have hon : ∀ k ∈ (bankOffsets [(l, n)]).filterMap (fun i => (b.part p).grant.banks[i]?), b.wakeBank k = b := fun k hk => by
    obtain ⟨i, hi, hk⟩ := List.mem_filterMap.1 hk
    refine wakeBank_on b k (of_decide_eq_true (h k (List.mem_map.2 ⟨i, hi, ?_⟩)))
    rw [List.getD_eq_getElem?_getD, hk, Option.getD_some]
  exact List.foldlRecOn _ Body.wakeBank (motive := (· = b)) rfl (fun c hc k hk => by rw [hc, hon k hk])

/-- R206, R210: an access is met by nothing where no bank of its places is OFF, UNUSABLE or outside the grant, and every address is mapped. -/
theorem accessFault_isNone (b : Body) (p : Nat) (rs ws : List (Loc × Nat)) : (b.accessFault p rs ws).isNone = true ↔
    b.badBanks p (rs ++ ws) = [] ∧ b.bankOutside p (rs ++ ws) = false ∧ b.unmappedAt p (rs ++ ws) = none := by
  unfold Body.accessFault
  split
  · next h => simp [h]
  · next h => split <;> simp_all

section Access

variable {b c : Body} (hparts : c.parts = b.parts) (hstore : c.store = b.store)
include hparts hstore

/-- What an access meets is read from partitions and memory alone. (Stated over the fields: by `rfl` on two bodies the kernel would evaluate the
interleave limits of R208.) -/
theorem unmappedAt_congr (p : Nat) (ps : List (Loc × Nat)) : c.unmappedAt p ps = b.unmappedAt p ps := by
  unfold Body.unmappedAt Body.part
  rw [hparts, hstore]

theorem accessFault_isNone_congr (p : Nat) (rs ws : List (Loc × Nat)) :
    (c.accessFault p rs ws).isNone = true ↔ (b.accessFault p rs ws).isNone = true := by
  rw [accessFault_isNone, accessFault_isNone, unmappedAt_congr hparts hstore]
  unfold Body.badBanks Body.bankOutside Body.part
  rw [hparts, hstore]

theorem placeOn_congr (p n : Nat) (l : Loc) : c.placeOn p l n = b.placeOn p l n := by
  unfold Body.placeOn Body.part
  rw [hparts, hstore]

/-- A write stores what partitions and memory say. -/
theorem writeLoc_store_congr (p : Nat) (l : Loc) (vs : List Byte) : (c.writeLoc p l vs).store = (b.writeLoc p l vs).store := by
  unfold Body.writeLoc
  split
  · exact hstore
  · unfold Body.part
    rw [hparts, hstore]

end Access

/-- Bytes that meet no bank, address or error go to their place. -/
theorem land_sound (b : Body) (r : Reduction) (off : Nat) (bytes : List Byte) (l : Loc)
    (hl : { r.coll.loc with off := r.coll.loc.off + off } = l) (hm : InMemory l) (hw : b.wakePlaces r.part [(l, bytes.length)] = b)
    (ha : (b.accessFault r.part [] [(l, bytes.length)]).isNone = true) : b.land r off bytes [] = b.writeLoc r.part l bytes := by
  simp only [Body.land, hl, planPlaces_inMemory _ l _ hm, hw, Option.isNone_iff_eq_none.1 ha]
  rfl

/-! ## A node and its children (R251 to R253) -/

/-- A collective to which a child's partial has come. -/
def joined (r : Reduction) (k : Nat) (m : ReduceMsg) : Reduction := { r with partials := r.partials ++ [(k, m)] }

/-- A partial that has not come before joins its collective, and the node sums if it was the last. -/
theorem reduceArrived_joins (b : Body) (own p k : Nat) (m : ReduceMsg) (errs : List CwError) (r : Reduction)
    (hr : b.reductionFor own p k m.hdr = some r) (hnew : ∀ x ∈ r.partials, x.1 = k → x.2.first ≠ m.first) :
    b.reduceArrived own p k m errs = (b.setReduction (joined r k m)).finishNode own (joined r k m) errs := by
  have hany : r.partials.any (fun x => decide (x.1 = k ∧ x.2.first = m.first)) = false := by
    simpa [List.any_eq_false] using hnew
  simp only [Body.reduceArrived, hr, hany, Bool.false_eq_true, if_false]
  rfl

/-- R251: a node waits until every child has delivered. -/
theorem finishNode_waits (b : Body) (own : Nat) (r : Reduction) (errs : List CwError)
    (h : (treeChildren (b.collTree r.coll) own).all r.childDone = false) : b.finishNode own r errs = b := by
  simp only [Body.finishNode, h, Bool.not_false, Bool.true_or, if_true]

/-- The sum of a node with one child (R251, R252). -/
def sumWith (r : Reduction) (m : ReduceMsg) : List Nat × Nat := reduceNode r.values [m.values] (r.hdr.status ||| m.hdr.status)

/-- R251, R252: a root whose one child has delivered in full sums, and finishes. -/
theorem finishNode_root (b : Body) (own k : Nat) (r : Reduction) (m : ReduceMsg) (errs : List CwError) (hs : r.sent = false)
    (hkind : r.coll.kind = .reduceScatter) (hkids : treeChildren (b.collTree r.coll) own = [k])
    (htop : treeParent (b.collTree r.coll) own = none) (hfrom : r.fromChild k = [m]) (hf : m.failed = false)
    (hd : hdrDiffers r.hdr m.hdr = false) (hn : m.hdr.elements ≤ m.values.length) :
    b.finishNode own r errs = b.finishRoot own r (sumWith r m).1 (sumWith r m).2 [k] errs := by
  have hdone : r.childDone k = true := by simp [Reduction.childDone, hfrom, hf, childValues, hn]
  simp [Body.finishNode, hkids, htop, hdone, hs, hfrom, hf, hd, hkind, childValues, sumWith]

/-- R120, R252: a root that passes nothing down writes its sum into its place, and its STATUS arrives at itself first. -/
theorem finishRoot_reduceScatter (b : Body) (own : Nat) (r : Reduction) (vs : List Nat) (status : Nat) (kids : List Nat)
    (errs : List CwError) (hkind : r.coll.kind = .reduceScatter) : b.finishRoot own r vs status kids errs =
      ((b.dropReduction r).land r 0 (vs.flatMap (fun v => leBytes v 2)) errs).statusArrived own r.part none
        ⟨{ r.hdr with status := status }, false⟩ := by
  simp [Body.finishRoot, hkind]

theorem leBytes_length (x n : Nat) : (leBytes x n).length = n := by
  induction n generalizing x with
  | zero => rfl
  | succ n ih => simp [leBytes, ih]

theorem flatMap_leBytes_length (n : Nat) (vs : List Nat) : (vs.flatMap (fun v => leBytes v n)).length = n * vs.length := by
  simp [List.length_flatMap, leBytes_length, Nat.mul_comm]

/-- R120, R252: with its place sound, the reduced data of such a root are in memory, and it has left the engines. -/
theorem finishRoot_sound (b : Body) (own : Nat) (r : Reduction) (vs : List Nat) (status : Nat) (kids : List Nat)
    (hkind : r.coll.kind = .reduceScatter) (hl : InField r.coll.loc)
    (hmap : b.unmappedAt r.part [(r.coll.loc, 2 * vs.length)] = none) :
    (b.finishRoot own r vs status kids []).net.reductions = (b.dropReduction r).net.reductions ∧
    (b.finishRoot own r vs status kids []).store = (b.writeLoc r.part r.coll.loc (vs.flatMap (fun v => leBytes v 2))).store := by
  have hm : InMemory r.coll.loc := hl.imp_right .inl
  have hplace : ∀ x ∈ [] ++ [(r.coll.loc, 2 * vs.length)], InField x.1 := by simpa using hl
  have hwake := wakePlaces_inField (b.dropReduction r) r.part _ hplace
  have hmeet := accessFault_inField (b.dropReduction r) r.part [] _ hplace
    ((unmappedAt_congr (b := b) (c := b.dropReduction r) rfl rfl _ _).trans hmap)
  rw [← flatMap_leBytes_length 2 vs] at hwake hmeet
  rw [finishRoot_reduceScatter b own r vs status kids [] hkind,
    land_sound (b.dropReduction r) r 0 _ r.coll.loc rfl hm hwake (Option.isNone_iff_eq_none.2 hmeet)]
  obtain ⟨f, ls, ks, harrived⟩ := statusArrived_form
    ((b.dropReduction r).writeLoc r.part r.coll.loc (vs.flatMap (fun v => leBytes v 2))) own r.part none
    ⟨{ r.hdr with status := status }, false⟩ rfl
  rw [harrived]
  exact ⟨by rw [writeLoc_inMemory _ _ _ _ hm]; rfl, writeLoc_store_congr (b := b) (c := b.dropReduction r) rfl rfl r.part _ _⟩

/-- A collective that leaves the engines has left whatever it was changed to. -/
theorem dropReduction_setReduction (b : Body) (r : Reduction) : (b.setReduction r).dropReduction r = b.dropReduction r := by
  simp only [Body.dropReduction, Body.setReduction, List.filter_map]
  congr 2
  have hsame : (fun x => !decide (x.part = r.part ∧ x.token = r.token)) ∘
      (fun x => if x.part = r.part ∧ x.token = r.token then r else x) =
      fun x : Reduction => !decide (x.part = r.part ∧ x.token = r.token) := by
    funext x
    by_cases hx : x.part = r.part ∧ x.token = r.token
    · simp [hx]
    · rw [Function.comp_apply, if_neg hx]
  rw [hsame]
  refine (List.map_congr_left (fun x hx => ?_)).trans (List.map_id _)
  have hx := (List.mem_filter.1 hx).2
  simp only [Bool.not_eq_true', decide_eq_false_iff_not] at hx
  exact if_neg hx

/-- The bytes of a sum, element by element. -/
theorem sumWith_bytes (r : Reduction) (m : ReduceMsg) : (sumWith r m).1.flatMap (fun v => leBytes v 2) =
    (r.values.zipIdx.map (fun (v, i) => (reduceElement v [m.values.getD i 0]).1)).flatMap (fun v => leBytes v 2) := by
  simp [sumWith, reduceNode, Function.comp_def]

theorem sumWith_length (r : Reduction) (m : ReduceMsg) : (sumWith r m).1.length = r.values.length := by
  simp [sumWith, reduceNode]

/-! ## RESULT (R252) -/

theorem resultFor_part {b : Body} {own p k : Nat} {n : CollName} {r : Reduction} (h : b.resultFor own p k n = some r) : r.part = p := by
  have hp := List.find?_some h
  simp only [Bool.and_eq_true, decide_eq_true_eq] at hp
  exact hp.1.1.1.1

/-- R252: the bytes of a RESULT take the place of the collective that it names, and go on; the last ends it. -/
theorem resultArrived_named (b : Body) (own p k : Nat) (m : ResultMsg) (errs : List CwError) (r : Reduction)
    (hr : b.resultFor own p k m.coll = some r) (hkind : r.coll.kind ≠ .xsum) : ∃ c, Traffic (b.land r m.addr m.bytes errs) c ∧
      b.resultArrived own p k m errs = if m.last then c.dropReduction r else c := by
  refine ⟨((treeNeighbours (b.collTree r.coll) own).filter (fun n => decide (n ≠ k))).foldl (fun b n => b.sendEdge own n
    ⟨{ ownHdr fResult 1 p own n 0 (m.addr / 240 % 65536) with op := r.op }, .result m⟩) (b.land r m.addr m.bytes errs),
    .foldl _ (fun c n => sendEdge_traffic c own n _) _ _, ?_⟩
  unfold Body.resultArrived
  simp only [hr]

/-! ## COLLECTIVE_TIMEOUT (R248) -/

/-- Where one operation is in flight and meets the condition, it alone completes FAILED. -/
theorem failFlights_only (b : Body) (p kind : Nat) (c : Flight → StreamOp → Bool) (fl : Flight) (op : StreamOp)
    (hfl : (b.part p).flights = [fl]) (hop : (b.part p).op? fl = some op) (hc : c fl op = true) : ∃ rs, b.failFlights p kind c =
      ({ b with net := { b.net with reductions := rs } } : Body).completeFlight p fl (some kind) fl.flags fl.invalid := by
  refine ⟨b.net.reductions.filter (fun r => !(decide (r.part = p) && [fl].any (fun fl => fl.token == r.token))), ?_⟩
  simp only [Body.failFlights, hfl, List.filter_cons, List.filter_nil, hop, hc, if_true, List.foldl_cons, List.foldl_nil]

theorem ended_fstate (fl : Flight) (op : StreamOp) (kind : Option Nat) (step flags : Nat) (x : Partition) :
    (ended fl op kind step flags x).fstate = x.fstate := by
  unfold ended Partition.markStep Partition.freeBench
  split <;> split <;> rfl

/-- A completion leaves the state of the fixture. -/
theorem completeFlight_fstate (b : Body) (p : Nat) (fl : Flight) (op : StreamOp) (kind : Option Nat) (flags : Nat) (invalid : List Nat)
    (hlen : p < b.parts.length) (hop : (b.part p).op? fl = some op)
    (hvalid : (if kind.isNone then b.putValidity p op invalid else b) = b) :
    ((b.completeFlight p fl kind flags invalid).part p).fstate = (b.part p).fstate := by
  obtain ⟨sn, hpart⟩ := (completeFlight_sameWork b p fl op kind flags invalid hop hvalid).part
  rw [hpart, alterPart_same b p _ hlen]
  exact ended_fstate fl op kind _ _ _

/-- A message of a partition leaves partitions and memory alone. -/
theorem raise_partition_sameWork (b : Body) (p k a : Nat) (hp : p < 4) : SameWork p b (b.raise tPartition p .contained k a) := by
  have hslot : ∃ n, pageSlot tPartition p = some n := by interval_cases p <;> exact ⟨_, rfl⟩
  obtain ⟨n, hn⟩ := hslot
  obtain ⟨ps, wh, mf, sc, dv, hform⟩ := raise_contained_form b tPartition p k a n hn
  rw [hform]
  exact .of_eq rfl rfl

/-- R361: the snapshot that is discarded, and the record of its command, are no work of the partition. -/
theorem failSnapshot_sameWork (b : Body) (p kind : Nat) : SameWork p b (b.failSnapshot p kind) := by
  have hdrop : SameWork p b (b.dropSnapshot p) := by
    refine ⟨?_, fun q hq => alterPart_other b p q _ hq, rfl⟩
    rw [Body.dropSnapshot, alterPart_part]
    split
    · exact ⟨_, rfl⟩
    · exact ⟨(b.part p).snap, rfl⟩
  have hend : ∀ c : Body, SameWork p c (c.endSnapshotCmd p stFailed kind) := fun c => by
    unfold Body.endSnapshotCmd
    split
    · next a _ =>
      obtain ⟨f, bits, hform⟩ := finish_form { c with active := c.active.erase a } a.ring a.tag a.cmd stFailed kind .none
      rw [hform]
      exact .of_eq rfl rfl
    · exact .refl p c
  unfold Body.failSnapshot
  split
  · dsimp only
    split
    · exact hdrop.trans (hend _)
    · exact hdrop
  · exact .refl p b

/-- R65, R195: the streams of a RUNNING fixture stop: its state, waits, holds and snapshots change, and nothing else of partitions and memory. -/
theorem stopPartition_running (b : Body) (p : Nat) (hr : (b.part p).fstate = .running) :
    (b.stopPartition p).part p = { b.part p with
      fstate := .stopped, streams := (b.part p).streams.map (fun s => { s with waitSince := none }),
      pass := { (b.part p).pass with benchHold := none }, snap := (b.part p).snap.unsealed } ∧
    (∀ q, q ≠ p → (b.stopPartition p).part q = b.part q) ∧ (b.stopPartition p).store = b.store := by
  have hlen : p < b.parts.length := part_lt b p (by rw [hr]; decide)
  have hfix : (b.stopUnits (b.part p).pitches).setFix p .stopped =
      ((b.stopUnits (b.part p).pitches).alterPart p (fun x => { x with fstate := .stopped })).attention p 1 := by
    have hne : ¬((b.stopUnits (b.part p).pitches).part p).fstate = .stopped := by
      show ¬(b.part p).fstate = .stopped
      rw [hr]
      decide
    rw [Body.setFix, if_neg hne]
  have hset : ∀ q, ((b.stopUnits (b.part p).pitches).setFix p .stopped).part q =
      (b.alterPart p (fun x => { x with fstate := .stopped })).part q := fun q => by rw [hfix]; rfl
  rw [Body.stopPartition, if_pos hr]
  refine ⟨?_, fun q hq => ?_, ?_⟩
  · rw [alterPart_same _ p _ (by rw [hfix]; exact (alter_length p _ b.parts).symm ▸ hlen), hset, alterPart_same b p _ hlen]
  · rw [alterPart_other _ p q _ hq, hset, alterPart_other b p q _ hq]
  · rw [alterPart_store, hfix]
    rfl

/-- R248, R361: after a fault stop the fixture is STOPPED; scoreboard, operations in flight, other partitions and memory are as before. -/
theorem faultStop_running (b : Body) (p kind : Nat) (hr : (b.part p).fstate = .running) :
    ((b.faultStop p kind).part p).fstate = .stopped ∧ ((b.faultStop p kind).part p).board = (b.part p).board ∧
    ((b.faultStop p kind).part p).flights = (b.part p).flights ∧ (∀ q, q ≠ p → (b.faultStop p kind).part q = b.part q) ∧
    (b.faultStop p kind).store = b.store := by
  have hfail := failSnapshot_sameWork b p kind
  obtain ⟨sn, hpart⟩ := hfail.part
  obtain ⟨hstop, hothers, hstore⟩ := stopPartition_running (b.failSnapshot p kind) p (by rw [hpart]; exact hr)
  rw [Body.faultStop, if_pos hr, hstop, hpart]
  exact ⟨rfl, rfl, rfl, fun q hq => (hothers q hq).trans (hfail.others q hq), hstore.trans hfail.store⟩

/-- R248: a collective that is past its limit and not done completes FAILED, with a message, and the streams stop. -/
theorem collectiveTimeout_overdue (v : Vault) (b : Body) (p : Nat) (fl : Flight) (op : StreamOp) (c : Collective)
    (hfl : (b.part p).flights = [fl]) (hop : (b.part p).op? fl = some op) (hc : op.payload = .collective c) (hf : fl.failed = none)
    (hd : b.collectiveDone p fl op c = false) (hl : fl.issuedBeat + b.book.tables.link.collectiveTimeout ≤ b.clock.beat) :
    b.collectiveTimeout v p fl.token = ((b.failFlights p kCollectiveTimeout (fun f _ => f.token == fl.token)).raise
      tPartition p .contained kCollectiveTimeout (b.missingMember ((b.ownMember v.serial).getD 0) p fl.token)).faultStop
        p kCollectiveTimeout := by
  simp only [Body.collectiveTimeout, hfl, List.find?_cons, beq_self_eq_true, hop, collectiveOf, hc, hf, Option.isNone_none, hd, Bool.not_false,
    hl, decide_true, Bool.and_self, if_true]

/-! ## Each outcome -/

/-- R120, R124: a reduced status that a bucket of the step in progress waits for. -/
theorem status_reaches_bucket (s : State) (l own : Nat) (h : FlitHdr) (m : StatusMsg) (k : Bucket) (ht : Taken s l h 0x06)
    (ho : s.body.ownMember s.vault.serial = some own) (hk : (s.body.part h.part).pass.bucket? m.hdr.bucket = some k)
    (hr : k.reduced = none) (hkf : k.failed = false) (hf : m.failed = false) (hs : m.hdr.step = (s.body.part h.part).pass.step)
    (hlen : h.part < s.body.parts.length) : ∃ t : State,
      exec (.statusFlit l h m) s = .next t ∧ t.vault = s.vault ∧ t.pending = s.pending ∧
      t.body.part h.part = withStatus m (s.body.part h.part) ∧ (∀ q, q ≠ h.part → t.body.part q = s.body.part q) ∧
      t.body = { s.body with parts := t.body.parts, net := t.body.net } := by
  obtain ⟨ls, ks, htook⟩ := took_traffic s l h
  obtain ⟨ls', ks', harrived⟩ := statusArrived_awaited (rewired s.body ls ks) own h.part (some h.src) m k hk hr hkf hf hs
  refine ⟨_, exec_statusFlit m ht ho, rfl, rfl, ?_⟩
  dsimp only
  rw [htook, harrived]
  exact ⟨alterPart_same s.body h.part (withStatus m) hlen, fun q hq => alterPart_other s.body h.part q _ hq, rfl⟩

/-- R120, R252: a status that takes no part here goes on to the one other neighbour. -/
theorem status_goes_on (s : State) (l own n : Nat) (h : FlitHdr) (m : StatusMsg) (e : Edge) (ht : Taken s l h 0x06)
    (ho : s.body.ownMember s.vault.serial = some own) (hk : (s.body.part h.part).pass.bucket? m.hdr.bucket = none)
    (hon : s.body.statusOnward own h.part (some h.src) m.hdr.bucket = [n]) (he : s.body.edge? own n = some e)
    (hup : (s.body.link e.primary.outLink).state = .up) : ∃ t : State, exec (.statusFlit l h m) s = .next t ∧
      Keeps (t.body.link e.primary.outLink) (StatusTo n m) ∧ t.body = { s.body with net := t.body.net } := by
  have hrest := statusArrived_elsewhere (s.took l h).body own h.part (some h.src) m (.inr hk)
  have hone : (s.took l h).body.statusOnward own h.part (some h.src) m.hdr.bucket = [n] := hon
  have hkeeps := sendStatus_keeps (s.took l h).body own h.part n m e he ((took_link_state s l _ h).trans hup)
  obtain ⟨ls, ks, hsent⟩ := Traffic.trans (took_traffic s l h) (sendStatus_traffic _ own h.part m [n])
  refine ⟨_, exec_statusFlit m ht ho, ?_⟩
  dsimp only
  rw [hrest, hone]
  exact ⟨hkeeps, by rw [hsent]; rfl⟩

/-- R120, R252: one that no other neighbour is to have is only taken. -/
theorem status_ends_here (s : State) (l own : Nat) (h : FlitHdr) (m : StatusMsg) (ht : Taken s l h 0x06)
    (ho : s.body.ownMember s.vault.serial = some own) (hs : m.hdr.step ≠ (s.body.part h.part).pass.step)
    (hon : s.body.statusOnward own h.part (some h.src) m.hdr.bucket = []) : exec (.statusFlit l h m) s = .next (s.took l h) := by
  have hrest := statusArrived_elsewhere (s.took l h).body own h.part (some h.src) m (.inl hs)
  have hnone : (s.took l h).body.statusOnward own h.part (some h.src) m.hdr.bucket = [] := hon
  rw [exec_statusFlit m ht ho, hrest, hnone]
  rfl

/-- R251: a partial that leaves other children to be waited for joins its collective. -/
theorem partial_waits (s : State) (l own : Nat) (h : FlitHdr) (m : ReduceMsg) (r : Reduction) (ht : Taken s l h 0x10)
    (ho : s.body.ownMember s.vault.serial = some own) (hr : s.body.reductionFor own h.part h.src m.hdr = some r)
    (hfresh : s.body.repeatedSegment h = false) (hnew : ∀ x ∈ r.partials, x.1 = h.src → x.2.first ≠ m.first)
    (hall : (treeChildren (s.body.collTree r.coll) own).all (joined r h.src m).childDone = false) : ∃ t : State,
      exec (.reduceFlit l h m) s = .next t ∧ t.body.net.reductions = (s.body.setReduction (joined r h.src m)).net.reductions ∧
      t.body = { s.body with net := t.body.net } := by
  obtain ⟨c, ⟨ls, ks, rfl⟩, hexec⟩ := exec_reduceFlit_fresh m ht ho hfresh
  have hjoin := reduceArrived_joins (rewired s.body ls ks) own h.part h.src m h.errs r hr hnew
  have hwait := finishNode_waits ((rewired s.body ls ks).setReduction (joined r h.src m)) own (joined r h.src m) h.errs hall
  refine ⟨_, hexec, ?_⟩
  dsimp only
  rw [hjoin, hwait]
  exact ⟨rfl, rfl⟩

/-- R120, R251, R252: at a root, the partial of the only child makes the sum, which becomes the reduced data. -/
theorem root_sums (s : State) (l own : Nat) (h : FlitHdr) (m : ReduceMsg) (r : Reduction) (ht : Taken s l h 0x10)
    (ho : s.body.ownMember s.vault.serial = some own) (hr : s.body.reductionFor own h.part h.src m.hdr = some r)
    (hkind : r.coll.kind = .reduceScatter) (hsent : r.sent = false) (hnone : r.partials = []) (hf : m.failed = false)
    (hd : hdrDiffers r.hdr m.hdr = false) (hkids : treeChildren (s.body.collTree r.coll) own = [h.src])
    (htop : treeParent (s.body.collTree r.coll) own = none) (hn : m.hdr.elements ≤ m.values.length)
    (hfresh : s.body.repeatedSegment h = false) (herrs : h.errs = []) (hspace : InField r.coll.loc)
    (hmap : s.body.unmappedAt r.part [(r.coll.loc, 2 * r.values.length)] = none) : ∃ t : State,
      exec (.reduceFlit l h m) s = .next t ∧ t.body.net.reductions = (s.body.dropReduction r).net.reductions ∧
      t.body.store = (s.body.writeLoc r.part r.coll.loc ((sumWith r m).1.flatMap (fun v => leBytes v 2))).store := by
  obtain ⟨c, ⟨ls, ks, rfl⟩, hexec⟩ := exec_reduceFlit_fresh m ht ho hfresh
  have hjoin := reduceArrived_joins (rewired s.body ls ks) own h.part h.src m h.errs r hr (by simp [hnone])
  have hfrom : (joined r h.src m).fromChild h.src = [m] := by simp [Reduction.fromChild, joined, hnone, insertFirst]
  have hsum := finishNode_root ((rewired s.body ls ks).setReduction (joined r h.src m)) own h.src (joined r h.src m) m h.errs hsent
    hkind hkids htop hfrom hf hd hn
  have hdrop := dropReduction_setReduction (rewired s.body ls ks) (joined r h.src m)
  have hmap' := (unmappedAt_congr (b := s.body) (c := (rewired s.body ls ks).setReduction (joined r h.src m)) rfl rfl _ _).trans hmap
  obtain ⟨hreds, hstore⟩ := finishRoot_sound ((rewired s.body ls ks).setReduction (joined r h.src m)) own (joined r h.src m)
    (sumWith (joined r h.src m) m).1 (sumWith (joined r h.src m) m).2 [h.src] hkind hspace
    (by rw [sumWith_length]; exact hmap')
  refine ⟨_, hexec, ?_⟩
  dsimp only
  rw [hjoin, hsum, herrs, hreds, hstore, hdrop]
  exact ⟨rfl, writeLoc_store_congr (b := s.body) (c := (rewired s.body ls ks).setReduction (joined r h.src m)) rfl rfl r.part _ _⟩

/-- R252: the bytes of a RESULT are in the place of the collective that it names, which the last of them ends. -/
theorem result_takes_place (s : State) (l own : Nat) (h : FlitHdr) (m : ResultMsg) (r : Reduction) (x : Loc) (ht : Taken s l h 0x11)
    (ho : s.body.ownMember s.vault.serial = some own) (hr : s.body.resultFor own h.part h.src m.coll = some r)
    (hkind : r.coll.kind ≠ .xsum) (hx : { r.coll.loc with off := r.coll.loc.off + m.addr } = x) (hm : InMemory x)
    (hfresh : s.body.repeatedSegment h = false) (herrs : h.errs = []) (hon : s.body.placeOn h.part x m.bytes.length = true)
    (hacc : (s.body.accessFault h.part [] [(x, m.bytes.length)]).isNone = true) : ∃ t : State,
      exec (.resultFlit l h m) s = .next t ∧ t.body.store = (s.body.writeLoc h.part x m.bytes).store ∧
      t.body.net.reductions = (if m.last then (s.body.dropReduction r).net.reductions else s.body.net.reductions) ∧
      t.body = { s.body with net := t.body.net, store := t.body.store } := by
  obtain ⟨c, ⟨ls, ks, rfl⟩, hexec⟩ := exec_resultFlit_fresh m ht ho hfresh
  obtain ⟨c, hc, harrived⟩ := resultArrived_named (rewired s.body ls ks) own h.part h.src m h.errs r hr hkind
  have hpart : r.part = h.part := resultFor_part hr
  have hwake := wakePlaces_on (rewired s.body ls ks) h.part m.bytes.length x hm
    ((placeOn_congr (b := s.body) (c := rewired s.body ls ks) rfl rfl _ _ _).trans hon)
  have hmeet := (accessFault_isNone_congr (b := s.body) (c := rewired s.body ls ks) rfl rfl h.part [] _).2 hacc
  rw [← hpart] at hwake hmeet
  rw [herrs, land_sound (rewired s.body ls ks) r m.addr m.bytes x hx hm hwake hmeet, hpart, writeLoc_inMemory _ _ _ _ hm] at hc
  obtain ⟨ls', ks', rfl⟩ := hc
  refine ⟨_, hexec, ?_⟩
  dsimp only
  rw [harrived, writeLoc_inMemory s.body _ _ _ hm]
  cases m.last <;> exact ⟨rfl, rfl, rfl⟩

/-- R252: one that names no collective which is open here waits. -/
theorem result_waits (s : State) (l own : Nat) (h : FlitHdr) (m : ResultMsg) (ht : Taken s l h 0x11)
    (ho : s.body.ownMember s.vault.serial = some own) (hr : s.body.resultFor own h.part h.src m.coll = none)
    (hfresh : s.body.repeatedSegment h = false) : ∃ t : State, exec (.resultFlit l h m) s = .next t ∧
      t.body.net.early = s.body.net.early ++ [⟨h.part, h.src, .result m, h.errs⟩] ∧ t.body = { s.body with net := t.body.net } := by
  obtain ⟨c, ⟨ls, ks, rfl⟩, hexec⟩ := exec_resultFlit_fresh m ht ho hfresh
  have hnone : (rewired s.body ls ks).resultFor own h.part h.src m.coll = none := hr
  refine ⟨_, hexec, ?_⟩
  simp only [Body.resultArrived, hnone]
  exact ⟨rfl, rfl⟩

/-- R248: an overdue collective completes FAILED, and the fixture is STOPPED. -/
theorem collective_times_out (s : State) (p : Nat) (fl : Flight) (op : StreamOp) (c : Collective) (hp : p < 4)
    (hlen : p < s.body.parts.length) (hfl : (s.body.part p).flights = [fl]) (hop : (s.body.part p).op? fl = some op)
    (hpay : op.payload = .collective c) (hf : fl.failed = none) (hd : s.body.collectiveDone p fl op c = false)
    (hl : fl.issuedBeat + s.body.book.tables.link.collectiveTimeout ≤ s.body.clock.beat) (hrun : (s.body.part p).fstate = .running) :
    ∃ t : State, exec (.collectiveTimeout p fl.token) s = .next t ∧
      (t.body.part p).bit? fl.token = some ⟨fl.token, some kCollectiveTimeout⟩ ∧ (t.body.part p).flights = [] ∧
      (t.body.part p).fstate = .stopped ∧ (∀ q, q ≠ p → t.body.part q = s.body.part q) ∧ t.body.store = s.body.store := by
  obtain ⟨rs, hfails⟩ := failFlights_only s.body p kCollectiveTimeout (fun f _ => f.token == fl.token) fl op hfl hop (by simp)
  obtain ⟨hended, hothers, hstore⟩ := completeFlight_ended { s.body with net := { s.body.net with reductions := rs } } p fl op
    (some kCollectiveTimeout) fl.flags fl.invalid hlen hop rfl
  have hstate := completeFlight_fstate { s.body with net := { s.body.net with reductions := rs } } p fl op
    (some kCollectiveTimeout) fl.flags fl.invalid hlen hop rfl
  rw [← hfails] at hended hothers hstore hstate
  have hraise := raise_partition_sameWork (s.body.failFlights p kCollectiveTimeout (fun f _ => f.token == fl.token)) p kCollectiveTimeout
    (s.body.missingMember ((s.body.ownMember s.vault.serial).getD 0) p fl.token) hp
  obtain ⟨sn, hpart⟩ := hraise.part
  obtain ⟨hstopped, hboard, hflights, hothers', hstore'⟩ := faultStop_running _ p kCollectiveTimeout
    (by rw [hpart]; exact hstate.trans hrun)
  refine ⟨_, exec_collectiveTimeout s p fl.token hp, ?_⟩
  dsimp only
  rw [collectiveTimeout_overdue s.vault s.body p fl op c hfl hop hpay hf hd hl]
  refine ⟨?_, ?_, hstopped, fun q hq => ?_, ?_⟩
  · rw [Partition.bit?, hboard, hpart]
    exact hended.bit
  · rw [hflights, hpart]
    exact hended.flights.trans ((congrArg _ hfl).trans (by simp))
  · exact (hothers' q hq).trans ((hraise.others q hq).trans (hothers q hq))
  · exact hstore'.trans (hraise.store.trans hstore)

/-- Settles O51: whatever arrives changes links and accepted segments (`Traffic`), and beside them what its own outcome says. -/
theorem collectives : Obligations.Collectives := by
  refine ⟨fun s l own h m k f ht ho _ hk hr hkf hf hs hlen => ?_, fun s l own h m ht ho hs hon => status_ends_here s l own h m ht ho hs hon,
    fun s l own n h m e ht ho hk hon he hup => status_goes_on s l own n h m e ht ho hk hon he hup,
    fun s l own h m r ht ho hr hfresh hnew hall => partial_waits s l own h m r ht ho hr hfresh hnew hall,
    fun s l own h m r ht ho hr hkind hsent hnone hf hd hkids htop hn _ hfresh herrs hspace hmap => ?_,
    fun s l own h m r ht ho hr hkind hspace hfresh herrs hon hacc =>
      result_takes_place s l own h m r _ ht ho hr hkind rfl hspace hfresh herrs hon hacc,
    fun s l own h m ht ho hr hfresh => result_waits s l own h m ht ho hr hfresh,
    fun s p fl op c hp hlen hfl hop hpay hf hd hl hrun => collective_times_out s p fl op c hp hlen hfl hop hpay hf hd hl hrun⟩
  · obtain ⟨t, hexec, hvault, hqueue, hpart, hothers, hbody⟩ := status_reaches_bucket s l own h m k ht ho hk hr hkf hf hs hlen
    refine ⟨t, hexec, hvault, hqueue, ?_, fun hodd => ?_, fun heven => ?_, by rw [hpart]; rfl, hothers, hbody⟩
    · rw [hpart]
      exact (bucket?_alterBucket _ _ (fun k => { k with reduced := some m.hdr.status }) (fun _ => rfl)).trans (by rw [hk]; rfl)
    · rw [hpart, hs]
      simp only [withStatus, if_pos hodd]
      exact mem_withhold _ _
    · rw [hpart]
      simp only [withStatus, heven, Nat.zero_ne_one, if_false]
  · rw [← sumWith_bytes]
    exact root_sums s l own h m r ht ho hr hkind hsent hnone hf hd hkids htop hn hfresh herrs hspace hmap

end Sys2Proof.Proofs
end

section
/-!
PROOFS. Page lists (07, R167, R171, Table 7.6): LIST_INIT and LIST_RETIRE write the 64 bytes of a header and take the list into the partition's
lists or out of them, unless an operation in flight names it.
-/

namespace Sys2Proof.Proofs

open Sys2Proof Sys2Proof.Machine Sys2Proof.Laws

/-! ## Bytes of a header -/

/-- Bytes stored read back. -/
theorem bytes_writeBytes (s : Store) (a : Nat) (vs : List Byte) : (s.writeBytes a vs).bytes a vs.length = vs := by
  refine List.ext_getElem (bytes_length _ _ _) fun i hi hvs => ?_
  have hread : a ≤ a + i ∧ a + i < a + vs.length := by omega
  simp only [Store.bytes, List.getElem_map, List.getElem_range, writeBytes_byte, if_pos hread, Nat.add_sub_cancel_left]
  exact List.getD_eq_getElem vs 0 hvs

/-- R21: bytes of a place whose addresses are consecutive lie there, and no other byte changes. -/
theorem writeLoc_span (b : Body) (p a : Nat) (l : Loc) (vs : List Byte) (hl : InField l)
    (hs : (b.part p).spans l vs.length = [(a, vs.length)]) : (b.writeLoc p l vs).store.bytes a vs.length = vs ∧
      ∀ x, ¬(a ≤ x ∧ x < a + vs.length) → (b.writeLoc p l vs).store.byte x = b.store.byte x := by
  rw [writeLoc_inField b p a l vs hl hs]
  exact ⟨bytes_writeBytes _ _ _, fun x hx => by rw [writeBytes_byte, if_neg hx]⟩

/-- Table 7.6: a header takes 64 bytes. -/
theorem listHeader_length (gen flags entries cap tokens pool : Nat) : (listHeader gen flags entries cap tokens pool).length = 64 := by
  simp [listHeader, leBytes_length]

/-! ## The partition's lists -/

/-- The list at an offset is one of the partition's, and not lost. -/
def withList (off : Nat) (x : Partition) : Partition :=
  { x with attn := { x.attn with lists := insertRising off x.attn.lists, lostLists := x.attn.lostLists.filter (· != off) } }

/-- The list at an offset is none of the partition's. -/
def withoutList (off : Nat) (x : Partition) : Partition := { x with attn := { x.attn with lists := x.attn.lists.filter (· != off) } }

theorem mem_insertRising_self (x : Nat) (xs : List Nat) : x ∈ insertRising x xs := by
  induction xs with
  | nil => exact List.mem_singleton_self x
  | cons y ys ih =>
    unfold insertRising
    split
    · exact List.mem_cons_self
    · split
      · next heq => exact heq ▸ List.mem_cons_self
      · exact List.mem_cons_of_mem y ih

theorem mem_withList (off : Nat) (x : Partition) : off ∈ (withList off x).attn.lists ∧ off ∉ (withList off x).attn.lostLists :=
  ⟨mem_insertRising_self off x.attn.lists, by simp [withList]⟩

theorem mem_withoutList (off y : Nat) (x : Partition) : y ∈ (withoutList off x).attn.lists ↔ y ∈ x.attn.lists ∧ y ≠ off := by
  simp [withoutList]

/-! ## What the commands do -/

/-- Table 13.4: the arguments with which LIST_INIT meets the fixture that a partition holds. -/
structure MayInit (x : Partition) (img : FixtureImage) (off pool cap car : Nat) : Prop where
  holds : x.holds = true
  fix : x.fix = some img
  inPool : (poolOf img pool).isSome = true
  capLo : 0 < cap
  capHi : cap ≤ 65536
  carousel : car ≤ 1
  fits : listFits img (some pool) off cap = true

/-- R167, R171: whether an operation in flight names the list is all that decides LIST_INIT then. -/
theorem cmdListInit_mayInit (b : Body) (p off pool cap car : Nat) (img : FixtureImage) (hm : MayInit (b.part p) img off pool cap car) :
    cmdListInit p off pool cap car b = if (b.part p).listBusy off then (b, fail stListBusy)
      else ((b.writeLoc p ⟨.infield, off⟩ (listHeader 0 car 0 cap 0 pool)).alterPart p (withList off), ok) := by
  have hpool : (poolOf img pool).isNone = false := by rw [← Option.not_isSome, hm.inPool]; rfl
  have hcap : ¬(cap = 0 ∨ 65536 < cap) := by have := hm.capLo; have := hm.capHi; omega
  simp only [cmdListInit, hm.holds, hm.fix, hm.fits, hpool, hcap, Nat.not_lt_of_le hm.carousel, decide_false, Bool.not_true,
    Bool.or_false, Bool.false_eq_true, if_false]
  rfl

/-- R171: and of LIST_RETIRE, of a list in a page-list region. -/
theorem cmdListRetire_fits (b : Body) (p off last : Nat) (img : FixtureImage) (hh : (b.part p).holds = true)
    (hf : (b.part p).fix = some img) (hfit : listFits img none off 0 = true) :
    cmdListRetire p off last b = if (b.part p).listBusy off then (b, fail stListBusy)
      else ((b.writeLoc p ⟨.infield, off⟩ (List.replicate 64 0)).alterPart p (withoutList off), ok) := by
  simp only [cmdListRetire, hh, hf, hfit, Bool.not_true, Bool.false_eq_true, if_false]
  rfl

/-! ## Their rows -/

/-- A command that is refused changes nothing beside its record. -/
theorem submit_refused (s : State) (h : Hdr) (cmd : Cmd) (st : Nat) (hr : RingReady s.body h) (right : ringRight ⟨h, cmd⟩ = true)
    (plain : plainCmd cmd = true) (hl : needsLodge cmd = false)
    (hrun : runCmd s.vault (opened h cmd) (s.body.running h cmd) = (s.body.running h cmd, fail st)) :
    ∃ t : State, submit h.wf ⟨h, cmd⟩ s = .next t ∧ RingFrame s t h ∧ Answered s.body t.body h cmd st 0 .none ∧
      t.body = { s.body with doves := t.body.doves, rings := t.body.rings } := by
  obtain ⟨t, hexec, hframe, hans, hbody⟩ := submit_answers_of_edit s h cmd id st 0 .none hr right plain hl hrun
    (fun _ => ⟨rfl, rfl, rfl, rfl⟩)
  refine ⟨t, hexec, hframe, hans, hbody.trans ?_⟩
  rw [← hr.idle]
  rfl

/-- A command that writes a header in the infield and edits its partition: the whole of what its row changes. -/
theorem submit_writes (s : State) (h : Hdr) (cmd : Cmd) (off : Nat) (vs : List Byte) (f : Partition → Partition)
    (hr : RingReady s.body h) (right : ringRight ⟨h, cmd⟩ = true) (plain : plainCmd cmd = true) (hl : needsLodge cmd = false)
    (hlen : h.part < s.body.parts.length)
    (hrun : runCmd s.vault (opened h cmd) (s.body.running h cmd) =
      (((s.body.running h cmd).writeLoc h.part ⟨.infield, off⟩ vs).alterPart h.part f, ok)) :
    ∃ t : State, submit h.wf ⟨h, cmd⟩ s = .next t ∧ RingFrame s t h ∧ Answered s.body t.body h cmd stOk 0 .none ∧
      t.body.part h.part = f (s.body.part h.part) ∧ (∀ q, q ≠ h.part → t.body.part q = s.body.part q) ∧
      t.body.store = (s.body.writeLoc h.part ⟨.infield, off⟩ vs).store ∧
      t.body = { s.body with doves := t.body.doves, rings := t.body.rings, parts := t.body.parts, store := t.body.store } := by
  have hwrite : ∀ b : Body, b.writeLoc h.part ⟨.infield, off⟩ vs =
      { b with store := b.store.writeRuns ((b.part h.part).spans ⟨.infield, off⟩ vs.length) vs } :=
    fun b => writeLoc_inMemory b h.part _ vs (.inl rfl)
  obtain ⟨t, hexec, hframe, hans, hbody⟩ := submit_answers_of_edit s h cmd
    (fun b => (b.writeLoc h.part ⟨.infield, off⟩ vs).alterPart h.part f) stOk 0 .none hr right plain hl hrun
    (fun b => by rw [hwrite]; exact ⟨rfl, rfl, rfl, rfl⟩)
  have hparts : t.body.parts = (s.body.alterPart h.part f).parts := by rw [hbody, hwrite]; rfl
  have hpart : ∀ q, t.body.part q = (s.body.alterPart h.part f).part q := fun q => congrArg (·.getD q Partition.reset) hparts
  refine ⟨t, hexec, hframe, hans, (hpart _).trans (alterPart_same _ _ _ hlen), fun q hq => (hpart q).trans (alterPart_other _ _ _ _ hq),
    ?_, ?_⟩
  · rw [hbody]
    exact writeLoc_store_congr (b := s.body) (c := s.body.running h cmd) rfl rfl h.part _ vs
  · rw [hwrite] at hbody
    rw [hbody, ← hr.idle]
    rfl

/-- Settles O5: beside its own record each command does what `withList`, `withoutList` and a write of 64 bytes do, or nothing. -/
theorem pageLists : Obligations.PageLists := by
  refine ⟨fun s h img off pool cap car hr ho hlen hh hf hpool hlo hhi hcar hfit hbusy => ?_,
    fun s h img off last hr ho hlen hh hf hfit hbusy => ?_,
    fun s h img off pool cap car hr ho hh hf hpool hlo hhi hcar hfit hbusy => ?_,
    fun s h img off last hr ho hh hf hfit hbusy => ?_⟩
  · have hrun := (cmdListInit_mayInit (s.body.running h (.listInit off pool cap car)) h.part off pool cap car img
      ⟨hh, hf, hpool, hlo, hhi, hcar, hfit⟩).trans (if_neg (ne_true_of_eq_false hbusy))
    obtain ⟨t, hexec, hframe, hans, hpart, hothers, hstore, hbody⟩ := submit_writes s h (.listInit off pool cap car) off _ (withList off)
      hr (ringRight_own h _ ho rfl) rfl rfl hlen hrun
    obtain ⟨hmem, hlost⟩ := mem_withList off (s.body.part h.part)
    refine ⟨t, hexec, hframe, hans, by rwa [hpart], by rwa [hpart], hothers, hstore, fun a ha => ?_, hbody⟩
    have hspan := writeLoc_span s.body h.part a ⟨.infield, off⟩ (listHeader 0 car 0 cap 0 pool) (.inl rfl)
    rw [listHeader_length, ← hstore] at hspan
    exact hspan ha
  · have hrun := (cmdListRetire_fits (s.body.running h (.listRetire off last)) h.part off last img hh hf hfit).trans
      (if_neg (ne_true_of_eq_false hbusy))
    obtain ⟨t, hexec, hframe, hans, hpart, hothers, hstore, hbody⟩ := submit_writes s h (.listRetire off last) off _ (withoutList off)
      hr (ringRight_own h _ ho rfl) rfl rfl hlen hrun
    refine ⟨t, hexec, hframe, hans, fun x => by rw [hpart, mem_withoutList], hothers, hstore, fun a ha => ?_, hbody⟩
    have hspan := writeLoc_span s.body h.part a ⟨.infield, off⟩ (List.replicate 64 0) (.inl rfl)
    rw [List.length_replicate, ← hstore] at hspan
    exact hspan ha
  · have hrun := (cmdListInit_mayInit (s.body.running h (.listInit off pool cap car)) h.part off pool cap car img
      ⟨hh, hf, hpool, hlo, hhi, hcar, hfit⟩).trans (if_pos hbusy)
    exact submit_refused s h (.listInit off pool cap car) stListBusy hr (ringRight_own h _ ho rfl) rfl rfl hrun
  · have hrun := (cmdListRetire_fits (s.body.running h (.listRetire off last)) h.part off last img hh hf hfit).trans (if_pos hbusy)
    exact submit_refused s h (.listRetire off last) stListBusy hr (ringRight_own h _ ho rfl) rfl rfl hrun

end Sys2Proof.Proofs
end

section
/-!
PROOFS. The closing burst of a vector sub-operation (08, R188, R195, R200, R206): what it commits, where an exact-sum accumulator takes its
value, and a burst that meets poison.
-/

namespace Sys2Proof.Proofs

open Sys2Proof Sys2Proof.Machine Sys2Proof.Laws

/-! ## The operation whose burst closes -/

theorem exec_subOperationCommit (s : State) (e : Nat) (hits : List Nat) (errs : List CwError) (he : e < 4) :
    exec (.subOperationCommit ⟨e, hits, errs⟩) s = .next { s with body := s.body.closeBurst e hits errs } :=
  onBody_of (decide (e < 4)) s (fun b => b.closeBurst e hits errs) (decide_eq_true he)

/-- The operation is in flight, on the engine. -/
theorem vectorFlight_some {b : Body} {e p : Nat} {fl : Flight} {op : StreamOp} {is_ : List VecInstr}
    (hv : b.vectorFlight e = some (p, fl, op, is_)) : fl ∈ (b.part p).flights ∧ (b.part p).opEngine op = some e := by
  obtain ⟨q, -, hq⟩ := List.exists_of_findSome?_eq_some hv
  obtain ⟨x, hx, hsub⟩ := List.exists_of_findSome?_eq_some hq
  split at hsub
  · split at hsub
    · split at hsub
      · next hplaced =>
        obtain ⟨_, -, heq⟩ := Option.map_eq_some_iff.1 hsub
        cases heq
        exact ⟨hx, hplaced.1⟩
      · cases hsub
    · cases hsub
  · cases hsub

/-- A partition with an operation in flight is one of the module's. -/
theorem part_lt_of_flight {b : Body} {p : Nat} {fl : Flight} (h : fl ∈ (b.part p).flights) : p < b.parts.length := by
  by_contra hn
  simp [Body.part, List.getD_eq_getElem?_getD, List.getElem?_eq_none (Nat.le_of_not_lt hn), Partition.reset] at h

/-- An engine on which an operation may run is not stopping: the burst just commits (R195). -/
theorem closeBurst_unitsRun {b : Body} {e p : Nat} {op : StreamOp} (hits : List Nat) (errs : List CwError)
    (hon : (b.part p).opEngine op = some e) (hrun : b.unitsRun p op = true) : b.closeBurst e hits errs = b.commitSub e hits errs := by
  simp only [Body.unitsRun, hon, Option.all_some, Bool.and_eq_true] at hrun
  obtain ⟨⟨⟨-, hfree⟩, -⟩, -⟩ := hrun
  unfold Body.closeBurst
  split
  · next hstop =>
    rw [hstop] at hfree
    cases hfree
  · rfl

/-- A change of its partition, whatever else has changed before. -/
theorem alterPart_of_flight {b c : Body} {p : Nat} {fl : Flight} (F : Partition → Partition) (h : fl ∈ (b.part p).flights)
    (hparts : c.parts = b.parts) : (c.alterPart p F).part p = F (b.part p) := by
  have hpart : c.part p = b.part p := by rw [Body.part, Body.part, hparts]
  rw [alterPart_same c p F (hparts ▸ part_lt_of_flight h), hpart]

/-! ## What a burst does -/

/-- A sub-operation of one instruction is that instruction. -/
theorem runSub_one (b : Body) (x : VecCtx) (i : VecInstr) : b.runSub x [i] = b.runVec x i := by
  simp only [Body.runSub, List.foldl_cons, List.foldl_nil, Nat.zero_or]

/-- Places of the memory plan that a sub-operation reads, its accumulators' images with them. -/
def subReads (b : Body) (p e : Nat) (st : Stage) (is_ : List VecInstr) : List (Loc × Nat) :=
  (b.part p).planPlaces (is_.flatMap VecInstr.reads ++ (b.accPlaces st.parkAt e (is_.flatMap VecInstr.accs)).1)

/-- And those that it writes. -/
def subWrites (b : Body) (p e : Nat) (st : Stage) (is_ : List VecInstr) : List (Loc × Nat) :=
  (b.part p).planPlaces (is_.flatMap VecInstr.writes ++ (b.accPlaces st.parkAt e (is_.flatMap VecInstr.accs)).2)

/-- One more sub-operation of the operation is committed. -/
def committed (tok : Token) (flags : Nat) (x : Partition) : Partition :=
  x.alterFlight tok (fun y => { y with done := y.done + 1, flags := y.flags ||| flags })

/-- The operation has failed. -/
def failedWith (tok : Token) (kind : Nat) (x : Partition) : Partition := x.alterFlight tok (fun y => { y with failed := some kind })

/-- R195: of the operations in flight, a sub-operation without flags counts in its own alone. -/
theorem flights_committed {b c : Body} {p : Nat} {fl : Flight} (h : fl ∈ (b.part p).flights) (hparts : c.parts = b.parts) :
    ((c.alterPart p (committed fl.token 0)).part p).flights =
      (b.part p).flights.map (fun y => if y.token = fl.token then { y with done := y.done + 1 } else y) := by
  rw [alterPart_of_flight _ h hparts]
  simp only [committed, Partition.alterFlight, Nat.or_zero]

theorem flights_failedWith {b c : Body} {p : Nat} {fl : Flight} (kind : Nat) (h : fl ∈ (b.part p).flights) (hparts : c.parts = b.parts) :
    ((c.alterPart p (failedWith fl.token kind)).part p).flights =
      (b.part p).flights.map (fun y => if y.token = fl.token then { y with failed := some kind } else y) := by
  rw [alterPart_of_flight _ h hparts]
  rfl

section Burst

variable {b : Body} {e p : Nat} {fl : Flight} {op : StreamOp} {is_ : List VecInstr} {f : FixtureImage} {st : Stage}
  {rs ws : List (Loc × Nat)} (hits : List Nat) (errs : List CwError) (hv : b.vectorFlight e = some (p, fl, op, is_))
  (hrun : b.unitsRun p op = true) (hfix : (b.part p).fix = some f) (hst : (b.part p).stage? op = some st)
  (hreads : subReads b p e st is_ = rs) (hwrites : subWrites b p e st is_ = ws) (hwake : b.wakePlaces p (rs ++ ws) = b)
  (hfault : b.accessFault p rs ws = none) (hmeet : b.meetErrors p rs ws errs = b)
include hv hrun hfix hst hreads hwrites hwake hfault hmeet

/-- R195, R204: a burst that no bank, address, error or poison stands against commits what its instructions do. -/
theorem closeBurst_commits (hpoison : rs.any (fun x => b.poisonAt p x.1 x.2) = false) :
    b.closeBurst e hits errs = (b.collisions (b.runSub ⟨p, e, (b.part p).stepOf op, st⟩ is_).1 p ws hits).alterPart p
      (committed fl.token (b.runSub ⟨p, e, (b.part p).stepOf op, st⟩ is_).2) := by
  rw [closeBurst_unitsRun hits errs (vectorFlight_some hv).2 hrun]
  unfold subReads at hreads
  unfold subWrites at hwrites
  simp only [Body.commitSub, hv, hrun, hfix, hst, hreads, hwrites, hwake, hfault, hmeet, hpoison, Bool.not_true, Bool.false_eq_true,
    if_false]
  rfl

/-- R200: one that meets poison commits nothing; its operation fails, and what the operation would have written is poisoned. -/
theorem closeBurst_poisoned (hpoison : rs.any (fun x => b.poisonAt p x.1 x.2) = true) :
    b.closeBurst e hits errs = (b.failPoisoned p (b.opWrites p f st op) kMemUncorrectable).body.alterPart p
      (failedWith fl.token kMemUncorrectable) := by
  rw [closeBurst_unitsRun hits errs (vectorFlight_some hv).2 hrun]
  unfold subReads at hreads
  unfold subWrites at hwrites
  simp only [Body.commitSub, hv, hrun, hfix, hst, hreads, hwrites, hwake, hfault, hmeet, hpoison, Bool.not_true, Bool.false_eq_true,
    if_false, if_true]
  rfl

end Burst

/-- An operation has a stage only in a fixture. -/
theorem fix_of_stage {x : Partition} {op : StreamOp} {st : Stage} (h : x.stage? op = some st) : ∃ f, x.fix = some f := by
  obtain ⟨f, hfix, -⟩ := Option.bind_eq_some_iff.1 h
  exact ⟨f, hfix⟩

/-! ## Places, errors and collisions of a burst -/

/-- Errors lie in no codeword of a burst that touches none. -/
theorem meetErrors_noPlaces (b : Body) (p : Nat) (errs : List CwError) : b.meetErrors p [] [] errs = b := by
  simp [Body.meetErrors, Body.readErrors, sortBy]

theorem collisions_noHits (b c : Body) (p : Nat) (ws : List (Loc × Nat)) : b.collisions c p ws [] = c := rfl

theorem collisions_noPlaces (b c : Body) (p : Nat) (hits : List Nat) : b.collisions c p [] hits = c := by
  have hnone : hits.eraseDups.filter ([] : List Nat).contains = [] := List.filter_eq_nil_iff.2 (by simp)
  simp only [Body.collisions, List.flatMap_nil, hnone, List.foldl_nil]

/-- R68, R206: no bank is woken at a place all whose banks are ON. -/
theorem wakePlaces_placeOn (b : Body) (p n : Nat) (l : Loc) (h : b.placeOn p l n = true) :
    b.wakePlaces p ((b.part p).planPlaces [(l, n)]) = b := by
  rw [Body.placeOn, List.all_eq_true] at h
  refine List.foldlRecOn _ Body.wakeBank (motive := (· = b)) rfl (fun c hc k hk => ?_)
  obtain ⟨i, hi, hk⟩ := List.mem_filterMap.1 hk
  rw [hc]
  refine wakeBank_on b k (of_decide_eq_true (h k (List.mem_map.2 ⟨i, hi, ?_⟩)))
  rw [List.getD_eq_getElem?_getD, hk, Option.getD_some]

theorem planPlaces_inField (x : Partition) (ps : List (Loc × Nat)) (h : ∀ l ∈ ps, InField l.1) : x.planPlaces ps = ps := by
  induction ps with
  | nil => rfl
  | cons l ls ih =>
    have htail : x.planPlaces ls = ls := ih fun k hk => h k (List.mem_cons_of_mem l hk)
    rw [Partition.planPlaces, List.flatMap_cons, places_inField x l.1 l.2 (h l List.mem_cons_self)]
    exact congrArg (l :: ·) htail

/-- Bytes at a place change memory only where the place lies in it. -/
theorem writeLoc_store (b : Body) (p : Nat) (l : Loc) (vs : List Byte) :
    (b.writeLoc p l vs).store = b.store.writeRuns ((b.part p).spans l vs.length) vs := by
  unfold Body.writeLoc
  split
  · next hspace => simp [Partition.spans, Partition.places, hspace, Store.writeRuns]
  · rfl

/-! ## Poison spreads over memory alone -/

/-- `c` is `b` with codewords poisoned: the bytes stored, and all but memory, are the same. -/
def Poisoned (b c : Body) : Prop := ∃ sr, c = { b with store := sr } ∧ sr.cells = b.store.cells

theorem Poisoned.refl (b : Body) : Poisoned b b := ⟨b.store, rfl, rfl⟩

theorem Poisoned.trans {b c d : Body} : Poisoned b c → Poisoned c d → Poisoned b d := by
  rintro ⟨_, rfl, hc⟩ ⟨sr, rfl, hd⟩
  exact ⟨sr, rfl, hd.trans hc⟩

theorem Poisoned.foldl {α : Type} (f : Body → α → Body) (hf : ∀ b a, Poisoned b (f b a)) (as : List α) (b : Body) :
    Poisoned b (as.foldl f b) :=
  List.foldlRecOn as f (motive := Poisoned b) (.refl b) (fun _ hc a _ => hc.trans (hf _ a))

/-- R200: what an operation that consumed poison would have written is poisoned. -/
theorem failPoisoned_poisoned (b : Body) (p : Nat) (ws : List (Loc × Nat)) (kind : Nat) : Poisoned b (b.failPoisoned p ws kind).body :=
  .foldl _ (fun _ _ => .foldl _ (fun _ _ => .foldl _ (fun b c => ⟨b.store.poisonCw (b.sourceAt (c * 64)) c, rfl, rfl⟩) _ _) _ _) ws b

/-! ## Where an accumulator takes its value (R179, R188) -/

/-- The accumulators that an engine holds, once number `n` holds `x`. -/
def setAcc (n : Nat) (x : Arith.XSum) (accs : List AccState) : List AccState :=
  if accs.any (fun a => decide (a.num = n)) then accs.map (fun a => if a.num = n then ⟨n, x⟩ else a) else accs ++ [⟨n, x⟩]

theorem find?_setAcc_same (n : Nat) (x : Arith.XSum) (accs : List AccState) :
    (setAcc n x accs).find? (fun a => decide (a.num = n)) = some ⟨n, x⟩ := by
  unfold setAcc
  split
  · next hany =>
    induction accs with
    | nil => cases hany
    | cons a as ih =>
      by_cases ha : a.num = n
      · simp [ha]
      · simp only [List.any_cons, ha, decide_false, Bool.false_or] at hany
        simpa [ha] using ih hany
  · next hnone =>
    rw [List.find?_append, List.find?_eq_none.2 (by simpa using hnone)]
    simp

theorem find?_setAcc_other (n m : Nat) (x : Arith.XSum) (accs : List AccState) (h : m ≠ n) :
    (setAcc n x accs).find? (fun a => decide (a.num = m)) = accs.find? (fun a => decide (a.num = m)) := by
  unfold setAcc
  split
  · next hany =>
    clear hany
    induction accs with
    | nil => rfl
    | cons a as ih =>
      by_cases ha : a.num = n
      · have hm : a.num ≠ m := fun heq => h (heq.symm.trans ha)
        simpa only [List.map_cons, List.find?_cons, ha, if_true, decide_eq_false hm, decide_eq_false h.symm] using ih
      · simp only [List.map_cons, List.find?_cons, ha, if_false, ih]
  · rw [List.find?_append, List.find?_singleton, decide_eq_false h.symm]
    simp

section Accumulators

variable {b : Body} {e : Nat} (hparked : (b.engine e).parked = [])
include hparked

theorem image?_unparked (n : Nat) : (b.engine e).image? n = none := by
  simp [Engine.image?, hparked]

/-- With no image parked, an accumulator is what its engine holds. -/
theorem accOf_unparked (p m : Nat) :
    b.accOf p e m = (((b.engine e).accs.find? (fun a => decide (a.num = m))).map AccState.x).getD Arith.XSum.zero := by
  simp only [Body.accOf, Body.acc?, image?_unparked hparked]
  cases (b.engine e).accs.find? (fun a => decide (a.num = m)) <;> rfl

/-- R188: with room for one more accumulator, an instruction that names one at most reads and writes no image. -/
theorem accPlaces_room (park : Loc) (ns : List Nat) (hns : ns.eraseDups.length ≤ 1) (hroom : (b.engine e).accs.length < residentAccs) :
    b.accPlaces park e ns = ([], []) := by
  have hfresh : ∀ q : Nat → Bool, (ns.eraseDups.filter q).length - (residentAccs - (b.engine e).accs.length) = 0 := fun q => by
    have := List.length_filter_le q ns.eraseDups
    omega
  simp [Body.accPlaces, Engine.image?, hparked, hfresh, Engine.freeImages]

theorem freeImages_one (park : Loc) : (b.engine e).freeImages park 1 = [park] := by
  simp [Engine.freeImages, hparked, imageLoc]

/-- R188: without, one that is not resident takes the first image of the parking room. -/
theorem accPlaces_full (park : Loc) (n : Nat) (hfull : (b.engine e).accs.length = residentAccs) (hout : (b.engine e).resident n = false) :
    b.accPlaces park e [n] = ([], [(park, 40)]) := by
  have hdups : [n].eraseDups = [n] := by simp [List.eraseDups_cons]
  simp [Body.accPlaces, hdups, image?_unparked hparked, hout, hfull, freeImages_one hparked]

/-- With room an accumulator takes its value in the engine. -/
theorem putAcc_room (p : Nat) (park : Loc) (n : Nat) (x : Arith.XSum) (hroom : (b.engine e).accs.length < residentAccs) :
    b.putAcc p park e n x = b.alterEngine e (fun y => { y with accs := setAcc n x y.accs }) := by
  simp only [Body.putAcc, image?_unparked hparked, hroom, if_true]
  split
  · next hres => exact alterEngine_congr b e _ _ (by simp [setAcc, show (b.engine e).accs.any _ = true from hres])
  · next hres => exact alterEngine_congr b e _ _ (by
      simp [setAcc, show (b.engine e).accs.any _ = false from Bool.eq_false_of_not_eq_true hres])

/-- Without, in the first image of the parking room. -/
theorem putAcc_full (p : Nat) (park : Loc) (n : Nat) (x : Arith.XSum) (hfull : (b.engine e).accs.length = residentAccs)
    (hout : (b.engine e).resident n = false) : b.putAcc p park e n x =
      (b.alterEngine e (fun y => { y with parked := y.parked ++ [⟨n, park⟩] })).parkAcc p e park x := by
  simp only [Body.putAcc, hout, image?_unparked hparked, hfull, Nat.lt_irrefl, Bool.false_eq_true, if_false,
    freeImages_one hparked, List.headD_cons]

end Accumulators

theorem alterEngine_same (b : Body) (i : Nat) (f : Engine → Engine) (h : i < b.engines.length) :
    (b.alterEngine i f).engine i = f (b.engine i) := by
  rw [alterEngine_engine, if_pos ⟨rfl, h⟩]

/-- An accumulator that takes a value in its engine reads it; the others read as before. -/
theorem accOf_setAcc {b c : Body} {e n : Nat} {x : Arith.XSum} (p m : Nat) (hparked : (b.engine e).parked = [])
    (hengine : c.engine e = { b.engine e with accs := setAcc n x (b.engine e).accs }) :
    c.accOf p e m = if m = n then x else b.accOf p e m := by
  rw [accOf_unparked (by rw [hengine]; exact hparked), accOf_unparked hparked, hengine]
  split
  · next heq => rw [heq, find?_setAcc_same]; rfl
  · next hne => rw [find?_setAcc_other n m x _ hne]

/-- Bytes at a place change no more of an engine than its registers. -/
theorem writeLoc_engine (b : Body) (p e : Nat) (l : Loc) (vs : List Byte) :
    ∃ vr, (b.writeLoc p l vs).engine e = { b.engine e with vregs := vr } := by
  unfold Body.writeLoc
  split
  · next k _ =>
    show ∃ vr, (b.alterEngine ((b.part p).engineOf k) _).engine e = _
    rw [alterEngine_engine]
    split
    · exact ⟨_, rfl⟩
    · exact ⟨_, rfl⟩
  · exact ⟨_, rfl⟩

theorem parkAcc_store (b : Body) (p e : Nat) (l : Loc) (x : Arith.XSum) :
    (b.parkAcc p e l x).store = b.store.writeRuns ((b.part p).spans l 40) (x.image.map (BitVec.ofNat 8)) := by
  have hlen : (x.image.map (BitVec.ofNat 8)).length = 40 := rfl
  rw [Body.parkAcc, alterEngine_store, writeLoc_store, hlen]

/-- R188: an image that is parked is counted. -/
theorem parkAcc_engine (b : Body) (p e : Nat) (l : Loc) (x : Arith.XSum) (he : e < b.engines.length) : ∃ vr,
    (b.parkAcc p e l x).engine e = { b.engine e with vregs := vr, parks := wrap 32 ((b.engine e).parks + 1) } := by
  obtain ⟨vr, hvr⟩ := writeLoc_engine b p e l (x.image.map (BitVec.ofNat 8))
  refine ⟨vr, ?_⟩
  have hlen : (b.writeLoc p l (x.image.map (BitVec.ofNat 8))).engines.length = b.engines.length := by
    unfold Body.writeLoc
    split
    · simp [alter]
    · rfl
  rw [Body.parkAcc, alterEngine_same _ _ _ (hlen ▸ he), hvr]

/-! ## The bursts of the statement -/

section Bursts

variable {b : Body} {e p n : Nat} {fl : Flight} {op : StreamOp} {st : Stage} (hrun : b.unitsRun p op = true)
  (hst : (b.part p).stage? op = some st)
include hrun hst

/-- R185, R195: a cleared accumulator, with room in its engine. -/
theorem closeBurst_xsumClear_room (hits : List Nat) (errs : List CwError) (hv : b.vectorFlight e = some (p, fl, op, [.xsumClear n]))
    (hparked : (b.engine e).parked = []) (hroom : (b.engine e).accs.length < residentAccs) : b.closeBurst e hits errs =
      (b.alterEngine e (fun y => { y with accs := setAcc n Arith.XSum.zero y.accs })).alterPart p (committed fl.token 0) := by
  obtain ⟨f, hfix⟩ := fix_of_stage hst
  have hplaces : b.accPlaces st.parkAt e ([VecInstr.xsumClear n].flatMap VecInstr.accs) = ([], []) :=
    accPlaces_room hparked st.parkAt [n] (by simp [List.eraseDups_cons]) hroom
  have hreads : subReads b p e st [.xsumClear n] = [] := by rw [subReads, hplaces]; rfl
  have hwrites : subWrites b p e st [.xsumClear n] = [] := by rw [subWrites, hplaces]; rfl
  rw [closeBurst_commits hits errs hv hrun hfix hst hreads hwrites rfl rfl (meetErrors_noPlaces b p errs) rfl, collisions_noPlaces,
    runSub_one, ← putAcc_room hparked p st.parkAt n Arith.XSum.zero hroom]
  rfl

/-- R188: without, its image is parked. -/
theorem closeBurst_xsumClear_full (hv : b.vectorFlight e = some (p, fl, op, [.xsumClear n])) (hparked : (b.engine e).parked = [])
    (hfull : (b.engine e).accs.length = residentAccs) (hout : (b.engine e).resident n = false) (hon : b.placeOn p st.parkAt 40 = true)
    (hfault : (b.accessFault p [] ((b.part p).planPlaces [(st.parkAt, 40)])).isNone = true) :
    b.closeBurst e [] [] = ((b.alterEngine e (fun y => { y with parked := y.parked ++ [⟨n, st.parkAt⟩] })).parkAcc p e st.parkAt
      Arith.XSum.zero).alterPart p (committed fl.token 0) := by
  obtain ⟨f, hfix⟩ := fix_of_stage hst
  have hplaces : b.accPlaces st.parkAt e ([VecInstr.xsumClear n].flatMap VecInstr.accs) = ([], [(st.parkAt, 40)]) :=
    accPlaces_full hparked st.parkAt n hfull hout
  have hreads : subReads b p e st [.xsumClear n] = [] := by rw [subReads, hplaces]; rfl
  have hwrites : subWrites b p e st [.xsumClear n] = (b.part p).planPlaces [(st.parkAt, 40)] := by rw [subWrites, hplaces]; rfl
  rw [closeBurst_commits [] [] hv hrun hfix hst hreads hwrites (wakePlaces_placeOn b p 40 st.parkAt hon)
    (Option.isNone_iff_eq_none.1 hfault) rfl rfl, collisions_noHits, runSub_one,
    ← putAcc_full hparked p st.parkAt n Arith.XSum.zero hfull hout]
  rfl

/-- An FP32 addition between sound places leaves its sums at its destination. -/
theorem closeBurst_add {d a c : Loc} (hv : b.vectorFlight e = some (p, fl, op, [.op2 .add .fp32 d a c n]))
    (hd : InField d) (ha : InField a) (hc : InField c)
    (hmap : b.unmappedAt p [(a, bytesFor .fp32 n), (c, bytesFor .fp32 n), (d, bytesFor .fp32 n)] = none)
    (hpa : b.poisonAt p a (bytesFor .fp32 n) = false) (hpc : b.poisonAt p c (bytesFor .fp32 n) = false) :
    b.closeBurst e [] [] = (b.putCodes p d .fp32 (List.zipWith (Arith.fadd .fp32) (b.codes p a .fp32 n)
      (b.codes p c .fp32 n))).alterPart p (committed fl.token 0) := by
  obtain ⟨f, hfix⟩ := fix_of_stage hst
  have hplaces : b.accPlaces st.parkAt e ([VecInstr.op2 .add .fp32 d a c n].flatMap VecInstr.accs) = ([], []) := by
    simp [VecInstr.accs, Body.accPlaces, Engine.freeImages]
  have hreads : subReads b p e st [.op2 .add .fp32 d a c n] = [(a, bytesFor .fp32 n), (c, bytesFor .fp32 n)] := by
    rw [subReads, hplaces]
    exact planPlaces_inField (b.part p) [(a, bytesFor .fp32 n), (c, bytesFor .fp32 n)] (by simp [ha, hc])
  have hwrites : subWrites b p e st [.op2 .add .fp32 d a c n] = [(d, bytesFor .fp32 n)] := by
    rw [subWrites, hplaces]
    exact planPlaces_inField (b.part p) [(d, bytesFor .fp32 n)] (by simp [hd])
  have hfield : ∀ l ∈ [(a, bytesFor .fp32 n), (c, bytesFor .fp32 n)] ++ [(d, bytesFor .fp32 n)], InField l.1 := by simp [ha, hc, hd]
  rw [closeBurst_commits [] [] hv hrun hfix hst hreads hwrites (wakePlaces_inField b p _ hfield)
    (accessFault_inField b p _ _ hfield hmap) rfl (by simp [hpa, hpc]), collisions_noHits, runSub_one]
  rfl

/-- R200: an addition to an accumulator that meets poison commits nothing. -/
theorem closeBurst_xsumAdd_poisoned {acc : Nat} {a : Loc} {f : FixtureImage} (hits : List Nat)
    (hv : b.vectorFlight e = some (p, fl, op, [.xsumAdd acc .fp32 a n])) (hfix : (b.part p).fix = some f) (ha : InField a)
    (hparked : (b.engine e).parked = []) (hroom : (b.engine e).accs.length < residentAccs)
    (hmap : b.unmappedAt p [(a, bytesFor .fp32 n)] = none) (hpoison : b.poisonAt p a (bytesFor .fp32 n) = true) :
    b.closeBurst e hits [] =
      (b.failPoisoned p (b.opWrites p f st op) kMemUncorrectable).body.alterPart p (failedWith fl.token kMemUncorrectable) := by
  have hplaces : b.accPlaces st.parkAt e ([VecInstr.xsumAdd acc .fp32 a n].flatMap VecInstr.accs) = ([], []) :=
    accPlaces_room hparked st.parkAt [acc] (by simp [List.eraseDups_cons]) hroom
  have hreads : subReads b p e st [.xsumAdd acc .fp32 a n] = [(a, bytesFor .fp32 n)] := by
    rw [subReads, hplaces]
    exact planPlaces_inField (b.part p) [(a, bytesFor .fp32 n)] (by simp [ha])
  have hwrites : subWrites b p e st [.xsumAdd acc .fp32 a n] = [] := by rw [subWrites, hplaces]; rfl
  have hfield : ∀ l ∈ [(a, bytesFor .fp32 n)] ++ [], InField l.1 := by simp [ha]
  exact closeBurst_poisoned hits [] hv hrun hfix hst hreads hwrites (wakePlaces_inField b p _ hfield)
    (accessFault_inField b p _ _ hfield hmap) rfl (by simp [hpoison])

end Bursts

/-- Settles O41: each burst is its instruction's effect with one more sub-operation counted, or, on poison, `failPoisoned` alone. -/
theorem subOperationCommits : Obligations.SubOperationCommits := by
  refine ⟨fun s e p n fl op st hits errs he hlen hv hrun hst hparked hroom => ?_,
    fun s e p n fl op st he hlen hv hrun hst hparked hfull hout hon hfault => ?_,
    fun s e p n d a c fl op he hv hrun hst hspace hmap hpa hpc => ?_,
    fun s e p n acc a fl op f st hits he hv hrun hfix hst hspace hparked hroom hmap hpoison => ?_⟩
  · refine ⟨_, exec_subOperationCommit s e hits errs he, rfl, rfl, ?_⟩
    dsimp only
    rw [closeBurst_xsumClear_room hrun hst hits errs hv hparked hroom]
    have hacc : ∀ m, ((s.body.alterEngine e (fun y => { y with accs := setAcc n Arith.XSum.zero y.accs })).alterPart p
        (committed fl.token 0)).accOf p e m = if m = n then Arith.XSum.zero else s.body.accOf p e m := fun m =>
      accOf_setAcc p m hparked (alterEngine_same s.body e (fun y => { y with accs := setAcc n Arith.XSum.zero y.accs }) hlen)
    refine ⟨?_, fun m hm => ?_, ?_, fun q hq => alterPart_other _ p q _ hq, rfl⟩
    · rw [hacc, if_pos rfl]
    · rw [hacc, if_neg hm]
    · exact flights_committed (vectorFlight_some hv).1 rfl
  · refine ⟨_, exec_subOperationCommit s e [] [] he, ?_⟩
    dsimp only
    rw [closeBurst_xsumClear_full hrun hst hv hparked hfull hout hon hfault]
    obtain ⟨vr, hengine⟩ := parkAcc_engine (s.body.alterEngine e (fun y => { y with parked := y.parked ++ [⟨n, st.parkAt⟩] })) p e
      st.parkAt Arith.XSum.zero (by simpa [Body.alterEngine, alter] using hlen)
    rw [alterEngine_same _ _ _ hlen, hparked] at hengine
    have hsame : ∀ c : Body, (c.alterPart p (committed fl.token 0)).engine e = c.engine e := fun _ => rfl
    rw [hsame, hengine, alterPart_store, parkAcc_store]
    exact ⟨rfl, rfl, rfl, rfl⟩
  · obtain ⟨st, hst⟩ := Option.isSome_iff_exists.1 hst
    obtain ⟨hd, ha, hc⟩ : InField d ∧ InField a ∧ InField c := by simpa [InField] using hspace
    refine ⟨_, exec_subOperationCommit s e [] [] he, ?_⟩
    dsimp only
    rw [closeBurst_add hrun hst hv hd ha hc hmap hpa hpc, Body.putCodes, writeLoc_inMemory s.body p d _ (hd.imp_right .inl)]
    exact ⟨rfl, flights_committed (vectorFlight_some hv).1 rfl, rfl⟩
  · refine ⟨_, exec_subOperationCommit s e hits [] he, ?_⟩
    dsimp only
    rw [closeBurst_xsumAdd_poisoned hrun hst hits hv hfix hspace hparked hroom hmap hpoison]
    obtain ⟨sr, hbody, hcells⟩ := failPoisoned_poisoned s.body p (s.body.opWrites p f st op) kMemUncorrectable
    rw [hbody]
    exact ⟨rfl, flights_failedWith kMemUncorrectable (vectorFlight_some hv).1 rfl, rfl, hcells⟩

end Sys2Proof.Proofs
end

section
/-!
PROOFS. Maintenance commands (09, R220, R222; 10, R238; 13, Table 13.4): SELF_TEST, LINK_RELEASE and RETRAIN of the module ring.
-/

namespace Sys2Proof.Proofs

open Sys2Proof Sys2Proof.Machine Sys2Proof.Laws

/-- `start` on one waiting command that goes on after it has started. -/
theorem start_goesOn (v : Vault) (b b' : Body) (a : Active) (ha : b.active = [a]) (hn : a.running = false) (hs : a.signed = none)
    (hk : b.leadRuns = true) (hq : needsLodge a.cmd = false) (hrun : runCmd v a b = (b', .running)) (hact : b'.active = [a]) :
    b.start v = { b' with active := [{ a with running := true }] } := by
  have hone : startOne v b = some { b' with active := [{ a with running := true }] } := by
    simp [startOne, ha, nextReady, hn, hs, hq, hrun, hact]
  have hnext : startOne v ({ b' with active := [{ a with running := true }] } : Body) = none := by simp [startOne, nextReady]
  simp only [Body.start, hk, if_true, ha, List.length_cons, List.length_nil, startReady, hone, hnext]

/-- A command that goes on after it has started: the whole of what its row does. -/
theorem submit_goesOn (s : State) (h : Hdr) (cmd : Cmd) (b' : Body) (hr : RingReady s.body h) (right : ringRight ⟨h, cmd⟩ = true)
    (plain : plainCmd cmd = true) (hq : needsLodge cmd = false)
    (hrun : runCmd s.vault (opened h cmd) (s.body.running h cmd) = (b', .running)) (hact : b'.active = [opened h cmd])
    (hring : b'.rings = (s.body.running h cmd).rings) :
    submit h.wf ⟨h, cmd⟩ s = .next { s with body := { b' with active := [{ opened h cmd with running := true }] } } := by
  have hstart := start_goesOn s.vault (s.body.running h cmd) b' (opened h cmd) rfl rfl rfl (leadRuns_of_serves _ hr.serves) hq hrun hact
  have hunread : (({ b' with active := [{ opened h cmd with running := true }] } : Body).ring h.ring).entries = [] := by
    have hown : b'.ring h.ring = (s.body.running h cmd).ring h.ring := by rw [Body.ring, hring]; rfl
    exact (congrArg Ring.entries (hown.trans (running_ring s.body h cmd hr))).trans hr.unread
  have hserves : ∀ f, (s.body.alterRing h.ring f).serves = true := fun _ => hr.serves
  rw [submit_wf h cmd s hr.wf, submit, onBody_true]
  congr 2
  rw [Body.serveRing, hserves, if_pos rfl, Body.readRing, readEntry_ready s h cmd hr right plain, hstart]
  exact readRing_unread _ _ _ _ hunread

/-! ## What each command does (Table 13.4) -/

/-- Log 17: a number below 0x100 names an infield channel. -/
theorem cmdChannel_infield (c : Nat) (h : c < 256) : cmdChannel c = some c := by
  rw [cmdChannel, if_neg (by omega), if_pos (by omega)]

theorem chanHalf_infield (c : Nat) (h : c < 384) : chanHalf c = c / 192 := if_pos h

/-- R220: what a SELF_TEST of infield channel `c` leaves: its result, and the content of the channel's slot open unless the pattern
keeps it. -/
def selfTested (c pat : Nat) (r : BallResult) (b : Body) : Body :=
  { b with
    store := { b.store with
      stackCtl := alter (c / 32) (fun m => m.ball (c % 32) r) b.store.stackCtl
      lost := if pat = 3 then b.store.lost else ⟨false, [b.chanSlot c], b.store.retired, b.free, [], []⟩ :: b.store.lost }
    free := if pat = 3 then b.free else b.free + 1 }

theorem ballResult_infield (b : Body) (c : Nat) (r : BallResult) (hc : c < 384) (hf : b.fenced (c / 192) = false) :
    b.ballResult c r = { b with store := { b.store with
      stackCtl := alter (c / 32) (fun m => m.ball (c % 32) r) b.store.stackCtl } } := by
  rw [Body.ballResult, chanHalf_infield c hc, hf, if_neg Bool.false_ne_true, if_pos hc]

theorem cmdSelfTest_free (b : Body) (c pat : Nat) (r : BallResult) (hc : c < 256) (hpat : pat ≤ 3) (hg : b.chanGranted c = false)
    (hf : b.fenced (c / 192) = false) : cmdSelfTest c pat r b = (selfTested c pat r b, ok (.counter r.errors)) := by
  have hin : decide (384 ≤ c) = false := decide_eq_false (by omega)
  simp only [cmdSelfTest, cmdChannel_infield c hc, hg, Nat.not_lt_of_le hpat, if_false, Bool.false_eq_true, hin,
    ballResult_infield b c r (by omega) hf]
  by_cases h3 : pat = 3
  · simp only [h3, selfTested, if_true]
  · simp only [h3, selfTested, if_false]
    rfl

theorem cmdLinkRelease_quarantined (b : Body) (l : Nat) (hl : l < 48) (hq : (b.link l).state = .quarantine) :
    cmdLinkRelease l b = (b.alterLink l (fun x => { x with state := .train, reason := 0, since := b.clock.now }), ok) := by
  rw [cmdLinkRelease, if_neg (Nat.not_le_of_lt hl), if_pos hq]

theorem cmdRetrain_inService (b : Body) (c : Nat) (hc : c < 256) (hr : b.chanRetired c = false) (hf : b.fenced (c / 192) = false) :
    cmdRetrain c b = ({ b with store := { b.store with
      retrainQueue := b.store.retrainQueue ++ [⟨c, false, b.clock.beat, true⟩] } }, .running) := by
  simp only [cmdRetrain, cmdChannel_infield c hc, hr, chanHalf_infield c (by omega), hf, Bool.or_self, Bool.false_eq_true, if_false]

/-- Settles O9: SELF_TEST and LINK_RELEASE are answered with what they changed, and RETRAIN stays open behind its request. -/
theorem maintenanceCommands : Obligations.MaintenanceCommands := by
  refine ⟨fun s h c pat r hr hm hc hpat hg hf => ?_, fun s h l hr hm hl hq => ?_, fun s h c hr hm hc hret hf => ?_⟩
  · have hrun := cmdSelfTest_free (s.body.running h (.selfTest c pat r)) c pat r hc hpat hg hf
    obtain ⟨t, hexec, hframe, hans, hbody⟩ := submit_answers_of_edit s h (.selfTest c pat r) (selfTested c pat r) stOk 0
      (.counter r.errors) hr (ringRight_module h _ hm rfl) rfl rfl hrun (fun _ => ⟨rfl, rfl, rfl, rfl⟩)
    have hstore := congrArg Body.store hbody
    refine ⟨t, hexec, hframe, hans, by rw [hstore]; rfl, by rw [hstore]; rfl, by rw [hstore]; rfl, ?_⟩
    rw [hstore, congrArg Body.free hbody, ← hr.idle]
    exact hbody.trans (by rw [← hr.idle]; rfl)
  · have hrun := cmdLinkRelease_quarantined (s.body.running h (.linkRelease l)) l hl hq
    obtain ⟨t, hexec, hframe, hans, hbody⟩ := submit_answers_of_edit s h (.linkRelease l)
      (fun b => b.alterLink l (fun x => { x with state := .train, reason := 0, since := b.clock.now })) stOk 0 .none hr
      (ringRight_module h _ hm rfl) rfl rfl hrun (fun _ => ⟨rfl, rfl, rfl, rfl⟩)
    refine ⟨t, hexec, hframe, hans, hbody.trans ?_⟩
    rw [← hr.idle]
    rfl
  · have hrun := cmdRetrain_inService (s.body.running h (.retrain c)) c hc hret hf
    have hsub := submit_goesOn s h (.retrain c) _ hr (ringRight_module h _ hm rfl) rfl rfl hrun rfl rfl
    refine ⟨_, hsub, ⟨rfl, rfl, rfl, fun i hi => ?_⟩, rfl, rfl⟩
    show (alter h.ring _ s.body.rings).getD i Ring.reset = _
    rw [alter_getD, if_neg (fun x => hi x.1.symm)]
    rfl

end Sys2Proof.Proofs
end

section
/-!
PROOFS. Retrains of memory channels (09, R221 to R223, Table 9.4, Table 9.11): how one starts, what each attempt decides, and the failures of
transfers that ask for one.
-/

namespace Sys2Proof.Proofs

open Sys2Proof Sys2Proof.Machine Sys2Proof.Laws

/-! ## Contained messages, whatever their source -/

/-- R330: the class stands below SOURCE, so neither type nor number reaches into it. -/
theorem msgClass_contained (ty i k a : Nat) (pr av : Bool) : msgClass (faultWord ty i .contained pr av k a) = .contained := by
  have hpr : (cond pr 1 0 : Nat) ≤ 1 := by cases pr <;> decide
  have hav : (cond av 1 0 : Nat) ≤ 1 := by cases av <;> decide
  have hbits : ((faultWord ty i .contained pr av k a).extractLsb' 50 2).toNat = 1 := by
    rw [BitVec.extractLsb'_toNat, faultWord, BitVec.toNat_ofNat, Nat.shiftRight_eq_div_pow, FaultClass.code]
    omega
  rw [msgClass, hbits]
  rfl

/-- A contained message, from a source that Table 14.2 lists or not, touches pages, log and attention alone. -/
theorem message_contained_form (b : Body) (ty i k a : Nat) (pr av : Bool) : ∃ ps wh mf sc dv,
    b.message (faultWord ty i .contained pr av k a) =
      { b with whistle := { b.whistle with pages := ps, wh := wh, moduleFirst := mf }, score := sc, doves := dv } := by
  cases hs : pageSlot (msgType (faultWord ty i .contained pr av k a)) (msgInst (faultWord ty i .contained pr av k a)) with
  | none => exact ⟨_, _, _, _, _, by rw [Body.message, hs]⟩
  | some n =>
    rw [message_contained b _ n hs (msgClass_contained ty i k a pr av)]
    exact contained_form b _

/-! ## Channels -/

theorem chan_infield (m : Store) (c : Nat) (hc : c < 384) : m.chan c = m.channels.getD c Channel.reset := if_pos hc

theorem alterChan_infield (b : Body) (c : Nat) (f : Channel → Channel) (hc : c < 384) :
    b.alterChan c f = { b with store := { b.store with channels := alter c f b.store.channels } } := if_pos hc

/-- A channel that is not as at reset is one of the module's. -/
theorem channels_length_of_ne (m : Store) (c : Nat) (hc : c < 384) (h : m.chan c ≠ Channel.reset) : c < m.channels.length := by
  by_contra hn
  apply h
  rw [chan_infield m c hc, List.getD_eq_getElem?_getD, List.getElem?_eq_none (Nat.le_of_not_lt hn), Option.getD_none]

/-- A channel under retrain is one of the module's. -/
theorem channels_length_of_retraining (m : Store) (c : Nat) (hc : c < 384) (h : (m.chan c).retraining = true) :
    c < m.channels.length :=
  channels_length_of_ne m c hc (fun he => by rw [he] at h; cases h)

theorem alterChan_chan (b : Body) (c : Nat) (f : Channel → Channel) (hc : c < 384) (hlen : c < b.store.channels.length) :
    (b.alterChan c f).store.chan c = f (b.store.chan c) := by
  rw [alterChan_infield b c f hc, chan_infield _ c hc, alter_getD, if_pos ⟨rfl, hlen⟩, chan_infield _ c hc]

theorem alterChan_chan_other (b : Body) (c d : Nat) (f : Channel → Channel) (hc : c < 384) (hd : d < 384) (hne : d ≠ c) :
    (b.alterChan c f).store.chan d = b.store.chan d := by
  rw [alterChan_infield b c f hc, chan_infield _ d hd, alter_getD, if_neg (fun h => hne h.1.symm), chan_infield _ d hd]

/-- Channels take nothing of the bytes, the queue of requests or the list of commands with them. -/
theorem alterChan_kept (b : Body) (c : Nat) (f : Channel → Channel) : (b.alterChan c f).active = b.active ∧
    (b.alterChan c f).parts = b.parts ∧ (b.alterChan c f).store.cells = b.store.cells ∧
    (b.alterChan c f).store.retrainQueue = b.store.retrainQueue ∧ (b.alterChan c f).clock = b.clock := by
  unfold Body.alterChan
  split <;> exact ⟨rfl, rfl, rfl, rfl, rfl⟩

/-- Whether a channel can be retrained hangs on its failure, its slot and its half alone. -/
theorem alterChan_trainable (b : Body) (c : Nat) (f : Channel → Channel) (hc : c < 384) (hlen : c < b.store.channels.length)
    (hf : ∀ x, (f x).failed = x.failed) : (b.alterChan c f).trainable c = b.trainable c := by
  have hchan : ((b.alterChan c f).store.chan c).failed = (b.store.chan c).failed := by rw [alterChan_chan b c f hc hlen, hf]
  unfold Body.trainable
  rw [hchan, alterChan_infield b c f hc]
  rfl

/-! ## RETRAIN_START (R221, R222) -/

theorem exec_retrainStart (s : State) : exec .retrainStart s = .next { s with body := s.body.retrainStart s.vault } := rfl

/-- Requests for channels in service all stand. -/
theorem dropRequests_trainable (b : Body) (v : Vault) (h : ∀ r ∈ b.store.retrainQueue, b.trainable r.chan = true) :
    b.dropRequests v = b := by
  have hgone : b.store.retrainQueue.filter (fun r => !b.trainable r.chan) = [] := by simpa using h
  have hkept : b.store.retrainQueue.filter (fun r => b.trainable r.chan) = b.store.retrainQueue := List.filter_eq_self.2 h
  simp only [Body.dropRequests, hgone, hkept, List.foldl_nil]

/-- R221: an urgent request starts whatever the time, where no channel of its memory retrains. -/
theorem startsNow_urgent (b : Body) (r : RetrainReq) (hc : r.chan < 384) (hu : r.urgent = true)
    (hfree : ∀ x ∈ b.store.channels, x.retraining = false) : b.startsNow r = true := by
  have hnone : b.store.channels.any (·.retraining) = false := by simpa using hfree
  simp [Body.startsNow, Body.laneFree, hc, hu, hnone]

/-! ## RETRAIN_ATTEMPT_END (R223) -/

theorem exec_retrainAttemptEnd (s : State) (c ns : Nat) (pass : Bool) (r : BallResult) (sign : PackageSign) (hc : c < 392) :
    exec (.retrainAttemptEnd c pass ns r sign) s = .next { s with body := s.body.attemptEnd s.vault c pass ns r sign } :=
  onBody_of (decide (c < 392)) s (fun b => b.attemptEnd s.vault c pass ns r sign) (decide_eq_true hc)

/-- R220: the result of a run stands in the registers of the channel's memory, and nowhere else. -/
theorem ballResult_form (b : Body) (c : Nat) (r : BallResult) : ∃ sc oc, b.ballResult c r =
    { b with store := { b.store with stackCtl := sc, outCtl := oc } } ∧ sc.length = b.store.stackCtl.length ∧
    ∀ k, (sc.getD k MemCtl.reset).retrains = (b.store.stackCtl.getD k MemCtl.reset).retrains := by
  unfold Body.ballResult
  split
  · exact ⟨_, _, rfl, rfl, fun _ => rfl⟩
  · split
    · refine ⟨_, _, rfl, alter_length _ _ _, fun k => ?_⟩
      rw [alter_getD]
      split <;> rfl
    · exact ⟨_, _, rfl, rfl, fun _ => rfl⟩

/-- With no command open no retrain was a command's. -/
theorem endRetrain_idle (b : Body) (v : Vault) (c status code n : Nat) (h : b.active = []) : b.endRetrain v c status code n = b := by
  simp only [Body.endRetrain, h, List.find?_nil]

/-- The time that an attempt took has passed, and the run's result stands. -/
def ranFor (b : Body) (c ns : Nat) (r : BallResult) : Body := (b.until_ (b.clock.now + ns)).ballResult c r

theorem ranFor_form (b : Body) (c ns : Nat) (r : BallResult) : ∃ ps es sc oc, ranFor b c ns r =
    { b with clock := { b.clock with now := b.clock.now + ns }, pitches := ps, engines := es,
             store := { b.store with stackCtl := sc, outCtl := oc } } ∧ sc.length = b.store.stackCtl.length ∧
    ∀ k, (sc.getD k MemCtl.reset).retrains = (b.store.stackCtl.getD k MemCtl.reset).retrains := by
  obtain ⟨sc, oc, hform, hlen, hkept⟩ := ballResult_form (b.until_ (b.clock.now + ns)) c r
  refine ⟨(b.until_ (b.clock.now + ns)).pitches, (b.until_ (b.clock.now + ns)).engines, sc, oc, ?_, hlen, hkept⟩
  have hnow : max b.clock.now (b.clock.now + ns) = b.clock.now + ns := by omega
  rw [ranFor, hform]
  simp only [Body.until_, Body.passCycles, Clock.advanceTo, hnow]

/-- The channel that a retrain leaves trained. -/
def trained (now : Nat) (temp : Int) (x : Channel) : Channel :=
  { x with retraining := false, attempts := 0, trainedAt := now, trainedTemp := some temp }

/-- R222: a retrain that has passed is counted, with its longest duration. -/
def retrainCounted (ns : Nat) (m : MemCtl) : MemCtl := { m with retrains := (m.retrains + 1) % 2 ^ 32, maxNs := max m.maxNs ns }

/-- R223: a channel all of whose attempts have failed. -/
def givenUp (x : Channel) : Channel := { x with retraining := false, failed := true }

theorem ranFor_kept (b : Body) (c ns : Nat) (r : BallResult) : (ranFor b c ns r).active = b.active ∧
    (ranFor b c ns r).book = b.book ∧ (ranFor b c ns r).parts = b.parts ∧ (ranFor b c ns r).clock.now = b.clock.now + ns := by
  obtain ⟨_, _, _, _, hform, -, -⟩ := ranFor_form b c ns r
  rw [hform]
  exact ⟨rfl, rfl, rfl, rfl⟩

theorem ranFor_channels (b : Body) (c ns : Nat) (r : BallResult) : (ranFor b c ns r).store.channels = b.store.channels ∧
    (ranFor b c ns r).store.cells = b.store.cells := by
  obtain ⟨_, _, _, _, hform, -, -⟩ := ranFor_form b c ns r
  rw [hform]
  exact ⟨rfl, rfl⟩

theorem alterMemCtl_infield (b : Body) (c : Nat) (f : MemCtl → MemCtl) (hc : c < 384) :
    b.alterMemCtl c f = { b with store := { b.store with stackCtl := alter (c / 32) f b.store.stackCtl } } := if_pos hc

theorem retrainFails_infield (b : Body) (c : Nat) (k : Option Nat) (hc : c < 384) :
    b.retrainFails c k = (b.alterChan c givenUp).raise tStack (c / 32) .contained kChannelFailed c := by
  have hin : decide (384 ≤ c) = false := decide_eq_false (Nat.not_le_of_lt hc)
  simp only [Body.retrainFails, hin]
  rfl

section Attempts

variable {b : Body} {c : Nat} (v : Vault) (ns : Nat) (r : BallResult)
variable (hc : c < 384) (hr : (b.store.chan c).retraining = true)
include hc hr

theorem attemptEnd_passed (hidle : b.active = []) : ∃ temp dur,
    b.attemptEnd v c true ns r .none = ((ranFor b c ns r).alterChan c (trained (ranFor b c ns r).clock.now temp)).alterMemCtl c
      (retrainCounted dur) := by
  refine ⟨(ranFor b c ns r).chanTemp c, (ranFor b c ns r).clock.now - (b.store.chan c).startedAt, ?_⟩
  simp only [Body.attemptEnd, hr, Bool.not_true, Bool.false_eq_true, if_false, if_true]
  rw [endRetrain_idle, alterChan_infield _ c _ hc, alterChan_infield _ c _ hc]
  · rfl
  · rw [alterMemCtl_infield _ c _ hc]
    exact (alterChan_kept _ c _).1.trans ((ranFor_kept b c ns r).1.trans hidle)

omit hc in
theorem attemptEnd_again (hlt : (b.store.chan c).attempts < b.book.tables.memory.retrainAttempts) :
    b.attemptEnd v c false ns r .none = (ranFor b c ns r).alterChan c (fun y => { y with attempts := y.attempts + 1 }) := by
  rw [← (ranFor_kept b c ns r).2.1] at hlt
  simp only [Body.attemptEnd, hr, Bool.not_true, Bool.false_eq_true, if_false]
  exact if_pos (by simpa [noAnswer, ranFor] using hlt)

theorem attemptEnd_failed (hidle : b.active = []) (hlast : b.book.tables.memory.retrainAttempts ≤ (b.store.chan c).attempts) :
    b.attemptEnd v c false ns r .none =
      ((ranFor b c ns r).alterChan c givenUp).raise tStack (c / 32) .contained kChannelFailed c := by
  have hactive : (((ranFor b c ns r).alterChan c givenUp).raise tStack (c / 32) .contained kChannelFailed c).active = [] := by
    obtain ⟨_, _, _, _, _, hraise⟩ := message_contained_form ((ranFor b c ns r).alterChan c givenUp) tStack (c / 32) kChannelFailed c false false
    rw [Body.raise, hraise]
    exact (alterChan_kept _ c _).1.trans ((ranFor_kept b c ns r).1.trans hidle)
  rw [← (ranFor_kept b c ns r).2.1] at hlast
  simp only [Body.attemptEnd, hr, Bool.not_true, Bool.false_eq_true, if_false]
  refine (if_neg (by simpa [noAnswer, ranFor] using hlast)).trans ?_
  rw [← ranFor, retrainFails_infield _ c _ hc]
  exact endRetrain_idle _ v c _ _ _ hactive

end Attempts

/-! ## DATA_CRC_FAILURE (Table 9.4) -/

theorem exec_dataCrcFailure (s : State) (c : Nat) (hc : c < 392) :
    exec (.dataCrcFailure c) s = .next { s with body := s.body.crcFailure c } :=
  onBody_of (decide (c < 392)) s (fun b => b.crcFailure c) (decide_eq_true hc)

/-- The failures of a channel within the last 1 ms, and the one of now. -/
def recentCrc (now : Nat) (x : Channel) : List Nat := now :: x.crcAt.filter (fun t => decide (now < t + 1000000))

theorem crcFailure_counted (b : Body) (c : Nat) (hc : c < 384)
    (hn : ((b.store.chan c).crcAt.filter (fun t => decide (b.clock.now < t + 1000000))).length < 15) :
    b.crcFailure c = b.alterChan c (fun x => { x with crcAt := recentCrc b.clock.now (b.store.chan c) }) := by
  have hfew : ¬ 16 ≤ (recentCrc b.clock.now (b.store.chan c)).length := by simp only [recentCrc, List.length_cons]; omega
  rw [Body.crcFailure, if_neg (Nat.not_le_of_lt hc)]
  exact if_neg hfew

theorem crcFailure_asks (b : Body) (c : Nat) (hc : c < 384)
    (hn : 15 ≤ ((b.store.chan c).crcAt.filter (fun t => decide (b.clock.now < t + 1000000))).length) :
    b.crcFailure c = (b.alterChan c (fun x => { x with crcAt := [] })).askRetrain c true := by
  have hmany : 16 ≤ (recentCrc b.clock.now (b.store.chan c)).length := by simp only [recentCrc, List.length_cons]; omega
  rw [Body.crcFailure, if_neg (Nat.not_le_of_lt hc)]
  exact if_pos hmany

/-- R221: a channel in service that is not under retrain, and for which nothing waits, is put into the queue. -/
theorem askRetrain_queues (b : Body) (c : Nat) (urgent : Bool) (ht : b.trainable c = true) (hr : (b.store.chan c).retraining = false)
    (hq : b.store.retrainQueue = []) : b.askRetrain c urgent =
      { b with store := { b.store with retrainQueue := [⟨c, urgent, b.clock.beat, false⟩] } } := by
  simp only [Body.askRetrain, ht, hr, hq, List.any_nil, Bool.not_true, Bool.or_self, Bool.false_eq_true, if_false, List.nil_append]

/-- Settles O34: every clause is one outcome of `retrainStart`, `attemptEnd` or `crcFailure`, read in the channels of the store. -/
theorem retrains : Obligations.Retrains := by
  refine ⟨fun s c beat cmd hc hq ht hfree => ?_, fun s c ns r hc hr hidle hlen => ?_, fun s c ns r hc hr hlt => ?_,
    fun s c ns r hc hr hidle hlast => ?_, fun s c hc hlen hn => ?_, fun s c hc ht hr hq hn => ?_⟩
  · have hstand : ∀ r ∈ s.body.store.retrainQueue, s.body.trainable r.chan = true := by simpa [hq] using ht
    have hstarts := startsNow_urgent s.body ⟨c, true, beat, cmd⟩ hc rfl hfree
    rw [exec_retrainStart]
    simp only [Body.retrainStart, dropRequests_trainable _ _ hstand, hq, List.filter_cons, List.filter_nil, List.append_nil, if_true,
      Bool.not_true, Bool.false_eq_true, if_false, List.find?_cons, hstarts, alterChan_infield _ c _ hc, List.erase_cons_head]
  · obtain ⟨temp, dur, hend⟩ := attemptEnd_passed s.vault ns r hc hr hidle
    obtain ⟨ps, es, sc, oc, hform, hsc, hkept⟩ := ranFor_form s.body c ns r
    have hin := channels_length_of_retraining _ c hc hr
    have hsame := alterChan_chan (ranFor s.body c ns r) c (trained (ranFor s.body c ns r).clock.now temp) hc
    have hother := alterChan_chan_other (ranFor s.body c ns r) c
    refine ⟨_, exec_retrainAttemptEnd s c ns true r .none (by omega), ?_⟩
    dsimp only
    rw [hend, alterMemCtl_infield _ c _ hc]
    rw [hform] at hsame hother ⊢
    refine ⟨?_, ?_, ?_, fun d hne hd => hother d _ hc hd hne, ?_, ?_⟩
    · exact congrArg Channel.retraining (hsame hin)
    · exact congrArg Channel.trainedAt (hsame hin)
    · rw [alterChan_infield _ c _ hc]
      dsimp only
      rw [alter_getD, if_pos ⟨rfl, by rw [hsc]; exact hlen⟩, retrainCounted, hkept]
    · rw [alterChan_infield _ c _ hc]
    · rw [alterChan_infield _ c _ hc]
  · have hin := channels_length_of_retraining _ c hc hr
    obtain ⟨hchannels, hcells⟩ := ranFor_channels s.body c ns r
    obtain ⟨ps, es, sc, oc, hform, -, -⟩ := ranFor_form s.body c ns r
    refine ⟨_, exec_retrainAttemptEnd s c ns false r .none (by omega), ?_⟩
    dsimp only
    rw [attemptEnd_again s.vault ns r hr hlt]
    refine ⟨?_, (alterChan_kept _ c _).2.2.1.trans hcells, ?_⟩
    · rw [alterChan_chan _ c _ hc (by rw [hchannels]; exact hin), chan_infield _ c hc, hchannels, chan_infield _ c hc]
    · rw [alterChan_infield _ c _ hc, hform]
  · have hin := channels_length_of_retraining _ c hc hr
    obtain ⟨hchannels, hcells⟩ := ranFor_channels s.body c ns r
    obtain ⟨-, -, hparts, -⟩ := ranFor_kept s.body c ns r
    obtain ⟨-, hparts', hcells', -, -⟩ := alterChan_kept (ranFor s.body c ns r) c givenUp
    have hchan := alterChan_chan (ranFor s.body c ns r) c givenUp hc (by rw [hchannels]; exact hin)
    obtain ⟨_, _, _, _, _, hraise⟩ := message_contained_form ((ranFor s.body c ns r).alterChan c givenUp) tStack (c / 32)
      kChannelFailed c false false
    refine ⟨_, exec_retrainAttemptEnd s c ns false r .none (by omega), ?_⟩
    dsimp only
    rw [attemptEnd_failed s.vault ns r hc hr hidle hlast, Body.raise, hraise]
    exact ⟨congrArg Channel.failed hchan, congrArg Channel.retraining hchan, hcells'.trans hcells, hparts'.trans hparts⟩
  · rw [exec_dataCrcFailure s c (by omega), crcFailure_counted s.body c hc hn, alterChan_infield _ c _ hc]
    rw [alter_congr c _ _ s.body.store.channels (fun x hx => ?_)]
    have hx' : s.body.store.chan c = x := by
      rw [chan_infield _ c hc, List.getD_eq_getElem?_getD, hx, Option.getD_some]
    rw [hx']
    rfl
  · have hin : c < s.body.store.channels.length := channels_length_of_ne _ c hc (fun he => by
      rw [he] at hn
      exact absurd hn (by simp [Channel.reset]))
    have hchan := alterChan_chan s.body c (fun x => { x with crcAt := [] }) hc hin
    obtain ⟨-, -, hcells, hqueue, hclock⟩ := alterChan_kept s.body c (fun x => { x with crcAt := [] })
    have htrain := (alterChan_trainable s.body c (fun x => { x with crcAt := [] }) hc hin (fun _ => rfl)).trans ht
    have hasks := askRetrain_queues (s.body.alterChan c (fun x => { x with crcAt := [] })) c true htrain (by rw [hchan]; exact hr)
      (hqueue.trans hq)
    refine ⟨_, exec_dataCrcFailure s c (by omega), ?_⟩
    dsimp only
    rw [crcFailure_asks s.body c hc hn, hasks, hclock]
    exact ⟨rfl, congrArg Channel.crcAt hchan, hcells⟩

end Sys2Proof.Proofs
end

section
/-!
PROOFS. Scrubbing and the code on memory (09, R198 to R201, R344, Table 9.1): what a pass poisons, when it ends POISON_OVF, and how a codeword
is stored.
-/

namespace Sys2Proof.Proofs

open Sys2Proof Sys2Proof.Machine Sys2Proof.Laws

theorem mem_insertRising (x y : Nat) (xs : List Nat) : y ∈ insertRising x xs ↔ y = x ∨ y ∈ xs := by
  induction xs with
  | nil => simp [insertRising]
  | cons z zs ih =>
    unfold insertRising
    split
    · simp
    · split
      · next heq => simp [heq]
      · rw [List.mem_cons, ih, List.mem_cons]
        tauto

theorem exec_scrubPass (s : State) (src : MemSource) (errs : List CwError) (h : src.wf = true) :
    exec (.scrubPass src errs) s = .next { s with body := s.body.scrubPass src errs } :=
  onBody_of src.wf s (fun b => b.scrubPass src errs) h

/-! ## What a read of one codeword does (R199, Table 9.1) -/

/-- Table 9.1: 3 to 6 symbols in error are found and not corrected. -/
theorem readErrors_uncorrectable (b : Body) (e : CwError) (hp : b.store.poisoned e.cw = false) (hlo : 3 ≤ e.symbols) (hhi : e.symbols ≤ 6) :
    b.readErrors [e] = b.cwUncorrectable e.cw := by
  have h0 : decide (e.symbols = 0) = false := decide_eq_false (by omega)
  show b.readError e = _
  rw [Body.readError, hp, h0, Bool.or_self, if_neg Bool.false_ne_true, if_neg (by omega), if_pos hhi]

@[simp] theorem readErrors_nil (b : Body) : b.readErrors [] = b := rfl

/-- Counting an event touches the registers of its memory alone. -/
theorem countMem_form (b : Body) (src : MemSource) (bad : Bool) : ∃ sc oc sp,
    b.countMem src bad = { b.store with stackCtl := sc, outCtl := oc, spad := sp } := by
  unfold Body.countMem
  split
  · exact ⟨_, _, _, rfl⟩
  · cases src <;> exact ⟨_, _, _, rfl⟩

/-- R200: a codeword that is found uncorrectable is poisoned, and no byte and no partition changes. -/
theorem cwUncorrectable_form (b : Body) (cw : Nat) : (b.cwUncorrectable cw).store.poison = insertRising cw b.store.poison ∧
    (b.cwUncorrectable cw).store.cells = b.store.cells ∧ (b.cwUncorrectable cw).parts = b.parts := by
  obtain ⟨sc, oc, sp, hcount⟩ := countMem_form b (b.sourceAt (cw * 64)) true
  obtain ⟨_, _, _, _, _, hraise⟩ := message_contained_form
    { b with store := (b.countMem (b.sourceAt (cw * 64)) true).poisonCw (b.sourceAt (cw * 64)) cw }
    (srcType (b.sourceAt (cw * 64))) (srcInst (b.sourceAt (cw * 64))) kMemUncorrectable cw false true
  have hform : b.cwUncorrectable cw = _ := hraise
  rw [hform, hcount]
  exact ⟨rfl, rfl, rfl⟩

/-! ## A pass (R201, R344) -/

/-- A codeword of an infield stack is scrubbed with its stack. -/
theorem scrubs_infield (b : Body) (k cw : Nat) (hlim : cw * 64 < b.store.limit) (hsrc : b.sourceAt (cw * 64) = .infield k) :
    b.scrubs (.infield k) cw = true := by
  have hregion : b.store.region (cw * 64) = .infield := if_pos hlim
  simp only [Body.scrubs, hsrc, hregion, decide_true, Bool.and_true]

/-- R344: a pass that meets no errors ends POISON_OVF of its source where none of its codewords is poisoned. -/
theorem scrubPass_noErrors (b : Body) (src : MemSource) : b.scrubPass src [] =
    if b.store.poison.any (fun c => decide (b.sourceAt (c * 64) = src)) then b
    else { b with store := { b.store with lists := b.store.lists.map (fun l => if l.src = src then { l with ovf := false } else l) } } :=
  rfl

/-- The pass itself changes flags of poison lists at most; what its reads have poisoned stays. -/
theorem scrubPass_reads {b c : Body} {src : MemSource} {es : List CwError}
    (h : b.readErrors (es.filter (fun e => b.scrubs src e.cw)) = c) : (b.scrubPass src es).store.poison = c.store.poison ∧
    (b.scrubPass src es).store.cells = c.store.cells ∧ (b.scrubPass src es).parts = c.parts := by
  unfold Body.scrubPass
  rw [h]
  dsimp only
  split <;> exact ⟨rfl, rfl, rfl⟩

/-- Table 9.1: a pass that meets 3 to 6 symbols in error in one codeword of an infield stack reads that codeword as uncorrectable. -/
theorem scrubReads_uncorrectable (b : Body) (k : Nat) (e : CwError) (hlim : e.cw * 64 < b.store.limit)
    (hsrc : b.sourceAt (e.cw * 64) = .infield k) (hlo : 3 ≤ e.symbols) (hhi : e.symbols ≤ 6) (hp : b.store.poisoned e.cw = false) :
    b.readErrors ([e].filter (fun e => b.scrubs (.infield k) e.cw)) = b.cwUncorrectable e.cw := by
  rw [List.filter_cons, scrubs_infield b k e.cw hlim hsrc, if_pos rfl, List.filter_nil]
  exact readErrors_uncorrectable b e hp hlo hhi

/-- The 64 data bytes of a codeword. -/
def dataOf (m : Store) (c : Nat) : List Byte := (List.range 64).map (fun i => m.cells.get (c * 64 + i))

theorem dataOf_length (m : Store) (c : Nat) : (dataOf m c).length = 64 := by simp [dataOf]

/-- R198, R200: a codeword is stored as its data with the check bytes of its data, or with those of the poison pattern. -/
theorem codeword_eq (m : Store) (c : Nat) :
    m.codeword c = dataOf m c ++ (if m.poisoned c then poisonCheck (dataOf m c) else checkBytes (dataOf m c)) := rfl

/-- Settles O35: a pass is its reads (Table 9.1) and the flag of its list; a codeword is data with its check bytes, inverted by poison. -/
theorem scrubPass : Obligations.ScrubPass := by
  refine ⟨fun s k e hk hlim hsrc hlo hhi hp => ?_, fun s src hwf hnone => ?_, fun s src c hwf hc hsrc => ?_, fun m c hp => ?_,
    fun m c hp => ?_⟩
  · have hwf : (MemSource.infield k).wf = true := decide_eq_true hk
    obtain ⟨hpoison, hcells, hparts⟩ := scrubPass_reads (scrubReads_uncorrectable s.body k e hlim hsrc hlo hhi hp)
    obtain ⟨hpoison', hcells', hparts'⟩ := cwUncorrectable_form s.body e.cw
    refine ⟨_, exec_scrubPass s _ _ hwf, rfl, rfl, ?_, fun c hne => ?_, hcells.trans hcells', hparts.trans hparts'⟩ <;>
      dsimp only <;> rw [hpoison, hpoison', mem_insertRising]
    · exact .inl rfl
    · exact or_iff_right hne
  · have hany : s.body.store.poison.any (fun c => decide (s.body.sourceAt (c * 64) = src)) = false := by simpa using hnone
    rw [exec_scrubPass s src [] hwf, scrubPass_noErrors, hany, if_neg Bool.false_ne_true]
  · have hany : s.body.store.poison.any (fun c => decide (s.body.sourceAt (c * 64) = src)) = true :=
      List.any_eq_true.2 ⟨c, hc, decide_eq_true hsrc⟩
    rw [exec_scrubPass s src [] hwf, scrubPass_noErrors, hany, if_pos rfl]
  · rw [codeword_eq, hp, if_neg Bool.false_ne_true]
    exact ⟨fun j hj => syndrome_check j hj _, isPoisonPattern_check _ (dataOf_length m c)⟩
  · rw [codeword_eq, hp, if_pos rfl]
    exact isPoisonPattern_poison _ (dataOf_length m c)

end Sys2Proof.Proofs
end

section
/-!
PROOFS. Memory-side adds (09, R213 to R217): an add in ARRIVAL mode, what waits in an ORDERED window or before it, and a window whose time is
over.
-/

namespace Sys2Proof.Proofs

open Sys2Proof Sys2Proof.Machine Sys2Proof.Laws

/-! ## Words of memory -/

theorem leValue_leBytes (x n : Nat) : leValue (leBytes x n) = x % 256 ^ n := by
  induction n generalizing x with
  | zero => simp [leBytes, leValue, Nat.mod_one]
  | succ n ih =>
    have hdigit : (BitVec.ofNat 8 (x % 256)).toNat = x % 256 := by simp
    rw [leBytes, leValue, hdigit, ih, Nat.pow_succ', Nat.mod_mul]

/-- A word stored reads back, modulo its width. -/
theorem word_writeWord (m : Store) (a x n : Nat) : (m.writeWord a x n).word a n = x % 256 ^ n := by
  have hbytes := bytes_writeBytes m a (leBytes x n)
  rw [leBytes_length] at hbytes
  rw [Store.word, Store.writeWord, hbytes, leValue_leBytes]

theorem byte_writeWord_other (m : Store) (a x n y : Nat) (h : ¬(a ≤ y ∧ y < a + n)) : (m.writeWord a x n).byte y = m.byte y := by
  rw [Store.writeWord, writeBytes_byte, leBytes_length, if_neg h]

/-! ## Codewords that are poisoned (R200) -/

/-- Codewords take the poison pattern, each in the list of its own source. -/
def poisonAll (b : Body) (cs : List Nat) : Body :=
  cs.foldl (fun b c => { b with store := b.store.poisonCw (b.sourceAt (c * 64)) c }) b

/-- Poison stands in its own two fields of the store: bytes, and all else, stay. -/
theorem poisonAll_form (cs : List Nat) (b : Body) : ∃ ps ls,
    poisonAll b cs = { b with store := { b.store with poison := ps, lists := ls } } ∧ ∀ c, c ∈ ps ↔ c ∈ cs ∨ c ∈ b.store.poison := by
  induction cs generalizing b with
  | nil => exact ⟨_, _, rfl, by simp⟩
  | cons c cs ih =>
    obtain ⟨ps, ls, hform, hmem⟩ := ih { b with store := b.store.poisonCw (b.sourceAt (c * 64)) c }
    refine ⟨ps, ls, hform, fun d => ?_⟩
    rw [hmem, Store.poisonCw, mem_insertRising, List.mem_cons]
    tauto

/-! ## One add in ARRIVAL mode (R213, R217) -/

theorem exec_memorySideAdd (s : State) (a : AddReq) (h : addFormats a.fmt a.inFmt = true) :
    exec (.memorySideAdd a) s = .next { s with body := s.body.memoryAdd a } :=
  onBody_of (addFormats a.fmt a.inFmt) s (fun b => b.memoryAdd a) h

/-- An INT32 add of one value in ARRIVAL mode, whose read of its word meets no error. -/
def int32Add (addr v source expected : Nat) (last : Bool) (part : Nat) (tok : Token) : AddReq :=
  ⟨addr, .int32, .int32, [v], false, source, expected, last, part, tok, []⟩

/-- R200: the operations of a token have consumed poison. -/
def consumed (tok : Token) (x : Partition) : Partition :=
  { x with flights := x.flights.map (fun fl =>
    if fl.token == tok && fl.failed.isNone then { fl with failed := some kMemUncorrectable } else fl) }

/-- R17: the step in progress is not replay-verifiable. -/
def arrivalMarked (x : Partition) : Partition :=
  match x.fix with
  | some _ => { x with pass := { x.pass with flags := x.pass.flags ||| flagNotVerifiable } }
  | none => x

/-- The poisoned codewords under a word. -/
def badUnder (m : Store) (addr n : Nat) : List Nat := (cwsOf addr n).filter m.poisoned

/-- What an add does to its partition. -/
def addMarks (bad : List Nat) (tok : Token) (x : Partition) : Partition :=
  arrivalMarked (if bad.isEmpty then x else consumed tok x)

section Arrival

variable (b : Body) (addr v source expected : Nat) (last : Bool) (part : Nat) (tok : Token)

theorem addBytes_int32 : addBytes (int32Add addr v source expected last part tok) = 4 := by
  simp [addBytes, int32Add, Arith.Fmt.bits]

/-- R213: the word takes the sum; what was poisoned under it stays so. -/
theorem applyAdd_int32 : b.applyAdd (int32Add addr v source expected last part tok) =
    (if (badUnder b.store addr 4).isEmpty then
      poisonAll { b with store := b.store.writeWord addr ((b.store.word addr 4 + v) % 2 ^ 32) 4 } (badUnder b.store addr 4)
    else (poisonAll { b with store := b.store.writeWord addr ((b.store.word addr 4 + v) % 2 ^ 32) 4 }
      (badUnder b.store addr 4)).alterPart part (consumed tok)) := by
  have hread : b.readErrors (errorsIn addr 4 []) = b := rfl
  have hold : codesOf .int32 1 (b.store.bytes addr 4) = [b.store.word addr 4] := by
    show [leValue ((b.store.bytes addr 4).take 4)] = _
    rw [List.take_of_length_le (by simp [Store.bytes])]
    rfl
  have hnew : List.zipWith (addCode .int32 .int32) [b.store.word addr 4] [v] = [(b.store.word addr 4 + v) % 2 ^ 32] := rfl
  have hbytes : ∀ x, bytesOf .int32 [x] = leBytes x 4 := fun x => List.append_nil _
  rw [Body.applyAdd, addBytes_int32]
  simp only [int32Add, hread, List.length_singleton, hold, hnew, hbytes]
  rfl

theorem memoryAdd_int32 (ha : b.store.addable addr 4 = true) : ∃ ps ls,
    b.memoryAdd (int32Add addr v source expected last part tok) =
      ({ b with store := { b.store.writeWord addr ((b.store.word addr 4 + v) % 2 ^ 32) 4 with poison := ps, lists := ls } } : Body).alterPart
        part (addMarks (badUnder b.store addr 4) tok) ∧
    ∀ c ∈ cwsOf addr 4, b.store.poisoned c = true → c ∈ ps := by
  obtain ⟨ps, ls, hform, hmem⟩ := poisonAll_form (badUnder b.store addr 4)
    { b with store := b.store.writeWord addr ((b.store.word addr 4 + v) % 2 ^ 32) 4 }
  refine ⟨ps, ls, ?_, fun c hc hp => (hmem c).2 (.inl (List.mem_filter.2 ⟨hc, hp⟩))⟩
  have hadd : b.memoryAdd (int32Add addr v source expected last part tok) =
      (b.applyAdd (int32Add addr v source expected last part tok)).alterPart part arrivalMarked := by
    rw [Body.memoryAdd, addBytes_int32]
    exact if_pos ha
  rw [hadd, applyAdd_int32, hform]
  unfold addMarks
  split
  · rfl
  · simp only [Body.alterPart, alter_alter]

/-- The sum stands in the word, and every other byte is as it was. -/
theorem memoryAdd_int32_bytes (ha : b.store.addable addr 4 = true) :
    (b.memoryAdd (int32Add addr v source expected last part tok)).store.word addr 4 = (b.store.word addr 4 + v) % 2 ^ 32 ∧
    ∀ y, ¬(addr ≤ y ∧ y < addr + 4) →
      (b.memoryAdd (int32Add addr v source expected last part tok)).store.byte y = b.store.byte y := by
  obtain ⟨ps, ls, hform, -⟩ := memoryAdd_int32 b addr v source expected last part tok ha
  rw [hform]
  refine ⟨?_, fun y hy => ?_⟩
  · exact (word_writeWord b.store addr ((b.store.word addr 4 + v) % 2 ^ 32) 4).trans (Nat.mod_mod _ _)
  · exact byte_writeWord_other b.store addr _ 4 y hy

end Arrival

@[simp] theorem arrivalMarked_flights (x : Partition) : (arrivalMarked x).flights = x.flights := by
  unfold arrivalMarked
  split <;> rfl

theorem arrivalMarked_flags (x : Partition) (h : x.fix ≠ none) : (arrivalMarked x).pass.flags = x.pass.flags ||| 1 := by
  obtain ⟨f, hf⟩ := Option.ne_none_iff_exists'.1 h
  simp only [arrivalMarked, hf]
  rfl

theorem addMarks_flags (bad : List Nat) (tok : Token) (x : Partition) (h : x.fix ≠ none) :
    (addMarks bad tok x).pass.flags = x.pass.flags ||| 1 := by
  unfold addMarks
  split
  · exact arrivalMarked_flags x h
  · exact arrivalMarked_flags (consumed tok x) h

theorem addMarks_flights_sound (tok : Token) (x : Partition) : (addMarks [] tok x).flights = x.flights :=
  arrivalMarked_flights x

/-- R200: with poison under the word, no operation of the add's token is left to complete well. -/
theorem addMarks_flights_failed (bad : List Nat) (tok : Token) (x : Partition) (hbad : bad ≠ []) :
    ∀ fl ∈ (addMarks bad tok x).flights, fl.token = tok → fl.failed ≠ none := by
  have hne : bad.isEmpty = false := by simpa using hbad
  rw [addMarks, hne, if_neg Bool.false_ne_true, arrivalMarked_flights]
  intro fl hfl htok
  obtain ⟨y, -, rfl⟩ := List.mem_map.1 hfl
  cases hf : y.failed with
  | none =>
    by_cases hy : y.token = tok
    · simp [hy]
    · simp [hy] at htok
  | some k => simp [hf]

theorem badUnder_eq_nil_iff (m : Store) (addr n : Nat) : badUnder m addr n = [] ↔ ∀ c ∈ cwsOf addr n, m.poisoned c = false := by
  simp [badUnder, List.filter_eq_nil_iff]

/-! ## ORDERED windows (R214, R215) -/

/-- With nothing held back there is nothing to offer again. -/
theorem drain_nothing (b : Body) (h : b.store.heldAdds = []) : b.drain = b := by
  rw [Body.drain, h]
  rfl

theorem memoryAdd_ordered (b : Body) (a : AddReq) (ho : a.ordered = true) (ha : b.store.addable a.addr (addBytes a) = true) :
    b.memoryAdd a = b.joinWindow a := by
  rw [Body.memoryAdd, if_pos ha, if_pos ho]

/-- R215: the first add of a window, of which more is to come, waits in it. -/
theorem joinWindow_waits (b : Body) (a : AddReq) (hlast : a.last = false) (hexp : 0 < a.expected) (hheld : b.store.heldAdds = [])
    (hroom : b.buffered (b.sourceAt a.addr) + addBytes a ≤ orderedRoom (b.sourceAt a.addr))
    (hw : b.store.windows.find? (fun x => decide (x.index = a.addr / granuleBytes)) = none) :
    b.joinWindow a = { b with store := { b.store with
      windows := b.store.windows ++ [⟨a.addr / granuleBytes, a.expected, b.clock.beat, [a]⟩] } } := by
  have hfree : decide (orderedRoom (b.sourceAt a.addr) < b.buffered (b.sourceAt a.addr) + addBytes a) = false :=
    decide_eq_false (Nat.not_lt_of_le hroom)
  have hkept : b.store.windows.filter (fun x => decide (x.index ≠ a.addr / granuleBytes)) = b.store.windows :=
    List.filter_eq_self.2 fun w hmem => by simpa using List.find?_eq_none.1 hw w hmem
  have hwaits : ¬ a.expected ≤ AddWindow.delivered ⟨a.addr / granuleBytes, a.expected, b.clock.beat, [a]⟩ := by
    have hnone : AddWindow.delivered ⟨a.addr / granuleBytes, a.expected, b.clock.beat, [a]⟩ = 0 := by simp [AddWindow.delivered, hlast]
    omega
  have htake : b.takeAdd a = { b with store := { b.store with
      windows := b.store.windows ++ [⟨a.addr / granuleBytes, a.expected, b.clock.beat, [a]⟩] } } := by
    simp only [Body.takeAdd, hw, hkept]
    exact if_neg hwaits
  have hoffer : b.offerAdd a = b.takeAdd a := by
    simp only [Body.offerAdd, hheld, List.any_nil, hfree, Bool.or_self, Bool.false_eq_true, if_false]
  rw [Body.joinWindow, hoffer, htake]
  exact drain_nothing _ hheld

/-- R215: while the buffer is full an add is held back, and offered again in vain. -/
theorem offerAdd_held (b : Body) (a : AddReq) (hheld : b.store.heldAdds = [])
    (hfull : orderedRoom (b.sourceAt a.addr) < b.buffered (b.sourceAt a.addr) + addBytes a) :
    b.offerAdd a = { b with store := { b.store with heldAdds := [a] } } := by
  simp only [Body.offerAdd, hheld, List.any_nil, decide_eq_true hfull, Bool.or_true, if_true, List.nil_append]

theorem joinWindow_held (b : Body) (a : AddReq) (hheld : b.store.heldAdds = [])
    (hfull : orderedRoom (b.sourceAt a.addr) < b.buffered (b.sourceAt a.addr) + addBytes a) :
    b.joinWindow a = { b with store := { b.store with heldAdds := [a] } } := by
  rw [Body.joinWindow, offerAdd_held b a hheld hfull]
  have hagain := offerAdd_held { b with store := { b.store with heldAdds := [] } } a rfl hfull
  simp only [Body.drain, List.length_singleton, drainAdds, List.foldl_cons, List.foldl_nil, hagain, if_true]

/-! ## ADD_WINDOW_INCOMPLETE (R216) -/

theorem exec_addWindowIncomplete (s : State) (i : Nat) :
    exec (.addWindowIncomplete i) s = .next { s with body := s.body.windowTimeout i } := rfl

/-- With nothing in flight no operation is left to fail. -/
theorem failFlights_nothing (b : Body) (p kind : Nat) (c : Flight → StreamOp → Bool) (h : (b.part p).flights = []) :
    ∃ rs, b.failFlights p kind c = { b with net := { b.net with reductions := rs } } := by
  simp only [Body.failFlights, h, List.filter_nil, List.foldl_nil]
  exact ⟨_, rfl⟩

theorem failFlights_nothing_all (kind : Nat) (c : Nat → Flight → StreamOp → Bool) (ps : List Nat) (b : Body)
    (h : ∀ p, (b.part p).flights = []) : ∃ rs, ps.foldl (fun b p => b.failFlights p kind (c p)) b =
      { b with net := { b.net with reductions := rs } } := by
  induction ps generalizing b with
  | nil => exact ⟨b.net.reductions, rfl⟩
  | cons p ps ih =>
    obtain ⟨rs, hfirst⟩ := failFlights_nothing b p kind (c p) (h p)
    rw [List.foldl_cons, hfirst]
    exact ih _ h

/-- A partition that no list of partitions holds has nothing in flight. -/
theorem part_flights_nil (b : Body) (h : ∀ x ∈ b.parts, x.flights = []) (p : Nat) : (b.part p).flights = [] := by
  rw [Body.part, List.getD_eq_getElem?_getD]
  cases hx : b.parts[p]? with
  | none => rfl
  | some x => exact h x (List.mem_of_getElem? hx)

/-- Counting in a controller's registers leaves all else of the store. -/
theorem alterCtl_form (m : Store) (src : MemSource) (f : MemCtl → MemCtl) : ∃ sc oc,
    m.alterCtl src f = { m with stackCtl := sc, outCtl := oc } := by
  cases src <;> exact ⟨_, _, rfl⟩

/-- R216: the store once a window has been discarded with nothing held back. -/
def discarded (m : Store) (src : MemSource) (i : Nat) : Store :=
  { m.alterCtl src (fun c => { c with timeouts := wrap 32 (c.timeouts + 1) }) with
    windows := m.windows.filter (fun x => decide (x.index ≠ i)), heldAdds := [] }

/-- The window has gone, and its controller has reported that. -/
def reported (b : Body) (i : Nat) : Body :=
  ({ b with store := discarded b.store (b.sourceAt (i * granuleBytes)) i } : Body).raiseAt (srcType (b.sourceAt (i * granuleBytes)))
    (srcInst (b.sourceAt (i * granuleBytes))) .contained kAddWindow (i * granuleBytes / 64)

theorem reported_kept (b : Body) (i : Nat) :
    (reported b i).store = discarded b.store (b.sourceAt (i * granuleBytes)) i ∧ (reported b i).parts = b.parts := by
  obtain ⟨_, _, _, _, _, hraise⟩ := message_contained_form
    { b with store := discarded b.store (b.sourceAt (i * granuleBytes)) i } (srcType (b.sourceAt (i * granuleBytes)))
    (srcInst (b.sourceAt (i * granuleBytes))) kAddWindow (i * granuleBytes / 64) false true
  rw [reported, Body.raiseAt, hraise]
  exact ⟨rfl, rfl⟩

theorem discarded_kept (m : Store) (src : MemSource) (i : Nat) : (discarded m src i).cells = m.cells ∧
    (discarded m src i).windows = m.windows.filter (fun x => decide (x.index ≠ i)) ∧ (discarded m src i).heldAdds = [] := by
  obtain ⟨sc, oc, hctl⟩ := alterCtl_form m src (fun c => { c with timeouts := wrap 32 (c.timeouts + 1) })
  rw [discarded, hctl]
  exact ⟨rfl, rfl, rfl⟩

/-- R216: once the window has gone, the operations of its adds fail. -/
theorem windowTimeout_overdue (b : Body) (i : Nat) (w : AddWindow)
    (hw : b.store.windows.find? (fun x => decide (x.index = i)) = some w)
    (htime : w.firstBeat + b.book.tables.memory.orderTimeout ≤ b.clock.beat) (hheld : b.store.heldAdds = []) :
    b.windowTimeout i = ((List.range 4).foldl (fun b p => b.failFlights p kAddWindow (fun fl _ =>
      w.adds.any (fun a => decide (a.part = p) && a.token == fl.token))) (reported b i)).drain := by
  simp only [Body.windowTimeout, hw, if_pos htime, hheld, List.filter_nil, List.append_nil, reported, discarded]

/-- With nothing in flight and nothing held back, no operation fails and no add is offered again. -/
theorem drain_failFlights_nothing (c : Body) (kind : Nat) (f : Nat → Flight → StreamOp → Bool) (ps : List Nat)
    (hnone : ∀ x ∈ c.parts, x.flights = []) (hidle : c.store.heldAdds = []) :
    (ps.foldl (fun b p => b.failFlights p kind (f p)) c).drain.store = c.store ∧
    (ps.foldl (fun b p => b.failFlights p kind (f p)) c).drain.parts = c.parts := by
  obtain ⟨rs, hfail⟩ := failFlights_nothing_all kind f ps c (part_flights_nil c hnone)
  rw [hfail, drain_nothing { c with net := { c.net with reductions := rs } } hidle]
  exact ⟨rfl, rfl⟩

/-- A window past ORDER_TIMEOUT, with nothing held back and nothing in flight that waits for it, leaves its targets. -/
theorem windowTimeout_kept (b : Body) (i : Nat) (w : AddWindow)
    (hw : b.store.windows.find? (fun x => decide (x.index = i)) = some w)
    (htime : w.firstBeat + b.book.tables.memory.orderTimeout ≤ b.clock.beat) (hnone : ∀ x ∈ b.parts, x.flights = [])
    (hheld : b.store.heldAdds = []) : (b.windowTimeout i).store.windows = b.store.windows.filter (fun x => decide (x.index ≠ i)) ∧
    (b.windowTimeout i).store.cells = b.store.cells ∧ (b.windowTimeout i).parts = b.parts := by
  obtain ⟨hstore, hparts⟩ := reported_kept b i
  obtain ⟨hcells, hwindows, hidle⟩ := discarded_kept b.store (b.sourceAt (i * granuleBytes)) i
  obtain ⟨hstore', hparts'⟩ := drain_failFlights_nothing (reported b i) kAddWindow
    (fun p fl _ => w.adds.any (fun a => decide (a.part = p) && a.token == fl.token)) (List.range 4) (by rw [hparts]; exact hnone)
    (by rw [hstore]; exact hidle)
  rw [windowTimeout_overdue b i w hw htime hheld, hstore', hstore]
  exact ⟨hwindows, hcells, hparts'.trans hparts⟩

/-- Settles O36: an ARRIVAL add is one word and the marks of its partition; an ORDERED one is a list of windows or of what is held back. -/
theorem memoryAdds : Obligations.MemoryAdds := by
  refine ⟨fun s addr v source part tok ha => ?_, fun s a hfmt ho hlast hexp ha hheld hroom hw => ?_,
    fun s a hfmt ho ha hheld hfull => ?_, fun s i w hw htime hnone hheld => ?_⟩
  · obtain ⟨hword, hother⟩ := memoryAdd_int32_bytes s.body addr v source 0 true part tok ha
    obtain ⟨ps, ls, hform, hpoison⟩ := memoryAdd_int32 s.body addr v source 0 true part tok ha
    refine ⟨_, exec_memorySideAdd s (int32Add addr v source 0 true part tok) rfl, rfl, rfl, hword, hother, ?_⟩
    dsimp only
    rw [hform]
    have hsame := alterPart_part { s.body with store := { s.body.store.writeWord addr ((s.body.store.word addr 4 + v) % 2 ^ 32) 4 with
      poison := ps, lists := ls } } part part (addMarks (badUnder s.body.store addr 4) tok)
    refine ⟨fun c hc hp => List.contains_iff_mem.2 (hpoison c hc hp), fun p hp => alterPart_other _ part p _ hp, fun hlen hfix => ?_,
      fun hsound => ?_, fun c hc hp hlen => ?_, rfl⟩
    · rw [hsame, if_pos ⟨rfl, hlen⟩]
      exact addMarks_flags _ tok _ hfix
    · rw [hsame, (badUnder_eq_nil_iff _ _ _).2 hsound]
      split
      · exact addMarks_flights_sound tok _
      · rfl
    · rw [hsame, if_pos ⟨rfl, hlen⟩]
      refine addMarks_flights_failed _ tok _ (fun hnil => ?_)
      rw [(badUnder_eq_nil_iff _ _ _).1 hnil c hc] at hp
      cases hp
  · rw [exec_memorySideAdd s a hfmt, memoryAdd_ordered s.body a ho ha, joinWindow_waits s.body a hlast hexp hheld hroom hw]
  · rw [exec_memorySideAdd s a hfmt, memoryAdd_ordered s.body a ho ha, joinWindow_held s.body a hheld hfull]
  · exact ⟨_, exec_addWindowIncomplete s i, windowTimeout_kept s.body i w hw htime hnone hheld⟩

end Sys2Proof.Proofs
end

section
/-!
PROOFS. States of scratchpad banks (09, R205, R206, R228, Table 9.3): what a keeper's request, the end of a bank's accesses and an access do.
-/

namespace Sys2Proof.Proofs

open Sys2Proof Sys2Proof.Machine Sys2Proof.Laws

theorem exec_bankStateRequest (s : State) (k st : Nat) (hk : k < 192) (hst : st < 4) :
    exec (.bankStateRequest k st) s = .next { s with body := s.body.bankRequest k st } :=
  onBody_of (decide (k < 192) && decide (st < 4)) s (fun b => b.bankRequest k st) (by simp [hk, hst])

theorem exec_bankStateEnter (s : State) (k : Nat) (hk : k < 192) :
    exec (.bankStateEnter k) s = .next { s with body := s.body.bankEnter k } :=
  onBody_of (decide (k < 192)) s (fun b => b.bankEnter k) (decide_eq_true hk)

theorem exec_bankWake (s : State) (k : Nat) (hk : k < 192) : exec (.bankWake k) s = .next { s with body := s.body.bankWake k } :=
  onBody_of (decide (k < 192)) s (fun b => b.bankWake k) (decide_eq_true hk)

/-! ## Bytes of a bank -/

/-- R205: a bank from OFF reads zeros, whatever lay there. -/
def zeroed (m : Store) (k : Nat) : Store :=
  { m with
    cells := Memory.clear m.cells (scratchBase + k * bankBytes) bankBytes
    poison := m.poison.filter (fun c => decide (c < (scratchBase + k * bankBytes) / 64) || decide ((scratchBase + k * bankBytes + bankBytes) / 64 ≤ c))
    lists := m.lists.map (fun l => { l with cws := l.cws.filter (fun c =>
      decide (c < (scratchBase + k * bankBytes) / 64) || decide ((scratchBase + k * bankBytes + bankBytes) / 64 ≤ c)) })
    banks := alter k (fun x => { x with state := .on, target := none }) m.banks }

theorem bankOn_off (m : Store) (k : Nat) (h : (m.banks.getD k ⟨.unusable, none⟩).state = .off) : m.bankOn k = zeroed m k := by
  rw [Store.bankOn, h]
  rfl

theorem bankOn_retain (m : Store) (k : Nat) (h : (m.banks.getD k ⟨.unusable, none⟩).state = .retain) :
    m.bankOn k = { m with banks := alter k (fun x => { x with state := .on, target := none }) m.banks } := by
  rw [Store.bankOn, h]

/-- The last byte of bank `k` is the one before bank `k + 1`. -/
theorem bank_end (k : Nat) : scratchBase + k * bankBytes + bankBytes = scratchBase + (k + 1) * bankBytes := by
  rw [Nat.add_mul, Nat.one_mul, Nat.add_assoc]

theorem zeroed_get (m : Store) (k a : Nat) : (zeroed m k).cells.get a =
    if scratchBase + k * bankBytes ≤ a ∧ a < scratchBase + (k + 1) * bankBytes then 0 else m.cells.get a := by
  rw [zeroed, memory_get_clear, bank_end]

theorem zeroed_byte_other (m : Store) (k a : Nat)
    (h : ¬(scratchBase + k * bankBytes ≤ a ∧ a < scratchBase + (k + 1) * bankBytes)) : (zeroed m k).byte a = m.byte a := by
  have hget : (zeroed m k).cells.get a = m.cells.get a := by rw [zeroed_get, if_neg h]
  unfold Store.byte
  rw [hget]
  rfl

/-! ## BANK_STATE_REQUEST, BANK_STATE_ENTER (R205, R206) -/

section Request

variable {b : Body} {k : Nat} (hf : b.fenced (k / 96) = false)
include hf

/-- A request for ON that finds the bank in RETAIN or OFF is met at once. -/
theorem bankRequest_on (st : BankState) (h : (b.store.banks.getD k ⟨.unusable, none⟩).state = st) (hst : st = .retain ∨ st = .off) :
    b.bankRequest k 2 = { b with store := b.store.bankOn k } := by
  rcases hst with rfl | rfl <;> simp only [Body.bankRequest, hf, h, Bool.false_eq_true, if_false]

theorem bankRequest_retain (h : (b.store.banks.getD k ⟨.unusable, none⟩).state = .on) (hm : b.mayRetain k = true) :
    b.bankRequest k 1 = { b with store := { b.store with banks := alter k (fun x => { x with target := some .retain }) b.store.banks } } := by
  simp only [Body.bankRequest, hf, h, hm, Bool.false_eq_true, if_false, if_true]

theorem bankRequest_off (h : (b.store.banks.getD k ⟨.unusable, none⟩).state = .on) (ho : b.bankOwner k = none) :
    b.bankRequest k 0 = { b with store := { b.store with banks := alter k (fun x => { x with target := some .off }) b.store.banks } } := by
  simp only [Body.bankRequest, hf, h, ho, Option.isNone_none, Bool.false_eq_true, if_false, if_true]

theorem bankEnter_target (st : BankState) (h : (b.store.banks.getD k ⟨.unusable, none⟩).target = some st) :
    b.bankEnter k = { b with store := { b.store with banks := alter k (fun _ => ⟨st, none⟩) b.store.banks } } := by
  simp only [Body.bankEnter, hf, h, Bool.false_eq_true, if_false]

/-! ## BANK_WAKE (R206) -/

theorem bankWake_retain (p : Nat) (h : (b.store.banks.getD k ⟨.unusable, none⟩).state = .retain) (ho : b.bankOwner k = some p) :
    b.bankWake k = { b with store := { b.store with
      banks := alter k (fun x => { x with state := .on, target := none }) b.store.banks,
      spad := alter (k / 96) (fun m => { m with wakes := (m.wakes + 1) % 2 ^ 64 }) b.store.spad } } := by
  simp only [Body.bankWake, h, ho, Body.wakeBank, hf, bankOn_retain b.store k h]
  rfl

/-- An access to a bank in OFF is dropped, counted and reported. -/
theorem bankWake_off (h : (b.store.banks.getD k ⟨.unusable, none⟩).state = .off) : ∃ ps wh mf sc dv,
    b.bankWake k = { b with
      store := { b.store with spad := alter (k / 96) (fun m => { m with accessBad := (m.accessBad + 1) % 2 ^ 32 }) b.store.spad },
      whistle := { b.whistle with pages := ps, wh := wh, moduleFirst := mf }, score := sc, doves := dv } := by
  have hbad : b.bankWake k = b.bankBad k := by
    simp only [Body.bankWake, h]
  have hcount : b.store.alterSpadOf b.fenced (k / 96) (fun m => { m with accessBad := wrap 32 (m.accessBad + 1) }) =
      { b.store with spad := alter (k / 96) (fun m => { m with accessBad := (m.accessBad + 1) % 2 ^ 32 }) b.store.spad } := by
    rw [Store.alterSpadOf, hf, if_neg Bool.false_ne_true]
    rfl
  rw [hbad, Body.bankBad, hcount]
  exact message_contained_form _ tScratch (k / 96) kBankAccess k false false

end Request

/-! ## Banks of a FENCED half (R228) -/

section Fenced

variable {b : Body} {k : Nat} (hf : b.fenced (k / 96) = true)
include hf

theorem bankRequest_fenced (st : Nat) : b.bankRequest k st = b := if_pos hf

theorem bankEnter_fenced : b.bankEnter k = b := by
  simp only [Body.bankEnter, hf, if_true]

theorem bankWake_fenced (p : Nat) (h : (b.store.banks.getD k ⟨.unusable, none⟩).state = .retain) (ho : b.bankOwner k = some p) :
    b.bankWake k = b := by
  simp only [Body.bankWake, h, ho, Body.wakeBank, hf]

end Fenced

/-- Settles O37: each clause is one row of Table 9.3, read from the bank's state, its owner and its half. -/
theorem bankStates : Obligations.BankStates := by
  refine ⟨fun s k hk hf h => ?_, fun s k hk hf h => ?_, fun s k hk hf h hm => ?_, fun s k hk hf h ho => ?_, fun s k st hk hf h => ?_,
    fun s k p hk hf h ho => ?_, fun s k hk hf h => ?_, fun s k st hk hst hf => ⟨?_, ?_⟩, fun s k p hk hf h ho => ?_⟩
  · rw [exec_bankStateRequest s k 2 hk (by decide), bankRequest_on hf _ h (.inl rfl), bankOn_retain _ _ h]
  · refine ⟨_, exec_bankStateRequest s k 2 hk (by decide), rfl, rfl, ?_⟩
    dsimp only
    rw [bankRequest_on hf _ h (.inr rfl), bankOn_off _ _ h]
    exact ⟨rfl, fun a hlo hhi => (zeroed_get _ k a).trans (if_pos ⟨hlo, hhi⟩), fun a ha => zeroed_byte_other _ k a ha, rfl⟩
  · rw [exec_bankStateRequest s k 1 hk (by decide), bankRequest_retain hf h hm]
  · rw [exec_bankStateRequest s k 0 hk (by decide), bankRequest_off hf h ho]
  · rw [exec_bankStateEnter s k hk, bankEnter_target hf st h]
  · rw [exec_bankWake s k hk, bankWake_retain hf p h ho]
  · obtain ⟨_, _, _, _, _, hform⟩ := bankWake_off hf h
    refine ⟨_, exec_bankWake s k hk, ?_⟩
    dsimp only
    rw [hform]
    exact ⟨rfl, rfl⟩
  · rw [exec_bankStateRequest s k st hk hst, bankRequest_fenced hf]
  · rw [exec_bankStateEnter s k hk, bankEnter_fenced hf]
  · rw [exec_bankWake s k hk, bankWake_fenced hf p h ho]

end Sys2Proof.Proofs
end

section
/-!
PROOFS. Channels that leave service and halves that come back (09, R226, R402, Table 9.13; 15, R369): a retirement begins with its row, and a
half that its own fatal fault fenced is tested afresh and rejoins.
-/

namespace Sys2Proof.Proofs

open Sys2Proof Sys2Proof.Machine Sys2Proof.Laws

/-! ## What the first step of a retirement leaves (Table 9.13) -/

/-- `c` is as `b` in its memory, and in the state and the grant of every partition. -/
structure Standing (b c : Body) : Prop where
  store : c.store = b.store
  part : ∀ p, (c.part p).fstate = (b.part p).fstate ∧ (c.part p).grant = (b.part p).grant

theorem Standing.refl (b : Body) : Standing b b := ⟨rfl, fun _ => ⟨rfl, rfl⟩⟩

theorem Standing.trans {b c d : Body} (h : Standing b c) (k : Standing c d) : Standing b d :=
  ⟨k.store.trans h.store, fun p => ⟨(k.part p).1.trans (h.part p).1, (k.part p).2.trans (h.part p).2⟩⟩

theorem Standing.foldl {α : Type} (f : Body → α → Body) (hf : ∀ b a, Standing b (f b a)) (as : List α) (b : Body) :
    Standing b (as.foldl f b) :=
  List.foldlRecOn as f (motive := Standing b) (.refl b) (fun _ hc a _ => hc.trans (hf _ a))

/-- Snapshots are no part of what stands. -/
theorem SameWork.standing {p : Nat} {b c : Body} (h : SameWork p b c) : Standing b c where
  store := h.store
  part q := by
    by_cases hq : q = p
    · subst hq
      obtain ⟨sn, hpart⟩ := h.part
      rw [hpart]
      exact ⟨rfl, rfl⟩
    · rw [h.others q hq]
      exact ⟨rfl, rfl⟩

theorem stopUnits_standing (b : Body) (is_ : List Nat) : Standing b (b.stopUnits is_) := ⟨rfl, fun _ => ⟨rfl, rfl⟩⟩

/-- A partition whose grant a retirement touches: what it was copying is discarded, and its units are asked to stop. -/
def yields (r : Retirement) (kind : Nat) (b : Body) (p : Nat) : Body :=
  if r.touches (b.part p).grant then
    (if ((b.failSnapshot p kind).part p).fstate = .running then
      (b.failSnapshot p kind).stopUnits ((b.failSnapshot p kind).part p).pitches else b.failSnapshot p kind)
  else b

theorem yields_standing (r : Retirement) (kind : Nat) (b : Body) (p : Nat) : Standing b (yields r kind b p) := by
  have hfail : Standing b (b.failSnapshot p kind) := (failSnapshot_sameWork b p kind).standing
  unfold yields
  split
  · split
    · exact hfail.trans (stopUnits_standing _ _)
    · exact hfail
  · exact .refl b

theorem beginRetire_eq (b : Body) (inf out : List Nat) (kind : Nat) (hpend : b.store.pendingRetire = [])
    (hinf : ∀ x ∈ inf, x ∉ b.store.retired) (hout : ∀ x ∈ out, x ∉ b.store.outRetired) (hsome : (inf.isEmpty && out.isEmpty) = false) :
    b.beginRetire inf out kind =
      { (List.range 4).foldl (yields ⟨inf, out⟩ kind) b with
        store := { ((List.range 4).foldl (yields ⟨inf, out⟩ kind) b).store with
          pendingRetire := ((List.range 4).foldl (yields ⟨inf, out⟩ kind) b).store.pendingRetire ++ [⟨inf, out⟩] } } := by
  have hin : inf.filter (fun s => !b.store.retired.contains s && !b.store.pendingRetire.any (fun r => r.infield.contains s)) = inf :=
    List.filter_eq_self.2 fun x hx => by simp [hpend, hinf x hx]
  have hou : out.filter (fun s => !b.store.outRetired.contains s && !b.store.pendingRetire.any (fun r => r.outfield.contains s)) = out :=
    List.filter_eq_self.2 fun x hx => by simp [hpend, hout x hx]
  simp only [Body.beginRetire, hin, hou, hsome, Bool.false_eq_true, if_false]
  rfl

/-- R224: a retirement is under way, with no byte and no grant changed before the next beat boundary. -/
theorem beginRetire_pends (b : Body) (inf out : List Nat) (kind : Nat) (hpend : b.store.pendingRetire = [])
    (hinf : ∀ x ∈ inf, x ∉ b.store.retired) (hout : ∀ x ∈ out, x ∉ b.store.outRetired) (hsome : (inf.isEmpty && out.isEmpty) = false) :
    (b.beginRetire inf out kind).store = { b.store with pendingRetire := [⟨inf, out⟩] } ∧
    ∀ p, ((b.beginRetire inf out kind).part p).fstate = (b.part p).fstate ∧
      ((b.beginRetire inf out kind).part p).grant = (b.part p).grant := by
  have hstand := Standing.foldl (yields ⟨inf, out⟩ kind) (yields_standing ⟨inf, out⟩ kind) (List.range 4) b
  rw [beginRetire_eq b inf out kind hpend hinf hout hsome]
  generalize (List.range 4).foldl (yields ⟨inf, out⟩ kind) b = c at hstand ⊢
  refine ⟨?_, hstand.part⟩
  dsimp only
  rw [hstand.store, hpend, List.nil_append]

/-! ## CHANNEL_RETIRE (R226) -/

theorem exec_channelRetire (s : State) (c : Nat) (hc : c < 392) :
    exec (.channelRetire c) s = .next { s with body := s.body.channelRetire c } :=
  onBody_of (decide (c < 392)) s (fun b => b.channelRetire c) (decide_eq_true hc)

/-- Neither its stack nor its package takes others out with a channel. -/
def aloneOut (b : Body) (c : Nat) : Prop :=
  ¬(c < 384 ∧ (b.store.stackCtl.getD (c / 32) MemCtl.reset).level = .shutdown) ∧
  ¬(384 ≤ c ∧ (List.range' ((c - 384) / 4 * 4 + 384) 4).all b.chanFailed = true)

theorem channelRetire_alone (b : Body) (c : Nat) (h : aloneOut b c) :
    b.channelRetire c = if b.chanFailed c then b.retireChannels [c] kChannelFailed else b := by
  rw [Body.channelRetire, if_neg h.1, if_neg h.2]

theorem aloneOut_infield (b : Body) (c : Nat) (hc : c < 384) (hl : (b.store.stackCtl.getD (c / 32) MemCtl.reset).level ≠ .shutdown) :
    aloneOut b c := ⟨fun h => hl h.2, fun h => absurd h.1 (by omega)⟩

/-- A channel of the same outfield half is still in service. -/
theorem aloneOut_outfield (b : Body) (c d : Nat) (hc : 384 ≤ c) (hd : d / 4 = c / 4) (hf : b.chanFailed d = false) : aloneOut b c := by
  refine ⟨fun h => absurd h.1 (by omega), fun h => ?_⟩
  have hmem : d ∈ List.range' ((c - 384) / 4 * 4 + 384) 4 := List.mem_range'_1.2 (by omega)
  rw [List.all_eq_true.1 h.2 d hmem] at hf
  cases hf

theorem retireChannels_infield (b : Body) (c kind : Nat) (hc : c < 384) :
    b.retireChannels [c] kind = b.beginRetire [b.chanSlot c] [] kind := by
  simp [Body.retireChannels, hc]

theorem retireChannels_outfield (b : Body) (c kind : Nat) (hc : 384 ≤ c) :
    b.retireChannels [c] kind = b.beginRetire [] [b.chanSlot c] kind := by
  simp [Body.retireChannels, hc]

/-! ## HALF_RETURN (R369, R402) -/

theorem exec_halfReturn (s : State) (h : Nat) (t : SelfTest) (hh : h < 2) :
    exec (.halfReturn h t) s = .next { s with body := s.body.halfReturn s.vault h t } :=
  onBody_of (decide (h < 2)) s (fun b => b.halfReturn s.vault h t) (decide_eq_true hh)

/-- A clean self-test finds nothing in either half, excludes nothing and writes no record. -/
theorem cleanTest_ofHalf (h : Nat) : SelfTest.ofHalf (SelfTest.judged cleanTest) h = cleanTest := rfl

theorem marks_cleanTest : marks cleanTest = [] := by decide +kernel

/-- The runs of the ball machines stand in registers of the memories alone. -/
theorem ballResults_form (g : Nat → BallResult) (cs : List Nat) (b : Body) : ∃ sc oc,
    cs.foldl (fun b c => b.ballResult c (g c)) b = { b with store := { b.store with stackCtl := sc, outCtl := oc } } := by
  induction cs generalizing b with
  | nil => exact ⟨b.store.stackCtl, b.store.outCtl, rfl⟩
  | cons c cs ih =>
    obtain ⟨sc, oc, hball, -⟩ := ballResult_form b c (g c)
    rw [List.foldl_cons, hball]
    exact ih _

theorem runBalls_form (b : Body) (t : SelfTest) (hs : List Nat) : ∃ sc oc,
    b.runBalls t hs = { b with store := { b.store with stackCtl := sc, outCtl := oc } } := by
  unfold Body.runBalls
  generalize (List.range 392).filter _ = cs
  exact ballResults_form _ cs b

/-- R402: what testing a half afresh can change; the state of start-up is not part of it. -/
theorem retest_form (b : Body) (t : SelfTest) (h : Nat) : ∃ ps es nt bt sc oc,
    b.retest t h = { b with
      pitches := ps, engines := es, net := nt, boot := bt, keepers := (b.testKeepers t [h]).keepers,
      store := { b.store.testBanks t [h] with stackCtl := sc, outCtl := oc } } ∧ bt.start = b.boot.start := by
  obtain ⟨sc, oc, hballs⟩ := runBalls_form
    { (((b.testUnits t [h]).testKeepers t [h]).testLinks t [h]).testExclude t [h] with
      store := (((b.testUnits t [h]).testKeepers t [h]).testLinks t [h]).testExclude t [h] |>.store.testBanks t [h] } t [h]
  exact ⟨_, _, _, _, sc, oc, hballs, rfl⟩

theorem unionRising_mem (xs ys : List Nat) (c : Nat) : c ∈ unionRising xs ys ↔ c ∈ xs ∨ c ∈ ys := by
  induction xs generalizing ys with
  | nil => simp [unionRising]
  | cons x xs ih =>
    have hstep : unionRising (x :: xs) ys = unionRising xs (insertRising x ys) := rfl
    rw [hstep, ih, mem_insertRising, List.mem_cons]
    tauto

/-- What a half that comes back has done to the module. -/
structure Rejoined (b c : Body) (h : Nat) : Prop where
  halves : c.whistle.halves = alter h (fun _ => ⟨none, none, false⟩) b.whistle.halves
  keepers : c.keepers = (b.testKeepers cleanTest [h]).keepers
  banks : c.store.banks = (b.store.testBanks cleanTest [h]).banks
  start : c.boot.start = b.boot.start
  parts : c.parts = b.parts
  retired : c.store.retired = b.store.retired
  returning : ∀ x ∈ c.store.returning, x ∈ b.store.returning ∨ x ∈ b.store.retired
  active : c.active = b.active

/-- R369: only slots that are in RETIRED come back. -/
theorem comingBack_retired (b : Body) (t : SelfTest) (h : Nat) : ∀ x ∈ (b.comingBack t h).1, x ∈ b.store.retired := fun x hx => by
  simpa using (List.mem_filter.1 hx).2

theorem rejoin_rejoined (b : Body) (h : Nat) : Rejoined b (b.rejoin cleanTest h) h := by
  obtain ⟨ps, es, nt, bt, sc, oc, hform, hstart⟩ := retest_form (b.setHalf h ⟨none, none, false⟩) cleanTest h
  have hback := comingBack_retired b cleanTest h
  simp only [Body.rejoin, hform]
  generalize (b.comingBack cleanTest h).1 = xs at hback ⊢
  refine ⟨rfl, rfl, rfl, hstart, rfl, rfl, fun x hx => ?_, rfl⟩
  exact ((unionRising_mem xs b.store.returning x).1 hx).elim (fun h => .inr (hback x h)) .inl

/-- Counting what the tests found, and units that show their state, leave the rest. -/
theorem Rejoined.shown {b c : Body} {h : Nat} (hr : Rejoined b c h) (sc : Score) :
    Rejoined b ({ c.countTests with score := sc } : Body).refreshUnits h where
  halves := hr.halves
  keepers := hr.keepers
  banks := hr.banks
  start := hr.start
  parts := hr.parts
  retired := hr.retired
  returning := hr.returning
  active := hr.active

/-- R296: the keepers of a half that has been tested without a finding leave reset from ROM. -/
theorem testKeepers_clean (b : Body) (h k : Nat) (hk : k < b.keepers.cores.length) (hh : k / 4 = h) :
    (b.testKeepers cleanTest [h]).keeper k = ⟨.on, false, b.clock.now, none, false⟩ := by
  have hcov : covers [h] (k / 4) = true := by simp [covers, hh]
  show (b.keepers.cores.zipIdx.map _).getD k _ = _
  rw [zipIdx_map_getD, if_pos hk]
  simp only [hcov, if_true]
  rfl

theorem Rejoined.keeper {b c : Body} {h : Nat} (hr : Rejoined b c h) (hlen : b.keepers.cores.length = 8) (k : Nat) (hk : k < 8)
    (hh : k / 4 = h) : c.keeper k = ⟨.on, false, b.clock.now, none, false⟩ := by
  rw [← testKeepers_clean b h k (by omega) hh, Body.keeper, hr.keepers]
  rfl

/-- R400: a half with a keeper for every role leaves no role lost. -/
theorem Rejoined.roleLost {b c : Body} {h : Nat} (hr : Rejoined b c h) (hlen : b.keepers.cores.length = 8) (hh : h < 2) :
    c.roleLost = false := by
  simp only [Body.roleLost, List.any_eq_false, List.mem_range, Bool.and_eq_true, not_and, Bool.not_eq_true]
  intro r hr4 hfail
  by_cases h0 : h = 0
  · rw [hr.keeper hlen r (by omega) (by omega)] at hfail
    cases hfail
  · rw [hr.keeper hlen (r + 4) (by omega) (by omega)]

theorem testBanks_clean (m : Store) (h k : Nat) (hk : k < m.banks.length) (hh : k / 96 = h) :
    ((m.testBanks cleanTest [h]).banks.getD k ⟨.unusable, none⟩).state = .on := by
  have hcov : covers [h] (k / 96) = true := by simp [covers, hh]
  have hbank : (m.testBanks cleanTest [h]).banks.getD k ⟨.unusable, none⟩ = ⟨.on, none⟩ := by
    show (m.banks.zipIdx.map _).getD k _ = _
    rw [zipIdx_map_getD, if_pos hk]
    simp only [hcov, if_true]
    rfl
  rw [hbank]

/-- With no command open none starts. -/
theorem start_idle (v : Vault) (b : Body) (h : b.active = []) : b.start v = b := by
  have hone : startOne v b = none := by simp [startOne, h, nextReady]
  unfold Body.start
  split
  · rw [h, List.length_nil, startReady, hone]
  · rfl

/-- The half returns: it is not fenced, its records are of the RECOVERY phase, and nothing else of the module stops. -/
theorem halfReturn_rejoined (v : Vault) (b : Body) (h : Nat) (hh : h < 2) (hf : (b.half h).fenced = some .fatal)
    (hc : (b.half h).cleared = true) (hs : b.boot.start = .ready) (hl : b.leadRuns = true) (hp : b.store.pendingRetire = [])
    (ha : b.active = []) (hlen : b.keepers.cores.length = 8) : Rejoined b (b.halfReturn v h cleanTest) h := by
  have hjoin : Rejoined b (({ b with score := { b.score with recovering := true } } : Body).rejoin cleanTest h) h :=
    { rejoin_rejoined { b with score := { b.score with recovering := true } } h with }
  have hmay : (b.half h).fenced = some .fatal ∧ (b.half h).cleared ∧ b.boot.start = .ready ∧ b.leadRuns ∧ b.store.pendingRetire = [] :=
    ⟨hf, hc, hs, hl, hp⟩
  have hnone : SelfTest.fences cleanTest h = false := rfl
  simp only [Body.halfReturn, if_pos hmay, cleanTest_ofHalf, hnone, marks_cleanTest, Bool.false_eq_true, if_false,
    Body.selfTestRecords, List.foldl_nil]
  generalize ({ b with score := { b.score with recovering := true } } : Body).rejoin cleanTest h = c at hjoin ⊢
  have hshown := hjoin.shown { c.countTests.score with recovering := false }
  have hroles : ({ c.countTests with score := { c.countTests.score with recovering := false } } : Body).roleLost = false :=
    hjoin.roleLost hlen hh
  rw [hroles, if_neg Bool.false_ne_true, start_idle v _ (hshown.active.trans ha)]
  exact hshown

/-- Settles O38: a row that finds its channel failed begins one retirement, and a half that returns is `Rejoined`. -/
theorem retireAndReturn : Obligations.RetireAndReturn := by
  refine ⟨fun s c hc hfail hlevel hslot hpend => ?_, fun s c hlo hhi hfail hsome hslot hpend => ?_, fun s c hc hfail hlevel => ?_,
    fun s h hh hf hc hs hl hp ha hlen hhalves => ?_⟩
  · have hpends := beginRetire_pends s.body [s.body.chanSlot c] [] kChannelFailed hpend (by simpa using hslot) (by simp) rfl
    refine ⟨_, exec_channelRetire s c (by omega), rfl, rfl, ?_⟩
    dsimp only
    rw [channelRetire_alone _ c (aloneOut_infield _ c hc hlevel), hfail, if_pos rfl, retireChannels_infield _ c _ hc]
    exact hpends
  · obtain ⟨d, hd, hdf⟩ := hsome
    have hpends := beginRetire_pends s.body [] [s.body.chanSlot c] kChannelFailed hpend (by simp) (by simpa using hslot) rfl
    refine ⟨_, exec_channelRetire s c hhi, rfl, rfl, ?_⟩
    dsimp only
    rw [channelRetire_alone _ c (aloneOut_outfield _ c d hlo hd hdf), hfail, if_pos rfl, retireChannels_outfield _ c _ hlo]
    exact hpends
  · have halone : aloneOut s.body c := by
      by_cases h : c < 384
      · exact aloneOut_infield _ c h (hlevel h)
      · exact aloneOut_outfield _ c c (by omega) rfl hfail
    rw [exec_channelRetire s c hc, channelRetire_alone _ c halone, hfail, if_neg Bool.false_ne_true]
  · have hr := halfReturn_rejoined s.vault s.body h hh hf hc hs hl hp ha hlen
    refine ⟨_, exec_halfReturn s h cleanTest hh, rfl, rfl, ?_⟩
    dsimp only
    generalize s.body.halfReturn s.vault h cleanTest = c at hr ⊢
    refine ⟨?_, ?_, fun k hk hkh => ?_, fun k hk hkh => ?_, hr.start.trans hs, hr.parts, hr.retired, hr.returning⟩
    · rw [Body.half, hr.halves, alter_getD, if_pos ⟨rfl, by omega⟩]
    · rw [Body.half, hr.halves, alter_getD, if_neg (by omega)]
      rfl
    · rw [hr.keeper hlen k hk hkh]
      exact ⟨rfl, rfl⟩
    · rw [hr.banks]
      exact testBanks_clean s.body.store h k hk hkh

end Sys2Proof.Proofs
end

section
/-!
PROOFS. WRITE, ADD and DENY flits of a window (10, R244, R245, R247; 09, R206): what a granted flit does to memory, how a refused one is
answered, and what DENY ends.
-/

namespace Sys2Proof.Proofs

open Sys2Proof Sys2Proof.Machine Sys2Proof.Laws

/-! ## The rows -/

/-- A row that acts, as this member or as none, on the flit that it has taken. -/
theorem row_taken_as {s : State} {l code : Nat} {h : FlitHdr} (ht : Taken s l h code) (ok : Bool) (hok : ok = true)
    (k : Option Nat → Body → Body) :
    onBody ok s (fun b => b.receive (b.ownMember s.vault.serial) l h [code] (k (b.ownMember s.vault.serial))) =
      .next { s with body := k (s.body.ownMember s.vault.serial) (s.took l h).body } := by
  rw [onBody_of ok s _ hok, receive_taken ht]

theorem exec_writeFlit {s : State} {l : Nat} {h : FlitHdr} (m : WriteMsg) (errs : List CwError) (ht : Taken s l h 0x20) :
    exec (.writeFlit l h m errs) s =
      .next { s with body := (s.took l h).body.writeArrived (s.body.ownMember s.vault.serial) l h m errs } :=
  row_taken_as ht (decide (l < 48) && h.wf) (by simp [ht.link, ht.wf]) (fun own b => b.writeArrived own l h m errs)

theorem exec_addFlit {s : State} {l : Nat} {h : FlitHdr} (m : AddMsg) (errs : List CwError) (ht : Taken s l h 0x21)
    (hfmt : addFormats m.fmt m.inFmt = true) :
    exec (.addFlit l h m errs) s =
      .next { s with body := (s.took l h).body.addArrived (s.body.ownMember s.vault.serial) l h m errs } :=
  row_taken_as ht (decide (l < 48) && h.wf && addFormats m.fmt m.inFmt) (by simp [ht.link, ht.wf, hfmt])
    (fun own b => b.addArrived own l h m errs)

theorem exec_denyFlit {s : State} {l : Nat} {h : FlitHdr} (ht : Taken s l h 0x22) :
    exec (.denyFlit l h) s = .next { s with body := (s.took l h).body.denyArrived h } :=
  row_taken_as ht (decide (l < 48) && h.wf) (by simp [ht.link, ht.wf]) (fun _ b => b.denyArrived h)

/-- Taking a flit changes links, and no window, no accepted segment and no work of a partition with them. -/
theorem took_windowCheck (s : State) (l w op domain off n : Nat) (h : FlitHdr) :
    (s.took l h).body.windowCheck w op domain off n = s.body.windowCheck w op domain off n := rfl

theorem took_repeatedSegment (s : State) (l : Nat) (h g : FlitHdr) :
    (s.took l h).body.repeatedSegment g = s.body.repeatedSegment g := rfl

theorem took_deniedOp (s : State) (l : Nat) (h g : FlitHdr) : (s.took l h).body.deniedOp g = s.body.deniedOp g := rfl

/-- A taken flit advances the SEQ that its own link expects; no other link is touched. -/
theorem took_rxSeq {s : State} {l : Nat} (h : FlitHdr) (hl : l < s.body.net.links.length) :
    ((s.took l h).body.link l).rxSeq = ((s.body.link l).rxSeq + 1) % 4096 := by
  unfold State.took
  dsimp only
  rw [alterLink_same _ _ _ hl]

theorem took_link_other (s : State) (l k : Nat) (h : FlitHdr) (hk : k ≠ l) : (s.took l h).body.link k = s.body.link k :=
  alterLink_other s.body l k _ hk

/-! ## A segment acted on once (R247) -/

/-- The module with the segment of the flit noted as accepted. -/
def noted (b : Body) (h : FlitHdr) : Body := { b with net := { b.net with accepted := noteKey b.net.accepted (segKey h) } }

theorem once_noted (b : Body) (h : FlitHdr) (k : Body → Body) (hr : b.repeatedSegment h = false) : b.once h k = k (noted b h) := by
  rw [Body.once, hr, if_neg Bool.false_ne_true]
  rfl

theorem once_repeated (b : Body) (h : FlitHdr) (k : Body → Body) (hr : b.repeatedSegment h = true) : b.once h k = b := by
  rw [Body.once, hr, if_pos rfl]

/-! ## The banks that a request touches (R206) -/

/-- A bank that drops what is asked of it. -/
def refuses (m : Store) (k : Nat) : Bool :=
  match (m.banks.getD k ⟨.unusable, none⟩).state with
  | .off | .unusable => true
  | _ => false

theorem refuses_on {m : Store} {k : Nat} (h : (m.banks.getD k ⟨.unusable, none⟩).state = .on) : refuses m k = false := by
  rw [refuses, h]

theorem refuses_off {m : Store} {k : Nat} (h : (m.banks.getD k ⟨.unusable, none⟩).state = .off) : refuses m k = true := by
  rw [refuses, h]

theorem openBanks_eq (b : Body) (a n : Nat) : b.openBanks a n =
    (((b.store.banksAt a n).filter (refuses b.store)).foldl Body.bankBad ((b.store.banksAt a n).foldl Body.wakeBank b),
      ((b.store.banksAt a n).filter (refuses b.store)).isEmpty) := rfl

/-- A request to banks that are all ON changes none of them, and goes on. -/
theorem openBanks_on (b : Body) (a n : Nat)
    (h : ∀ k ∈ b.store.banksAt a n, (b.store.banks.getD k ⟨.unusable, none⟩).state = .on) : b.openBanks a n = (b, true) := by
  have hwake : (b.store.banksAt a n).foldl Body.wakeBank b = b :=
    List.foldlRecOn _ Body.wakeBank (motive := (· = b)) rfl (fun c hc k hk => by rw [hc, wakeBank_on b k (h k hk)])
  have hnone : (b.store.banksAt a n).filter (refuses b.store) = [] :=
    List.filter_eq_nil_iff.2 fun k hk => by simp [refuses_on (h k hk)]
  rw [openBanks_eq, hwake, hnone]
  rfl

/-- `c` holds the bytes of `b`, and its partitions. -/
def Untouched (b c : Body) : Prop := c.store.cells = b.store.cells ∧ c.parts = b.parts

theorem Untouched.foldl {α : Type} (f : Body → α → Body) (hf : ∀ b a, Untouched b (f b a)) (as : List α) (b : Body) :
    Untouched b (as.foldl f b) :=
  List.foldlRecOn as f (motive := Untouched b) ⟨rfl, rfl⟩ (fun c hc a _ => ⟨(hf c a).1.trans hc.1, (hf c a).2.trans hc.2⟩)

/-- R205: a bank that wakes has its content. -/
theorem wakeBank_untouched (b : Body) (k : Nat) : Untouched b (b.wakeBank k) := by
  unfold Body.wakeBank
  split
  · next hret =>
    refine ⟨?_, rfl⟩
    simp only [Store.alterSpad, Store.bankOn, hret]
  · exact ⟨rfl, rfl⟩

theorem bankBad_untouched (b : Body) (k : Nat) : Untouched b (b.bankBad k) := by
  obtain ⟨_, _, _, _, _, hform⟩ := message_contained_form
    { b with store := b.store.alterSpadOf b.fenced (k / 96) (fun m => { m with accessBad := wrap 32 (m.accessBad + 1) }) }
    tScratch (k / 96) kBankAccess k false false
  have hcells : (b.store.alterSpadOf b.fenced (k / 96) (fun m => { m with accessBad := wrap 32 (m.accessBad + 1) })).cells =
      b.store.cells := by
    unfold Store.alterSpadOf
    split <;> rfl
  rw [Body.bankBad, Body.raise, hform]
  exact ⟨hcells, rfl⟩

theorem openBanks_untouched (b : Body) (a n : Nat) : Untouched b (b.openBanks a n).1 := by
  have hwake := Untouched.foldl Body.wakeBank wakeBank_untouched (b.store.banksAt a n) b
  have hbad := fun bad => Untouched.foldl Body.bankBad bankBad_untouched bad ((b.store.banksAt a n).foldl Body.wakeBank b)
  exact ⟨(hbad _).1.trans hwake.1, (hbad _).2.trans hwake.2⟩

/-- One bank that is OFF stops the whole request. -/
theorem openBanks_off (b : Body) (a n k : Nat) (hk : k ∈ b.store.banksAt a n)
    (hoff : (b.store.banks.getD k ⟨.unusable, none⟩).state = .off) : (b.openBanks a n).2 = false :=
  List.isEmpty_eq_false_iff.2 (List.ne_nil_of_mem (List.mem_filter.2 ⟨hk, refuses_off hoff⟩))

/-! ## WRITE (R244) -/

section Write

variable {b : Body} {own : Option Nat} {l a p : Nat} {h : FlitHdr} {m : WriteMsg}

theorem writeArrived_granted (errs : List CwError) (hg : b.windowCheck h.window 0 m.domain m.off m.bytes.length = .granted a p)
    (hr : b.repeatedSegment h = false) : b.writeArrived own l h m errs =
      if ((noted b h).openBanks a m.bytes.length).2 then
        { ((noted b h).openBanks a m.bytes.length).1.readErrors (mergeErrors a m.bytes.length errs) with
          store := (((noted b h).openBanks a m.bytes.length).1.readErrors (mergeErrors a m.bytes.length errs)).store.writeBytes a m.bytes }
      else ((noted b h).openBanks a m.bytes.length).1 := by
  simp only [Body.writeArrived, hg, once_noted b h _ hr]

theorem writeArrived_on (hg : b.windowCheck h.window 0 m.domain m.off m.bytes.length = .granted a p) (hr : b.repeatedSegment h = false)
    (hon : ∀ k ∈ b.store.banksAt a m.bytes.length, (b.store.banks.getD k ⟨.unusable, none⟩).state = .on) :
    b.writeArrived own l h m [] = { noted b h with store := b.store.writeBytes a m.bytes } := by
  have hmerge : mergeErrors a m.bytes.length [] = [] := rfl
  rw [writeArrived_granted [] hg hr, openBanks_on (noted b h) a _ hon, if_pos rfl, hmerge, readErrors_nil]
  rfl

theorem writeArrived_repeated (errs : List CwError) (hg : b.windowCheck h.window 0 m.domain m.off m.bytes.length = .granted a p)
    (hr : b.repeatedSegment h = true) : b.writeArrived own l h m errs = b := by
  simp only [Body.writeArrived, hg, once_repeated b h _ hr]

theorem writeArrived_off (errs : List CwError) (k : Nat)
    (hg : b.windowCheck h.window 0 m.domain m.off m.bytes.length = .granted a p) (hk : k ∈ b.store.banksAt a m.bytes.length)
    (hoff : (b.store.banks.getD k ⟨.unusable, none⟩).state = .off) : Untouched b (b.writeArrived own l h m errs) := by
  cases hr : b.repeatedSegment h with
  | true =>
    rw [writeArrived_repeated errs hg hr]
    exact ⟨rfl, rfl⟩
  | false =>
    rw [writeArrived_granted errs hg hr, openBanks_off (noted b h) a _ k hk hoff, if_neg Bool.false_ne_true]
    exact openBanks_untouched (noted b h) a _

theorem writeArrived_grace (errs : List CwError) (hg : b.windowCheck h.window 0 m.domain m.off m.bytes.length = .grace) :
    b.writeArrived own l h m errs = b := by
  simp only [Body.writeArrived, hg]

theorem writeArrived_denied (errs : List CwError) (hd : b.windowCheck h.window 0 m.domain m.off m.bytes.length = .denied) :
    b.writeArrived own l h m errs = b.deny own l h := by
  simp only [Body.writeArrived, hd]

end Write

/-! ## ADD (R213, R245) -/

/-- An integer add that its window allows is a memory-side add of its partition. -/
theorem addArrived_int32 (b : Body) (own : Option Nat) (l a p v : Nat) (h : FlitHdr) (m : AddMsg) (ho : m.ordered = false)
    (hf : m.fmt = .int32) (hi : m.inFmt = .int32) (hv : m.values = [v])
    (hg : b.windowCheck h.window 2 m.domain m.off 4 = .granted a p) (hr : b.repeatedSegment h = false) :
    b.addArrived own l h m [] = (noted b h).memoryAdd (int32Add a v h.src m.expected m.last p 0) := by
  have hbytes : m.values.length * (m.fmt.bits / 8) = 4 := by simp [hv, hf, Arith.Fmt.bits]
  simp only [Body.addArrived, hbytes, ho, Bool.false_eq_true, if_false, hg, once_noted b h _ hr]
  rw [hf, hi, hv]
  rfl

/-! ## DENY sent (R245, R249) -/

/-- A link on which a flit has been refused. -/
def countDenied (g : Link) : Link := { g with denied := wrap 16 (g.denied + 1) }

/-- A link that has noted a bad frame at a moment, and forgotten those before the window. -/
def noteBad (now window : Nat) (g : Link) : Link := { g with badAt := now :: g.badAt.filter (fun x => decide (now < x + window)) }

/-- The answer to a refused flit: it names the flit's operation and segment. -/
def denyFlit (own : Nat) (h : FlitHdr) : Flit := ⟨{ ownHdr fDeny 0 h.part own h.src 0 h.segment with op := h.op }, .deny⟩

def answersTo (h : FlitHdr) (f : Flit) : Prop :=
  f.hdr.type = 0x22 ∧ f.hdr.part = h.part ∧ f.hdr.op = h.op ∧ f.hdr.dst = h.src ∧ f.hdr.window = 0 ∧ f.hdr.segment = h.segment

theorem answersTo_lasting (h : FlitHdr) : Lasting (answersTo h) where
  numbered f hf := by rw [hf.1]; rfl
  renumbered _ _ _ hf := hf

/-- `k` is in the state of `g`, with its refused and bad flits. -/
def SameCounts (g k : Link) : Prop := k.state = g.state ∧ k.denied = g.denied ∧ k.badAt = g.badAt

theorem Dispatched.sameCounts {g k : Link} (h : Dispatched g k) : SameCounts g k := by
  obtain ⟨_, _, _, _, _, _, _, rfl⟩ := h
  exact ⟨rfl, rfl, rfl⟩

theorem join_served (a : Arb) (g : Link) (f : Flit) : ∃ sv, g.join a f = { g with served := sv } := by
  unfold Link.join
  dsimp only
  split
  · exact ⟨_, rfl⟩
  · split <;> exact ⟨_, rfl⟩

theorem send_sameCounts (a : Arb) (g : Link) (f : Flit) : SameCounts g (g.send a f) := by
  obtain ⟨sv, hjoin⟩ := join_served a g f
  have hqueued : Dispatched g { g with served := sv, queued := g.queued ++ [f] } := ⟨_, _, _, _, _, _, _, rfl⟩
  rw [Link.send, hjoin]
  exact (hqueued.trans (flush_dispatched a _)).sameCounts

theorem acked_sameCounts (a : Arb) (g : Link) (h : FlitHdr) : SameCounts g (g.acked a h) := by
  unfold Link.acked Link.acknowledge
  dsimp only
  split <;> exact (flush_dispatched a _).sameCounts

theorem took_sameCounts (s : State) (l k : Nat) (h : FlitHdr) : SameCounts (s.body.link k) ((s.took l h).body.link k) := by
  unfold State.took
  dsimp only
  rw [alterLink_link]
  split
  · exact acked_sameCounts s.body.arb (s.body.link k) h
  · exact ⟨rfl, rfl, rfl⟩

section Deny

variable {b : Body} {own l : Nat} {h : FlitHdr} {e : Edge}

/-- The module that has counted a refused flit and sent its answer over an edge. -/
def answered (b : Body) (own l : Nat) (h : FlitHdr) (e : Edge) : Body :=
  (b.alterLink l countDenied).alterLink e.primary.outLink (fun g => g.send b.arb (denyFlit own h))

/-- The link that the flit came on, once its answer has been sent. -/
theorem answered_link (hl : l < b.net.links.length) :
    ((answered b own l h e).link l).state = (b.link l).state ∧
    ((answered b own l h e).link l).denied = ((b.link l).denied + 1) % 2 ^ 16 ∧
    ((answered b own l h e).link l).badAt = (b.link l).badAt := by
  unfold answered
  rw [alterLink_link, alterLink_same _ _ _ hl]
  split
  · exact send_sameCounts b.arb (countDenied (b.link l)) (denyFlit own h)
  · exact ⟨rfl, rfl, rfl⟩

theorem answered_keeps (ho : e.primary.outLink < b.net.links.length) :
    Keeps ((answered b own l h e).link e.primary.outLink) (answersTo h) := by
  rw [answered, alterLink_same _ _ _ (by rwa [alterLink_length])]
  exact send_keeps (answersTo_lasting h) _ _ _ ⟨rfl, rfl, rfl, rfl, rfl, rfl⟩

theorem badFrame_below (b : Body) (own : Option Nat) (l : Nat) (hl : l < b.net.links.length)
    (hroom : ((b.link l).badAt.filter (fun x => decide (b.clock.now < x + b.book.tables.link.badFrameWindowNs))).length + 1 <
      b.book.tables.link.badFrameLimit) :
    b.badFrame own l = b.alterLink l (noteBad b.clock.now b.book.tables.link.badFrameWindowNs) := by
  have hlink := alterLink_same b l (noteBad b.clock.now b.book.tables.link.badFrameWindowNs) hl
  have hfew : ¬b.book.tables.link.badFrameLimit ≤
      ((b.alterLink l (noteBad b.clock.now b.book.tables.link.badFrameWindowNs)).link l).badAt.length := by
    rw [hlink, noteBad, List.length_cons]
    exact Nat.not_le.2 hroom
  exact if_neg hfew

theorem deny_answers (he : b.edge? own h.src = some e) (hup : (b.link e.primary.outLink).state = .up) (hl : l < b.net.links.length)
    (hroom : ((b.link l).badAt.filter (fun x => decide (b.clock.now < x + b.book.tables.link.badFrameWindowNs))).length + 1 <
      b.book.tables.link.badFrameLimit) : b.deny (some own) l h =
    (answered b own l h e).alterLink l (noteBad b.clock.now b.book.tables.link.badFrameWindowNs) := by
  have hedge : (b.alterLink l (fun g => { g with denied := wrap 16 (g.denied + 1) })).edge? own h.src = some e := he
  have hstate : ((b.alterLink l countDenied).link e.primary.outLink).state = .up := by
    rw [alterLink_link]
    split
    · exact hup
    · exact hup
  have hsend := sendEdge_primary (b.alterLink l countDenied) own h.src (denyFlit own h) e he hstate
  obtain ⟨-, -, hbad⟩ := answered_link (b := b) (own := own) (h := h) (e := e) hl
  have hbelow := badFrame_below (answered b own l h e) (some own) l (by simpa [answered] using hl) (by rw [hbad]; exact hroom)
  calc b.deny (some own) l h
      = ((b.alterLink l countDenied).sendEdge own h.src (denyFlit own h)).badFrame (some own) l := by
        simp only [Body.deny, Option.bind_some, Option.getD_some, hedge]
        rfl
    _ = (answered b own l h e).badFrame (some own) l := by rw [hsend]; rfl
    _ = _ := hbelow

end Deny

/-! ## DENY received (R245) -/

theorem findSome?_only {α β : Type} {f : α → Option β} {xs : List α} {x : α} {y : β} (hx : x ∈ xs)
    (hothers : ∀ z ∈ xs, z ≠ x → f z = none) (hy : f x = some y) : xs.findSome? f = some y := by
  cases hfind : xs.findSome? f with
  | none => exact absurd (List.findSome?_eq_none_iff.1 hfind x hx) (by simp [hy])
  | some w =>
    obtain ⟨z, hz, hw⟩ := List.exists_of_findSome?_eq_some hfind
    by_cases hzx : z = x
    · rw [← hw, hzx, hy]
    · rw [hothers z hz hzx] at hw
      cases hw

/-- DENY names the add that is alone in flight. -/
theorem deniedOp_only (b : Body) (h : FlitHdr) (p : Nat) (fl : Flight) (op : StreamOp) (c : Collective) (hp : p < 4)
    (hothers : ∀ q, q < 4 → q ≠ p → (b.part q).flights = []) (hfl : (b.part p).flights = [fl]) (hop : (b.part p).op? fl = some op)
    (hpay : op.payload = .collective c) (hkind : c.kind = .add) (hsrc : c.source = h.src) (hsent : fl.sent = h.op)
    (hf : fl.failed = none) : b.deniedOp h = some (p, fl, c) := by
  have hcoll : collectiveOf op = some c := by rw [collectiveOf, hpay]
  unfold Body.deniedOp
  refine findSome?_only (List.mem_range.2 hp) (fun q hq hne => ?_) ?_
  · rw [hothers q (List.mem_range.1 hq) hne]
    rfl
  · simp [hfl, hop, hcoll, hf, hsent, hkind, hsrc]

/-- The denied add completes FAILED with write-denied, and nothing else of the partitions or the memory changes. -/
theorem denyArrived_fails (b : Body) (h : FlitHdr) (p : Nat) (fl : Flight) (op : StreamOp) (c : Collective) (hp : p < 4)
    (hlen : p < b.parts.length) (hfl : (b.part p).flights = [fl]) (hop : (b.part p).op? fl = some op)
    (hden : b.deniedOp h = some (p, fl, c)) :
    ((b.denyArrived h).part p).bit? fl.token = some ⟨fl.token, some kWriteDenied⟩ ∧ ((b.denyArrived h).part p).flights = [] ∧
    (∀ q, q ≠ p → (b.denyArrived h).part q = b.part q) ∧ (b.denyArrived h).store = b.store := by
  obtain ⟨rs, hfails⟩ := failFlights_only b p kWriteDenied (fun f _ => f.token == fl.token) fl op hfl hop (by simp)
  obtain ⟨hended, hothers, hstore⟩ := completeFlight_ended { b with net := { b.net with reductions := rs } } p fl op
    (some kWriteDenied) fl.flags fl.invalid hlen hop rfl
  rw [← hfails] at hended hothers hstore
  have hraise := raise_partition_sameWork (b.failFlights p kWriteDenied (fun f _ => f.token == fl.token)) p kWriteDenied
    (c.window + h.segment * 256) hp
  obtain ⟨sn, hpart⟩ := hraise.part
  simp only [Body.denyArrived, hden]
  refine ⟨?_, ?_, fun q hq => (hraise.others q hq).trans (hothers q hq), hraise.store.trans hstore⟩
  · rw [hpart]
    exact hended.bit
  · rw [hpart]
    exact hended.flights.trans ((congrArg _ hfl).trans (by simp))

/-- Settles O50: each flit is taken first (`State.took`); what it then does is read from the answer of its window, or of the operation that
it names. -/
theorem windowFlits : Obligations.WindowFlits := by
  refine ⟨fun s l a p h m ht hg hr hon => ?_, fun s l a p h m errs ht hg hr => ?_, fun s l a p k h m errs ht hg hk hoff => ?_,
    fun s l a p v h m ht ho hf hi hv hg ha hr => ?_, fun s l own h m e errs ht hd hown he hup hroom => ?_,
    fun s l h m errs ht hg => ?_, fun s l p h fl c op ht hp hlen hothers hfl hop hpay hkind hsrc hsent hf => ?_,
    fun s l h ht hnone => ?_⟩
  · refine ⟨_, exec_writeFlit m [] ht, rfl, rfl, ?_⟩
    dsimp only
    rw [writeArrived_on (b := (s.took l h).body) hg hr hon]
    refine ⟨fun i hi => ?_, fun x hx => ?_, took_rxSeq h ht.fitted, fun k hk => took_link_other s l k h hk, rfl⟩
    · exact (writeBytes_byte _ _ _ _).trans (by rw [if_pos ⟨by omega, by omega⟩, Nat.add_sub_cancel_left])
    · exact (writeBytes_byte _ _ _ _).trans (if_neg hx)
  · rw [exec_writeFlit m errs ht, writeArrived_repeated (b := (s.took l h).body) errs hg hr]
    rfl
  · refine ⟨_, exec_writeFlit m errs ht, ?_⟩
    exact writeArrived_off (b := (s.took l h).body) errs k hg hk hoff
  · refine ⟨_, exec_addFlit m [] ht (by rw [hf, hi]; rfl), ?_⟩
    dsimp only
    rw [addArrived_int32 (s.took l h).body _ l a p v h m ho hf hi hv hg hr]
    obtain ⟨hword, hother⟩ := memoryAdd_int32_bytes (noted (s.took l h).body h) a v h.src m.expected m.last p 0 ha
    obtain ⟨ps, ls, hform, -⟩ := memoryAdd_int32 (noted (s.took l h).body h) a v h.src m.expected m.last p 0 ha
    refine ⟨hword, hother, fun q hq => ?_, ?_⟩
    · rw [hform, alterPart_other _ _ _ _ hq]
      rfl
    · rw [hform]
      rfl
  · refine ⟨_, exec_writeFlit m errs ht, ?_⟩
    dsimp only
    obtain ⟨hstate, hcount, hbad⟩ := took_sameCounts s l l h
    have hl : l < (s.took l h).body.net.links.length := by simpa [State.took] using ht.fitted
    have hout : ((s.took l h).body.link e.primary.outLink).state = .up := (took_link_state s l _ h).trans hup
    rw [writeArrived_denied (b := (s.took l h).body) errs hd, hown, deny_answers (b := (s.took l h).body) he hout hl (by rw [hbad]; exact hroom)]
    obtain ⟨hstate', hcount', -⟩ := answered_link (b := (s.took l h).body) (own := own) (h := h) (e := e) hl
    obtain ⟨f, hf, hanswers⟩ := answered_keeps (b := (s.took l h).body) (own := own) (l := l) (h := h) (e := e)
      (link_lt _ _ (by simp [hout]))
    have hlen : l < (answered (s.took l h).body own l h e).net.links.length := by simpa [answered] using hl
    refine ⟨?_, ?_, ⟨f, ?_, hanswers⟩, rfl⟩
    · rw [alterLink_same _ _ _ hlen, ← hcount]
      exact hcount'
    · rw [alterLink_same _ _ _ hlen]
      exact hstate'.trans (hstate.trans ht.up)
    · rw [alterLink_link]
      split
      · exact hf
      · exact hf
  · rw [exec_writeFlit m errs ht, writeArrived_grace (b := (s.took l h).body) errs hg]
    rfl
  · have hden := deniedOp_only s.body h p fl op c hp hothers hfl hop hpay hkind hsrc hsent hf
    exact ⟨_, exec_denyFlit ht, denyArrived_fails (s.took l h).body h p fl op c hp hlen hfl hop hden⟩
  · rw [exec_denyFlit ht]
    have hden : (s.took l h).body.deniedOp h = none := hnone
    simp only [Body.denyArrived, hden]
    rfl

end Sys2Proof.Proofs
end

section
/-!
PROOFS. What every step keeps of the Lodge (12, R243, R308; 17, R394 to R396): the few commands that reach it, and what each does to it.
-/

namespace Sys2Proof.Proofs

open Sys2Proof Sys2Proof.Machine Sys2Proof.Laws

/-! ## Keys, serial and levels over time -/

/-- `w` may follow `v`: the Lodge's invariant holds of it if it held, and what the Lodge holds for good it still holds. -/
structure Secured (v w : Vault) : Prop where
  kept : v.Kept → w.Kept
  serial : w.serial = v.serial
  owner : ∀ k, v.ownerKey = some k → w.ownerKey = some k
  fixture : ∀ k ∈ v.fixtureKeys, k ∈ w.fixtureKeys
  rulebook : ∀ k ∈ v.rulebookKeys, k ∈ w.rulebookKeys

theorem Secured.trans {v w x : Vault} (h : Secured v w) (g : Secured w x) : Secured v x where
  kept hv := g.kept (h.kept hv)
  serial := g.serial.trans h.serial
  owner k hk := g.owner k (h.owner k hk)
  fixture k hk := g.fixture k (h.fixture k hk)
  rulebook k hk := g.rulebook k (h.rulebook k hk)

/-- Nonces, times and the state of the request engine have no part in it. -/
theorem secured_upkeep (v : Vault) (nonce : Option Nat) (exitDue healthy engineOn : Bool) (idleSince drawn : Nat) : Secured v { v with
    nonce := nonce, exitDue := exitDue, healthy := healthy, engineOn := engineOn, idleSince := idleSince, drawn := drawn } where
  kept h := ⟨h.fixture, h.rulebook, h.fixtureNodup, h.rulebookNodup, h.owned, h.proofs, h.level, h.debug, h.scan⟩
  serial := rfl
  owner _ h := h
  fixture _ h := h
  rulebook _ h := h

theorem Secured.refl (v : Vault) : Secured v v := secured_upkeep v _ _ _ _ _ _

/-- A change of proofs and debug state alone is judged by its own clauses of the invariant. -/
theorem secured_levels (v : Vault) (nonce : Option Nat) (debug : Bool) (level scanHalves : Nat) (proofsAt : List Nat)
    (hproofs : v.Kept → proofsAt.length ≤ 16) (hlevel : v.Kept → level ≤ 2) (hdebug : v.Kept → debug = decide (0 < level))
    (hscan : v.Kept → scanHalves ≠ 0 → level = 2) : Secured v { v with
      nonce := nonce, debug := debug, level := level, scanHalves := scanHalves, proofsAt := proofsAt } where
  kept h := ⟨h.fixture, h.rulebook, h.fixtureNodup, h.rulebookNodup, h.owned, hproofs h, hlevel h, hdebug h, hscan h⟩
  serial := rfl
  owner _ h := h
  fixture _ h := h
  rulebook _ h := h

/-! ## The Lodge's queue (R243, R308) -/

/-- R243: the proof that is counted is at most the sixteenth within a second. -/
theorem proofRoom_secured {v w : Vault} {now : Nat} (h : v.proofRoom now = some w) : Secured v w := by
  unfold Vault.proofRoom at h
  dsimp only at h
  split at h
  · cases h
    exact .refl v
  · split at h
    · cases h
    · next hroom =>
      cases h
      exact secured_levels v _ _ _ _ _ (fun _ => by rw [List.length_cons]; omega) (·.level) (·.debug) (·.scan)

theorem serveJob_secured {v : Vault} {b : Body} {j : LodgeJob} {r : Vault × Body} (h : serveJob v b j = some r) : Secured v r.1 := by
  unfold serveJob at h
  split at h
  · obtain ⟨w, hw, rfl⟩ := Option.map_eq_some_iff.1 h
    exact proofRoom_secured hw
  · obtain ⟨w, hw, rfl⟩ := Option.map_eq_some_iff.1 h
    exact proofRoom_secured hw
  · cases h
    exact .refl v
  · split at h <;> cases h
    · exact .refl v
    · exact secured_upkeep v _ _ _ _ _ _
  · cases h
    exact .refl v

theorem serveOne_secured {v : Vault} {b : Body} {r : Vault × Body} (h : serveOne v b = some r) : Secured v r.1 := by
  unfold serveOne at h
  split at h
  · exact .trans (secured_upkeep v _ _ _ _ _ _) (serveJob_secured h)
  · cases h

theorem serveLodge_secured (n : Nat) (v : Vault) (b : Body) : Secured v (serveLodge n v b).1 := by
  induction n generalizing v b with
  | zero => exact .refl v
  | succ n ih =>
    unfold serveLodge
    split
    · next r hr => exact .trans (serveOne_secured hr) (ih r.1 r.2)
    · exact .refl v

theorem askLodge_secured (j : LodgeJob) (v : Vault) (b : Body) : Secured v (askLodge j v b).1 := serveLodge_secured _ v _

theorem authFlitOf_secured (l : Nat) (h : FlitHdr) (m : AuthMsg) (v : Vault) (b : Body) : Secured v (authFlitOf l h m v b).1 := by
  unfold authFlitOf
  dsimp only
  split
  · split
    · exact .refl v
    · exact askLodge_secured _ v _
  · exact .refl v

theorem laneRetrains_secured (l lane : Nat) (trained : Bool) (m : AuthMsg) (v : Vault) (b : Body) :
    Secured v (laneRetrains l lane trained m v b).1 := by
  unfold laneRetrains
  dsimp only
  split
  · split
    · exact askLodge_secured _ v b
    · exact .refl v
  · exact .refl v

/-! ## Keys and debug states (Table 12.7, R394 to R396) -/

/-- The owner key is set where none was: no signing key was there before it. -/
theorem setOwner_secured (key : Nat) (v : Vault) (b : Body) : Secured v (setOwner key v b).1 := by
  unfold setOwner
  split
  · next hnone => exact {
      kept := fun h => ⟨h.fixture, h.rulebook, h.fixtureNodup, h.rulebookNodup, nofun, h.proofs, h.level, h.debug, h.scan⟩
      serial := rfl
      owner := fun k hk => by rw [hnone] at hk; cases hk
      fixture := fun _ hk => hk
      rulebook := fun _ hk => hk }
  · exact .refl v

/-- A key joins a class that has room for it and does not hold it, in a Lodge with an owner. -/
theorem addKey_secured {v : Vault} {cls : KeyClass} {key : Nat} (howned : v.ownerKey.isSome = true) (hnew : key ∉ v.keys cls)
    (hroom : (v.keys cls).length < 8) : Secured v (v.addKey cls key) := by
  have hsome : ∀ {p : Prop}, v.ownerKey = none → p := fun h => by rw [h] at howned; cases howned
  have hnodup : (v.keys cls).Nodup → (v.keys cls ++ [key]).Nodup := fun h => by
    rw [← List.concat_eq_append]
    exact h.concat hnew
  have hlength : (v.keys cls ++ [key]).length ≤ 8 := by
    rw [List.length_append]
    exact hroom
  cases cls with
  | fixture => exact {
      kept := fun h => ⟨hlength, h.rulebook, hnodup h.fixtureNodup, h.rulebookNodup, hsome, h.proofs, h.level, h.debug, h.scan⟩
      serial := rfl
      owner := fun _ hk => hk
      fixture := fun _ hk => List.mem_append_left _ hk
      rulebook := fun _ hk => hk }
  | rulebook => exact {
      kept := fun h => ⟨h.fixture, hlength, h.fixtureNodup, hnodup h.rulebookNodup, hsome, h.proofs, h.level, h.debug, h.scan⟩
      serial := rfl
      owner := fun _ hk => hk
      fixture := fun _ hk => hk
      rulebook := fun _ hk => List.mem_append_left _ hk }

theorem installKey_secured (cls : KeyClass) (key : Nat) (signer : Option Nat) (v : Vault) (b : Body) :
    Secured v (installKey cls key signer v b).1 := by
  unfold installKey
  split
  · next hsigned =>
    split
    · exact .refl v
    · next hnew =>
      split
      · next hroom => exact addKey_secured (Bool.and_eq_true_iff.1 hsigned).1 (by simpa using hnew) hroom
      · exact .refl v
  · exact .refl v

/-- R394, R396: a granted request names level 1 or 2; halves enter the scan chains at level 2 alone. -/
theorem enterDebug_secured {v : Vault} {level : Nat} (halves : Nat) (hraise : v.level < level) (hmax : level ≤ 2) :
    Secured v (v.enterDebug level halves) := by
  have hdebug : true = decide (0 < level) := (decide_eq_true (by omega)).symm
  have hscan : (if level = 2 then halves else 0) ≠ 0 → level = 2 := fun h => by
    by_contra hne
    exact h (if_neg hne)
  exact secured_levels v none true level _ v.proofsAt (·.proofs) (fun _ => hmax) (fun _ => hdebug) (fun _ => hscan)

theorem debugRequest_secured (serial : Word64) (nonce level halves : Nat) (signer : Option Nat) (v : Vault) (b : Body) :
    Secured v (debugRequest serial nonce level halves signer v b).1 := by
  unfold debugRequest
  split
  · next hgranted =>
    simp only [debugGranted, Bool.and_eq_true, decide_eq_true_eq] at hgranted
    obtain ⟨⟨-, hraise⟩, hmax⟩ := hgranted
    exact .trans (enterDebug_secured halves hraise hmax) (serveLodge_secured _ _ _)
  · exact .refl v

theorem clearToken_secured (authoriser : Nat) (signer : Option Nat) (v : Vault) (b : Body) :
    Secured v (clearToken authoriser signer v b).1 := by
  unfold clearToken
  split <;> exact .refl v

/-! ## The request engine (R303, Table 12.6) -/

theorem serveMail_secured (m : LodgeMail) (v : Vault) (b : Body) : Secured v (serveMail m v b).1 := by
  refine .trans (secured_upkeep v v.nonce v.exitDue v.healthy v.engineOn b.clock.now v.drawn) ?_
  cases m with
  | ask j => exact .refl _
  | ownerKey key => exact setOwner_secured key _ b
  | install cls key signer => exact installKey_secured cls key signer _ b
  | nonce => exact secured_upkeep _ _ _ _ _ _ _
  | debug serial nonce level halves signer => exact debugRequest_secured serial nonce level halves signer _ b
  | clear authoriser signer => exact clearToken_secured authoriser signer _ b

theorem pollEngine_secured (v : Vault) (b : Body) : Secured v (pollEngine v b).1 := by
  unfold pollEngine
  dsimp only
  refine .trans ?_ (serveLodge_secured _ _ _)
  exact List.foldlRecOn _ _ (motive := fun (r : Vault × Body) => Secured v r.1) (.refl v) fun r hr m _ => hr.trans (serveMail_secured m r.1 r.2)

theorem manage_secured (m : LodgeMail) (v : Vault) (b : Body) : Secured v (manage m v b).1 := by
  unfold manage
  dsimp only
  split
  · exact pollEngine_secured v _
  · exact .refl v

theorem wakeEngine_secured (v : Vault) (b : Body) : Secured v (wakeEngine v b).1 := by
  unfold wakeEngine
  split
  · exact .trans (secured_upkeep v _ _ _ _ _ _) (pollEngine_secured _ _)
  · exact .refl v

theorem engineOff_secured (v : Vault) (b : Body) : Secured v (engineOff v b).1 := by
  unfold engineOff
  split
  · exact secured_upkeep v _ _ _ _ _ _
  · exact .refl v

/-! ## Power-up (R393) -/

/-- R393: a power-up ends a debug state and forgets the proofs; keys and serial number stay. -/
theorem powerUp_secured (v : Vault) : Secured v v.powerUp :=
  .trans (secured_levels v none false 0 0 [] (by simp) (by simp) (by simp) (by simp)) (secured_upkeep _ _ _ _ _ _ _)

theorem inputValid_secured (v : Vault) (b : Body) : Secured v (inputValid v b).1 := by
  unfold inputValid
  dsimp only
  split
  · exact .refl v
  · split
    · exact .trans (powerUp_secured v) (secured_upkeep _ _ _ _ _ _ _)
    · split <;> exact powerUp_secured v

theorem refPresent_secured (t : SelfTest) (v : Vault) (b : Body) : Secured v (refPresent t v b).1 := by
  unfold refPresent
  dsimp only
  split
  · exact secured_upkeep v _ _ _ _ _ _
  · exact secured_upkeep v _ _ _ _ _ _
  · exact .refl v
  · exact .refl v

/-! ## Every step -/

/-- What a command makes of the Lodge: those named here reach it, and no other does. -/
def lodgeAfter (c : Instr) (v : Vault) (b : Body) : Vault :=
  match c with
  | .ownerKeySet key => (manage (.ownerKey key) v b).1
  | .signingKeyInstall cls key signer => (manage (.install cls key signer) v b).1
  | .debugNonceRequest => (manage .nonce v b).1
  | .debugRequest serial nonce level halves signer => (manage (.debug serial nonce level halves signer) v b).1
  | .clearTokenRequest authoriser signer => (manage (.clear authoriser signer) v b).1
  | .lodgeRequest r => (askLodge (.request r) v b).1
  | .authFlit l h m => (authFlitOf l h m v b).1
  | .laneRetrain l lane trained m => (laneRetrains l lane trained m v b).1
  | .keeperFrame k x => (serveLodge b.doves.asks.length v (b.keeperFrame v k x)).1
  | .wakeEvent .lodgeEngine => (wakeEngine v b).1
  | .lodgeEngineOff => (engineOff v b).1
  | .inputValid => (inputValid v b).1
  | .refPresent t => (refPresent t v b).1
  | _ => v

theorem exec_lodgeAfter (c : Instr) (s : State) :
    ∃ b, exec c s = if c.wf then .next { s with vault := lodgeAfter c s.vault s.body, body := b } else .refused .illFormed := by
  cases c with
  | wakeEvent d => cases d <;> exact ⟨_, rfl⟩
  | _ => exact ⟨_, rfl⟩

theorem lodgeAfter_secured (c : Instr) (v : Vault) (b : Body) : Secured v (lodgeAfter c v b) := by
  unfold lodgeAfter
  split
  · exact manage_secured _ v b
  · exact manage_secured _ v b
  · exact manage_secured _ v b
  · exact manage_secured _ v b
  · exact manage_secured _ v b
  · exact askLodge_secured _ v b
  · exact authFlitOf_secured _ _ _ v b
  · exact laneRetrains_secured _ _ _ _ v b
  · exact serveLodge_secured _ v _
  · exact wakeEngine_secured v b
  · exact engineOff_secured v b
  · exact inputValid_secured v b
  · exact refPresent_secured _ v b
  · exact .refl v

theorem exec_secured {c : Instr} {s t : State} (h : exec c s = .next t) : Secured s.vault t.vault := by
  obtain ⟨b, hexec⟩ := exec_lodgeAfter c s
  rw [hexec] at h
  split at h
  · cases h
    exact lodgeAfter_secured c s.vault s.body
  · cases h

theorem step_secured {s t : State} (h : step s = .next t) : Secured s.vault t.vault := by
  cases hp : s.pending with
  | nil =>
    rw [step_idle s hp] at h
    cases h
    exact .refl s.vault
  | cons c rest =>
    rw [step_front s c rest hp] at h
    exact exec_secured (s := { s with pending := rest }) h

/-- Settles O59: thirteen commands reach the Lodge, and each leaves it `Secured`; an idle step does not touch it. -/
theorem lodgeInvariant : Obligations.LodgeInvariant := fun _ _ h =>
  have hs := step_secured h
  ⟨hs.kept, hs.serial, hs.owner, hs.fixture, hs.rulebook⟩

end Sys2Proof.Proofs
end

section
/-!
PROOFS. What the links and the clock keep while the rest of the module answers a fault: messages, held adds, and the re-check of every
fixture (R39, R199, R215, R335).
-/

namespace Sys2Proof.Proofs

open Sys2Proof Sys2Proof.Machine Sys2Proof.Laws

/-! ## Links and clock as they were -/

/-- `c` has the links of `b`, at the same moment. -/
def SameLinks (b c : Body) : Prop := c.net.links = b.net.links ∧ c.clock = b.clock

theorem SameLinks.refl (b : Body) : SameLinks b b := ⟨rfl, rfl⟩

theorem SameLinks.trans {b c d : Body} (h : SameLinks b c) (g : SameLinks c d) : SameLinks b d := ⟨g.1.trans h.1, g.2.trans h.2⟩

theorem SameLinks.link {b c : Body} (h : SameLinks b c) (k : Nat) : c.link k = b.link k := by
  rw [Body.link, h.1]
  rfl

/-- A change before, or after, that names neither links nor clock. -/
theorem SameLinks.after {b c d : Body} (h : SameLinks c d) (hlinks : c.net.links = b.net.links) (hclock : c.clock = b.clock) :
    SameLinks b d := .trans ⟨hlinks, hclock⟩ h

theorem SameLinks.before {b c d : Body} (h : SameLinks b c) (hlinks : d.net.links = c.net.links) (hclock : d.clock = c.clock) :
    SameLinks b d := h.trans ⟨hlinks, hclock⟩

theorem SameLinks.ite {b c d : Body} {p : Prop} [Decidable p] (hc : SameLinks b c) (hd : SameLinks b d) :
    SameLinks b (if p then c else d) := by
  split
  · exact hc
  · exact hd

theorem SameLinks.foldl {α : Type} (f : Body → α → Body) (hf : ∀ b a, SameLinks b (f b a)) (as : List α) (b : Body) :
    SameLinks b (as.foldl f b) :=
  List.foldlRecOn as f (motive := SameLinks b) (.refl b) fun c hc a _ => hc.trans (hf c a)

/-! ## Messages (R335) -/

theorem msgClass_corrected (ty i k a : Nat) (pr av : Bool) : msgClass (faultWord ty i .corrected pr av k a) = .corrected := by
  have hpr : (cond pr 1 0 : Nat) ≤ 1 := by cases pr <;> decide
  have hav : (cond av 1 0 : Nat) ≤ 1 := by cases av <;> decide
  have hbits : ((faultWord ty i .corrected pr av k a).extractLsb' 50 2).toNat = 0 := by
    rw [BitVec.extractLsb'_toNat, faultWord, BitVec.toNat_ofNat, Nat.shiftRight_eq_div_pow, FaultClass.code]
    omega
  rw [msgClass, hbits]
  rfl

/-- A corrected message, promoted or not, touches pages, log, attention and the inputs of the risk forecast. -/
theorem message_corrected_form (b : Body) (ty i k a : Nat) (pr av : Bool) : ∃ ps wh mf pr' sc dv ca la,
    b.message (faultWord ty i .corrected pr av k a) =
      { b with whistle := { b.whistle with pages := ps, wh := wh, moduleFirst := mf, promo := pr' }, score := sc, doves := dv,
               store := { b.store with correctedAt := ca }, net := { b.net with laneFailedAt := la } } := by
  cases hs : pageSlot (msgType (faultWord ty i .corrected pr av k a)) (msgInst (faultWord ty i .corrected pr av k a)) with
  | none => exact ⟨_, _, _, _, _, _, _, _, by rw [Body.message, hs]⟩
  | some n =>
    rw [message_corrected b _ n hs (msgClass_corrected ty i k a pr av)]
    exact corrected_form b _

theorem message_corrected_sameLinks (b : Body) (ty i k a : Nat) (pr av : Bool) :
    SameLinks b (b.message (faultWord ty i .corrected pr av k a)) := by
  obtain ⟨_, _, _, _, _, _, _, _, hform⟩ := message_corrected_form b ty i k a pr av
  rw [hform]
  exact ⟨rfl, rfl⟩

theorem message_contained_sameLinks (b : Body) (ty i k a : Nat) (pr av : Bool) :
    SameLinks b (b.message (faultWord ty i .contained pr av k a)) := by
  obtain ⟨_, _, _, _, _, hform⟩ := message_contained_form b ty i k a pr av
  rw [hform]
  exact ⟨rfl, rfl⟩

/-! ## Adds that the adders hold (R199, R213, R215) -/

theorem cwCorrected_sameLinks (b : Body) (cw : Nat) : SameLinks b (b.cwCorrected cw) :=
  (message_corrected_sameLinks { b with store := b.countMem (b.sourceAt (cw * 64)) false } _ _ _ _ _ _).after rfl rfl

theorem cwUncorrectable_sameLinks (b : Body) (cw : Nat) : SameLinks b (b.cwUncorrectable cw) :=
  (message_contained_sameLinks { b with store := (b.countMem (b.sourceAt (cw * 64)) true).poisonCw (b.sourceAt (cw * 64)) cw }
    _ _ _ _ _ _).after rfl rfl

theorem readError_sameLinks (b : Body) (e : CwError) : SameLinks b (b.readError e) := by
  unfold Body.readError
  exact .ite (.refl b) (.ite (cwCorrected_sameLinks b e.cw) (.ite (cwUncorrectable_sameLinks b e.cw)
    (.ite ⟨rfl, rfl⟩ (.ite ((cwUncorrectable_sameLinks { b with free := b.free + 1 } e.cw).after rfl rfl)
      ((cwCorrected_sameLinks { b.cwWide e.cw with free := b.free + 1 } e.cw).after rfl rfl)))))

theorem readErrors_sameLinks (b : Body) (es : List CwError) : SameLinks b (b.readErrors es) :=
  .foldl Body.readError readError_sameLinks _ b

theorem poisonCws_sameLinks (cs : List Nat) (b : Body) :
    SameLinks b (cs.foldl (fun b c => { b with store := b.store.poisonCw (b.sourceAt (c * 64)) c }) b) :=
  .foldl (fun b c => { b with store := b.store.poisonCw (b.sourceAt (c * 64)) c }) (fun _ _ => ⟨rfl, rfl⟩) cs b

theorem applyAdd_sameLinks (b : Body) (a : AddReq) : SameLinks b (b.applyAdd a) := by
  have hread := readErrors_sameLinks b (errorsIn a.addr (addBytes a) a.errs)
  unfold Body.applyAdd
  dsimp only
  generalize b.readErrors (errorsIn a.addr (addBytes a) a.errs) = c at hread
  refine hread.trans (.ite ?_ (.before ?_ rfl rfl))
  · exact (poisonCws_sameLinks _ _).after rfl rfl
  · exact (poisonCws_sameLinks _ { c with store := _ }).after rfl rfl

theorem applyWindow_sameLinks (b : Body) (w : AddWindow) : SameLinks b (b.applyWindow w) :=
  (SameLinks.foldl Body.applyAdd applyAdd_sameLinks (bySource w.adds) b).before rfl rfl

theorem takeAdd_sameLinks (b : Body) (a : AddReq) : SameLinks b (b.takeAdd a) := by
  unfold Body.takeAdd
  exact .ite ((applyWindow_sameLinks { b with store := _ } _).after rfl rfl) ⟨rfl, rfl⟩

theorem offerAdd_sameLinks (b : Body) (a : AddReq) : SameLinks b (b.offerAdd a) := by
  unfold Body.offerAdd
  exact .ite ⟨rfl, rfl⟩ (takeAdd_sameLinks b a)

theorem drainAdds_sameLinks (n : Nat) (b : Body) : SameLinks b (drainAdds n b) := by
  induction n generalizing b with
  | zero => exact .refl b
  | succ n ih =>
    have hround : SameLinks b (b.store.heldAdds.foldl Body.offerAdd { b with store := { b.store with heldAdds := [] } }) :=
      (SameLinks.foldl Body.offerAdd offerAdd_sameLinks _ { b with store := { b.store with heldAdds := [] } }).after rfl rfl
    unfold drainAdds
    exact .ite hround (hround.trans (ih _))

theorem dropAdds_sameLinks (b : Body) (c : AddReq → Bool) : SameLinks b (b.dropAdds c) :=
  (drainAdds_sameLinks _ { b with store := _ }).after rfl rfl

/-! ## A fixture that leaves, and a re-check (R39 to R41) -/

theorem ringAttention_sameLinks (b : Body) (i : Nat) : SameLinks b (b.ringAttention i) := by
  unfold Body.ringAttention
  exact .ite ⟨rfl, rfl⟩ (.refl b)

theorem alterRing_sameLinks (b : Body) (i : Nat) (f : Ring → Ring) : SameLinks b (b.alterRing i f) := ⟨rfl, rfl⟩

theorem alterPart_sameLinks (b : Body) (p : Nat) (f : Partition → Partition) : SameLinks b (b.alterPart p f) := ⟨rfl, rfl⟩

theorem finish_sameLinks (b : Body) (ring : Nat) (tag : Word32) (cmd : Cmd) (status code : Nat) (d : Detail) :
    SameLinks b (b.finish ring tag cmd status code d) :=
  .trans (alterRing_sameLinks b ring _) (ringAttention_sameLinks _ ring)

theorem putRecord_sameLinks (b : Body) (i : Nat) (c : CplRecord) : SameLinks b (b.putRecord i c) :=
  .trans (alterRing_sameLinks b i _) (ringAttention_sameLinks _ i)

theorem endBound_sameLinks (b : Body) (p status : Nat) : SameLinks b (b.endBound p status) := by
  unfold Body.endBound
  split
  · exact .trans (alterPart_sameLinks b p _) (finish_sameLinks _ _ _ _ _ _ _)
  · exact .refl b

theorem endSnapshotCmd_sameLinks (b : Body) (p status code : Nat) : SameLinks b (b.endSnapshotCmd p status code) := by
  unfold Body.endSnapshotCmd
  split
  · next a _ => exact (finish_sameLinks { b with active := b.active.erase a } _ _ _ _ _ _).after rfl rfl
  · exact .refl b

theorem endVerify_sameLinks (b : Body) (p status : Nat) (d : Detail) : SameLinks b (b.endVerify p status d) := by
  unfold Body.endVerify
  split
  · exact .trans (alterPart_sameLinks b p _) (finish_sameLinks _ _ _ _ _ _ _)
  · exact .refl b

theorem endSnapshots_sameLinks (b : Body) (p status : Nat) : SameLinks b (b.endSnapshots p status) :=
  .trans (.trans (.trans (alterPart_sameLinks b p _) (alterPart_sameLinks _ p _)) (endSnapshotCmd_sameLinks _ p status 0))
    (endVerify_sameLinks _ p status .none)

theorem setFix_sameLinks (b : Body) (p : Nat) (st : FixState) : SameLinks b (b.setFix p st) := by
  unfold Body.setFix
  exact .ite (.refl b) ⟨rfl, rfl⟩

theorem units_sameLinks (b : Body) (ps : List Pitch) (es : List Engine) : SameLinks b { b with pitches := ps, engines := es } := ⟨rfl, rfl⟩

theorem dropWork_sameLinks (b : Body) (p : Nat) : SameLinks b (b.dropWork p) :=
  (dropAdds_sameLinks b (fun a => decide (a.part = p))).before rfl rfl

theorem releaseGrants_sameLinks (b : Body) (p : Nat) (fence : Bool) : SameLinks b (b.releaseGrants p fence) := ⟨rfl, rfl⟩

/-- Its stop, its work and its grants are ended in other units; links are no part of it. -/
theorem leaveFixture_sameLinks (b : Body) (p : Nat) (st : FixState) (fence : Bool) : SameLinks b (b.leaveFixture p st fence) :=
  .trans (.trans (.trans (.trans (.trans (units_sameLinks b _ _) (units_sameLinks _ _ _)) (dropWork_sameLinks _ p))
    (releaseGrants_sameLinks _ p fence)) (setFix_sameLinks _ p st)) (alterPart_sameLinks _ p _)

theorem rebindBanks_sameLinks (b : Body) (p : Nat) (img : FixtureImage) : SameLinks b (b.rebindBanks p img) := by
  unfold Body.rebindBanks
  exact .ite (.refl b) ⟨rfl, rfl⟩

theorem recheckPart_sameLinks (b : Body) (p : Nat) : SameLinks b (b.recheckPart p) := by
  unfold Body.recheckPart
  split
  · exact .ite (rebindBanks_sameLinks b p _) (.trans (.trans (.trans (endSnapshots_sameLinks b p _)
      (leaveFixture_sameLinks _ p _ _)) (endBound_sameLinks _ p _)) (putRecord_sameLinks _ p _))
  · exact .refl b

/-- R39: a re-check may refuse fixtures; every link stays as it is. -/
theorem recheck_sameLinks (b : Body) : SameLinks b b.recheck := .foldl Body.recheckPart recheckPart_sameLinks _ b

end Sys2Proof.Proofs
end

section
/-!
PROOFS. Links that come down, and flits that leave at once (10, R233, R237, R247, Table 10.6).
-/

namespace Sys2Proof.Proofs

open Sys2Proof Sys2Proof.Machine Sys2Proof.Laws

theorem alterLink_alterLink (b : Body) (l : Nat) (f g : Link → Link) :
    (b.alterLink l f).alterLink l g = b.alterLink l (fun x => g (f x)) := by
  simp only [Body.alterLink, alter_alter]

/-! ## Sending -/

theorem Dispatched.refl (g : Link) : Dispatched g g := ⟨_, _, _, _, _, _, _, rfl⟩

theorem Dispatched.state {g k : Link} (h : Dispatched g k) : k.state = g.state := by
  obtain ⟨_, _, _, _, _, _, _, rfl⟩ := h
  rfl

theorem send_dispatched (a : Arb) (g : Link) (f : Flit) : Dispatched g (g.send a f) := by
  obtain ⟨sv, hjoin⟩ := join_served a g f
  have hqueued : Dispatched g { g with served := sv, queued := g.queued ++ [f] } := ⟨_, _, _, _, _, _, _, rfl⟩
  rw [Link.send, hjoin]
  exact hqueued.trans (flush_dispatched a _)

/-- With nothing waiting there is nothing to share out, and no VC is dry. -/
theorem flush_empty (a : Arb) (g : Link) (h : g.queued = []) :
    g.flush a = { g with dryAt := [none, none, none, none], served := [0, 0, 0, 0, 0] } := by
  have hqueue : flushQueue a g.queued.length g = g := by
    rw [h]
    rfl
  have hdry : ∀ vc, g.dry vc = false := fun vc => by rw [Link.dry, h]; rfl
  rw [Link.flush, hqueue, Link.noteDry]
  simp only [hdry, h, List.isEmpty_nil, if_true, Bool.false_eq_true, if_false]
  rfl

/-- R235, R237: a VC0 flit that may leave leaves at once where nothing waits. -/
theorem send_at_once (a : Arb) (g : Link) (f : Flit) (hq : g.queued = []) (hvc : f.hdr.vc = 0) (hcan : g.canSend f = true) :
    g.send a f = ({ g with queued := [] }.transmit f).noteDry a := by
  have hjoin : g.join a f = g := if_pos (.inl hvc)
  have hcan' : ({ g with queued := [f] } : Link).canSend f = true := hcan
  have hnext : ({ g with queued := [f] } : Link).next a = some f := by
    simp only [Link.next, List.find?_cons, hvc, decide_true, hcan', Bool.and_self]
  rw [Link.send, hjoin]
  dsimp only
  rw [hq, List.nil_append, Link.flush]
  simp only [List.length_singleton, flushQueue, hnext, hvc, if_true, List.erase_cons_head]

theorem send_at_once_tx (a : Arb) (g : Link) (f : Flit) (hq : g.queued = []) (hvc : f.hdr.vc = 0) (hcan : g.canSend f = true) :
    (g.send a f).tx = (g.tx + 1) % 2 ^ 64 := by
  rw [send_at_once a g f hq hvc hcan]
  unfold Link.transmit
  dsimp only
  split <;> rfl

theorem send_at_once_txSeq (a : Arb) (g : Link) (f : Flit) (hq : g.queued = []) (hvc : f.hdr.vc = 0) (hcan : g.canSend f = true)
    (hseq : seqless f.hdr.type = false) : (g.send a f).txSeq = (g.txSeq + 1) % 4096 := by
  rw [send_at_once a g f hq hvc hcan]
  simp only [Link.transmit, hseq, Bool.false_eq_true, if_false]
  rfl

/-! ## Other paths (R247) -/

theorem alterLink_dispatched (b : Body) (l k : Nat) (f : Link → Link) (hf : ∀ g, Dispatched g (f g)) :
    Dispatched (b.link k) ((b.alterLink l f).link k) := by
  rw [alterLink_link]
  split
  · exact hf _
  · exact .refl _

theorem sendEdge_dispatched (b : Body) (own dst k : Nat) (f : Flit) : Dispatched (b.link k) ((b.sendEdge own dst f).link k) := by
  have hsend : ∀ l x, Dispatched (b.link k) ((b.sendFlit l x).link k) :=
    fun l x => alterLink_dispatched b l k _ (fun g => send_dispatched b.arb g x)
  unfold Body.sendEdge
  split
  · split
    · exact hsend _ _
    · split <;> exact hsend _ _
  · exact .refl _

theorem reroute_dispatched (b : Body) (own : Option Nat) (k : Nat) (fs : List Flit) :
    Dispatched (b.link k) ((b.reroute own fs).link k) := by
  unfold Body.reroute
  split
  · exact List.foldlRecOn fs _ (motive := fun c => Dispatched (b.link k) (c.link k)) (.refl _)
      fun c hc f _ => hc.trans (sendEdge_dispatched c _ _ k f)
  · exact .refl _

theorem reroute_traffic (b : Body) (own : Option Nat) (fs : List Flit) : Traffic b (b.reroute own fs) := by
  unfold Body.reroute
  split
  · exact .foldl _ (fun c f => sendEdge_traffic c _ f.hdr.dst f) fs b
  · exact .refl b

/-! ## A link that comes down -/

/-- `c` is what is left of `b` once link `l` is as `g`: the others may have been given its flits, and no time has passed. -/
structure LeftAs (b c : Body) (l : Nat) (g : Link) : Prop where
  link : Dispatched g (c.link l)
  others : ∀ k, k ≠ l → Dispatched (b.link k) (c.link k)
  clock : c.clock = b.clock

theorem LeftAs.sameLinks {b c d : Body} {l : Nat} {g : Link} (h : LeftAs b c l g) (hs : SameLinks c d) : LeftAs b d l g where
  link := by rw [hs.link]; exact h.link
  others k hk := by rw [hs.link]; exact h.others k hk
  clock := hs.2.trans h.clock

theorem LeftAs.of_sameLinks {b c d : Body} {l : Nat} {g : Link} (h : LeftAs c d l g) (hs : SameLinks b c) : LeftAs b d l g where
  link := h.link
  others k hk := by rw [← hs.link]; exact h.others k hk
  clock := h.clock.trans hs.2

/-- What the link itself was before makes no difference to the others. -/
theorem LeftAs.of_alterLink {b c : Body} {l : Nat} {g : Link} {f : Link → Link} (h : LeftAs (b.alterLink l f) c l g) :
    LeftAs b c l g where
  link := h.link
  others k hk := by
    have ho := h.others k hk
    rwa [alterLink_other b l k f hk] at ho
  clock := h.clock

/-- Table 10.6, R39, R247: a link that leaves UP, or never reached it. -/
theorem leaveUp_leftAs (b : Body) (own : Option Nat) (l : Nat) (st : LinkState) (reason : Nat) (hl : l < b.net.links.length) :
    LeftAs b (b.leaveUp own l st reason) l ((b.link l).leaveAuth.drop st reason b.clock.now) := by
  have hdown : LeftAs b ((b.alterLink l (fun g => g.leaveAuth.drop st reason b.clock.now)).reroute own ((b.link l).unsent own)) l
      ((b.link l).leaveAuth.drop st reason b.clock.now) := by
    obtain ⟨_, _, htraffic⟩ := reroute_traffic (b.alterLink l (fun g => g.leaveAuth.drop st reason b.clock.now)) own ((b.link l).unsent own)
    have hlink := fun k => reroute_dispatched (b.alterLink l (fun g => g.leaveAuth.drop st reason b.clock.now)) own k ((b.link l).unsent own)
    refine ⟨?_, fun k hk => ?_, by rw [htraffic]; rfl⟩
    · have h := hlink l
      rwa [alterLink_same b l _ hl] at h
    · have h := hlink k
      rwa [alterLink_other b l k _ hk] at h
  unfold Body.leaveUp
  exact hdown.sameLinks (.ite (recheck_sameLinks _) (.refl _))

theorem raise_corrected_sameLinks (b : Body) (ty i k a : Nat) : SameLinks b (b.raise ty i .corrected k a) :=
  message_corrected_sameLinks b ty i k a false false

theorem raise_contained_sameLinks (b : Body) (ty i k a : Nat) : SameLinks b (b.raise ty i .contained k a) :=
  message_contained_sameLinks b ty i k a false false

/-! ## Corrected codewords (R257) -/

/-- A link that has counted the corrected codewords of a flit. -/
def counted (h : FlitHdr) (g : Link) : Link := { g with fecCorrected := wrap 32 (g.fecCorrected + h.corrected) }

theorem countFec_auth (b : Body) (l : Nat) (h : FlitHdr) (hs : (b.link l).state = .auth) :
    b.countFec l h = b.alterLink l (counted h) := by
  simp only [Body.countFec, hs]
  rfl

theorem countFec_carries (b : Body) (l : Nat) (h : FlitHdr) (hs : carries (b.link l).state = true) :
    b.countFec l h = b.alterLink l (counted h) := by
  have hcases : (b.link l).state = .up ∨ (b.link l).state = .resize := by simpa [carries] using hs
  rcases hcases with hup | hresize
  · simp only [Body.countFec, hup]
    rfl
  · simp only [Body.countFec, hresize]
    rfl

theorem carries_lt {b : Body} {l : Nat} (hs : carries (b.link l).state = true) : l < b.net.links.length := by
  refine link_lt b l fun hdown => ?_
  rw [hdown] at hs
  exact absurd hs (by decide)

end Sys2Proof.Proofs
end

section
/-!
PROOFS. The proof of a partner (10, R242, R243, Table 10.8; 12, R303, R308): requests in the Lodge's slots, what a proof does to its link,
and links that train again.
-/

namespace Sys2Proof.Proofs

open Sys2Proof Sys2Proof.Machine Sys2Proof.Laws

/-! ## A keeper's request (R300, R303, R308) -/

/-- The module that has posted a request of its keepers, with the dovecotes that this leaves. -/
def posted (b : Body) (j : LodgeJob) (dv : Doves) : Body := { b.proofAsked j with doves := dv, free := b.free + 1 }

theorem proofAsked_posted (b : Body) (j : LodgeJob) (dv : Doves) :
    ({ b with doves := dv, free := b.free + 1 } : Body).proofAsked j = posted b j dv := by
  unfold posted Body.proofAsked
  split <;> rfl

theorem posted_clock (b : Body) (j : LodgeJob) (dv : Doves) : (posted b j dv).clock = b.clock := by
  unfold posted Body.proofAsked
  split <;> rfl

/-- With the first of the keepers' slots empty the request goes there. -/
theorem post_first {b : Body} (m : LodgeMail) (hslot : (b.slot 40).full = false) : ∃ dv, dv.mail = b.doves.mail ++ [(40, m)] ∧
    dv.asks = b.doves.asks ∧ b.post (List.range' 40 8) m = (some 40, { b with doves := dv, free := b.free + 1 }) := by
  have hfirst : (List.range' 40 8).find? (fun s => !(b.slot s).full) = some 40 := by
    rw [List.range'_succ, List.find?_cons, hslot]
    rfl
  obtain ⟨ws, hwrite⟩ := writeFirst_empty b (List.range' 40 8) [8] (Config.slotWord b.free) 40 hfirst
  refine ⟨_, ?_, ?_, by rw [Body.post, hwrite]⟩
  · rfl
  · rfl

/-- An engine in ON takes it into its queue; one that is OFF leaves it in the slot. -/
theorem ask_on {v : Vault} {b : Body} (j : LodgeJob) (hon : v.engineOn = true) (hslot : (b.slot 40).full = false) :
    ∃ dv, dv.asks = b.doves.asks ++ [j] ∧ dv.mail = [] ∧ b.ask v j = posted b j dv := by
  obtain ⟨dv, -, hasks, hpost⟩ := post_first (.ask j) hslot
  have htaken : ∀ c : Body, ∃ dv', dv'.asks = c.doves.asks ++ [j] ∧ dv'.mail = [] ∧
      { c.takeMail with doves := { c.takeMail.doves with asks := c.doves.asks ++ [j] } } = { c with doves := dv' } :=
    fun c => ⟨_, rfl, rfl, rfl⟩
  obtain ⟨dv', hasks', hmail', hform⟩ := htaken (posted b j dv)
  refine ⟨dv', hasks'.trans (congrArg (· ++ [j]) hasks), hmail', ?_⟩
  rw [Body.ask, hpost]
  dsimp only
  rw [if_pos hon, proofAsked_posted, hform]
  rfl

theorem ask_off {v : Vault} {b : Body} (j : LodgeJob) (hoff : v.engineOn = false) (hslot : (b.slot 40).full = false) :
    ∃ dv, dv.mail = b.doves.mail ++ [(40, .ask j)] ∧ dv.asks = b.doves.asks ∧ b.ask v j = posted b j dv := by
  obtain ⟨dv, hmail, hasks, hpost⟩ := post_first (.ask j) hslot
  refine ⟨dv, hmail, hasks, ?_⟩
  rw [Body.ask, hpost]
  dsimp only
  rw [if_neg (by simp [hoff]), proofAsked_posted]

/-- R308: the request at the front is served, out of the queue. -/
theorem serveOne_front {v : Vault} {b : Body} {j : LodgeJob} {rest : List LodgeJob} (hon : v.engineOn = true)
    (hq : b.doves.asks = j :: rest) : serveOne v b =
      serveJob { v with idleSince := b.clock.now } { b with doves := { b.doves with asks := rest } } j := by
  unfold serveOne
  split
  · next _ _ _ hq' =>
    cases hq.symm.trans hq'
    rfl
  · next hnot => exact absurd hq (hnot j rest hon)

/-- R303: an engine in ON with nothing before it serves the request, or holds it in its queue. -/
theorem askLodge_on {v : Vault} {b : Body} (j : LodgeJob) (hon : v.engineOn = true) (hslot : (b.slot 40).full = false)
    (hasks : b.doves.asks = []) : ∃ dv, dv.asks = [] ∧ dv.mail = [] ∧ askLodge j v b =
      (serveJob { v with idleSince := b.clock.now } (posted b j dv) j).getD (v, posted b j { dv with asks := [j] }) := by
  obtain ⟨dv, hasks', hmail, hask⟩ := ask_on j hon hslot
  rw [hasks, List.nil_append] at hasks'
  refine ⟨{ dv with asks := [] }, rfl, hmail, ?_⟩
  have hone : serveOne v (posted b j dv) =
      serveJob { v with idleSince := b.clock.now } (posted b j { dv with asks := [] }) j := by
    rw [serveOne_front hon (show (posted b j dv).doves.asks = [j] from hasks')]
    conv_lhs => arg 1; rw [posted_clock]
    rfl
  have hwait : posted b j { dv with asks := [j] } = posted b j dv := by rw [← hasks']
  rw [askLodge, hask, show (posted b j dv).doves.asks = [j] from hasks', hwait, List.length_singleton, serveLodge, hone]
  cases serveJob { v with idleSince := b.clock.now } (posted b j { dv with asks := [] }) j <;> rfl

theorem askLodge_off {v : Vault} {b : Body} (j : LodgeJob) (hoff : v.engineOn = false) (hslot : (b.slot 40).full = false)
    (hasks : b.doves.asks = []) : ∃ dv, dv.mail = b.doves.mail ++ [(40, .ask j)] ∧ dv.asks = [] ∧
      askLodge j v b = (v, posted b j dv) := by
  obtain ⟨dv, hmail, hasks', hask⟩ := ask_off j hoff hslot
  rw [hasks] at hasks'
  refine ⟨dv, hmail, hasks', ?_⟩
  rw [askLodge, hask, show (posted b j dv).doves.asks = [] from hasks']
  rfl

/-! ## The rate of proofs (R243) -/

theorem proofRoom_some {v : Vault} {now : Nat} (hd : v.debug = false) (hr : (v.recentProofs now).length < 16) :
    v.proofRoom now = some { v with proofsAt := now :: v.recentProofs now } := by
  rw [Vault.proofRoom, hd, if_neg Bool.false_ne_true]
  exact if_neg (Nat.not_le.2 hr)

theorem proofRoom_none {v : Vault} {now : Nat} (hd : v.debug = false) (hr : 16 ≤ (v.recentProofs now).length) :
    v.proofRoom now = none := by
  rw [Vault.proofRoom, hd, if_neg Bool.false_ne_true]
  exact if_pos hr

/-! ## What a proof does to its link (Table 10.8) -/

/-- A link in AUTH that has taken a flit of its partner and asks for its proof. -/
def asking (h : FlitHdr) (g : Link) : Link :=
  { counted h g with rx := wrap 64 (g.rx + 1), proofsDue := g.proofsDue + 1 }

/-- The module that has taken an AUTH flit, before it asks for the proof. -/
def authArrived (b : Body) (l : Nat) (h : FlitHdr) : Body :=
  b.alterLink l (fun g => { counted h g with rx := wrap 64 (g.rx + 1) })

/-- The module that has asked for the proof of link `l`. -/
def proving (b : Body) (l : Nat) (h : FlitHdr) (dv : Doves) : Body :=
  { b.alterLink l (asking h) with doves := dv, free := b.free + 1 }

theorem posted_authArrived {b : Body} {l : Nat} (h : FlitHdr) (m : AuthMsg) (dv : Doves) (hs : (b.link l).state = .auth) :
    posted (authArrived b l h) (.request (.proof l m)) dv = proving b l h dv := by
  have hlinks : (authArrived b l h).proofAsked (.request (.proof l m)) = b.alterLink l (asking h) := by
    have hauth : ∀ g, b.net.links[l]? = some g → g.state = .auth := fun g hg => by
      have : b.link l = g := by rw [Body.link, List.getD_eq_getElem?_getD, hg, Option.getD_some]
      rw [← this, hs]
    simp only [Body.proofAsked, authArrived, Body.alterLink, alter_alter]
    congr 2
    refine alter_congr _ _ _ _ fun g hg => ?_
    split
    · rfl
    · next hnot => exact absurd (hauth g hg) hnot
  rw [posted, hlinks]
  rfl

theorem proving_link {b : Body} {l : Nat} (h : FlitHdr) (dv : Doves) (hl : l < b.net.links.length) :
    (proving b l h dv).link l = asking h (b.link l) := alterLink_same b l _ hl

theorem proving_other (b : Body) {l k : Nat} (h : FlitHdr) (dv : Doves) (hk : k ≠ l) : (proving b l h dv).link k = b.link k :=
  alterLink_other b l k _ hk

/-- An AUTH flit on link `l`, which is in AUTH. -/
structure AuthTaken (s : State) (l : Nat) (h : FlitHdr) : Prop where
  link : l < 48
  wf : h.wf = true
  auth : (s.body.link l).state = .auth
  type : h.type = 0x02
  vc : h.vc = 0
  rsvd : h.rsvd = false

/-- R242: the flit is taken and its proof asked for. -/
theorem exec_authFlit {s : State} {l : Nat} {h : FlitHdr} (m : AuthMsg) (ht : AuthTaken s l h) :
    exec (.authFlit l h m) s = .next { s with
      vault := (askLodge (.request (.proof l m)) s.vault (authArrived s.body l h)).1,
      body := (askLodge (.request (.proof l m)) s.vault (authArrived s.body l h)).2 } := by
  have hstate : ((s.body.alterLink l (counted h)).link l).state = .auth := by
    rw [alterLink_same _ _ _ (link_lt _ _ (by simp [ht.auth]))]
    exact ht.auth
  have htake : authFlitOf l h m s.vault s.body = askLodge (.request (.proof l m)) s.vault (authArrived s.body l h) := by
    simp only [authFlitOf, countFec_auth s.body l h ht.auth, hstate, ht.type, ht.vc, ht.rsvd, fAuth, ne_eq, not_true_eq_false,
      Bool.false_eq_true, or_self, if_false, alterLink_alterLink]
    rfl
  rw [show exec (.authFlit l h m) s = onAll (decide (l < 48) && h.wf) s (authFlitOf l h m) from rfl,
    onAll_of _ s _ (by simp [ht.link, ht.wf]), htake]

section Prove

variable {b : Body} {v : Vault} {l : Nat} {m : AuthMsg}

/-- A link whose proof is being settled waits for one proof fewer. -/
def settled (g : Link) : Link := { g with proofsDue := g.proofsDue - 1 }

theorem prove_passed (hl : l < b.net.links.length) (hs : (b.link l).state = .auth) (hstale : (b.link l).proofsStale = 0)
    (hr : b.proofReason v l m = 0) : b.prove v l m = b.alterLink l (fun g => (settled g).up b.arb m) := by
  have hlink := alterLink_same b l settled hl
  have hr' : (b.alterLink l settled).proofReason v l m = 0 := hr
  rw [Body.prove, hstale, if_neg (Nat.lt_irrefl 0), hs]
  dsimp only
  rw [show b.alterLink l (fun g => { g with proofsDue := g.proofsDue - 1 }) = b.alterLink l settled from rfl, hr']
  exact alterLink_alterLink b l settled (fun g => g.up b.arb m)

theorem prove_failed (hs : (b.link l).state = .auth) (hstale : (b.link l).proofsStale = 0) (hr : b.proofReason v l m ≠ 0) :
    b.prove v l m = (b.alterLink l settled).proofFailed (b.ownMember v.serial) l (b.proofReason v l m) := by
  have hr' : (b.alterLink l settled).proofReason v l m = b.proofReason v l m := rfl
  rw [Body.prove, hstale, if_neg (Nat.lt_irrefl 0), hs]
  dsimp only
  rw [show b.alterLink l (fun g => { g with proofsDue := g.proofsDue - 1 }) = b.alterLink l settled from rfl, hr']
  split
  · next h0 => exact absurd h0 hr
  · rfl

end Prove

/-- What a failed proof leaves of its link: it is quarantined for the reason, and the failure is counted. -/
structure Failed (g k : Link) (reason : Nat) : Prop where
  state : k.state = .quarantine
  reason : k.reason = reason
  count : k.authFail = (g.authFail + 1) % 2 ^ 16

/-- R242: a failed proof quarantines its link; the others stay in their states, and no time passes. -/
theorem proofFailed_failed (b : Body) (own : Option Nat) (l reason : Nat) (hl : l < b.net.links.length) :
    Failed (b.link l) ((b.proofFailed own l reason).link l) reason ∧
    (∀ k, k ≠ l → ((b.proofFailed own l reason).link k).state = (b.link k).state) ∧
    (b.proofFailed own l reason).clock = b.clock := by
  obtain ⟨hlink, hothers, hclock⟩ :=
    ((leaveUp_leftAs (b.alterLink l (fun g => { g with
        authFail := wrap 16 (g.authFail + 1),
        authFailAt := if reason = qAuthFailed then b.clock.now :: g.authFailAt.take 7 else g.authFailAt })) own l .quarantine reason
      (by simpa using hl)).sameLinks (raise_corrected_sameLinks _ tLink l kAuthFailed reason)).of_alterLink
  rw [alterLink_same b l _ hl] at hlink
  refine ⟨?_, fun k hk => (hothers k hk).state, hclock⟩
  obtain ⟨_, _, _, _, _, _, _, hform⟩ := hlink
  rw [show (b.proofFailed own l reason).link l = _ from hform]
  exact ⟨rfl, rfl, rfl⟩

/-! ## Each outcome -/

/-- A link that has just bound its partner, with all that it had to send still waiting. -/
def bound (now : Nat) (m : AuthMsg) (g : Link) : Link :=
  { g.leaveAuth with state := .up, since := now, partner := m.member, serial := BitVec.ofNat 64 m.serial, rxSeq := 0, rxBase := 0,
                     txSeq := 0, unacked := [], nakSent := false, credits := [64, 1024, 512, 256] }

theorem up_flush (a : Arb) (g : Link) (m : AuthMsg) : g.up a m = (bound a.now m g).flush a := rfl

/-- Table 10.8: in a proof that passes, the link comes UP with its partner. -/
theorem up_bound (a : Arb) (g : Link) (m : AuthMsg) : (g.up a m).state = .up ∧ (g.up a m).partner = m.member ∧
    (g.up a m).serial = BitVec.ofNat 64 m.serial ∧ (g.up a m).rxSeq = 0 ∧ (g.up a m).rx = g.rx ∧ (g.up a m).authFail = g.authFail := by
  obtain ⟨_, _, _, _, _, _, _, hform⟩ := flush_dispatched a (bound a.now m g)
  rw [up_flush, hform]
  exact ⟨rfl, rfl, rfl, rfl, rfl, rfl⟩

theorem up_idle (a : Arb) (g : Link) (m : AuthMsg) (hq : g.queued = []) :
    (g.up a m).txSeq = 0 ∧ (g.up a m).unacked = [] ∧ (g.up a m).credits = [64, 1024, 512, 256] := by
  rw [up_flush, flush_empty a (bound a.now m g) hq]
  exact ⟨rfl, rfl, rfl⟩

/-- R303: with the engine ON and nothing before it, the proof is served, or held. -/
theorem exec_authFlit_asked {s : State} {l : Nat} {h : FlitHdr} (m : AuthMsg) (ht : AuthTaken s l h) (hask : s.lodgeAsked)
    (hd : s.vault.debug = false) : ∃ dv, dv.asks = [] ∧ dv.mail = [] ∧
      ((s.vault.recentProofs s.body.clock.now).length < 16 → exec (.authFlit l h m) s = .next { s with
        vault := { s.vault with idleSince := s.body.clock.now, proofsAt := s.body.clock.now :: s.vault.recentProofs s.body.clock.now },
        body := (proving s.body l h dv).prove s.vault l m }) ∧
      (16 ≤ (s.vault.recentProofs s.body.clock.now).length → exec (.authFlit l h m) s = .next { s with
        body := proving s.body l h { dv with asks := [.request (.proof l m)] } }) := by
  obtain ⟨hon, hslot, -, hasks⟩ := hask
  obtain ⟨dv, hasks', hmail', hlodge⟩ := askLodge_on (b := authArrived s.body l h) (.request (.proof l m)) hon hslot hasks
  rw [posted_authArrived h m dv ht.auth, posted_authArrived h m _ ht.auth] at hlodge
  refine ⟨dv, hasks', hmail', fun hr => ?_, fun hr => ?_⟩
  · have hroom := proofRoom_some (v := { s.vault with idleSince := s.body.clock.now }) hd hr
    have hserve : serveJob { s.vault with idleSince := s.body.clock.now } (proving s.body l h dv) (.request (.proof l m)) = some
        ({ s.vault with idleSince := s.body.clock.now, proofsAt := s.body.clock.now :: s.vault.recentProofs s.body.clock.now },
          (proving s.body l h dv).prove s.vault l m) := by
      rw [serveJob, show (proving s.body l h dv).clock.now = s.body.clock.now from rfl, hroom]
      rfl
    rw [exec_authFlit m ht, hlodge, show (authArrived s.body l h).clock.now = s.body.clock.now from rfl, hserve]
    rfl
  · have hroom := proofRoom_none (v := { s.vault with idleSince := s.body.clock.now }) hd hr
    have hserve : serveJob { s.vault with idleSince := s.body.clock.now } (proving s.body l h dv) (.request (.proof l m)) = none := by
      rw [serveJob, show (proving s.body l h dv).clock.now = s.body.clock.now from rfl, hroom]
      rfl
    rw [exec_authFlit m ht, hlodge, show (authArrived s.body l h).clock.now = s.body.clock.now from rfl, hserve]
    rfl

theorem exec_authTimeout (s : State) (l : Nat) (hl : l < 48) (hs : (s.body.link l).state = .auth) : exec (.authTimeout l) s =
    .next { s with body := (s.body.until_ ((s.body.link l).since + 20000000)).proofFailed (s.body.ownMember s.vault.serial) l 1 } := by
  have htimeout : s.body.authTimeout s.vault l =
      (s.body.until_ ((s.body.link l).since + 20000000)).proofFailed (s.body.ownMember s.vault.serial) l 1 := by
    simp only [Body.authTimeout, hs]
    rfl
  rw [← htimeout]
  exact onBody_of (decide (l < 48)) s (fun b => b.authTimeout s.vault l) (decide_eq_true hl)

theorem exec_authFailedRetry (s : State) (l : Nat) (hl : l < 48) :
    exec (.authFailedRetry l) s = .next { s with body := s.body.authFailedRetry l } :=
  onBody_of (decide (l < 48)) s (fun b => b.authFailedRetry l) (decide_eq_true hl)

/-- R243: a quarantined link that may train again does so when its interval has passed. -/
theorem authFailedRetry_trains {b : Body} {l : Nat} (hs : (b.link l).state = .quarantine) (hr : (b.link l).reason = 1)
    (h3 : (b.link l).thirdFailure = false) : b.authFailedRetry l =
      (b.until_ ((b.link l).since + b.book.tables.link.trainRetryNs)).alterLink l (fun g => { g with
        state := .train, since := (b.until_ ((b.link l).since + b.book.tables.link.trainRetryNs)).clock.now, reason := 0 }) := by
  have hmay : (b.link l).reason = qAuthFailed ∧ (!(b.link l).thirdFailure) = true := ⟨hr, by rw [h3]; rfl⟩
  simp only [Body.authFailedRetry, hs, if_pos hmay, Body.setLink, alterLink_alterLink]

theorem authFailedRetry_stays {b : Body} {l : Nat} (hs : (b.link l).state = .quarantine)
    (h : (b.link l).thirdFailure = true ∨ (b.link l).reason ≠ 1) : b.authFailedRetry l = b := by
  have hnot : ¬((b.link l).reason = qAuthFailed ∧ (!(b.link l).thirdFailure) = true) := by
    rintro ⟨hr, h3⟩
    rcases h with h | h
    · rw [h] at h3
      cases h3
    · exact h hr
  simp only [Body.authFailedRetry, hs, if_neg hnot]

/-- Settles O47: an AUTH flit posts a request that the Lodge serves, holds or does not see; a served proof brings its link UP or quarantines
it. -/
theorem partnerProof : Obligations.PartnerProof := by
  refine ⟨fun s l h m hl hwf hs htype hvc hrsvd hask hd hr hreason hlen hstale => ?_,
    fun s l h m hl hwf hs htype hvc hrsvd hask hd hr hreason hlen hstale => ?_,
    fun s l h m hl hwf hs htype hvc hrsvd hask hd hr => ?_, fun s l h m hl hwf hs htype hvc hrsvd hoff hslot hasks => ?_,
    fun s l hl hs => ?_, fun s l hl hs hr h3 => ?_, fun s l hl hs h => ?_⟩
  · obtain ⟨dv, hasks, hmail, hserved, -⟩ := exec_authFlit_asked m ⟨hl, hwf, hs, htype, hvc, hrsvd⟩ hask hd
    have hlink := proving_link h dv hlen
    have hprove := prove_passed (b := proving s.body l h dv) (v := s.vault) (m := m) (by simpa [proving] using hlen)
      (by rw [hlink]; exact hs) (by rw [hlink]; exact hstale) hreason
    rw [hprove] at hserved
    have hup : ((proving s.body l h dv).alterLink l (fun g => (settled g).up s.body.arb m)).link l =
        (settled (asking h (s.body.link l))).up s.body.arb m := by
      rw [alterLink_same _ _ _ (by simpa [proving] using hlen), hlink]
    obtain ⟨hstate, hpartner, hserial, hrxSeq, hrx, hfail⟩ := up_bound s.body.arb (settled (asking h (s.body.link l))) m
    refine ⟨_, hserved hr, ?_⟩
    rw [← hup] at hstate hpartner hserial hrxSeq hrx hfail
    refine ⟨hstate, hpartner, hserial, hrxSeq, fun hq => ?_, hrx, hfail, fun k hk => ?_, rfl, hasks, hmail, rfl⟩
    · have hidle := up_idle s.body.arb (settled (asking h (s.body.link l))) m hq
      rwa [← hup] at hidle
    · exact (alterLink_other _ l k _ hk).trans (proving_other s.body h dv hk)
  · obtain ⟨dv, -, -, hserved, -⟩ := exec_authFlit_asked m ⟨hl, hwf, hs, htype, hvc, hrsvd⟩ hask hd
    have hlink := proving_link h dv hlen
    have hlen' : l < (proving s.body l h dv).net.links.length := by simpa [proving] using hlen
    have hprove := prove_failed (b := proving s.body l h dv) (v := s.vault) (m := m) (by rw [hlink]; exact hs)
      (by rw [hlink]; exact hstale) hreason
    obtain ⟨hfailed, hothers, -⟩ := proofFailed_failed ((proving s.body l h dv).alterLink l settled)
      (s.body.ownMember s.vault.serial) l (s.body.proofReason s.vault l m) (by simpa using hlen')
    rw [alterLink_same _ _ _ hlen', hlink] at hfailed
    rw [hprove] at hserved
    refine ⟨_, hserved hr, hfailed.state, hfailed.reason, hfailed.count, fun k hk => (hothers k hk).trans ?_⟩
    rw [alterLink_other _ l k _ hk, proving_other s.body h dv hk]
  · obtain ⟨dv, -, hmail, -, hheld⟩ := exec_authFlit_asked m ⟨hl, hwf, hs, htype, hvc, hrsvd⟩ hask hd
    refine ⟨_, hheld hr, ?_, rfl, rfl, hmail⟩
    dsimp only
    rw [proving_link h _ (link_lt _ _ (by simp [hs]))]
    exact hs
  · obtain ⟨dv, hmail, hasks', hlodge⟩ := askLodge_off (b := authArrived s.body l h) (.request (.proof l m)) hoff hslot hasks
    rw [posted_authArrived h m dv hs] at hlodge
    refine ⟨_, exec_authFlit m ⟨hl, hwf, hs, htype, hvc, hrsvd⟩, ?_⟩
    rw [hlodge]
    refine ⟨?_, rfl, hmail, hasks'⟩
    dsimp only
    rw [proving_link h _ (link_lt _ _ (by simp [hs]))]
    exact hs
  · obtain ⟨hfailed, -, hclock⟩ := proofFailed_failed (s.body.until_ ((s.body.link l).since + 20000000))
      (s.body.ownMember s.vault.serial) l 1 (link_lt s.body l (by simp [hs]))
    exact ⟨_, exec_authTimeout s l hl hs, rfl, hfailed.state, hfailed.reason, hfailed.count, hclock⟩
  · refine ⟨_, exec_authFailedRetry s l hl, ?_⟩
    dsimp only
    rw [authFailedRetry_trains hs hr h3]
    exact ⟨rfl, alterLink_same _ l _ (link_lt s.body l (by simp [hs])), fun k hk => alterLink_other _ l k _ hk, rfl⟩
  · rw [exec_authFailedRetry s l hl, authFailedRetry_stays hs h]

end Sys2Proof.Proofs
end

section
/-!
PROOFS. Lanes that fail, resize and rejoin (10, R240, R241).
-/

namespace Sys2Proof.Proofs

open Sys2Proof Sys2Proof.Machine Sys2Proof.Laws

/-! ## A flit that a link takes in RESIZE as in UP (R233, R240) -/

/-- R233, R235: an acknowledgement moves what sending moves, the retry window of the partner and the count of corrected codewords. -/
theorem acked_form (a : Arb) (g : Link) (h : FlitHdr) : ∃ tx cr seq un q sv dry base, g.acked a h = { counted h g with
    tx := tx, credits := cr, txSeq := seq, unacked := un, queued := q, served := sv, dryAt := dry, rxBase := base } := by
  unfold Link.acked Link.acknowledge
  dsimp only
  split
  all_goals
    obtain ⟨_, _, _, _, _, _, _, hform⟩ := flush_dispatched a _
    rw [hform]
    exact ⟨_, _, _, _, _, _, _, _, rfl⟩

theorem took_link (s : State) (l : Nat) (h : FlitHdr) (hl : l < s.body.net.links.length) :
    (s.took l h).body.link l = { (s.body.link l).acked s.body.arb h with
      rx := ((s.body.link l).rx + 1) % 2 ^ 64, rxSeq := ((s.body.link l).rxSeq + 1) % 4096, nakSent := false,
      rxBase := retryBase (((s.body.link l).rxSeq + 1) % 4096) ((s.body.link l).acked s.body.arb h).rxBase } :=
  alterLink_same s.body l _ hl

/-- A taken flit moves neither lanes nor the count of resizes. -/
theorem took_lanes (s : State) (l : Nat) (h : FlitHdr) (hl : l < s.body.net.links.length) :
    ((s.took l h).body.link l).lanes = (s.body.link l).lanes ∧ ((s.took l h).body.link l).resizes = (s.body.link l).resizes := by
  obtain ⟨_, _, _, _, _, _, _, _, hform⟩ := acked_form s.body.arb (s.body.link l) h
  rw [took_link s l h hl, hform]
  exact ⟨rfl, rfl⟩

/-- With nothing waiting an acknowledgement lets nothing leave. -/
theorem acked_idle (a : Arb) (g : Link) (h : FlitHdr) (hq : g.queued = []) : g.acked a h = { g with
    unacked := (match g.unacked.findIdx? (fun f => decide (f.hdr.seq = h.ack)) with
      | some i => g.unacked.drop (i + 1)
      | none => g.unacked),
    rxBase := (match g.unacked.find? (fun f => decide (f.hdr.seq = h.ack)) with
      | some f => (f.hdr.ack + 1) % 4096
      | none => g.rxBase),
    credits := g.credits.modify h.crVc (· + h.crCount), fecCorrected := (g.fecCorrected + h.corrected) % 2 ^ 32,
    dryAt := [none, none, none, none], served := [0, 0, 0, 0, 0] } := by
  unfold Link.acked Link.acknowledge
  dsimp only
  cases hfind : g.unacked.find? (fun f => decide (f.hdr.seq = h.ack)) with
  | some f =>
    have hfound := List.find?_some (p := fun f : Flit => decide (f.hdr.seq = h.ack)) hfind
    have hidx : g.unacked.findIdx? (fun f => decide (f.hdr.seq = h.ack)) =
        some (g.unacked.findIdx (fun f => decide (f.hdr.seq = h.ack))) :=
      List.findIdx?_eq_some_of_exists ⟨f, List.mem_of_find?_eq_some hfind, hfound⟩
    rw [hidx]
    exact flush_empty a _ hq
  | none =>
    have hidx : g.unacked.findIdx? (fun f => decide (f.hdr.seq = h.ack)) = none :=
      List.findIdx?_eq_none_iff.2 (by simpa using List.find?_eq_none.1 hfind)
    rw [hidx]
    exact flush_empty a _ hq

/-- R232, R257: corrected codewords have no part in what makes a flit malformed. -/
theorem counted_malformed (b : Body) (own : Option Nat) {l : Nat} (h : FlitHdr) (hl : l < b.net.links.length) :
    (b.alterLink l (counted h)).malformed own l h = b.malformed own l h := by
  simp only [Body.malformed, alterLink_same b l (counted h) hl]
  rfl

/-- R232, R233: the next flit in sequence is taken in RESIZE as in UP. -/
theorem receive_carried {s : State} {l code : Nat} {h : FlitHdr} (hs : carries (s.body.link l).state = true) (htype : h.type = code)
    (hgood : s.body.malformed (s.body.ownMember s.vault.serial) l h = false) (hseq : h.seq = (s.body.link l).rxSeq)
    (k : Body → Body) : s.body.receive (s.body.ownMember s.vault.serial) l h [code] k = k (s.took l h).body := by
  have hlink := alterLink_same s.body l (counted h) (carries_lt hs)
  have hgood' := (counted_malformed s.body (s.body.ownMember s.vault.serial) h (carries_lt hs)).trans hgood
  have hstate : carries ((s.body.alterLink l (counted h)).link l).state = true := by
    rw [hlink]
    exact hs
  have hnext : ((s.body.alterLink l (counted h)).link l).seqStep h.seq = .next := by
    rw [hlink]
    exact if_pos hseq
  have hcode : [code].contains h.type = true := by simp [htype]
  simp only [Body.receive, Body.receiveIn, countFec_carries s.body l h hs, hgood', hstate, hnext, hcode, Bool.not_true, Bool.or_self,
    Bool.false_eq_true, if_false, alterLink_alterLink]
  congr 1
  simp only [Body.alterLink, State.took]
  congr 2
  exact alter_congr _ _ _ _ (fun g _ => acked_taken s.body.arb g h)

/-! ## RESIZE sent -/

/-- RESIZE with the lanes in use. -/
def resizeFlit (own : Option Nat) (g : Link) : Flit :=
  ⟨ownHdr fResize 0 0 (own.getD 0) g.partner 0 0, .resize ((g.lanes.map (fun n => 2 ^ n)).foldl (· + ·) 0)⟩

theorem sendResize_eq (b : Body) (own : Option Nat) (l : Nat) :
    b.sendResize own l = b.alterLink l (fun g => g.send b.arb (resizeFlit own (b.link l))) := rfl

/-- A RESIZE that names these lanes. -/
def namesLanes (lanes : List Nat) (f : Flit) : Prop :=
  f.hdr.type = 0x03 ∧ f.body = .resize ((lanes.map (fun n => 2 ^ n)).foldl (· + ·) 0)

theorem namesLanes_lasting (lanes : List Nat) : Lasting (namesLanes lanes) where
  numbered f hf := by rw [hf.1]; rfl
  renumbered _ _ _ hf := hf

/-- The link that goes to RESIZE, before its RESIZE leaves. -/
def resizing (now : Nat) (g : Link) : Link := { g with state := .resize, since := now }

section Resize

variable {b : Body} {l : Nat} (own : Option Nat)

theorem resize_link (hl : l < b.net.links.length) : ((b.setLink l .resize).sendResize own l).link l =
    (resizing b.clock.now (b.link l)).send b.arb (resizeFlit own (b.link l)) := by
  have hset : (b.setLink l .resize).link l = resizing b.clock.now (b.link l) := alterLink_same b l _ hl
  rw [sendResize_eq, alterLink_same _ l _ (by rwa [Body.setLink, alterLink_length]), hset]
  rfl

theorem resize_other (k : Nat) (hk : k ≠ l) : ((b.setLink l .resize).sendResize own l).link k = b.link k :=
  (alterLink_other _ l k _ hk).trans (alterLink_other b l k _ hk)

end Resize

/-- R240: what the link is that has sent its RESIZE: in RESIZE from this moment, over the same lanes, with the flit on its way. -/
theorem resizing_sent (a : Arb) (now : Nat) (own : Option Nat) (g : Link) :
    ((resizing now g).send a (resizeFlit own g)).state = .resize ∧ ((resizing now g).send a (resizeFlit own g)).since = now ∧
    ((resizing now g).send a (resizeFlit own g)).lanes = g.lanes ∧
    ((resizing now g).send a (resizeFlit own g)).resizes = g.resizes ∧
    ((resizing now g).send a (resizeFlit own g)).laneTried = g.laneTried ∧
    Keeps ((resizing now g).send a (resizeFlit own g)) (namesLanes g.lanes) := by
  have hkeeps := send_keeps (namesLanes_lasting g.lanes) a (resizing now g) (resizeFlit own g) ⟨rfl, rfl⟩
  obtain ⟨_, _, _, _, _, _, _, hform⟩ := send_dispatched a (resizing now g) (resizeFlit own g)
  rw [hform] at hkeeps ⊢
  exact ⟨rfl, rfl, rfl, rfl, rfl, hkeeps⟩

/-- R235: it leaves at once where nothing waits, there is a credit and the retry buffer has room. -/
theorem resizing_sent_at_once (a : Arb) (now : Nat) (own : Option Nat) (g : Link) (hq : g.queued = []) (hc : 0 < g.credits.getD 0 0)
    (hu : g.unacked.length < 2048) : ((resizing now g).send a (resizeFlit own g)).tx = (g.tx + 1) % 2 ^ 64 ∧
      ((resizing now g).send a (resizeFlit own g)).txSeq = (g.txSeq + 1) % 4096 := by
  have hcan : (resizing now g).canSend (resizeFlit own g) = true := by
    have hcredit : decide (0 < (resizing now g).credits.getD (resizeFlit own g).hdr.vc 0) = true := decide_eq_true hc
    have hroom : decide ((resizing now g).unacked.length < 2048) = true := decide_eq_true hu
    rw [Link.canSend, hcredit, hroom, Bool.or_true]
    rfl
  exact ⟨send_at_once_tx a (resizing now g) (resizeFlit own g) hq rfl hcan,
    send_at_once_txSeq a (resizing now g) (resizeFlit own g) hq rfl hcan rfl⟩

/-! ## A lane that fails (R240) -/

theorem exec_laneFailed (s : State) (l lane : Nat) (hl : l < 48) (hlane : lane < 4) : exec (.laneFailed l lane) s =
    .next { s with body := s.body.laneFails (s.body.ownMember s.vault.serial) l lane } :=
  onBody_of (decide (l < 48) && decide (lane < 4)) s (fun b => b.laneFails (b.ownMember s.vault.serial) l lane) (by simp [hl, hlane])

/-- The lane leaves its link, and its message is sent; the link then resizes, or goes DOWN. -/
theorem laneFails_cases {b : Body} {l lane : Nat} (own : Option Nat) (hs : carries (b.link l).state = true)
    (hlane : lane ∈ (b.link l).lanes) : ∃ c, SameLinks (b.alterLink l (fun g => g.loseLane lane)) c ∧ c.parts = b.parts ∧
      c.link l = (b.link l).loseLane lane ∧ b.laneFails own l lane =
        if b.book.tables.link.minWidth ≤ ((b.link l).lanes.filter (· != lane)).length then (c.setLink l .resize).sendResize own l
        else c.leaveUp own l .down 0 := by
  obtain ⟨_, _, _, _, _, _, _, _, hform⟩ :=
    message_corrected_form (b.alterLink l (fun g => g.loseLane lane)) tLink l kLaneFailed lane false false
  have hlinks := raise_corrected_sameLinks (b.alterLink l (fun g => g.loseLane lane)) tLink l kLaneFailed lane
  have hbook : ((b.alterLink l (fun g => g.loseLane lane)).raise tLink l .corrected kLaneFailed lane).book = b.book := by
    rw [Body.raise, hform]
    rfl
  have hlink : ((b.alterLink l (fun g => g.loseLane lane)).raise tLink l .corrected kLaneFailed lane).link l =
      (b.link l).loseLane lane := (hlinks.link l).trans (alterLink_same b l _ (carries_lt hs))
  refine ⟨_, hlinks, by rw [Body.raise, hform]; rfl, hlink, ?_⟩
  have hin : (carries (b.link l).state && (b.link l).lanes.contains lane) = true := by simp [hs, hlane]
  simp only [Body.laneFails, hin, if_true, hbook, hlink]
  rfl

/-- R240: over MIN_WIDTH or more lanes the link resizes. -/
theorem laneFails_resizes {b : Body} {l lane : Nat} (own : Option Nat) (hs : carries (b.link l).state = true)
    (hlane : lane ∈ (b.link l).lanes) (hw : b.book.tables.link.minWidth ≤ ((b.link l).lanes.filter (· != lane)).length) :
    (∃ a, (b.laneFails own l lane).link l = (resizing b.clock.now ((b.link l).loseLane lane)).send a
      (resizeFlit own ((b.link l).loseLane lane))) ∧
    (∀ k, k ≠ l → (b.laneFails own l lane).link k = b.link k) ∧ (b.laneFails own l lane).parts = b.parts := by
  obtain ⟨c, hlinks, hparts, hlink, hfails⟩ := laneFails_cases own hs hlane
  have hlen : l < c.net.links.length := by
    rw [hlinks.1, alterLink_length]
    exact carries_lt hs
  have hnow : c.clock.now = b.clock.now := congrArg Clock.now hlinks.2
  rw [hfails, if_pos hw]
  refine ⟨⟨c.arb, ?_⟩, fun k hk => ?_, hparts⟩
  · rw [resize_link own hlen, hlink, hnow]
  · rw [resize_other own k hk, hlinks.link, alterLink_other b l k _ hk]

/-- R240: over fewer it goes DOWN. -/
theorem laneFails_down {b : Body} {l lane : Nat} (own : Option Nat) (hs : carries (b.link l).state = true)
    (hlane : lane ∈ (b.link l).lanes) (hw : ((b.link l).lanes.filter (· != lane)).length < b.book.tables.link.minWidth) :
    LeftAs b (b.laneFails own l lane) l (((b.link l).loseLane lane).leaveAuth.drop .down 0 b.clock.now) := by
  obtain ⟨c, hlinks, -, hlink, hfails⟩ := laneFails_cases own hs hlane
  have hlen : l < c.net.links.length := by
    rw [hlinks.1, alterLink_length]
    exact carries_lt hs
  have hdown := leaveUp_leftAs c own l .down 0 hlen
  rw [hlink, show c.clock = b.clock from hlinks.2] at hdown
  rw [hfails, if_neg (Nat.not_le.2 hw)]
  exact (hdown.of_sameLinks hlinks).of_alterLink

/-! ## RESIZE received (R240) -/

theorem exec_resizeFlit {s : State} {l m : Nat} {h : FlitHdr} (hl : l < 48) (hwf : h.wf = true) (hm : m < 16)
    (hs : carries (s.body.link l).state = true) (htype : h.type = 0x03)
    (hgood : s.body.malformed (s.body.ownMember s.vault.serial) l h = false) (hseq : h.seq = (s.body.link l).rxSeq) :
    exec (.resizeFlit l h m) s =
      .next { s with body := (s.took l h).body.resizeArrived (s.body.ownMember s.vault.serial) l m } := by
  have hrow : exec (.resizeFlit l h m) s = onBody (decide (l < 48) && h.wf && decide (m < 16)) s (fun b =>
      b.receive (b.ownMember s.vault.serial) l h [fResize] (fun b' => b'.resizeArrived (b.ownMember s.vault.serial) l m)) := rfl
  rw [hrow, onBody_of _ s _ (by simp [hl, hwf, hm]), receive_carried hs (code := fResize) htype hgood hseq]

/-- A link whose resize has ended over these lanes, with what it held still waiting. -/
def regained (now : Nat) (lanes : List Nat) (g : Link) : Link := { g with
  state := .up, since := now, lanes := lanes, resizes := (g.resizes + 1) % 2 ^ 32, tx := (g.tx + g.unacked.length) % 2 ^ 64 }

theorem resized_flush (a : Arb) (g : Link) (lanes : List Nat) : g.resized a lanes = (regained a.now lanes g).flush a := rfl

theorem resized_keeps {P : Flit → Prop} (hP : Lasting P) (a : Arb) (g : Link) (lanes : List Nat) (h : Keeps g P) :
    Keeps (g.resized a lanes) P := flushQueue_keeps hP a _ (regained a.now lanes g) h

section Arrived

variable {b : Body} {l m : Nat} (own : Option Nat)

/-- A link that had sent its own RESIZE takes the lanes of both ends, and answers nothing. -/
theorem resizeArrived_asked (hs : (b.link l).state = .resize)
    (hw : b.book.tables.link.minWidth ≤ ((maskLanes m).filter (b.link l).lanes.contains).length) :
    b.resizeArrived own l m = b.alterLink l (fun g =>
      { g with lanes := (maskLanes m).filter (b.link l).lanes.contains }.resized b.arb ((maskLanes m).filter (b.link l).lanes.contains)) := by
  simp only [Body.resizeArrived, hs, decide_true, if_true, if_pos hw, alterLink_alterLink]
  rfl

/-- One that had not answers with the lanes of both ends first. -/
theorem resizeArrived_unasked (hs : (b.link l).state = .up)
    (hw : b.book.tables.link.minWidth ≤ ((maskLanes m).filter (b.link l).lanes.contains).length) :
    b.resizeArrived own l m =
      ((b.alterLink l (fun g => { g with lanes := (maskLanes m).filter (b.link l).lanes.contains })).sendResize own l).alterLink l
        (fun g => g.resized b.arb ((maskLanes m).filter (b.link l).lanes.contains)) := by
  have hnot : decide ((b.link l).state = .resize) = false := by rw [hs]; rfl
  simp only [Body.resizeArrived, hnot, Bool.false_eq_true, if_false, if_pos hw]
  rfl

end Arrived

/-! ## A lane that may rejoin (R241) -/

theorem exec_laneRetrain (s : State) (l lane : Nat) (trained : Bool) (m : AuthMsg) (hl : l < 48) (hlane : lane < 4) :
    exec (.laneRetrain l lane trained m) s = .next { s with
      vault := (laneRetrains l lane trained m s.vault s.body).1, body := (laneRetrains l lane trained m s.vault s.body).2 } :=
  onAll_of (decide (l < 48) && decide (lane < 4)) s (laneRetrains l lane trained m) (by simp [hl, hlane])

/-- A lane that its link has lost, in a slot for it, is due to retrain. -/
structure LaneDue (b : Body) (l lane : Nat) : Prop where
  up : (b.link l).state = .up
  lost : lane ∉ (b.link l).lanes
  good : lane ∉ (b.link l).badLanes
  slot : b.laneSlot = true
  late : b.laneEarly l lane = false

theorem laneRetrains_due {b : Body} {l lane : Nat} (trained : Bool) (m : AuthMsg) (v : Vault) (hd : LaneDue b l lane) :
    laneRetrains l lane trained m v b = if trained then askLodge (.lane l lane m) v b
      else (v, b.alterLink l (fun g => { g with
        laneTried := (lane, b.clock.now) :: g.laneTried.filter (fun x => decide (x.1 ≠ lane)) })) := by
  have hdue : (isUp (b.link l).state && !(b.link l).lanes.contains lane && !(b.link l).badLanes.contains lane && b.laneSlot &&
      !b.laneEarly l lane) = true := by simp [isUp, hd.up, hd.lost, hd.good, hd.slot, hd.late]
  unfold laneRetrains
  exact if_pos hdue

theorem laneRetrains_idle {b : Body} {l lane : Nat} (trained : Bool) (m : AuthMsg) (v : Vault)
    (h : (b.link l).state ≠ .up ∨ lane ∈ (b.link l).lanes ∨ lane ∈ (b.link l).badLanes ∨ b.laneSlot = false ∨
      b.laneEarly l lane = true) : laneRetrains l lane trained m v b = (v, b) := by
  have hnot : (isUp (b.link l).state && !(b.link l).lanes.contains lane && !(b.link l).badLanes.contains lane && b.laneSlot &&
      !b.laneEarly l lane) = false := by
    rcases h with h | h | h | h | h <;> simp [isUp, h]
  unfold laneRetrains
  exact if_neg (fun hdue => by rw [hnot] at hdue; cases hdue)

/-- A lane's request names no proof of the partner: links are as they were. -/
theorem posted_lane (b : Body) (l lane : Nat) (m : AuthMsg) (dv : Doves) :
    posted b (.lane l lane m) dv = { b with doves := dv, free := b.free + 1 } := rfl

/-- A link that a lane rejoins. -/
def rejoined (lane : Nat) (g : Link) : Link := { g with
  lanes := insertRising lane g.lanes, laneTried := g.laneTried.filter (fun x => decide (x.1 ≠ lane)) }

section Rejoin

variable {b : Body} {v : Vault} {l lane : Nat} {m : AuthMsg}

theorem laneRejoins_signed (hup : (b.link l).state = .up) (hlost : lane ∉ (b.link l).lanes) (hgood : lane ∉ (b.link l).badLanes)
    (hsig : m.sigOk = true) (hd : v.debug = false) : b.laneRejoins v l lane m =
      ((b.alterLink l (fun g => { g with
        lanes := insertRising lane g.lanes,
        laneTried := (b.link l).laneTried.filter (fun x => decide (x.1 ≠ lane)) })).setLink l .resize).sendResize
          (b.ownMember v.serial) l := by
  simp [Body.laneRejoins, isUp, hup, hlost, hgood, hsig, hd]

theorem laneRejoins_unsigned (hup : (b.link l).state = .up) (hlost : lane ∉ (b.link l).lanes) (hgood : lane ∉ (b.link l).badLanes)
    (hsig : m.sigOk = false) : b.laneRejoins v l lane m = b.proofFailed (b.ownMember v.serial) l qAuthFailed := by
  simp [Body.laneRejoins, isUp, hup, hlost, hgood, hsig]

end Rejoin

/-- R241, R303: the request of a lane that is due is served at once, as far as the rate of proofs lets it. -/
theorem exec_laneRetrain_asked {s : State} {l lane : Nat} {w : Vault} (m : AuthMsg) (hl : l < 48) (hlane : lane < 4)
    (hd : LaneDue s.body l lane) (hask : s.lodgeAsked)
    (hroom : ({ s.vault with idleSince := s.body.clock.now } : Vault).proofRoom s.body.clock.now = some w) :
    ∃ dv, exec (.laneRetrain l lane true m) s = .next { s with
      vault := w,
      body := ({ s.body with doves := dv, free := s.body.free + 1 } : Body).laneRejoins { s.vault with idleSince := s.body.clock.now }
        l lane m } := by
  obtain ⟨hon, hslot, -, hasks⟩ := hask
  obtain ⟨dv, -, -, hlodge⟩ := askLodge_on (b := s.body) (.lane l lane m) hon hslot hasks
  rw [posted_lane] at hlodge
  have hserve : serveJob { s.vault with idleSince := s.body.clock.now } { s.body with doves := dv, free := s.body.free + 1 }
      (.lane l lane m) = some (w, ({ s.body with doves := dv, free := s.body.free + 1 } : Body).laneRejoins
        { s.vault with idleSince := s.body.clock.now } l lane m) := by
    rw [serveJob, hroom]
    rfl
  refine ⟨dv, ?_⟩
  rw [exec_laneRetrain s l lane true m hl hlane, laneRetrains_due true m s.vault hd, if_pos rfl, hlodge, hserve]
  rfl

/-! ## Each outcome -/

/-- R240: a lane that fails, with what is left of its link. -/
theorem lane_fails (s : State) (l lane : Nat) (hl : l < 48) (hlane : lane < 4)
    (hs : (s.body.link l).state = .up ∨ (s.body.link l).state = .resize) (hin : lane ∈ (s.body.link l).lanes) :
    ∃ t : State, exec (.laneFailed l lane) s = .next t ∧ t.vault = s.vault ∧ t.pending = s.pending ∧
    (s.body.book.tables.link.minWidth ≤ ((s.body.link l).lanes.filter (· != lane)).length →
      (∃ a, t.body.link l = (resizing s.body.clock.now ((s.body.link l).loseLane lane)).send a
        (resizeFlit (s.body.ownMember s.vault.serial) ((s.body.link l).loseLane lane))) ∧ t.body.parts = s.body.parts) ∧
    (((s.body.link l).lanes.filter (· != lane)).length < s.body.book.tables.link.minWidth → (t.body.link l).state = .down) ∧
    (∀ k, k ≠ l → (t.body.link k).state = (s.body.link k).state) := by
  have hcarries : carries (s.body.link l).state = true := by simpa [carries] using hs
  refine ⟨_, exec_laneFailed s l lane hl hlane, rfl, rfl, fun hw => ?_, fun hw => ?_, fun k hk => ?_⟩
  · obtain ⟨hlink, -, hparts⟩ := laneFails_resizes (s.body.ownMember s.vault.serial) hcarries hin hw
    exact ⟨hlink, hparts⟩
  · exact (laneFails_down (s.body.ownMember s.vault.serial) hcarries hin hw).link.state
  · by_cases hw : s.body.book.tables.link.minWidth ≤ ((s.body.link l).lanes.filter (· != lane)).length
    · obtain ⟨-, hothers, -⟩ := laneFails_resizes (s.body.ownMember s.vault.serial) hcarries hin hw
      exact congrArg Link.state (hothers k hk)
    · exact ((laneFails_down (s.body.ownMember s.vault.serial) hcarries hin (Nat.lt_of_not_le hw)).others k hk).state

/-- R240: the answer that a link in RESIZE awaits ends its resize. -/
theorem resize_ends (s : State) (l m : Nat) (h : FlitHdr) (hl : l < 48) (hwf : h.wf = true) (hm : m < 16)
    (hs : (s.body.link l).state = .resize) (htype : h.type = 0x03)
    (hgood : s.body.malformed (s.body.ownMember s.vault.serial) l h = false) (hseq : h.seq = (s.body.link l).rxSeq)
    (hq : (s.body.link l).queued = [])
    (hw : s.body.book.tables.link.minWidth ≤ ((maskLanes m).filter (s.body.link l).lanes.contains).length) : ∃ t : State,
      exec (.resizeFlit l h m) s = .next t ∧ t.vault = s.vault ∧ t.pending = s.pending ∧
      t.body.link l = { (s.took l h).body.link l with
        state := .up, since := s.body.clock.now, lanes := (maskLanes m).filter (s.body.link l).lanes.contains,
        resizes := ((s.body.link l).resizes + 1) % 2 ^ 32,
        tx := (((s.took l h).body.link l).tx + ((s.took l h).body.link l).unacked.length) % 2 ^ 64 } ∧
      (∀ k, k ≠ l → t.body.link k = s.body.link k) ∧ t.body = { s.body with net := t.body.net } := by
  have hcarries : carries (s.body.link l).state = true := by rw [hs]; rfl
  have hlen := carries_lt hcarries
  obtain ⟨hlanes, hresizes⟩ := took_lanes s l h hlen
  have hanswer := resizeArrived_asked (b := (s.took l h).body) (m := m) (s.body.ownMember s.vault.serial)
    ((took_link_state s l l h).trans hs) (by rw [hlanes]; exact hw)
  refine ⟨_, exec_resizeFlit hl hwf hm hcarries htype hgood hseq, rfl, rfl, ?_⟩
  dsimp only
  rw [hanswer]
  refine ⟨?_, fun k hk => ?_, rfl⟩
  · rw [alterLink_same _ l _ (by simpa [State.took] using hlen), hlanes, ← hresizes, resized_flush]
    have hidle := (took_link s l h hlen).trans (by rw [acked_idle s.body.arb (s.body.link l) h hq])
    rw [hidle]
    exact flush_empty _ _ hq
  · exact (alterLink_other _ l k _ hk).trans (took_link_other s l k h hk)

/-- R240: the link that answers a RESIZE with the lanes of both ends `ls`: named, its own RESIZE sent, and the resize made. -/
def answering (a : Arb) (own : Option Nat) (ls : List Nat) (g : Link) : Link :=
  (({ g with lanes := ls } : Link).send a (resizeFlit own { g with lanes := ls })).resized a ls

/-- R240: a link that has answered is UP, has the lanes it named, and counts one resize. -/
theorem answering_resized (a : Arb) (own : Option Nat) (ls : List Nat) (g : Link) :
    (answering a own ls g).state = .up ∧ (answering a own ls g).lanes = ls ∧
    (answering a own ls g).resizes = (g.resizes + 1) % 2 ^ 32 ∧ Keeps (answering a own ls g) (namesLanes ls) := by
  have hkeeps : Keeps (answering a own ls g) (namesLanes ls) := resized_keeps (namesLanes_lasting ls) a _ ls
    (send_keeps (namesLanes_lasting ls) a { g with lanes := ls } (resizeFlit own { g with lanes := ls }) ⟨rfl, rfl⟩)
  obtain ⟨_, _, _, _, _, _, _, hsent⟩ := send_dispatched a { g with lanes := ls } (resizeFlit own { g with lanes := ls })
  obtain ⟨_, _, _, _, _, _, _, hflushed⟩ := flush_dispatched a (regained a.now ls
    (({ g with lanes := ls } : Link).send a (resizeFlit own { g with lanes := ls })))
  have hform : answering a own ls g = _ := (resized_flush a _ ls).trans hflushed
  rw [hsent] at hform
  exact ⟨by rw [hform]; rfl, by rw [hform]; rfl, by rw [hform]; rfl, hkeeps⟩

/-- R240: a link in UP answers with the lanes of both ends, and has resized. -/
theorem resize_answers (s : State) (l m : Nat) (h : FlitHdr) (ht : Taken s l h 0x03) (hm : m < 16)
    (hw : s.body.book.tables.link.minWidth ≤ ((maskLanes m).filter (s.body.link l).lanes.contains).length) : ∃ t : State,
      exec (.resizeFlit l h m) s = .next t ∧ (t.body.link l).state = .up ∧
      (t.body.link l).lanes = (maskLanes m).filter (s.body.link l).lanes.contains ∧
      (t.body.link l).resizes = ((s.body.link l).resizes + 1) % 2 ^ 32 ∧
      Keeps (t.body.link l) (namesLanes ((maskLanes m).filter (s.body.link l).lanes.contains)) ∧
      (∀ k, k ≠ l → t.body.link k = s.body.link k) ∧ t.body = { s.body with net := t.body.net } := by
  have hcarries : carries (s.body.link l).state = true := by rw [ht.up]; rfl
  obtain ⟨hlanes, hresizes⟩ := took_lanes s l h ht.fitted
  have hup := (took_link_state s l l h).trans ht.up
  have hlen : l < (s.took l h).body.net.links.length := by simpa [State.took] using ht.fitted
  have hanswer := resizeArrived_unasked (b := (s.took l h).body) (m := m) (s.body.ownMember s.vault.serial) hup (by rw [hlanes]; exact hw)
  rw [hlanes] at hanswer
  generalize (maskLanes m).filter (s.body.link l).lanes.contains = ls at hanswer
  have hlink : ((s.took l h).body.resizeArrived (s.body.ownMember s.vault.serial) l m).link l =
      answering (s.took l h).body.arb (s.body.ownMember s.vault.serial) ls ((s.took l h).body.link l) := by
    have hnamed := alterLink_same (s.took l h).body l (fun g => { g with lanes := ls }) hlen
    rw [hanswer, sendResize_eq, alterLink_same _ l _ (by simpa using hlen), alterLink_same _ l _ (by simpa using hlen), hnamed]
    rfl
  have hothers : ∀ k, k ≠ l → ((s.took l h).body.resizeArrived (s.body.ownMember s.vault.serial) l m).link k = s.body.link k :=
    fun k hk => by
      rw [hanswer, sendResize_eq, alterLink_other _ l k _ hk, alterLink_other _ l k _ hk, alterLink_other _ l k _ hk]
      exact took_link_other s l k h hk
  obtain ⟨hstate, hnew, hcount, hkeeps⟩ := answering_resized (s.took l h).body.arb (s.body.ownMember s.vault.serial) ls
    ((s.took l h).body.link l)
  rw [← hlink] at hstate hnew hcount hkeeps
  rw [hresizes] at hcount
  exact ⟨_, exec_resizeFlit ht.link ht.wf hm hcarries ht.type ht.good ht.next, hstate, hnew, hcount, hkeeps, hothers,
    by rw [hanswer]; rfl⟩

/-- R241: a lane with a fresh signature rejoins by a second resize. -/
theorem lane_rejoins (s : State) (l lane : Nat) (m : AuthMsg) (hl : l < 48) (hlane : lane < 4) (hd : LaneDue s.body l lane)
    (hsig : m.sigOk = true) (hdebug : s.vault.debug = false) (hask : s.lodgeAsked)
    (hr : (s.vault.recentProofs s.body.clock.now).length < 16) : ∃ t : State, exec (.laneRetrain l lane true m) s = .next t ∧
      (∃ a, t.body.link l = (resizing s.body.clock.now (rejoined lane (s.body.link l))).send a
        (resizeFlit (s.body.ownMember s.vault.serial) (rejoined lane (s.body.link l)))) ∧
      (∀ k, k ≠ l → t.body.link k = s.body.link k) ∧
      t.vault = { s.vault with idleSince := s.body.clock.now, proofsAt := s.body.clock.now :: s.vault.recentProofs s.body.clock.now } ∧
      t.body = { s.body with net := t.body.net, doves := t.body.doves, free := s.body.free + 1 } := by
  have hlen : l < s.body.net.links.length := link_lt s.body l (by simp [hd.up])
  obtain ⟨dv, hexec⟩ := exec_laneRetrain_asked m hl hlane hd hask
    (proofRoom_some (v := { s.vault with idleSince := s.body.clock.now }) hdebug hr)
  have hrejoin := laneRejoins_signed (b := { s.body with doves := dv, free := s.body.free + 1 })
    (v := { s.vault with idleSince := s.body.clock.now }) (m := m) hd.up hd.lost hd.good hsig hdebug
  rw [hrejoin] at hexec
  refine ⟨_, hexec, ⟨s.body.arb, ?_⟩, fun k hk => ?_, rfl, rfl⟩
  · dsimp only
    rw [resize_link _ (by simpa using hlen), alterLink_same _ l _ (by exact hlen)]
    rfl
  · exact (resize_other _ k hk).trans (alterLink_other _ l k _ hk)

/-- R241: one whose signature fails quarantines the link. -/
theorem lane_refused (s : State) (l lane : Nat) (m : AuthMsg) (hl : l < 48) (hlane : lane < 4) (hd : LaneDue s.body l lane)
    (hsig : m.sigOk = false) (hask : s.lodgeAsked) (hr : (s.vault.recentProofs s.body.clock.now).length < 16) :
    ∃ t : State, exec (.laneRetrain l lane true m) s = .next t ∧ (t.body.link l).state = .quarantine ∧ (t.body.link l).reason = 1 := by
  have hroom : ∃ w, ({ s.vault with idleSince := s.body.clock.now } : Vault).proofRoom s.body.clock.now = some w := by
    cases hdebug : s.vault.debug with
    | true => exact ⟨_, if_pos hdebug⟩
    | false => exact ⟨_, proofRoom_some (v := { s.vault with idleSince := s.body.clock.now }) hdebug hr⟩
  obtain ⟨w, hroom⟩ := hroom
  obtain ⟨dv, hexec⟩ := exec_laneRetrain_asked m hl hlane hd hask hroom
  have hrejoin := laneRejoins_unsigned (b := { s.body with doves := dv, free := s.body.free + 1 })
    (v := { s.vault with idleSince := s.body.clock.now }) (m := m) hd.up hd.lost hd.good hsig
  obtain ⟨hfailed, -, -⟩ := proofFailed_failed { s.body with doves := dv, free := s.body.free + 1 }
    (s.body.ownMember s.vault.serial) l qAuthFailed (link_lt s.body l (by simp [hd.up]))
  rw [hrejoin] at hexec
  exact ⟨_, hexec, hfailed.state, hfailed.reason⟩

/-- Settles O48: a lane that fails leaves its link, a RESIZE settles the lanes of both ends, and a lane that is due asks the Lodge. -/
theorem laneResize : Obligations.LaneResize := by
  refine ⟨fun s l lane hl hlane hlen hs hin => ?_,
    fun s l m h hl hlen hwf hm hs htype hgood hseq hq hw => resize_ends s l m h hl hwf hm hs htype hgood hseq hq hw,
    fun s l m h ht hm hw => resize_answers s l m h ht hm hw,
    fun s l lane m hl hlane hup hlen hlost hgood hslot hearly hsig hdebug hask hr => ?_,
    fun s l lane m hl hlane hup hlen hlost hgood hslot hearly hsig hask hr =>
      lane_refused s l lane m hl hlane ⟨hup, hlost, hgood, hslot, hearly⟩ hsig hask hr,
    fun s l lane m hl hlane hup hlost hgood hslot hearly hoff hfull hasks => ?_,
    fun s l lane m hl hlane hup hlen hlost hgood hslot hearly => ?_, fun s l lane trained m hl hlane h => ?_⟩
  · obtain ⟨t, hexec, hvault, hqueue, hresizes, hdown, hothers⟩ := lane_fails s l lane hl hlane hs hin
    refine ⟨t, hexec, hvault, hqueue, fun hw => ?_, hdown, hothers⟩
    obtain ⟨⟨a, hlink⟩, hparts⟩ := hresizes hw
    obtain ⟨hstate, hsince, hlanes, hcount, -, hkeeps⟩ := resizing_sent a s.body.clock.now (s.body.ownMember s.vault.serial)
      ((s.body.link l).loseLane lane)
    rw [hlink]
    exact ⟨hstate, hsince, hlanes, hcount, hkeeps, fun hq hc hu => resizing_sent_at_once a s.body.clock.now _
      ((s.body.link l).loseLane lane) hq hc hu, hparts⟩
  · obtain ⟨t, hexec, ⟨a, hlink⟩, hothers, hvault, hframe⟩ := lane_rejoins s l lane m hl hlane ⟨hup, hlost, hgood, hslot, hearly⟩
      hsig hdebug hask hr
    obtain ⟨hstate, hsince, hlanes, -, htried, hkeeps⟩ := resizing_sent a s.body.clock.now (s.body.ownMember s.vault.serial)
      (rejoined lane (s.body.link l))
    refine ⟨t, hexec, ?_⟩
    rw [hlink]
    exact ⟨hstate, hsince, hlanes, htried, hkeeps, hothers, hvault, hframe⟩
  · obtain ⟨dv, hmail, -, hlodge⟩ := askLodge_off (b := s.body) (.lane l lane m) hoff hfull hasks
    refine ⟨_, exec_laneRetrain s l lane true m hl hlane, ?_⟩
    rw [laneRetrains_due true m s.vault ⟨hup, hlost, hgood, hslot, hearly⟩, if_pos rfl, hlodge]
    exact ⟨rfl, hmail, rfl⟩
  · refine ⟨_, exec_laneRetrain s l lane false m hl hlane, ?_⟩
    rw [laneRetrains_due false m s.vault ⟨hup, hlost, hgood, hslot, hearly⟩, if_neg Bool.false_ne_true]
    exact ⟨alterLink_same s.body l _ hlen, fun k hk => alterLink_other s.body l k _ hk, rfl⟩
  · rw [exec_laneRetrain s l lane trained m hl hlane, laneRetrains_idle trained m s.vault h]

end Sys2Proof.Proofs
end

section
/-!
PROOFS. Flits in error, NAK, IDLE, malformed flits and starved VCs (10, R232 to R235, R240, R249, R257).
-/

namespace Sys2Proof.Proofs

open Sys2Proof Sys2Proof.Machine Sys2Proof.Laws

/-! ## A flit in error (R233, R234) -/

theorem exec_flitCrcError (s : State) (l : Nat) (fec : Option Nat) (hl : l < 48) (hf : ∀ n, fec = some n → n < 4) :
    exec (.flitCrcError l fec) s = .next { s with body := s.body.flitError (s.body.ownMember s.vault.serial) l fec } := by
  have hfec : fec.all (fun n => decide (n < 4)) = true := by
    cases fec with
    | none => rfl
    | some n => exact decide_eq_true (hf n rfl)
  exact onBody_of (decide (l < 48) && fec.all (fun n => decide (n < 4))) s (fun b => b.flitError (b.ownMember s.vault.serial) l fec)
    (by rw [hfec, Bool.and_true]; exact decide_eq_true hl)

/-- The NAK that names the flit expected next. -/
def nakFlit (own : Nat) (g : Link) : Flit :=
  ⟨{ ownHdr fNak 0 0 own g.partner 0 0 with seq := g.rxSeq, ack := (g.rxSeq + 4095) % 4096 }, .nak⟩

/-- A link that discards until that flit comes, and has counted its NAK. -/
def nakking (now storm : Nat) (g : Link) : Link :=
  let at_ := now :: g.nakAt.filter (fun t => decide (now < t + 1000000))
  { g with nakSent := true, naks := (g.naks + 1) % 2 ^ 32, nakAt := at_,
           laneCheck := if storm < at_.length then some (g.laneCheck.getD now) else g.laneCheck }

theorem crcError_stands (a : Arb) (g : Link) (own storm : Nat) (h : g.nakStands a.now = true) : g.crcError a own storm = g := if_pos h

theorem crcError_naks (a : Arb) (g : Link) (own storm : Nat) (h : g.nakStands a.now = false) :
    g.crcError a own storm = (nakking a.now storm g).send a (nakFlit own g) := if_neg (by simp [h])

/-- R234: one more NAK than RETRY_STORM allows in 1 ms starts a lane check. -/
theorem nakking_laneCheck (now storm : Nat) (g : Link)
    (h : storm ≤ (g.nakAt.filter (fun t => decide (now < t + 1000000))).length) : (nakking now storm g).laneCheck ≠ none := by
  have hover : storm < (now :: g.nakAt.filter (fun t => decide (now < t + 1000000))).length := by
    rw [List.length_cons]
    omega
  rw [show (nakking now storm g).laneCheck = some (g.laneCheck.getD now) from if_pos hover]
  exact Option.some_ne_none _

/-- R235: the NAK leaves at once where nothing waits and there is a credit. -/
theorem nak_sent_at_once (a : Arb) (g : Link) (own storm : Nat) (hs : carries g.state = true) (hq : g.queued = [])
    (hc : 0 < g.credits.getD 0 0) : ((nakking a.now storm g).send a (nakFlit own g)).tx = (g.tx + 1) % 2 ^ 64 := by
  have hcan : (nakking a.now storm g).canSend (nakFlit own g) = true := by
    have hcredit : decide (0 < (nakking a.now storm g).credits.getD (nakFlit own g).hdr.vc 0) = true := decide_eq_true hc
    have hcases : g.state = .up ∨ g.state = .resize := by simpa [carries] using hs
    rw [Link.canSend, hcredit, show (nakking a.now storm g).state = g.state from rfl]
    rcases hcases with hup | hresize
    · rw [hup]
      rfl
    · rw [hresize]
      rfl
  exact send_at_once_tx a (nakking a.now storm g) (nakFlit own g) hq rfl hcan

/-- A flit in error takes nothing: all but what sends the NAK, and counts it, stays. -/
theorem crcError_keeps (a : Arb) (g : Link) (own storm : Nat) : (g.crcError a own storm).state = g.state ∧
    (g.crcError a own storm).lanes = g.lanes ∧ (g.crcError a own storm).fecAt = g.fecAt ∧
    (g.crcError a own storm).fecUncorrected = g.fecUncorrected ∧ (g.crcError a own storm).rxSeq = g.rxSeq ∧
    (g.crcError a own storm).rx = g.rx := by
  cases hstands : g.nakStands a.now with
  | true =>
    rw [crcError_stands a g own storm hstands]
    exact ⟨rfl, rfl, rfl, rfl, rfl, rfl⟩
  | false =>
    obtain ⟨_, _, _, _, _, _, _, hform⟩ := send_dispatched a (nakking a.now storm g) (nakFlit own g)
    rw [crcError_naks a g own storm hstands, hform]
    exact ⟨rfl, rfl, rfl, rfl, rfl, rfl⟩

theorem flitError_plain {b : Body} {l : Nat} (own : Option Nat) (hs : carries (b.link l).state = true) :
    b.flitError own l none = b.alterLink l (fun g => g.crcError b.arb (own.getD 0) b.book.tables.link.retryStorm) := by
  unfold Body.flitError
  dsimp only
  rw [if_pos hs]

/-! ## An uncorrectable codeword (R240, R257) -/

/-- The module that has counted an uncorrectable codeword of lane `n` and discarded its flit. -/
def codewordLost (b : Body) (own : Option Nat) (l n : Nat) : Body :=
  b.alterLink l (fun g => (g.badCodeword b.clock.now n).crcError b.arb (own.getD 0) b.book.tables.link.retryStorm)

theorem codewordLost_link {b : Body} {l : Nat} (own : Option Nat) (n : Nat) (hl : l < b.net.links.length) :
    (codewordLost b own l n).link l =
      ((b.link l).badCodeword b.clock.now n).crcError b.arb (own.getD 0) b.book.tables.link.retryStorm := alterLink_same b l _ hl

theorem flitError_codeword {b : Body} {l n : Nat} (own : Option Nat) (hup : (b.link l).state = .up) : b.flitError own l (some n) =
    if (codewordLost b own l n).overLaneFail l n then (codewordLost b own l n).laneFails own l n else codewordLost b own l n := by
  have hl : l < b.net.links.length := link_lt b l (by simp [hup])
  have hcarries : carries ((b.alterLink l (fun g => g.badCodeword b.clock.now n)).link l).state = true := by
    rw [alterLink_same b l _ hl]
    exact congrArg carries hup
  simp only [Body.flitError, hup, hcarries, if_true, alterLink_alterLink]
  rfl

/-- R240: the lane has failed where this codeword is one more than LANE_FAIL allows in 1 ms. -/
theorem codewordLost_over {b : Body} {l : Nat} (own : Option Nat) (n : Nat) (hl : l < b.net.links.length) :
    (codewordLost b own l n).overLaneFail l n = true ↔ b.book.tables.link.laneFail ≤
      ((b.link l).fecAt.filter (fun x => decide (x.1 = n) && decide (b.clock.now < x.2 + 1000000))).length := by
  obtain ⟨-, -, hfec, -⟩ := crcError_keeps b.arb ((b.link l).badCodeword b.clock.now n) (own.getD 0) b.book.tables.link.retryStorm
  have hcount : (((codewordLost b own l n).link l).fecAt.filter (fun x => decide (x.1 = n))).length =
      ((b.link l).fecAt.filter (fun x => decide (x.1 = n) && decide (b.clock.now < x.2 + 1000000))).length + 1 := by
    rw [codewordLost_link own n hl, hfec, Link.badCodeword, List.filter_cons_of_pos (by simp), List.filter_filter, List.length_cons]
  rw [Body.overLaneFail, hcount, decide_eq_true_iff]
  exact Nat.lt_succ_iff

/-- R240: once a lane has failed its link is without it, and has counted no codeword for it. -/
theorem laneFails_without {b : Body} {l : Nat} (own : Option Nat) (n : Nat) (hs : carries (b.link l).state = true) :
    n ∉ ((b.laneFails own l n).link l).lanes ∧ ((b.laneFails own l n).link l).fecUncorrected = (b.link l).fecUncorrected := by
  by_cases hin : n ∈ (b.link l).lanes
  · by_cases hw : b.book.tables.link.minWidth ≤ ((b.link l).lanes.filter (· != n)).length
    · obtain ⟨⟨a, hlink⟩, -, -⟩ := laneFails_resizes own hs hin hw
      obtain ⟨_, _, _, _, _, _, _, hform⟩ := send_dispatched a (resizing b.clock.now ((b.link l).loseLane n))
        (resizeFlit own ((b.link l).loseLane n))
      rw [hlink, hform]
      exact ⟨by simp [resizing, Link.loseLane], rfl⟩
    · obtain ⟨_, _, _, _, _, _, _, hform⟩ := (laneFails_down own hs hin (Nat.lt_of_not_le hw)).link
      rw [hform]
      exact ⟨List.not_mem_nil, rfl⟩
  · have hstays : b.laneFails own l n = b := if_neg (by simp [hin])
    rw [hstays]
    exact ⟨hin, rfl⟩

/-! ## NAK and IDLE (R233, R235) -/

/-- A link that has taken the acknowledgement and credits of a control flit. -/
def heard (a : Arb) (h : FlitHdr) (g : Link) : Link := { g.acked a h with rx := (g.rx + 1) % 2 ^ 64 }

/-- R233, R235: a control flit gives its acknowledgement and credits, and the row acts on what that leaves. -/
theorem receiveControl_carried {b : Body} {own : Option Nat} {l code : Nat} {h : FlitHdr} (hs : carries (b.link l).state = true)
    (hgood : b.malformed own l h = false) (htype : h.type = code) (k : Body → Body) : b.receiveControl own l h code k =
      k (b.alterLink l (heard b.arb h)) := by
  have hgood' := (counted_malformed b own h (carries_lt hs)).trans hgood
  have hstate : carries ((b.alterLink l (counted h)).link l).state = true := by
    rw [alterLink_same b l _ (carries_lt hs)]
    exact hs
  simp only [Body.receiveControl, countFec_carries b l h hs, hgood', hstate, htype, ne_eq, not_true_eq_false, decide_false,
    Bool.not_true, Bool.or_self, Bool.false_eq_true, if_false, alterLink_alterLink]
  rfl

theorem exec_nakFlit {s : State} {l : Nat} {h : FlitHdr} (hl : l < 48) (hwf : h.wf = true)
    (hs : carries (s.body.link l).state = true) (htype : h.type = 0x01)
    (hgood : s.body.malformed (s.body.ownMember s.vault.serial) l h = false) : exec (.nakFlit l h) s = .next { s with
      body := s.body.alterLink l (fun g => (heard s.body.arb h g).resend) } := by
  have hrow : exec (.nakFlit l h) s = onBody (decide (l < 48) && h.wf) s (fun b =>
      b.receiveControl (b.ownMember s.vault.serial) l h fNak (fun b => b.alterLink l Link.resend)) := rfl
  rw [hrow, onBody_of _ s _ (by simp [hl, hwf]), receiveControl_carried hs hgood (code := fNak) htype, alterLink_alterLink]

/-- R233: after a NAK everything that is still unacknowledged is sent again. -/
theorem heard_resend (a : Arb) (g : Link) (h : FlitHdr) : (heard a h g).resend.unacked = (g.acked a h).unacked ∧
    (heard a h g).resend.tx = ((g.acked a h).tx + (g.acked a h).unacked.length) % 2 ^ 64 ∧
    (heard a h g).resend.fecCorrected = (g.fecCorrected + h.corrected) % 2 ^ 32 ∧ (heard a h g).resend.rx = (g.rx + 1) % 2 ^ 64 ∧
    (heard a h g).resend.rxSeq = g.rxSeq := by
  have hfec : (g.acked a h).fecCorrected = (g.fecCorrected + h.corrected) % 2 ^ 32 := by
    obtain ⟨_, _, _, _, _, _, _, _, hform⟩ := acked_form a g h
    rw [hform]
    rfl
  exact ⟨rfl, rfl, hfec, rfl, (acked_receives a g h).2.2⟩

/-- R235: IDLE moves acknowledgements and credits, and with nothing waiting no flit. -/
theorem heard_idle (a : Arb) (g : Link) (h : FlitHdr) (hq : g.queued = []) : heard a h g = { g with
    unacked := (match g.unacked.findIdx? (fun f => decide (f.hdr.seq = h.ack)) with
      | some i => g.unacked.drop (i + 1)
      | none => g.unacked),
    rxBase := (match g.unacked.find? (fun f => decide (f.hdr.seq = h.ack)) with
      | some f => (f.hdr.ack + 1) % 4096
      | none => g.rxBase),
    credits := g.credits.modify h.crVc (· + h.crCount), rx := (g.rx + 1) % 2 ^ 64,
    fecCorrected := (g.fecCorrected + h.corrected) % 2 ^ 32, dryAt := [none, none, none, none], served := [0, 0, 0, 0, 0] } :=
  congrArg (fun k : Link => { k with rx := (g.rx + 1) % 2 ^ 64 }) (acked_idle a g h hq)

theorem exec_idleFlit {s : State} {l : Nat} {h : FlitHdr} (hl : l < 48) (hwf : h.wf = true)
    (hs : carries (s.body.link l).state = true) (htype : h.type = 0x00)
    (hgood : s.body.malformed (s.body.ownMember s.vault.serial) l h = false) : exec (.idleFlit l h) s = .next { s with
      body := s.body.alterLink l (heard s.body.arb h) } := by
  have hrow : exec (.idleFlit l h) s = onBody (decide (l < 48) && h.wf) s (fun b =>
      b.receiveControl (b.ownMember s.vault.serial) l h fIdle id) := rfl
  rw [hrow, onBody_of _ s _ (by simp [hl, hwf]), receiveControl_carried hs hgood (code := fIdle) htype]
  rfl

/-! ## Malformed flits (R232, R249) -/

/-- A link on which a malformed flit has been dropped. -/
def countMalformed (g : Link) : Link := { g with malformed := (g.malformed + 1) % 2 ^ 16 }

/-- The module that has dropped a malformed flit, before it counts toward BAD_FRAME_LIMIT. -/
def dropped (b : Body) (l : Nat) (h : FlitHdr) : Body := b.alterLink l (fun g => countMalformed (counted h g))

theorem exec_malformedFlit {s : State} {l : Nat} {h : FlitHdr} (hl : l < 48) (hwf : h.wf = true)
    (hs : carries (s.body.link l).state = true) (hbad : s.body.malformed (s.body.ownMember s.vault.serial) l h = true) :
    exec (.malformedFlit l h) s =
      .next { s with body := (dropped s.body l h).badFrame (s.body.ownMember s.vault.serial) l } := by
  have hbad' := (counted_malformed s.body (s.body.ownMember s.vault.serial) h (carries_lt hs)).trans hbad
  have hstate : carries ((s.body.alterLink l (counted h)).link l).state = true := by
    rw [alterLink_same s.body l _ (carries_lt hs)]
    exact hs
  have hrow : exec (.malformedFlit l h) s = onBody (decide (l < 48) && h.wf) s (fun b =>
      if carries ((b.countFec l h).link l).state && (b.countFec l h).malformed (b.ownMember s.vault.serial) l h then
        (b.countFec l h).dropMalformed (b.ownMember s.vault.serial) l else b.countFec l h) := rfl
  rw [hrow, onBody_of _ s _ (by simp [hl, hwf])]
  simp only [countFec_carries s.body l h hs, hbad', hstate, Bool.and_self, if_true, Body.dropMalformed, alterLink_alterLink]
  rfl

theorem dropped_link {b : Body} {l : Nat} (h : FlitHdr) (hl : l < b.net.links.length) :
    (dropped b l h).link l = countMalformed (counted h (b.link l)) := alterLink_same b l _ hl

/-- R249: the bad frame that reaches the limit quarantines the link. -/
theorem badFrame_limit (b : Body) (own : Option Nat) (l : Nat) (hl : l < b.net.links.length)
    (hover : b.book.tables.link.badFrameLimit ≤
      ((b.link l).badAt.filter (fun x => decide (b.clock.now < x + b.book.tables.link.badFrameWindowNs))).length + 1) :
    LeftAs b (b.badFrame own l) l ((noteBad b.clock.now b.book.tables.link.badFrameWindowNs (b.link l)).leaveAuth.drop .quarantine
      qBadFrames b.clock.now) := by
  have hlink := alterLink_same b l (noteBad b.clock.now b.book.tables.link.badFrameWindowNs) hl
  have hmany : b.book.tables.link.badFrameLimit ≤
      ((b.alterLink l (noteBad b.clock.now b.book.tables.link.badFrameWindowNs)).link l).badAt.length := by
    rw [hlink, noteBad, List.length_cons]
    exact hover
  have hleft := leaveUp_leftAs (b.alterLink l (noteBad b.clock.now b.book.tables.link.badFrameWindowNs)) own l .quarantine qBadFrames
    (by simpa using hl)
  rw [hlink] at hleft
  rw [show b.badFrame own l = _ from if_pos hmany]
  exact hleft.of_alterLink

/-! ## Starvation (R249) -/

theorem exec_vc0Starvation (s : State) (l : Nat) (hl : l < 48) :
    exec (.vc0Starvation l) s = .next { s with body := s.body.starve (s.body.ownMember s.vault.serial) l 0 } :=
  onBody_of (decide (l < 48)) s (fun b => b.starve (b.ownMember s.vault.serial) l 0) (decide_eq_true hl)

theorem exec_dataStarvation (s : State) (l vc : Nat) (hl : l < 48) (hlo : 1 ≤ vc) (hhi : vc < 4) :
    exec (.dataStarvation l vc) s = .next { s with body := s.body.starve (s.body.ownMember s.vault.serial) l vc } :=
  onBody_of (decide (l < 48) && decide (1 ≤ vc) && decide (vc < 4)) s (fun b => b.starve (b.ownMember s.vault.serial) l vc)
    (by simp [hl, hlo, hhi])

/-- R249: a VC whose wait is over is counted, and its link quarantined. -/
theorem starved_quarantines (b : Body) (own : Option Nat) (l vc : Nat) (hl : l < b.net.links.length) :
    ((b.starved own l vc).link l).state = .quarantine ∧ ((b.starved own l vc).link l).reason = 5 ∧
    ((b.starved own l vc).link l).starved = ((b.link l).starved + 1) % 2 ^ 16 ∧ (b.starved own l vc).clock = b.clock := by
  obtain ⟨hlink, -, hclock⟩ := (leaveUp_leftAs (b.alterLink l (fun g => { g with starved := wrap 16 (g.starved + 1) })) own l .quarantine
    qStarved (by simpa using hl)).sameLinks (raise_contained_sameLinks _ tLink l kLinkStarved vc)
  rw [alterLink_same b l _ hl] at hlink
  obtain ⟨_, _, _, _, _, _, _, hform⟩ := hlink
  rw [show (b.starved own l vc).link l = _ from hform]
  exact ⟨rfl, rfl, rfl, hclock⟩

theorem starve_none {b : Body} {l vc : Nat} (own : Option Nat) (h : (b.link l).starves vc = none) : b.starve own l vc = b := by
  rw [Body.starve, h]

theorem starve_vc0 {b : Body} {l x b0 : Nat} (own : Option Nat) (h : (b.link l).starves 0 = some (x, b0)) :
    b.starve own l 0 = (b.until_ (x + b.book.tables.link.starveVc0Ns)).starved own l 0 := by
  rw [Body.starve, h]
  exact if_pos rfl

theorem starve_data {b : Body} {l vc x b0 : Nat} (own : Option Nat) (hvc : 1 ≤ vc) (h : (b.link l).starves vc = some (x, b0)) :
    b.starve own l vc = if b0 + b.book.tables.link.dataStarveBeats ≤ b.clock.beat then b.starved own l vc else b := by
  rw [Body.starve, h]
  exact if_neg (by omega)

/-! ## Each outcome -/

/-- R233, R234: a flit in error sends a NAK, unless the NAK of its run still stands. -/
theorem flit_in_error (s : State) (l : Nat) (hl : l < 48) (hs : carries (s.body.link l).state = true) : ∃ t : State,
    exec (.flitCrcError l none) s = .next t ∧
    t.body.link l = (s.body.link l).crcError s.body.arb ((s.body.ownMember s.vault.serial).getD 0) s.body.book.tables.link.retryStorm ∧
    (∀ k, k ≠ l → t.body.link k = s.body.link k) ∧ t.body = { s.body with net := t.body.net } := by
  refine ⟨_, exec_flitCrcError s l none hl nofun, ?_⟩
  dsimp only
  rw [flitError_plain _ hs]
  exact ⟨alterLink_same _ l _ (carries_lt hs), fun k hk => alterLink_other _ l k _ hk, rfl⟩

/-- R240, R257: an uncorrectable codeword is counted; the lane leaves its link where it is one too many. -/
theorem codeword_lost (s : State) (l n : Nat) (hl : l < 48) (hn : n < 4) (hup : (s.body.link l).state = .up) : ∃ t : State,
    exec (.flitCrcError l (some n)) s = .next t ∧
    (t.body.link l).fecUncorrected = ((s.body.link l).fecUncorrected + 1) % 2 ^ 32 ∧
    (((s.body.link l).fecAt.filter (fun x => decide (x.1 = n) && decide (s.body.clock.now < x.2 + 1000000))).length <
        s.body.book.tables.link.laneFail →
      (t.body.link l).lanes = (s.body.link l).lanes ∧ (t.body.link l).state = .up ∧
      (∀ k, k ≠ l → t.body.link k = s.body.link k) ∧ t.body = { s.body with net := t.body.net }) ∧
    (s.body.book.tables.link.laneFail ≤
        ((s.body.link l).fecAt.filter (fun x => decide (x.1 = n) && decide (s.body.clock.now < x.2 + 1000000))).length →
      n ∉ (t.body.link l).lanes) := by
  have hlen : l < s.body.net.links.length := link_lt s.body l (by simp [hup])
  have hover := codewordLost_over (s.body.ownMember s.vault.serial) n hlen
  obtain ⟨hstate, hlanes, -, hcount, -, -⟩ := crcError_keeps s.body.arb ((s.body.link l).badCodeword s.body.clock.now n)
    ((s.body.ownMember s.vault.serial).getD 0) s.body.book.tables.link.retryStorm
  rw [← codewordLost_link (s.body.ownMember s.vault.serial) n hlen] at hstate hlanes hcount
  obtain ⟨hwithout, hsame⟩ := laneFails_without (s.body.ownMember s.vault.serial) n (congrArg carries (hstate.trans hup))
  refine ⟨_, exec_flitCrcError s l (some n) hl (fun m hm => by cases hm; exact hn), ?_⟩
  dsimp only
  rw [flitError_codeword _ hup]
  by_cases hfails : (codewordLost s.body (s.body.ownMember s.vault.serial) l n).overLaneFail l n = true
  · rw [if_pos hfails]
    exact ⟨hsame.trans hcount, fun hfew => absurd (hover.1 hfails) (Nat.not_le.2 hfew), fun _ => hwithout⟩
  · rw [if_neg hfails]
    exact ⟨hcount, fun _ => ⟨hlanes, hstate.trans hup, fun k hk => alterLink_other _ l k _ hk, rfl⟩,
      fun hmany => absurd (hover.2 hmany) hfails⟩

/-- R232, R249: a malformed flit is dropped and counted; the last that the limit allows quarantines its link. -/
theorem malformed_dropped (s : State) (l : Nat) (h : FlitHdr) (hl : l < 48) (hwf : h.wf = true) (hup : (s.body.link l).state = .up)
    (hbad : s.body.malformed (s.body.ownMember s.vault.serial) l h = true) : ∃ t : State, exec (.malformedFlit l h) s = .next t ∧
      (t.body.link l).malformed = ((s.body.link l).malformed + 1) % 2 ^ 16 ∧ (t.body.link l).rxSeq = (s.body.link l).rxSeq ∧
      (((s.body.link l).badAt.filter (fun x => decide (s.body.clock.now < x + s.body.book.tables.link.badFrameWindowNs))).length + 1 <
        s.body.book.tables.link.badFrameLimit → (t.body.link l).state = .up ∧ t.body = { s.body with net := t.body.net }) ∧
      (s.body.book.tables.link.badFrameLimit ≤
        ((s.body.link l).badAt.filter (fun x => decide (s.body.clock.now < x + s.body.book.tables.link.badFrameWindowNs))).length + 1 →
        (t.body.link l).state = .quarantine ∧ (t.body.link l).reason = 4) := by
  have hlen : l < s.body.net.links.length := link_lt s.body l (by simp [hup])
  have hlen' : l < (dropped s.body l h).net.links.length := by simpa [dropped] using hlen
  have hlink := dropped_link h hlen
  refine ⟨_, exec_malformedFlit hl hwf (congrArg carries hup) hbad, ?_⟩
  dsimp only
  by_cases hfew : ((s.body.link l).badAt.filter (fun x =>
      decide (s.body.clock.now < x + s.body.book.tables.link.badFrameWindowNs))).length + 1 < s.body.book.tables.link.badFrameLimit
  · rw [badFrame_below (dropped s.body l h) _ l hlen' (by rw [hlink]; exact hfew), alterLink_same _ l _ hlen', hlink]
    exact ⟨rfl, rfl, fun _ => ⟨hup, rfl⟩, fun hmany => absurd hfew (Nat.not_lt.2 hmany)⟩
  · obtain ⟨_, _, _, _, _, _, _, hform⟩ := (badFrame_limit (dropped s.body l h) (s.body.ownMember s.vault.serial) l hlen'
      (by rw [hlink]; exact Nat.le_of_not_lt hfew)).link
    have hrxSeq : ((noteBad s.body.clock.now s.body.book.tables.link.badFrameWindowNs
        (countMalformed (counted h (s.body.link l)))).leaveAuth.drop .quarantine qBadFrames s.body.clock.now).rxSeq =
          (s.body.link l).rxSeq := by
      dsimp only [Link.drop, Link.leaveAuth, noteBad, countMalformed, counted]
    rw [hform, hlink]
    exact ⟨rfl, hrxSeq, fun h => absurd h hfew, fun _ => ⟨rfl, rfl⟩⟩

/-- Settles O49: each row is what it makes of its own link (`Link.crcError`, `Link.acked`), and a link that must leave is `LeftAs`
quarantined. -/
theorem flitErrors : Obligations.FlitErrors := by
  refine ⟨fun s l hl hs hlen => ?_, fun s l n hl hn hup hlen => codeword_lost s l n hl hn hup,
    fun s l h hl hwf hs htype hgood hlen => ?_, fun s l h hl hwf hup htype hgood hlen hq => ?_,
    fun s l h hl hwf hup hlen hbad => malformed_dropped s l h hl hwf hup hbad, fun s l x b0 hl hlen hst => ?_,
    fun s l vc x b0 hl hlen hlo hhi hst hbeat => ?_, fun s l vc x b0 hl hlo hhi hst hbeat => ?_,
    fun s l vc hl hlo hhi => ⟨fun hnone => ?_, fun hnone => ?_⟩⟩
  · obtain ⟨t, hexec, hlink, hothers, hframe⟩ := flit_in_error s l hl hs
    obtain ⟨-, -, -, -, hrxSeq, hrx⟩ := crcError_keeps s.body.arb (s.body.link l) ((s.body.ownMember s.vault.serial).getD 0)
      s.body.book.tables.link.retryStorm
    refine ⟨t, hexec, fun hfresh => ?_, fun hstands => ?_, by rw [hlink, hrxSeq], by rw [hlink, hrx], hothers, hframe⟩
    · have hatOnce := nak_sent_at_once s.body.arb (s.body.link l) ((s.body.ownMember s.vault.serial).getD 0)
        s.body.book.tables.link.retryStorm hs
      obtain ⟨_, _, _, _, _, _, _, hform⟩ := send_dispatched s.body.arb
        (nakking s.body.arb.now s.body.book.tables.link.retryStorm (s.body.link l))
        (nakFlit ((s.body.ownMember s.vault.serial).getD 0) (s.body.link l))
      rw [hlink, crcError_naks _ _ _ _ hfresh]
      refine ⟨by rw [hform]; rfl, by rw [hform]; rfl, hatOnce, fun hstorm => ?_⟩
      rw [hform]
      exact nakking_laneCheck _ _ _ hstorm
    · rw [hlink, crcError_stands _ _ _ _ hstands]
  · obtain ⟨hunacked, htx, hfec, hrx, hrxSeq⟩ := heard_resend s.body.arb (s.body.link l) h
    refine ⟨_, exec_nakFlit hl hwf hs htype hgood, ?_⟩
    dsimp only
    rw [alterLink_same _ l _ hlen]
    exact ⟨hunacked, htx, hfec, hrx, hrxSeq, fun k hk => alterLink_other _ l k _ hk, rfl⟩
  · refine ⟨_, exec_idleFlit hl hwf (congrArg carries hup) htype hgood, ?_, fun k hk => alterLink_other _ l k _ hk, rfl⟩
    dsimp only
    rw [alterLink_same _ l _ hlen]
    exact heard_idle s.body.arb (s.body.link l) h hq
  · refine ⟨_, exec_vc0Starvation s l hl, ?_⟩
    dsimp only
    rw [starve_vc0 _ hst]
    exact starved_quarantines (s.body.until_ (x + s.body.book.tables.link.starveVc0Ns)) _ l 0 hlen
  · refine ⟨_, exec_dataStarvation s l vc hl hlo hhi, ?_⟩
    dsimp only
    rw [starve_data _ hlo hst, if_pos hbeat]
    exact starved_quarantines s.body _ l vc hlen
  · rw [exec_dataStarvation s l vc hl hlo hhi, starve_data _ hlo hst, if_neg (Nat.not_le.2 hbeat)]
  · rw [exec_vc0Starvation s l hl, starve_none _ hnone]
  · rw [exec_dataStarvation s l vc hl hlo hhi, starve_none _ hnone]

end Sys2Proof.Proofs
end

section
/-!
PROOFS. A RELAY flit whose payload is an ADD in a format that the adders do not have (10, R246; 09, R213): no such command can reach the
module, so it is refused where a well-formed one would be forwarded.
-/

namespace Sys2Proof.Proofs

open Sys2Proof Sys2Proof.Machine Sys2Proof.Laws

/-- Member 0 of three. The detour from member 1 to member 2 enters by link 0 and leaves by link 1. -/
def threeMembers : RouteTable where
  domain := 1
  members := [⟨0, 77, [(0, 1), (1, 2)]⟩, ⟨1, 78, [(0, 0)]⟩, ⟨2, 79, [(0, 0)]⟩]
  groups := []
  edges := [⟨1, 2, ⟨1, 3, 2, 3⟩, [[⟨1, 0, 0, 0⟩, ⟨0, 1, 2, 0⟩]]⟩]

/-- The module in its domain, with links 0 and 1 UP to members 1 and 2. -/
def onDetour : State where
  pending := []
  vault := { Vault.reset with serial := 77 }
  body := { Body.reset with
    boot := { Boot.reset with start := .ready, step := 9, inputOk := true, standby := true, rails := true, tested := true }
    book := { Book.reset with tables := { Config.rom with route := threeMembers } }
    net := { Net.reset with links :=
      [{ Link.reset with state := .up, partner := 1, fitted := true }, { Link.reset with state := .up, partner := 2, fitted := true }] } }

/-- RELAY of an ADD (type 0x33) from member 1 to member 2. -/
def relayedAdd : FlitHdr := ⟨0x33, 3, 0, 0, 0, 0, 0, 1, 2, 0, 0, false, 0, 0, []⟩

/-- An add of one FP64 value: the adders have no such format. -/
def fp64Add : FlitBody := .add ⟨1, 0, .fp64, .fp64, [0], false, 1, true⟩

theorem relayedAdd_taken : Taken onDetour 0 relayedAdd relayedAdd.type where
  link := by decide
  fitted := by decide
  wf := by decide
  up := rfl
  type := rfl
  good := by decide +kernel
  next := rfl

theorem relayedAdd_forward :
    onDetour.body.relayStep (onDetour.body.ownMember onDetour.vault.serial) 0 relayedAdd = .forward 1 := by decide +kernel

/-- The payload is of the type that the header names, but its command is ill-formed. -/
theorem fp64Add_refused : exec (.relayFlit 0 relayedAdd fp64Add) onDetour = .refused .illFormed :=
  everyCommandAnswers.2 (.relayFlit 0 relayedAdd fp64Add) onDetour (by decide)

/-- Refutes O52: its first clause has every RELAY flit of a fitting type forwarded, also one whose ADD is in a format that no command can
name; `exec` refuses that one. -/
theorem not_relayFenceNotice : ¬ Obligations.RelayFenceNotice := by
  rintro ⟨hforward, -⟩
  obtain ⟨t, hexec, -⟩ := hforward onDetour 0 1 relayedAdd fp64Add relayedAdd_taken rfl relayedAdd_forward (by decide) rfl
  rw [fp64Add_refused] at hexec
  cases hexec

end Sys2Proof.Proofs
end

section
/-!
PROOFS. The bandstand (11, R259 to R262, R441): edges that are accepted, rejected or missing, the lock that ends SEEKING, a later IEEE 1588
time, and the loss of REF.
-/

namespace Sys2Proof.Proofs

open Sys2Proof Sys2Proof.Machine Sys2Proof.Laws

/-! ## The rows -/

theorem exec_beatEdge (s : State) (d : Int) : exec (.beatEdge d) s = .next { s with body := s.body.beatEdge d } := rfl

theorem exec_beatEdgeMissing (s : State) : exec .beatEdgeMissing s = .next { s with body := s.body.edgeMissing } := rfl

theorem exec_holdoverExpired (s : State) : exec .holdoverExpired s = .next { s with body := s.body.holdoverExpired } := rfl

theorem exec_ptpTime (s : State) (tai : Nat) : exec (.ptpTime tai) s = .next { s with body := s.body.ptpTime tai } := rfl

theorem exec_refLost (s : State) : exec .refLost s = .next { s with body := s.body.refLost } := rfl

/-! ## Edges (R259, R261) -/

/-- Table 11.2: the bandstand counts a beat in LOCKED, HOLDOVER and UNLOCKED. -/
theorem hasBeat_iff (b : Body) : b.hasBeat = true ↔ b.clock.band = .locked ∨ b.clock.band = .holdover ∨ b.clock.band = .unlocked := by
  unfold Body.hasBeat
  cases b.clock.band <;> simp

/-- Without REF's edge the beat is counted on. -/
theorem hasBeat_of_coasting (b : Body) (h : b.clock.band = .holdover ∨ b.clock.band = .unlocked) : b.hasBeat = true :=
  (hasBeat_iff b).2 (.inr h)

theorem beatEdge_of_hasBeat (b : Body) (d : Int) (h : b.hasBeat = true) : b.beatEdge d =
    if d.natAbs ≤ b.book.tables.beat.edgeTol then { b with clock := b.clock.accept d } else { b with clock := b.clock.reject } := by
  unfold Body.beatEdge
  rcases (hasBeat_iff b).1 h with hb | hb | hb <;> rw [hb]

/-- R259: the phase moves one tick toward the edge. -/
theorem accept_eq (c : Clock) (d : Int) :
    c.accept d = { c with band := .locked, holdBeats := 0, beatStart := ((c.beatStart : Int) + d.sign).toNat } := by
  have hphase : (if 0 < d then c.beatStart + 1 else if d < 0 then c.beatStart - 1 else c.beatStart) =
      ((c.beatStart : Int) + d.sign).toNat := by
    rcases lt_trichotomy d 0 with h | h | h
    · rw [if_neg (by omega), if_pos h, Int.sign_eq_neg_one_of_neg h]; omega
    · subst h; simp
    · rw [if_pos h, Int.sign_eq_one_of_pos h]; omega
  rw [Clock.accept, hphase]

/-- R261: the first edge lost in LOCKED begins HOLDOVER. -/
theorem reject_locked (c : Clock) (h : c.band = .locked) :
    c.reject = { c with band := .holdover, holdBeats := 1, edgesRejected := (c.edgesRejected + 1) % 2 ^ 32 } := by
  simp only [Clock.reject, h]
  rfl

/-- R261: a further one is counted. -/
theorem reject_coasting (c : Clock) (h : c.band = .holdover ∨ c.band = .unlocked) :
    c.reject = { c with edgesRejected := (c.edgesRejected + 1) % 2 ^ 32 } := by
  rcases h with h | h <;> simp only [Clock.reject, h] <;> rfl

theorem exec_beatEdge_accepted (s : State) (d : Int) (hb : s.body.hasBeat = true)
    (hd : d.natAbs ≤ s.body.book.tables.beat.edgeTol) :
    exec (.beatEdge d) s = .next { s with body := { s.body with clock := s.body.clock.accept d } } := by
  rw [exec_beatEdge, beatEdge_of_hasBeat _ d hb, if_pos hd]

theorem exec_beatEdge_rejected (s : State) (d : Int) (hb : s.body.hasBeat = true)
    (hd : s.body.book.tables.beat.edgeTol < d.natAbs) :
    exec (.beatEdge d) s = .next { s with body := { s.body with clock := s.body.clock.reject } } := by
  rw [exec_beatEdge, beatEdge_of_hasBeat _ d hb, if_neg (Nat.not_le_of_lt hd)]

theorem exec_beatEdgeMissing_counted (s : State) (hb : s.body.hasBeat = true) :
    exec .beatEdgeMissing s = .next { s with body := { s.body with clock := s.body.clock.reject } } := by
  rw [exec_beatEdgeMissing, Body.edgeMissing, if_pos hb]

/-- Settles O23: an edge is `Clock.accept` or `Clock.reject`, which say what becomes of the phase and of the state of the bandstand. -/
theorem beatEdges : Obligations.BeatEdges := by
  refine ⟨fun s d hb hd => ?_, fun s d hl hd => ?_, fun s d hc hd => ?_, fun s hl => ?_, fun s hc => ?_, fun s hh hn => ?_⟩
  · rw [exec_beatEdge_accepted s d hb hd, accept_eq]
  · rw [exec_beatEdge_rejected s d ((hasBeat_iff _).2 (.inl hl)) hd, reject_locked _ hl]
  · rw [exec_beatEdge_rejected s d (hasBeat_of_coasting _ hc) hd, reject_coasting _ hc]
  · rw [exec_beatEdgeMissing_counted s ((hasBeat_iff _).2 (.inl hl)), reject_locked _ hl]
  · rw [exec_beatEdgeMissing_counted s (hasBeat_of_coasting _ hc), reject_coasting _ hc]
  · rw [exec_holdoverExpired, Body.holdoverExpired, if_pos ⟨hh, hn⟩]

/-! ## The lock and later times (R260, R262, R441) -/

/-- Log 40: a time that names a beat's start at the edge gives that beat. -/
theorem beatOfEdge_atStart (c : BeatConfig) (now n : Nat) (hns : 0 < c.beatNs) :
    beatOfEdge c now now (c.beatEpoch + n * c.beatNs) = some n := by
  have hrest : c.beatEpoch + n * c.beatNs + now - now - c.beatEpoch = n * c.beatNs := by omega
  have hbeat : (n * c.beatNs + c.beatNs / 2) / c.beatNs = n := by
    rw [Nat.add_comm, Nat.add_mul_div_right _ _ hns, Nat.div_eq_of_lt (Nat.div_lt_self hns (by decide)), Nat.zero_add]
  simp only [beatOfEdge, hrest, Nat.mul_mod_left, hbeat]
  exact if_pos ⟨by omega, by omega, .inl (by omega)⟩

/-- R260: the lock by an edge of now and a time of now. -/
theorem tryLock_atStart (b : Body) (n : Nat) (hband : b.clock.band = .seeking) (hedge : b.clock.edgeAt = some b.clock.now)
    (hns : 0 < b.book.tables.beat.beatNs)
    (htai : b.clock.tai = some (b.clock.now, b.book.tables.beat.beatEpoch + n * b.book.tables.beat.beatNs)) :
    b.tryLock = { b with
      clock := { b.clock with band := .locked, beat := n % 2 ^ 48, beatNs := b.book.tables.beat.beatNs, beatStart := b.clock.now,
                              made := false, holdBeats := 0, edgeAt := none },
      sched := b.sched.discardStale (n % 2 ^ 48),
      power := (b.power.relock b.clock.now b.clock.now).seedGrant (b.clock.beatNs = 0) (n % 2 ^ 48) } := by
  simp only [Body.tryLock, hband, hedge, htai, beatOfEdge_atStart _ _ n hns, Nat.sub_self, Nat.zero_div, Nat.zero_mul, Nat.add_zero]

/-- R441: barriers stay, and entries of beats to come. -/
theorem mem_discardStale (sc : Sched) (beat : Nat) (e : SchedEntry) :
    e ∈ (sc.discardStale beat).entries ↔ e ∈ sc.entries ∧ (e.kind = 2 ∨ beat < e.beat) := by
  simp only [Sched.discardStale, List.mem_filter, Bool.not_eq_true', Bool.and_eq_false_imp, decide_eq_true_eq, decide_eq_false_iff_not]
  refine and_congr_right fun _ => ?_
  omega

/-- The number that a time gives the beat in progress. -/
def namedBeat (b : Body) (tai : Nat) : Nat := (tai - b.book.tables.beat.beatEpoch) / b.beatNs % 2 ^ 48

theorem ptpTime_of_hasBeat (b : Body) (tai : Nat) (h : b.hasBeat = true) : b.ptpTime tai =
    if namedBeat b tai = b.clock.beat then b else b.raise tBand 0 .corrected kBeatMismatch (namedBeat b tai) := by
  unfold Body.ptpTime
  rcases (hasBeat_iff b).1 h with hb | hb | hb <;> simp only [hb] <;> rfl

theorem ptpTime_seeking (b : Body) (tai : Nat) (hband : b.clock.band = .seeking) (href : b.clock.refPresent = true) :
    b.ptpTime tai = ({ b with clock := { b.clock with tai := some (b.clock.now, tai) } } : Body).tryLock := by
  simp only [Body.ptpTime, hband, href, if_true]

/-- Settles O24: the time that names a beat's start is the one that `tryLock` locks on; later times are compared with the count. -/
theorem timeOfDay : Obligations.TimeOfDay := by
  refine ⟨fun s tai n hband href hedge hns htai => ?_, fun s tai hb hne => ?_, fun s tai hb heq => ?_⟩
  · have hlock := (ptpTime_seeking s.body tai hband href).trans (tryLock_atStart _ n hband hedge hns (by rw [htai]))
    refine ⟨_, exec_ptpTime s _, ?_⟩
    dsimp only
    rw [hlock]
    exact ⟨rfl, mem_discardStale s.body.sched (n % 2 ^ 48), rfl⟩
  · have hraise : s.body.ptpTime tai = s.body.raise tBand 0 .corrected kBeatMismatch (namedBeat s.body tai) := by
      rw [ptpTime_of_hasBeat _ tai hb]
      exact if_neg hne
    refine ⟨_, exec_ptpTime s tai, ?_, hraise⟩
    dsimp only
    rw [hraise]
    exact (message_corrected_sameLinks _ _ _ _ _ _ _).2
  · rw [exec_ptpTime, ptpTime_of_hasBeat _ tai hb]
    exact congrArg (fun b => Host.Outcome.next { s with body := b }) (if_pos heq)

/-! ## REF is lost (R261) -/

/-- From `b` to `c` streams have stopped for want of REF: clock, memory, schedule and rulebook are as they were. -/
structure KeptTime (b c : Body) : Prop where
  clock : c.clock = b.clock
  store : c.store = b.store
  sched : c.sched = b.sched
  book : c.book = b.book

theorem KeptTime.refl (b : Body) : KeptTime b b := ⟨rfl, rfl, rfl, rfl⟩

theorem KeptTime.trans {b c d : Body} (h : KeptTime b c) (k : KeptTime c d) : KeptTime b d :=
  ⟨k.clock.trans h.clock, k.store.trans h.store, k.sched.trans h.sched, k.book.trans h.book⟩

theorem failSnapshot_keptTime (b : Body) (p kind : Nat) : KeptTime b (b.failSnapshot p kind) := by
  have hend : ∀ c : Body, KeptTime c (c.endSnapshotCmd p stFailed kind) := fun c => by
    unfold Body.endSnapshotCmd
    split
    · next a _ =>
      obtain ⟨f, bits, hform⟩ := finish_form { c with active := c.active.erase a } a.ring a.tag a.cmd stFailed kind .none
      rw [hform]
      exact ⟨rfl, rfl, rfl, rfl⟩
    · exact .refl c
  have hdrop : KeptTime b (b.dropSnapshot p) := ⟨rfl, rfl, rfl, rfl⟩
  unfold Body.failSnapshot
  split
  · dsimp only
    split
    · exact hdrop.trans (hend _)
    · exact hdrop
  · exact .refl b

theorem stopPartition_keptTime (b : Body) (p : Nat) : KeptTime b (b.stopPartition p) := by
  unfold Body.stopPartition
  split
  · obtain ⟨bits, hform⟩ := setFix_form (b.stopUnits (b.part p).pitches) p .stopped
    rw [hform]
    exact ⟨rfl, rfl, rfl, rfl⟩
  · exact .refl b

theorem faultStop_keptTime (b : Body) (p kind : Nat) : KeptTime b (b.faultStop p kind) := by
  unfold Body.faultStop
  split
  · exact (failSnapshot_keptTime b p kind).trans (stopPartition_keptTime _ p)
  · exact .refl b

/-- The state of a fixture after a fault stop of its own partition. -/
def halted (st : FixState) : FixState := if st = .running then .stopped else st

/-- A fault stop halts the fixture of its partition, and no other. -/
theorem faultStop_fstate (b : Body) (p q kind : Nat) :
    ((b.faultStop p kind).part q).fstate = if q = p then halted (b.part q).fstate else (b.part q).fstate := by
  by_cases hr : (b.part p).fstate = .running
  · obtain ⟨hstop, -, -, hothers, -⟩ := faultStop_running b p kind hr
    by_cases hq : q = p
    · subst hq
      rw [hstop, if_pos rfl, halted, if_pos hr]
    · rw [hothers q hq, if_neg hq]
  · rw [Body.faultStop, if_neg hr]
    split
    · next hq => rw [hq, halted, if_neg hr]
    · rfl

/-- Fault stops of several partitions, each halted once. -/
theorem faultStops (kind : Nat) (ps : List Nat) (b : Body) (hps : ps.Nodup) :
    KeptTime b (ps.foldl (fun b p => b.faultStop p kind) b) ∧
    ∀ q, ((ps.foldl (fun b p => b.faultStop p kind) b).part q).fstate =
      if q ∈ ps then halted (b.part q).fstate else (b.part q).fstate := by
  induction ps generalizing b with
  | nil => exact ⟨.refl b, fun q => rfl⟩
  | cons p ps ih =>
    obtain ⟨hp, hps⟩ := List.nodup_cons.1 hps
    obtain ⟨hkept, hstate⟩ := ih (b.faultStop p kind) hps
    refine ⟨(faultStop_keptTime b p kind).trans hkept, fun q => (hstate q).trans ?_⟩
    rw [faultStop_fstate]
    by_cases hq : q = p
    · subst hq
      simp [hp]
    · simp [hq]

/-- Table 11.2: the bandstand without REF. -/
def freed (b : Body) : Body :=
  { b with clock := { b.clock with refPresent := false, band := .free, edgeAt := none, tai := none } }

theorem refLost_inService (b : Body) (hready : b.boot.start = .ready) (hfree : b.clock.band ≠ .free) :
    b.refLost = (List.range 4).foldl (fun b p => b.faultStop p kRefLost) ((freed b).raise tBand 0 .contained kRefLost 0) := by
  have hstart : (if b.boot.start = .testing then .waitRef else b.boot.start) = b.boot.start := if_neg (by rw [hready]; decide)
  simp only [Body.refLost, hstart]
  exact if_pos ⟨hready, hfree⟩

/-- Settles O25: the bandstand is FREE, and the four partitions are fault-stopped. -/
theorem referenceLost : Obligations.ReferenceLost := by
  intro s hready hfree
  refine ⟨_, exec_refLost s, rfl, rfl, ?_⟩
  dsimp only
  obtain ⟨ps, wh, mf, sc, dv, hraise⟩ := raise_contained_form (freed s.body) tBand 0 kRefLost 0 _ rfl
  obtain ⟨hkept, hstate⟩ := faultStops kRefLost (List.range 4) ((freed s.body).raise tBand 0 .contained kRefLost 0) List.nodup_range
  rw [← refLost_inService s.body hready hfree, hraise] at hkept hstate
  exact ⟨hkept.clock, fun p hp => (hstate p).trans (if_pos (List.mem_range.2 hp)), hkept.store, hkept.sched, hkept.book⟩

end Sys2Proof.Proofs
end

section
/-!
PROOFS. The order in which due entries fire (11, R264, Table 11.5): the fold over the schedule keeps the first of the earliest.
-/

namespace Sys2Proof.Proofs

open Sys2Proof Sys2Proof.Machine Sys2Proof.Laws

/-! ## Moments (R264) -/

/-- Beat, then tick, then the place of the kind. -/
theorem earlier_iff (x y : Nat × Nat × Nat) :
    earlier x y = true ↔ x.1 < y.1 ∨ x.1 = y.1 ∧ (x.2.1 < y.2.1 ∨ x.2.1 = y.2.1 ∧ x.2.2 < y.2.2) := by
  simp [earlier]

theorem earlier_trans {x y z : Nat × Nat × Nat} (h : earlier x y = true) (k : earlier y z = true) : earlier x z = true := by
  rw [earlier_iff] at h k ⊢
  omega

/-- What comes before a moment comes before all that do not. -/
theorem earlier_of_not_earlier {x y z : Nat × Nat × Nat} (h : earlier x y = true) (k : earlier z y = false) : earlier x z = true := by
  rw [← Bool.not_eq_true, earlier_iff] at k
  rw [earlier_iff] at h ⊢
  omega

theorem earlier_asymm {x y : Nat × Nat × Nat} (h : earlier x y = true) : earlier y x = false := by
  rw [← Bool.not_eq_true, earlier_iff]
  rw [earlier_iff] at h
  omega

/-! ## The first of the earliest -/

/-- Of the entries `es`, with the moments at which they are due, `e` at `m` is the first of the earliest. -/
def FiresFirst (due : SchedEntry → Option (Nat × Nat × Nat)) (es : List SchedEntry) (e : SchedEntry) (m : Nat × Nat × Nat) : Prop :=
  due e = some m ∧ ∃ l r, es = l ++ e :: r ∧ (∀ x ∈ l, ∀ y, due x = some y → earlier m y = true) ∧
    ∀ x ∈ r, ∀ y, due x = some y → earlier y m = false

/-- An entry behind the others takes the place of what was first only if it is earlier. -/
def firstOf (best : Option (SchedEntry × Nat × Nat × Nat)) (x : SchedEntry × Nat × Nat × Nat) : Option (SchedEntry × Nat × Nat × Nat) :=
  match best with
  | some y => if earlier x.2 y.2 then some x else some y
  | none => some x

/-- The first of the earliest, found from the front of the schedule on. -/
def firstDue (due : SchedEntry → Option (Nat × Nat × Nat)) (es : List SchedEntry) : Option (SchedEntry × Nat × Nat × Nat) :=
  (es.filterMap (fun e => (due e).map (fun m => (e, m)))).foldl firstOf none

theorem nextEntry_eq (b : Body) : b.nextEntry = if b.hasBeat then (firstDue b.dueAt b.sched.entries).map (·.1) else none := by
  unfold Body.nextEntry
  cases b.hasBeat <;> rfl

theorem firstDue_append_due (due : SchedEntry → Option (Nat × Nat × Nat)) (es : List SchedEntry) {x : SchedEntry} {y : Nat × Nat × Nat}
    (hx : due x = some y) : firstDue due (es ++ [x]) = firstOf (firstDue due es) (x, y) := by
  simp [firstDue, hx]

theorem firstDue_append_notDue (due : SchedEntry → Option (Nat × Nat × Nat)) (es : List SchedEntry) {x : SchedEntry}
    (hx : due x = none) : firstDue due (es ++ [x]) = firstDue due es := by
  simp [firstDue, hx]

/-- An entry behind the others that is earlier than the first of them is first. -/
theorem FiresFirst.replaced {due : SchedEntry → Option (Nat × Nat × Nat)} {es : List SchedEntry} {e x : SchedEntry}
    {m y : Nat × Nat × Nat} (h : FiresFirst due es e m) (hx : due x = some y) (hy : earlier y m = true) :
    FiresFirst due (es ++ [x]) x y := by
  obtain ⟨he, l, r, rfl, hl, hr⟩ := h
  refine ⟨hx, l ++ e :: r, [], rfl, fun z hz w hw => ?_, by simp⟩
  rcases List.mem_append.1 hz with hz | hz
  · exact earlier_trans hy (hl z hz w hw)
  · rcases List.mem_cons.1 hz with rfl | hz
    · exact (Option.some.inj (he.symm.trans hw)) ▸ hy
    · exact earlier_of_not_earlier hy (hr z hz w hw)

/-- Any other leaves it first. -/
theorem FiresFirst.stays {due : SchedEntry → Option (Nat × Nat × Nat)} {es : List SchedEntry} {e x : SchedEntry}
    {m : Nat × Nat × Nat} (h : FiresFirst due es e m) (hx : ∀ y, due x = some y → earlier y m = false) :
    FiresFirst due (es ++ [x]) e m := by
  obtain ⟨he, l, r, rfl, hl, hr⟩ := h
  refine ⟨he, l, r ++ [x], by simp, hl, fun z hz => ?_⟩
  rcases List.mem_append.1 hz with hz | hz
  · exact hr z hz
  · exact List.mem_singleton.1 hz ▸ hx

/-- What the fold finds is first, and it finds nothing only where nothing is due. -/
theorem firstDue_spec (due : SchedEntry → Option (Nat × Nat × Nat)) (es : List SchedEntry) :
    (firstDue due es = none ∧ ∀ x ∈ es, due x = none) ∨ ∃ e m, firstDue due es = some (e, m) ∧ FiresFirst due es e m := by
  induction es using List.reverseRecOn with
  | nil => exact .inl ⟨rfl, by simp⟩
  | append_singleton es x ih =>
    cases hx : due x with
    | none =>
      rw [firstDue_append_notDue due es hx]
      rcases ih with ⟨hnone, hall⟩ | ⟨e, m, hsome, hfirst⟩
      · exact .inl ⟨hnone, by simpa [hx, or_imp, forall_and] using hall⟩
      · exact .inr ⟨e, m, hsome, hfirst.stays (by simp [hx])⟩
    | some y =>
      rw [firstDue_append_due due es hx]
      rcases ih with ⟨hnone, hall⟩ | ⟨e, m, hsome, hfirst⟩
      · refine .inr ⟨x, y, by rw [hnone]; rfl, hx, es, [], rfl, fun z hz w hw => ?_, by simp⟩
        rw [hall z hz] at hw
        cases hw
      · cases hy : earlier y m with
        | true => exact .inr ⟨x, y, by simp only [hsome, firstOf, hy, if_true], hfirst.replaced hx hy⟩
        | false =>
          refine .inr ⟨e, m, by simp only [hsome, firstOf, hy, Bool.false_eq_true, if_false], hfirst.stays fun w hw => ?_⟩
          exact Option.some.inj (hx.symm.trans hw) ▸ hy

/-- R264: the entry that fires next is the first of the earliest. -/
theorem nextEntry_firesFirst (b : Body) (e : SchedEntry) (h : b.nextEntry = some e) :
    b.hasBeat = true ∧ ∃ m, FiresFirst b.dueAt b.sched.entries e m := by
  rw [nextEntry_eq] at h
  cases hb : b.hasBeat with
  | false => rw [hb] at h; cases h
  | true =>
    rw [hb, if_pos rfl] at h
    rcases firstDue_spec b.dueAt b.sched.entries with ⟨hnone, -⟩ | ⟨e', m, hsome, hfirst⟩
    · rw [hnone] at h; cases h
    · rw [hsome] at h
      exact ⟨rfl, m, Option.some.inj h ▸ hfirst⟩

/-- With a beat one of the due entries fires. -/
theorem nextEntry_isSome (b : Body) (hb : b.hasBeat = true) (h : ∃ e ∈ b.sched.entries, (b.dueAt e).isSome = true) :
    b.nextEntry.isSome = true := by
  obtain ⟨e, he, hdue⟩ := h
  rw [nextEntry_eq, hb, if_pos rfl]
  rcases firstDue_spec b.dueAt b.sched.entries with ⟨-, hall⟩ | ⟨e', m, hsome, -⟩
  · rw [hall e he] at hdue; cases hdue
  · rw [hsome]; rfl

/-- R264: a due entry that comes before all others fires next. -/
theorem nextEntry_of_earliest (b : Body) (e : SchedEntry) (m : Nat × Nat × Nat) (hb : b.hasBeat = true) (he : e ∈ b.sched.entries)
    (hm : b.dueAt e = some m) (hall : ∀ x ∈ b.sched.entries, x ≠ e → ∀ y, b.dueAt x = some y → earlier m y = true) :
    b.nextEntry = some e := by
  obtain ⟨e', he'⟩ := Option.isSome_iff_exists.1 (nextEntry_isSome b hb ⟨e, he, by rw [hm]; rfl⟩)
  obtain ⟨-, m', hm', l, r, hes, hl, hr⟩ := nextEntry_firesFirst b e' he'
  rw [he']
  by_contra hne
  have hne : e' ≠ e := fun h => hne (congrArg some h)
  have hfirst : earlier m m' = true := hall e' (by simp [hes]) hne m' hm'
  have hlater : earlier m m' = false := by
    rw [hes, List.mem_append, List.mem_cons] at he
    rcases he with he | he | he
    · exact earlier_asymm (hl e he m hm)
    · exact absurd he.symm hne
    · exact hr e he m hm
  rw [hfirst] at hlater
  cases hlater

/-- Settles O27: the entry that fires next is the first of the earliest, and with a beat a due entry fires. -/
theorem firingOrder : Obligations.FiringOrder := by
  refine ⟨fun b e h => ?_, nextEntry_isSome⟩
  obtain ⟨hb, m, hm, l, r, hes, hl, hr⟩ := nextEntry_firesFirst b e h
  exact ⟨hb, m, l, r, hm, hes, hl, hr⟩

end Sys2Proof.Proofs
end

section
/-!
PROOFS. The operating point and the schedule entries that fire (11, R263 to R265, R275, R278, R279, R285, Tables 11.4 and 11.5).
-/

namespace Sys2Proof.Proofs

open Sys2Proof Sys2Proof.Machine Sys2Proof.Laws

/-! ## A change of the operating point (R275, R278, R285) -/

/-- R285: without a droop, and without one that has just ended, a due switch is made. -/
structure NoDroop (p : Power) : Prop where
  west : p.droopWest = false
  east : p.droopEast = false
  stretch : p.lastStretch = none

/-- The power controller at a point of its choice, with the voltage of that point. -/
def atPoint (p : Power) (op mv : Nat) : Power := { p with op := op, switch := none, deferred := 0, vcoreMv := mv }

theorem switchTo_noDroop (b : Body) (op : Nat) (h : NoDroop b.power) :
    b.switchTo op = { b with power := atPoint b.power op (b.coreMv op) } := by
  have hcalm : b.droopRecent = false := by simp [Body.droopRecent, h.west, h.east, h.stretch]
  unfold Body.switchTo
  split
  · next heq => rw [atPoint, heq]
  · rw [hcalm, if_neg Bool.false_ne_true]
    rfl

/-- R285: a switch that is deferred touches the controller's own settings, and the log. -/
theorem switchTo_form (b : Body) (op : Nat) : ∃ o sw df dfs at_ mv sc, b.switchTo op = { b with
    power := { b.power with op := o, switch := sw, deferred := df, deferrals := dfs, deferredAt := at_, vcoreMv := mv }, score := sc } := by
  have hcount : ∀ c : Body, ∃ df dfs at_ sc, c.countDeferral =
      { c with power := { c.power with deferred := df, deferrals := dfs, deferredAt := at_ }, score := sc } := fun c => by
    unfold Body.countDeferral
    split
    · exact ⟨_, _, _, _, rfl⟩
    · dsimp only
      split <;> exact ⟨_, _, _, _, rfl⟩
  unfold Body.switchTo
  split
  · exact ⟨_, _, _, _, _, _, _, rfl⟩
  · split
    · obtain ⟨df, dfs, at_, sc, hform⟩ := hcount { b with power := { b.power with
        switch := some ⟨op, b.clock.beat, decide (b.power.op < op)⟩, vcoreMv := b.coreMv (max op b.power.op) } }
      rw [hform]
      exact ⟨_, _, _, _, _, _, _, rfl⟩
    · exact ⟨_, _, _, _, _, _, _, rfl⟩

/-! ## The voltage of a beat's tick 0 (R275) -/

/-- No entry of the schedule can change the point or the tables. -/
def PointsStay (b : Body) : Prop := ∀ e ∈ b.sched.entries, e.kind ≠ 3 ∧ e.kind ≠ 4 ∧ e.kind ≠ 7

theorem foreseen_pointsStay (b : Body) (beat op : Nat) (h : PointsStay b) :
    b.foreseen beat op = { b with power := { b.power with op := op } } := by
  have hnone : ∀ k, k = 3 ∨ k = 4 ∨ k = 7 →
      b.sched.entries.filter (fun e => decide (e.kind = k) && decide (e.beat = beat) && decide (e.tick = 0)) = [] := fun k hk => by
    refine List.filter_eq_nil_iff.2 fun e he => ?_
    have := h e he
    simp only [Bool.and_eq_true, decide_eq_true_eq]
    omega
  simp only [Body.foreseen, hnone 4 (by simp), hnone 7 (by simp), hnone 3 (by simp), List.append_nil, List.foldl_nil]

/-- Where no entry can raise the point the voltage is what it was to be. -/
theorem voltageFor_pointsStay (b : Body) (beat op mv : Nat) (h : PointsStay b) : b.voltageFor beat op mv = mv := by
  simp only [Body.voltageFor, foreseen_pointsStay b beat op h, Nat.lt_irrefl, if_false]

/-! ## An entry that fires (R263, R264) -/

/-- The module at the moment of an entry of the beat in progress; a late one fires at once. -/
def reached (b : Body) (e : SchedEntry) : Body := if e.beat = b.clock.beat then b.until_ (b.clock.beatStart + e.tick) else b

/-- Log 44: the entry that comes next leaves the schedule and acts, if it is of the row's kind. -/
theorem fire_next (b : Body) (e : SchedEntry) (kind : Nat) (act : SchedEntry → Body → Body) (h : b.nextEntry = some e)
    (hk : e.kind = kind) : b.fire kind act = act e { reached b e with sched := (reached b e).sched.remove e } := by
  simp only [Body.fire, h, hk, if_true]
  rfl

/-- Until then nothing but time passes, for the units' counters too. -/
theorem reached_form (b : Body) (e : SchedEntry) : ∃ ck ps es, reached b e = { b with clock := ck, pitches := ps, engines := es } := by
  unfold reached
  split <;> exact ⟨_, _, _, rfl⟩

theorem reached_inBeat (b : Body) (e : SchedEntry) (h : e.beat = b.clock.beat) :
    reached b e = b.until_ (b.clock.beatStart + e.tick) := if_pos h

/-- R25: a token completes in its partition, or in the module's own list. -/
theorem completeBeat_form (b : Body) (part : Nat) (t : Token) (failed : Option Nat) : ∃ xs md,
    b.completeBeat part t failed = { b with parts := xs, sched := { b.sched with moduleDone := md } } := by
  unfold Body.completeBeat
  split
  · exact ⟨b.parts, b.sched.moduleDone, rfl⟩
  · split
    · exact ⟨_, b.sched.moduleDone, rfl⟩
    · exact ⟨b.parts, _, rfl⟩

theorem completeBeat_part (b : Body) (part : Nat) (t : Token) (failed : Option Nat) (ht : t ≠ 0) (hp : part < 4) :
    b.completeBeat part t failed = b.alterPart part (fun x => x.complete t failed) := by
  rw [Body.completeBeat, if_neg ht, if_pos hp]

theorem completeBeat_noToken (b : Body) (part : Nat) (failed : Option Nat) : b.completeBeat part 0 failed = b := if_pos rfl

/-- R23: the completion stands on the scoreboard. -/
theorem mem_board_complete (x : Partition) (t : Token) (failed : Option Nat) : (⟨t, failed⟩ : Done) ∈ (x.complete t failed).board :=
  List.mem_cons_self

/-! ## The rows -/

theorem exec_token (s : State) : exec .token s = .next { s with body := s.body.fire 1 Body.fireToken } := rfl

theorem exec_mode (s : State) : exec .mode s = .next { s with body := s.body.fire 7 Body.fireMode } := rfl

theorem exec_opRange (s : State) : exec .opRange s = .next { s with body := s.body.fire 3 Body.fireOpRange } := rfl

theorem exec_maintenance (s : State) : exec .maintenance s = .next { s with body := s.body.fire 5 Body.fireMaintenance } := rfl

/-! ## MODE and OP_RANGE (R278, R279) -/

/-- The point that MODE asks for. -/
def modePoint (p : Power) (fixed : Bool) (op : Nat) : Nat := if fixed then op else p.nearest p.op

/-- R279: a flag of the controller with its record. -/
theorem setConflict_form (b : Body) (x : Bool) : ∃ fc sc,
    b.setConflict x = { b with power := { b.power with fixedConflict := fc }, score := sc } := by
  unfold Body.setConflict
  split <;> exact ⟨_, _, rfl⟩

theorem setMode_noDroop (b : Body) (fixed : Bool) (op : Nat) (h : NoDroop b.power) : ∃ fc sc, b.setMode fixed op = { b with
    power := atPoint { b.power with fixed := fixed, fixedOp := op, fixedConflict := fc } (modePoint b.power fixed op)
      (b.coreMv (modePoint b.power fixed op)),
    score := sc } := by
  obtain ⟨fc, sc, hform⟩ := setConflict_form { b with power := { b.power with fixed := fixed, fixedOp := op } }
    (b.power.fixedConflict && fixed)
  refine ⟨fc, sc, ?_⟩
  unfold Body.setMode
  dsimp only
  rw [hform]
  exact switchTo_noDroop _ _ ⟨h.west, h.east, h.stretch⟩

/-- The power controller with another range. -/
def inRange (p : Power) (lo hi : Nat) : Power := { p with opFloor := lo, opCeiling := hi }

/-- OP_RANGE's own range in force, the point not yet moved. -/
def ranged (b : Body) (e : SchedEntry) : Body :=
  { b with power := inRange b.power (e.arg0.toNat % 16) (e.arg0.toNat / 16 % 16) }

theorem fireOpRange_eq (b : Body) (e : SchedEntry) (hfree : b.power.fixed = false) : Body.fireOpRange e b =
    (if (ranged b e).power.nearest b.power.op = b.power.op then ranged b e
      else (ranged b e).switchTo ((ranged b e).power.nearest b.power.op)).completeBeat e.part e.token none := by
  have hlo : (e.arg0.extractLsb' 0 4).toNat = e.arg0.toNat % 16 := by rw [BitVec.extractLsb'_toNat, Nat.shiftRight_zero]
  have hhi : (e.arg0.extractLsb' 4 4).toNat = e.arg0.toNat / 16 % 16 := by
    rw [BitVec.extractLsb'_toNat, Nat.shiftRight_eq_div_pow]
  have hchosen : ¬(ranged b e).power.fixed = true := by rw [ranged, inRange, hfree]; decide
  unfold Body.fireOpRange
  rw [hlo, hhi]
  exact congrArg (fun c : Body => c.completeBeat e.part e.token none) (if_neg hchosen)

/-- R278: outside a new range the point moves to the nearest inside, and inside it stays. -/
theorem fireOpRange_noDroop (b : Body) (e : SchedEntry) (hfree : b.power.fixed = false) (h : NoDroop b.power) : ∃ p : Power,
    Body.fireOpRange e b = ({ b with power := p } : Body).completeBeat e.part e.token none ∧
    p.opFloor = e.arg0.toNat % 16 ∧ p.opCeiling = e.arg0.toNat / 16 % 16 ∧
    p.op = min (max b.power.op (e.arg0.toNat % 16)) (e.arg0.toNat / 16 % 16) := by
  rw [fireOpRange_eq b e hfree]
  split
  · next hin => exact ⟨(ranged b e).power, rfl, rfl, rfl, hin.symm⟩
  · rw [switchTo_noDroop (ranged b e) _ ⟨h.west, h.east, h.stretch⟩]
    exact ⟨atPoint (ranged b e).power _ _, rfl, rfl, rfl, rfl⟩

/-! ## Each kind of entry -/

theorem token_fires (s : State) (e : SchedEntry) (hn : s.body.nextEntry = some e) (hk : e.kind = 1)
    (hb : e.beat = s.body.clock.beat) (hp : e.part < 4) (ht : e.token ≠ 0) (hlen : e.part < s.body.parts.length) : ∃ t : State,
    exec .token s = .next t ∧ t.body.sched.entries = s.body.sched.entries.erase e ∧
    (⟨e.token, none⟩ : Done) ∈ (t.body.part e.part).board ∧
    t.body.clock = { s.body.clock with now := max s.body.clock.now (s.body.clock.beatStart + e.tick) } ∧
    t.body = { s.body with clock := t.body.clock, sched := t.body.sched, parts := t.body.parts, pitches := t.body.pitches,
                           engines := t.body.engines } := by
  refine ⟨_, exec_token s, ?_⟩
  dsimp only
  rw [fire_next s.body e 1 _ hn hk, Body.fireToken, completeBeat_part _ _ _ _ ht hp, reached_inBeat _ _ hb]
  refine ⟨rfl, ?_, rfl, rfl⟩
  rw [alterPart_same]
  · exact mem_board_complete _ _ _
  · exact hlen

theorem mode_fires (s : State) (e : SchedEntry) (hn : s.body.nextEntry = some e) (hk : e.kind = 7) (hd : NoDroop s.body.power) :
    ∃ t : State, exec .mode s = .next t ∧ t.body.sched.entries = s.body.sched.entries.erase e ∧
    t.body.power.fixed = e.arg0.getLsbD 0 ∧ t.body.power.fixedOp = e.arg0.toNat / 2 ^ 8 % 16 ∧
    t.body.power.op = modePoint s.body.power (e.arg0.getLsbD 0) (e.arg0.toNat / 2 ^ 8 % 16) ∧
    t.body = { s.body with clock := t.body.clock, sched := t.body.sched, parts := t.body.parts, power := t.body.power,
                           score := t.body.score, pitches := t.body.pitches, engines := t.body.engines } := by
  have hop : (e.arg0.extractLsb' 8 4).toNat = e.arg0.toNat / 2 ^ 8 % 16 := by
    rw [BitVec.extractLsb'_toNat, Nat.shiftRight_eq_div_pow]
  obtain ⟨ck, ps, es, hreached⟩ := reached_form s.body e
  obtain ⟨fc, sc, hmode⟩ := setMode_noDroop { reached s.body e with sched := (reached s.body e).sched.remove e } (e.arg0.getLsbD 0)
    (e.arg0.toNat / 2 ^ 8 % 16) (by rw [hreached]; exact hd)
  refine ⟨_, exec_mode s, ?_⟩
  dsimp only
  rw [fire_next s.body e 7 _ hn hk, Body.fireMode, hop, hmode]
  obtain ⟨xs, md, hdone⟩ := completeBeat_form _ e.part e.token none
  rw [hdone, hreached]
  exact ⟨rfl, rfl, rfl, rfl, rfl⟩

theorem opRange_fires (s : State) (e : SchedEntry) (hn : s.body.nextEntry = some e) (hk : e.kind = 3)
    (hfree : s.body.power.fixed = false) (hd : NoDroop s.body.power) : ∃ t : State,
    exec .opRange s = .next t ∧ t.body.sched.entries = s.body.sched.entries.erase e ∧
    t.body.power.opFloor = e.arg0.toNat % 16 ∧ t.body.power.opCeiling = e.arg0.toNat / 16 % 16 ∧
    t.body.power.op = min (max s.body.power.op (e.arg0.toNat % 16)) (e.arg0.toNat / 16 % 16) ∧
    t.body = { s.body with clock := t.body.clock, sched := t.body.sched, parts := t.body.parts, power := t.body.power,
                           pitches := t.body.pitches, engines := t.body.engines } := by
  obtain ⟨ck, ps, es, hreached⟩ := reached_form s.body e
  obtain ⟨p, hrange, hlo, hhi, hop⟩ := fireOpRange_noDroop { reached s.body e with sched := (reached s.body e).sched.remove e } e
    (by rw [hreached]; exact hfree) (by rw [hreached]; exact hd)
  refine ⟨_, exec_opRange s, ?_⟩
  dsimp only
  rw [fire_next s.body e 3 _ hn hk, hrange]
  obtain ⟨xs, md, hdone⟩ := completeBeat_form
    { reached s.body e with sched := (reached s.body e).sched.remove e, power := p } e.part e.token none
  rw [hdone]
  rw [hreached] at hop ⊢
  exact ⟨rfl, hlo, hhi, hop, rfl⟩

theorem maintenance_fires (s : State) (e : SchedEntry) (hn : s.body.nextEntry = some e) (hk : e.kind = 5) (ht : e.token = 0)
    (hb : e.beat = s.body.clock.beat) : ∃ t : State,
    exec .maintenance s = .next t ∧ t.body.sched.entries = s.body.sched.entries.erase e ∧
    t.body.sched.windowEnd = some (max (s.body.sched.windowEnd.getD 0)
      (max s.body.clock.now (s.body.clock.beatStart + e.tick) + e.arg0.toNat * 1000)) ∧
    t.body = { s.body with clock := t.body.clock, sched := t.body.sched, pitches := t.body.pitches, engines := t.body.engines } := by
  refine ⟨_, exec_maintenance s, ?_⟩
  dsimp only
  rw [fire_next s.body e 5 _ hn hk, Body.fireMaintenance, ht, completeBeat_noToken, reached_inBeat _ _ hb]
  exact ⟨rfl, rfl, rfl⟩

/-- Settles O28: each row fires the entry of its kind that comes next. -/
theorem entriesFire : Obligations.EntriesFire :=
  ⟨token_fires, fun s e hn hk hw he hs => mode_fires s e hn hk ⟨hw, he, hs⟩,
    fun s e hn hk hfree hw he hs => opRange_fires s e hn hk hfree ⟨hw, he, hs⟩, maintenance_fires⟩

end Sys2Proof.Proofs
end

section
/-!
PROOFS. The beat boundary (11, R259, R273, R275, R282): the beat that ends is counted and reported, its sums start again, and what was due at
the boundary takes effect.
-/

namespace Sys2Proof.Proofs

open Sys2Proof Sys2Proof.Machine Sys2Proof.Laws

theorem exec_beatBoundary (s : State) :
    exec .beatBoundary s = .next { s with body := s.body.beatBoundary (s.body.ownMember s.vault.serial) } := rfl

/-! ## The beat that ends (R259, R273) -/

/-- R270: no release is pending where no barrier has been decided to release. -/
theorem releases_none (b : Body) (n : Nat) (h : ∀ k ∈ b.sched.barriers, k.releasing = none) : b.releases n = b := by
  have hnone : b.releaseNext = none := by
    unfold Body.releaseNext
    split
    · split
      · next k hk => rw [h k (List.mem_of_find?_eq_some hk), if_neg (fun hc => Bool.false_ne_true hc.2)]
      · rfl
    · rfl
  cases n with
  | zero => rfl
  | succ n => simp only [Body.releases, hnone]

/-- The module in its next beat: reported, its sums at their start, and nothing that was due yet done. -/
def beatBegun (b : Body) : Body :=
  let c := (b.until_ (b.clock.beatStart + b.beatNs)).closeBeat
  { c with clock := c.clock.nextBeat c.beatNs, power := { c.power with lastEnd := (c.clock.nextBeat c.beatNs).beatStart } }

/-- What was due at the boundary: a grant's raise, the point, its voltage, and the duties of the module. -/
def boundaryDue (b : Body) (want : Nat) : Body := (b.raiseDue.switchTo want).holdVoltage.leadHandover

theorem beatBoundary_eq (b : Body) (own : Option Nat) (hb : b.hasBeat = true) (hr : ∀ k ∈ b.sched.barriers, k.releasing = none) :
    b.beatBoundary own = if (boundaryDue (beatBegun b) b.wantedOp).fenced 0 && (boundaryDue (beatBegun b) b.wantedOp).fenced 1
      then boundaryDue (beatBegun b) b.wantedOp
      else ((boundaryDue (beatBegun b) b.wantedOp).applyRetirements own).unretire := by
  unfold Body.beatBoundary
  rw [hb, releases_none b _ hr]
  rfl

/-- R273: of the power controller, the report and the sums are new. -/
theorem beatBegun_power (b : Body) : (beatBegun b).power = { (b.until_ (b.clock.beatStart + b.beatNs)).closeBeat.power with
    lastEnd := b.clock.beatStart + b.beatNs } := rfl

/-! ## What is due (R275, R282, R291) -/

theorem raiseDue_due (b : Body) (w d : Nat) (h : b.power.pendingRaise = some (w, d)) (hd : d ≤ b.clock.beat) :
    b.raiseDue = { b with power := { b.power with grant := w, pendingRaise := none } } := by
  simp only [Body.raiseDue, h, hd, if_true]

theorem raiseDue_none (b : Body) (h : b.power.pendingRaise = none) : b.raiseDue = b := by
  simp only [Body.raiseDue, h]

theorem raiseDue_form (b : Body) : ∃ g pr, b.raiseDue = { b with power := { b.power with grant := g, pendingRaise := pr } } := by
  unfold Body.raiseDue
  split
  · split <;> exact ⟨_, _, rfl⟩
  · exact ⟨_, _, rfl⟩

/-- The point, the voltage and the duties follow: grants, reports, memory and schedule stay. -/
theorem boundaryDue_form (b : Body) (want : Nat) : ∃ o sw df dfs at_ mv sc ks, boundaryDue b want = { b.raiseDue with
    power := { b.raiseDue.power with op := o, switch := sw, deferred := df, deferrals := dfs, deferredAt := at_, vcoreMv := mv },
    score := sc, keepers := ks } := by
  obtain ⟨o, sw, df, dfs, at_, mv, sc, hform⟩ := switchTo_form b.raiseDue want
  unfold boundaryDue
  rw [hform]
  exact ⟨o, sw, df, dfs, at_, _, sc, _, rfl⟩

theorem holdVoltage_pointsStay (b : Body) (h : PointsStay b) : b.holdVoltage = b := by
  rw [Body.holdVoltage, voltageFor_pointsStay _ _ _ _ h]

/-- R275: a switch that no droop defers is made, with the voltage of its point. -/
theorem boundaryDue_noDroop (b : Body) (want : Nat) (hd : NoDroop b.power) (hs : PointsStay b) :
    (boundaryDue b want).power = atPoint b.raiseDue.power want (b.coreMv want) := by
  obtain ⟨g, pr, hraise⟩ := raiseDue_form b
  have hswitch := switchTo_noDroop b.raiseDue want (by rw [hraise]; exact ⟨hd.west, hd.east, hd.stretch⟩)
  have hstay : PointsStay (b.raiseDue.switchTo want) := by rw [hswitch, hraise]; exact hs
  rw [boundaryDue, holdVoltage_pointsStay _ hstay, hswitch, hraise]
  rfl

/-! ## Slots that join or leave RETIRED (R224, R369) -/

theorem applyRetirements_none (b : Body) (own : Option Nat) (h : b.store.pendingRetire = []) : b.applyRetirements own = b := by
  simp only [Body.applyRetirements, h]

/-- R369: a slot that comes back has lost its content, which is not among the cells. -/
theorem unretire_form (b : Body) : ∃ st fr, b.unretire = { b with store := st, free := fr } ∧ st.cells = b.store.cells := by
  unfold Body.unretire
  dsimp only
  split <;> split <;> exact ⟨_, _, rfl, rfl⟩

/-- A boundary at which no slot joins: memory and free values aside, what is due is all that it does. -/
theorem beatBoundary_form (b : Body) (own : Option Nat) (hb : b.hasBeat = true) (hp : b.store.pendingRetire = [])
    (hr : ∀ k ∈ b.sched.barriers, k.releasing = none) : ∃ st fr,
    b.beatBoundary own = { boundaryDue (beatBegun b) b.wantedOp with store := st, free := fr } ∧ st.cells = b.store.cells := by
  have hstore : (boundaryDue (beatBegun b) b.wantedOp).store = b.store := by
    obtain ⟨_, _, _, _, _, _, _, _, hdue⟩ := boundaryDue_form (beatBegun b) b.wantedOp
    obtain ⟨_, _, hraise⟩ := raiseDue_form (beatBegun b)
    rw [hdue, hraise]
    rfl
  rw [beatBoundary_eq b own hb hr]
  split
  · exact ⟨_, _, rfl, congrArg Store.cells hstore⟩
  · rw [applyRetirements_none _ own (by rw [hstore]; exact hp)]
    obtain ⟨st, fr, hform, hcells⟩ := unretire_form (boundaryDue (beatBegun b) b.wantedOp)
    exact ⟨st, fr, hform, hcells.trans (congrArg Store.cells hstore)⟩

/-! ## BEAT_BOUNDARY -/

/-- R275, R278: a prepared raise that nothing stands against is what the controller wants. -/
theorem wantedOp_prepared (b : Body) (w d : Nat) (hfree : b.power.fixed = false) (hin : b.power.nearest b.power.op = b.power.op)
    (hlow : b.lowers = false) (hsw : b.power.switch = some ⟨w, d, true⟩) (hd : d ≤ b.clock.beat + 1)
    (hop : b.power.op < b.power.opCeiling) (hdef : b.power.deferred = 0) : b.wantedOp = b.power.op + 1 := by
  simp [Body.wantedOp, hfree, hin, hlow, hsw, hd, hop, hdef]

/-- Settles O26: a boundary is `beatBegun` and what is due in the new beat. -/
theorem beatBoundary : Obligations.BeatBoundary := by
  refine ⟨fun s hb hp hr => ?_, fun s w d hb hp hbar hfree hin hlow hsw hd hop hdef hwest heast hstretch hstay => ?_⟩
  · obtain ⟨st, fr, hform, hcells⟩ := beatBoundary_form s.body (s.body.ownMember s.vault.serial) hb hp hr
    obtain ⟨o, sw, df, dfs, at_, mv, sc, ks, hdue⟩ := boundaryDue_form (beatBegun s.body) s.body.wantedOp
    obtain ⟨g, pr, hraise⟩ := raiseDue_form (beatBegun s.body)
    refine ⟨_, exec_beatBoundary s, rfl, rfl, ?_⟩
    dsimp only
    rw [hform, hdue]
    have hgrant : (∀ w d, s.body.power.pendingRaise = some (w, d) → d ≤ (s.body.clock.beat + 1) % 2 ^ 48 → g = w) ∧
        (s.body.power.pendingRaise = none → g = s.body.power.grant) := by
      have hg : (beatBegun s.body).raiseDue.power.grant = g := by rw [hraise]
      refine ⟨fun w d hpr hd => ?_, fun hpr => ?_⟩
      · rw [← hg, raiseDue_due (beatBegun s.body) w d hpr hd]
      · rw [← hg, raiseDue_none (beatBegun s.body) hpr]
        rfl
    rw [hraise]
    exact ⟨rfl, rfl, rfl, rfl, rfl, rfl, rfl, hgrant.1, hgrant.2, rfl, hcells, rfl⟩
  · obtain ⟨st, fr, hform, -⟩ := beatBoundary_form s.body (s.body.ownMember s.vault.serial) hb hp (by simp [hbar])
    have hpower := boundaryDue_noDroop (beatBegun s.body) s.body.wantedOp ⟨hwest, heast, hstretch⟩ hstay
    rw [wantedOp_prepared s.body w d hfree hin hlow hsw hd hop hdef] at hform hpower
    refine ⟨_, exec_beatBoundary s, ?_⟩
    dsimp only
    rw [hform]
    dsimp only
    rw [hpower]
    exact ⟨rfl, rfl, rfl⟩

end Sys2Proof.Proofs
end

section
/-!
PROOFS. The power controller (11, R275 to R278, R281 to R283, R286, R391, R399): one interval, the grant that it finds in its slot, the start of
a raise, and the lapse of a grant.
-/

namespace Sys2Proof.Proofs

open Sys2Proof Sys2Proof.Machine Sys2Proof.Laws

/-! ## The rows -/

theorem exec_powerInterval (s : State) (m : PowerSample) :
    exec (.powerInterval m) s = .next { s with body := s.body.powerInterval m } := rfl

theorem exec_opRaiseStart (s : State) : exec .opRaiseStart s = .next { s with body := s.body.opRaiseStart } := rfl

theorem exec_grantLapse (s : State) : exec .grantLapse s = .next { s with body := s.body.grantLapse } := rfl

/-! ## Freeze duty by the band (R277) -/

theorem nextDuty_over (n p ceil step : Nat) (floor : Int) (h : ceil < p) :
    (nextDuty n p ceil step floor).duty = min 15 (n + ceilDiv (p - ceil) step) := by
  rw [nextDuty, if_pos h]

theorem nextDuty_under (n p ceil step : Nat) (floor : Int) (h : p ≤ ceil) (hf : (p : Int) < floor) :
    (nextDuty n p ceil step floor).duty = n - ceilDiv (floor - p).toNat step ∧
    (n = 0 → (nextDuty n p ceil step floor).rally = true) := by
  rw [nextDuty, if_neg (Nat.not_lt_of_le h), if_pos hf]
  split
  · next hn => exact ⟨rfl, fun h0 => absurd h0 (by omega)⟩
  · next hn => exact ⟨by dsimp only; omega, fun _ => rfl⟩

theorem nextDuty_within (n p ceil step : Nat) (floor : Int) (h : p ≤ ceil) (hf : floor ≤ (p : Int)) :
    (nextDuty n p ceil step floor).duty = if (p : Int) < (ceil : Int) - step then n - 1 else n := by
  rw [nextDuty, if_neg (Nat.not_lt_of_le h), if_neg (Int.not_lt.2 hf)]
  by_cases hlow : (p : Int) < (ceil : Int) - step <;> by_cases hn : 0 < n <;> simp [hlow, hn]
  omega

/-! ## What an interval leaves (R277, R286) -/

/-- An interval of the sample `m` at input power `p`, from `t0` to `t1`, has taken `b` to `c`: what it makes of duty, increments and sums, and
what stays. -/
structure Regulated (b c : Body) (m : PowerSample) (p t0 t1 : Nat) : Prop where
  duty : c.power.duty = (nextDuty b.power.duty p b.ceiling b.dutyStep b.floor_).duty
  rally : (nextDuty b.power.duty p b.ceiling b.dutyStep b.floor_).rally = true → c.power.rallyFloor = true
  hWest : c.power.hWest = nextHeat b.power.hWest m.west b.book.tables.power.throttleC
  hEast : c.power.hEast = nextHeat b.power.hEast m.east b.book.tables.power.throttleC
  sumP : c.power.sumP = b.power.sumP + p * (t1 - t0)
  lastEnd : c.power.lastEnd = t1
  op : c.power.op = b.power.op
  grant : c.power.grant = b.power.grant
  pendingRaise : c.power.pendingRaise = b.power.pendingRaise
  seq : c.power.seq = b.power.seq
  lapsed : c.power.lapsed = b.power.lapsed
  grantBeat : c.power.grantBeat = b.power.grantBeat
  rest : c = { b with power := c.power, pitches := c.pitches, engines := c.engines, score := c.score }

/-- R280: CAP_UNMET is a flag of the controller, with its record. -/
theorem setCapUnmet_form (b : Body) (x : Bool) : ∃ cu sc,
    b.setCapUnmet x = { b with power := { b.power with capUnmet := cu }, score := sc } := by
  unfold Body.setCapUnmet
  split <;> exact ⟨_, _, rfl⟩

theorem capFlags_form (b : Body) (p : Nat) : ∃ cu fc sc,
    b.capFlags p = { b with power := { b.power with capUnmet := cu, fixedConflict := fc }, score := sc } := by
  unfold Body.capFlags
  dsimp only
  obtain ⟨cu, sc, hcap⟩ := setCapUnmet_form b
    (decide (b.power.duty = 15 ∧ b.ceiling < p) && (b.power.fixed || decide (b.power.op ≤ b.power.opFloor)))
  rw [hcap]
  obtain ⟨fc, sc', hconf⟩ := setConflict_form { b with power := { b.power with capUnmet := cu }, score := sc }
    (decide (b.power.duty = 15 ∧ b.ceiling < p) && b.power.fixed)
  exact ⟨cu, fc, sc', hconf⟩

/-- R274: the correction of a step is no part of what the band is read from within an interval. -/
theorem correct_form (p : Power) (w : Nat) : ∃ xs, p.correct w = { p with corrected := xs } := by
  unfold Power.correct
  split <;> exact ⟨_, rfl⟩

/-- The units have counted, and the flags of the interval are set. -/
def flagged (b : Body) (m : PowerSample) (p : Nat) : Body := (b.countUnits m).capFlags p

theorem flagged_form (b : Body) (m : PowerSample) (p : Nat) : ∃ cu fc sc ps es, flagged b m p = { b with
    power := { b.power with capUnmet := cu, fixedConflict := fc }, score := sc, pitches := ps, engines := es } := by
  obtain ⟨cu, fc, sc, hform⟩ := capFlags_form (b.countUnits m) p
  exact ⟨cu, fc, sc, _, _, hform⟩

/-- Neither flags nor counters are part of the band or of the draw. -/
theorem flagged_band (b : Body) (m : PowerSample) (p : Nat) : (flagged b m p).ceiling = b.ceiling ∧
    (flagged b m p).floor_ = b.floor_ ∧ (flagged b m p).dutyStep = b.dutyStep ∧ (flagged b m p).rallyLoad m = b.rallyLoad m := by
  obtain ⟨cu, fc, sc, ps, es, hform⟩ := flagged_form b m p
  rw [hform]
  exact ⟨rfl, rfl, rfl, rfl⟩

/-- Duty, rally and increments at the end of an interval of input power `p`, with the beat's sums (R277, R286). -/
def regulate (b : Body) (m : PowerSample) (p t0 t1 : Nat) : Power :=
  let d := nextDuty b.power.duty p b.ceiling b.dutyStep b.floor_
  let q := (b.power.accumulate m (b.rallyLoad m) (t1 - t0) t1).correct m.stepW
  { q with
    duty := d.duty, rallyFloor := b.holdsFloor m d.rally, rampUnmet := q.rampUnmet || (d.rally && b.floorUnmet m),
    dutyAlwaysZero := q.dutyAlwaysZero && decide (d.duty = 0),
    hWest := nextHeat q.hWest m.west b.book.tables.power.throttleC, hEast := nextHeat q.hEast m.east b.book.tables.power.throttleC }

/-- An interval with its band and its draw as they are once a grant has been read. -/
def interval (b : Body) (m : PowerSample) (t0 t1 : Nat) : Body :=
  { flagged b m (b.inputP m) with power := regulate (flagged b m (b.inputP m)) m (b.inputP m) t0 t1 }

theorem powerInterval_eq (b : Body) (m : PowerSample) :
    b.powerInterval m = interval (b.until_ b.intervalEnd).readGrant (b.trusted m) b.power.lastEnd b.intervalEnd := rfl

/-- What an interval writes, with the result `d` of R277: duty, rally, increments and the beat's sums, and nothing of point or grants. -/
theorem regulate_form (b : Body) (m : PowerSample) (p t0 t1 : Nat) (d : DutyStep)
    (hd : nextDuty b.power.duty p b.ceiling b.dutyStep b.floor_ = d) : ∃ xs ru sd sr sn pk az ra hot, regulate b m p t0 t1 = { b.power with
      duty := d.duty, rallyFloor := b.holdsFloor m d.rally, rampUnmet := ru, dutyAlwaysZero := az, corrected := xs,
      hWest := nextHeat b.power.hWest m.west b.book.tables.power.throttleC,
      hEast := nextHeat b.power.hEast m.east b.book.tables.power.throttleC,
      lastEnd := t1, sumP := b.power.sumP + (m.draw * microW + b.rallyLoad m) * (t1 - t0), sumDuty := sd, sumRally := sr, sumNs := sn,
      peak := pk, rally := ra, west := m.west, east := m.east, hotAt := hot, duty15 := m.duty15 } := by
  obtain ⟨xs, hcorrect⟩ := correct_form (b.power.accumulate m (b.rallyLoad m) (t1 - t0) t1) m.stepW
  unfold regulate
  rw [hd, hcorrect]
  exact ⟨xs, _, _, _, _, _, _, _, _, rfl⟩

theorem interval_regulated (b : Body) (m : PowerSample) (p t0 t1 : Nat) (hp : b.inputP m = p) :
    Regulated b (interval b m t0 t1) m p t0 t1 := by
  obtain ⟨hceil, hfloor, hstep, hload⟩ := flagged_band b m p
  obtain ⟨cu, fc, sc, ps, es, hform⟩ := flagged_form b m p
  have hduty : nextDuty (flagged b m p).power.duty p (flagged b m p).ceiling (flagged b m p).dutyStep (flagged b m p).floor_ =
      nextDuty b.power.duty p b.ceiling b.dutyStep b.floor_ := by
    rw [hceil, hfloor, hstep, hform]
  obtain ⟨_, _, _, _, _, _, _, _, _, hreg⟩ := regulate_form (flagged b m p) m p t0 t1 _ hduty
  have hinput : m.draw * microW + (flagged b m p).rallyLoad m = p := by rw [hload, ← hp, Body.inputP]
  rw [hinput] at hreg
  unfold interval
  rw [hp, hreg, hform]
  exact {
    duty := rfl, rally := fun h => Bool.or_eq_true_iff.2 (.inl h), hWest := rfl, hEast := rfl, sumP := rfl, lastEnd := rfl, op := rfl,
    grant := rfl, pendingRaise := rfl, seq := rfl, lapsed := rfl, grantBeat := rfl, rest := rfl }

/-- The draw of an interval hangs on neither the moment nor the die sensors. -/
theorem inputP_until (b : Body) (t : Nat) (m : PowerSample) : (b.until_ t).inputP (b.trusted m) = b.inputP m := rfl

/-! ## The grant in slot 32 (R281, R282, R391) -/

/-- Without a new word, or before self-test, the controller reads none. -/
theorem readGrant_none (b : Body) (h : (b.slot 32).full = false ∨ b.boot.tested = false) : b.readGrant = b := by
  rcases h with h | h <;> simp [Body.readGrant, h]

/-- The word's SEQ and watts, with the beat of its arrival. -/
theorem readGrant_word (b : Body) (hfull : (b.slot 32).full = true) (ht : b.boot.tested = true) :
    b.readGrant = (b.readSlot 32).2.applyGrant ((b.slot 32).word.toNat % 2 ^ 32) ((b.slot 32).word.toNat / 2 ^ 32 % 2 ^ 12)
      b.doves.grantBeat := by
  simp only [Body.readGrant, hfull, ht, Bool.and_self, if_true, BitVec.extractLsb'_toNat, Nat.shiftRight_eq_div_pow, Nat.pow_zero,
    Nat.div_one]

/-- R281: one of no new SEQ is without effect. -/
theorem applyGrant_old (b : Body) (seq watts arrival : Nat) (h : seq ≤ b.power.seq) : b.applyGrant seq watts arrival = b := if_pos h

/-- R281: a lower one takes effect at once. -/
theorem applyGrant_lower (b : Body) (seq watts arrival : Nat) (h : b.power.seq < seq) (hw : min 3400 watts ≤ b.power.grant) :
    b.applyGrant seq watts arrival = { b with power := { b.power with
      seq := seq, grantBeat := arrival, lapsed := false, grant := min 3400 watts, pendingRaise := none } } := by
  have hlow : ¬(b.power.grant < min 3400 watts ∧ b.hasBeat = true ∧ b.clock.beat < arrival + 2) := fun hc => by omega
  rw [Body.applyGrant, if_neg (Nat.not_le_of_lt h)]
  exact if_neg hlow

/-- R282: a higher one waits for the boundary two beats after its arrival. -/
theorem applyGrant_higher (b : Body) (seq watts arrival : Nat) (h : b.power.seq < seq) (hb : b.hasBeat = true)
    (hw : b.power.grant < min 3400 watts) (harr : b.clock.beat < arrival + 2) :
    b.applyGrant seq watts arrival = { b with power := { b.power with
      seq := seq, grantBeat := arrival, lapsed := false, pendingRaise := some (min 3400 watts, arrival + 2) } } := by
  rw [Body.applyGrant, if_neg (Nat.not_le_of_lt h)]
  exact if_pos ⟨hw, hb, harr⟩

/-- R301: a slot that has been read is empty. -/
theorem readSlot_full (b : Body) (i : Nat) : ((b.readSlot i).2.slot i).full = false := by
  show ((b.alterSlot i (fun x => { x with full := false })).slot i).full = false
  rw [alterSlot_slot]
  split
  · rfl
  · next h =>
    have hnone : b.doves.slots.length ≤ i := by simpa using h
    simp [Body.slot, List.getD_eq_getElem?_getD, List.getElem?_eq_none hnone]

/-- An interval that ends without a word for the controller. -/
theorem powerInterval_noGrant (b : Body) (m : PowerSample) (h : (b.slot 32).full = false ∨ b.boot.tested = false) :
    Regulated (b.until_ b.intervalEnd) (b.powerInterval m) (b.trusted m) (b.inputP m) b.power.lastEnd b.intervalEnd := by
  rw [powerInterval_eq, readGrant_none (b.until_ b.intervalEnd) h]
  exact interval_regulated _ _ _ _ _ (inputP_until b _ m)

/-- The slots after an interval are those of after its grant. -/
theorem Regulated.slot {b c : Body} {m : PowerSample} {p t0 t1 : Nat} (h : Regulated b c m p t0 t1) (i : Nat) :
    c.slot i = b.slot i := by
  rw [h.rest]
  rfl

/-- A body at the end of its interval, with slot 32 read. -/
def slotRead (b : Body) : Body := ((b.until_ b.intervalEnd).readSlot 32).2

/-- An interval that finds a word. -/
theorem powerInterval_grant (b : Body) (m : PowerSample) (hfull : (b.slot 32).full = true) (ht : b.boot.tested = true) : ∃ p,
    Regulated ((slotRead b).applyGrant ((b.slot 32).word.toNat % 2 ^ 32) ((b.slot 32).word.toNat / 2 ^ 32 % 2 ^ 12)
      b.doves.grantBeat) (b.powerInterval m) (b.trusted m) p b.power.lastEnd b.intervalEnd := by
  rw [powerInterval_eq, readGrant_word (b.until_ b.intervalEnd) hfull ht]
  exact ⟨_, interval_regulated _ _ _ _ _ rfl⟩

/-- Settles O32: a word is `applyGrant` in the interval that finds it, and the rest of the interval touches no grant. -/
theorem grantTaken : Obligations.GrantTaken := by
  refine ⟨fun s m ht hfull hseq hw => ?_, fun s m ht hfull hseq hb hw harr => ?_, fun s m ht hfull hseq => ?_, fun s m ht => ?_⟩
  · obtain ⟨p, hreg⟩ := powerInterval_grant s.body m hfull ht
    have hempty := readSlot_full (s.body.until_ s.body.intervalEnd) 32
    rw [applyGrant_lower (slotRead s.body) _ _ _ hseq hw] at hreg
    exact ⟨_, exec_powerInterval s m, hreg.grant, hreg.pendingRaise, hreg.seq, hreg.lapsed, hreg.grantBeat,
      (congrArg Slot.full (hreg.slot 32)).trans hempty⟩
  · obtain ⟨p, hreg⟩ := powerInterval_grant s.body m hfull ht
    rw [applyGrant_higher (slotRead s.body) _ _ _ hseq hb hw harr] at hreg
    exact ⟨_, exec_powerInterval s m, hreg.grant, hreg.pendingRaise⟩
  · obtain ⟨p, hreg⟩ := powerInterval_grant s.body m hfull ht
    have hempty := readSlot_full (s.body.until_ s.body.intervalEnd) 32
    rw [applyGrant_old (slotRead s.body) _ _ _ hseq] at hreg
    exact ⟨_, exec_powerInterval s m, hreg.grant, hreg.seq, hreg.grantBeat, (congrArg Slot.full (hreg.slot 32)).trans hempty⟩
  · have hreg := powerInterval_noGrant s.body m (.inr ht)
    exact ⟨_, exec_powerInterval s m, hreg.grant, hreg.seq, hreg.slot 32⟩

/-! ## The start of a raise (R275, R278) -/

/-- The moment at which a raise for the next beat starts. -/
def raiseMoment (b : Body) : Nat := b.clock.beatStart + (b.beatNs - 20000)

/-- Nothing stands against a raise. -/
def mayRaise (b : Body) : Bool :=
  !b.power.fixed && b.power.switch.isNone && decide (b.power.op < b.power.opCeiling) && b.raiseFits (b.meanAt (raiseMoment b))

/-- The body once it has been decided whether a raise starts. -/
def raiseDecided (b : Body) (raise : Bool) : Body :=
  let want := if raise then b.power.op + 1 else (b.power.switch.elim b.power.op (fun x => max x.target b.power.op))
  { b.until_ (raiseMoment b) with free := b.free + 1, power := { b.power with
    switch := if raise then some ⟨b.power.op + 1, b.clock.beat + 1, true⟩ else b.power.switch,
    vcoreMv := b.voltageFor (b.clock.beat + 1) want (if raise then b.coreMv (b.power.op + 1) else b.power.vcoreMv) } }

theorem opRaiseStart_beat (b : Body) (hb : b.hasBeat = true) : b.opRaiseStart = raiseDecided b (mayRaise b) := by
  unfold Body.opRaiseStart
  rw [hb]
  rfl

theorem opRaiseStart_raises (b : Body) (hb : b.hasBeat = true) (h : mayRaise b = true) : b.opRaiseStart =
    { b.until_ (raiseMoment b) with free := b.free + 1, power := { b.power with
      switch := some ⟨b.power.op + 1, b.clock.beat + 1, true⟩,
      vcoreMv := b.voltageFor (b.clock.beat + 1) (b.power.op + 1) (b.coreMv (b.power.op + 1)) } } := by
  rw [opRaiseStart_beat b hb, h]
  rfl

theorem opRaiseStart_stays (b : Body) (hb : b.hasBeat = true) (h : mayRaise b = false) (hs : b.power.switch = none) : b.opRaiseStart =
    { b.until_ (raiseMoment b) with free := b.free + 1, power := { b.power with
      vcoreMv := b.voltageFor (b.clock.beat + 1) b.power.op b.power.vcoreMv } } := by
  rw [opRaiseStart_beat b hb, h]
  simp [raiseDecided, hs]

theorem mayRaise_iff (b : Body) (hs : b.power.switch = none) : mayRaise b = true ↔ b.power.fixed = false ∧
    b.power.op < b.power.opCeiling ∧ b.power.dutyAlwaysZero = true ∧ b.power.duty = 0 ∧
    (b.meanAt (raiseMoment b) + b.book.tables.power.upMargin) * microW ≤ b.ceiling := by
  simp only [mayRaise, Body.raiseFits, hs, Bool.and_eq_true, Bool.not_eq_true', Option.isNone_none, decide_eq_true_eq, and_assoc,
    true_and]

/-- R275: the voltage for a point that a MODE entry of tick 0 fixes. -/
theorem voltageFor_mode (b : Body) (e : SchedEntry) (beat op mv : Nat) (hes : b.sched.entries = [e]) (hk : e.kind = 7)
    (hb : e.beat = beat) (ht : e.tick = 0) (hfix : e.arg0.getLsbD 0 = true) (hop : op < e.arg0.toNat / 2 ^ 8 % 16) :
    b.voltageFor beat op mv = max mv (b.coreMv (e.arg0.toNat / 2 ^ 8 % 16)) := by
  have hpoint : (e.arg0.extractLsb' 8 4).toNat = e.arg0.toNat / 2 ^ 8 % 16 := by
    rw [BitVec.extractLsb'_toNat, Nat.shiftRight_eq_div_pow]
  have honly : b.foreseen beat op = Body.foresee { b with power := { b.power with op := op } } e := by
    simp [Body.foreseen, hes, hk, hb, ht]
  have hseen : b.foreseen beat op =
      { b with power := ({ b.power with op := op } : Power).inMode true (e.arg0.toNat / 2 ^ 8 % 16) } := by
    rw [honly, Body.foresee, if_pos hk, hfix, hpoint]
  rw [Body.voltageFor, hseen]
  exact if_pos hop

/-- Settles O31: an interval is `Regulated`, a raise starts where `mayRaise` says so, and a lapse is one update of the grant. -/
theorem powerControl : Obligations.PowerControl := by
  refine ⟨fun s m hslot => ?_, fun s hb hfree hsw hop hzero hduty hfit hstay => ?_, fun s hb hsw hno hstay => ?_,
    fun s e hb hfix hsw hes hk heb het harg hop hmv => ?_, fun s hb => ?_, fun s hb hl hdue => ?_, fun s hno => ?_⟩
  · have hreg := powerInterval_noGrant s.body m (.inl hslot)
    have hunder := nextDuty_under s.body.power.duty (s.body.inputP m) s.body.ceiling s.body.dutyStep s.body.floor_
    exact ⟨_, exec_powerInterval s m, rfl, rfl, fun h => hreg.duty.trans (nextDuty_over _ _ _ _ _ h),
      fun h hf => ⟨hreg.duty.trans (hunder h hf).1, fun h0 => hreg.rally ((hunder h hf).2 h0)⟩,
      fun h hf => hreg.duty.trans (nextDuty_within _ _ _ _ _ h hf), hreg.hWest, hreg.hEast, hreg.sumP, hreg.lastEnd,
      by rw [hreg.rest]; rfl, hreg.op, hreg.grant, by rw [hreg.rest]; rfl⟩
  · have hraise := opRaiseStart_raises s.body hb ((mayRaise_iff s.body hsw).2 ⟨hfree, hop, hzero, hduty, hfit⟩)
    rw [voltageFor_pointsStay _ _ _ _ hstay] at hraise
    refine ⟨_, exec_opRaiseStart s, rfl, rfl, ?_⟩
    dsimp only
    rw [hraise]
    exact ⟨rfl, rfl, rfl⟩
  · have hmay : mayRaise s.body = false := by
      rw [← Bool.not_eq_true, mayRaise_iff s.body hsw]
      rintro ⟨hfree, hop, hzero, hduty, hfit⟩
      rcases hno with h | h | h | h | h
      · rw [h] at hfree; cases hfree
      · omega
      · exact h hduty
      · rw [h] at hzero; cases hzero
      · exact absurd h (Nat.not_lt_of_le hfit)
    have hstays := opRaiseStart_stays s.body hb hmay hsw
    rw [voltageFor_pointsStay _ _ _ _ hstay] at hstays
    refine ⟨_, exec_opRaiseStart s, rfl, rfl, ?_⟩
    dsimp only
    rw [hstays]
    exact ⟨rfl, rfl⟩
  · have hmay : mayRaise s.body = false := by rw [← Bool.not_eq_true, mayRaise_iff s.body hsw, hfix]; simp
    have hstays := opRaiseStart_stays s.body hb hmay hsw
    rw [voltageFor_mode s.body e _ _ _ hes hk heb het harg hop, Nat.max_eq_right hmv] at hstays
    refine ⟨_, exec_opRaiseStart s, ?_⟩
    dsimp only
    rw [hstays]
    exact ⟨rfl, rfl⟩
  · rw [exec_opRaiseStart, Body.opRaiseStart, hb]
    rfl
  · refine ⟨_, exec_grantLapse s, rfl, rfl, ?_⟩
    have hdue : s.body.hasBeat = true ∧ (!s.body.power.lapsed) = true ∧
        s.body.power.grantBeat + s.body.book.tables.beat.grantRefresh ≤ s.body.clock.beat := ⟨hb, by rw [hl]; rfl, hdue⟩
    dsimp only
    rw [Body.grantLapse, if_pos hdue]
    exact ⟨rfl, rfl⟩
  · have hno : ¬(s.body.hasBeat = true ∧ (!s.body.power.lapsed) = true ∧
        s.body.power.grantBeat + s.body.book.tables.beat.grantRefresh ≤ s.body.clock.beat) := by
      rintro ⟨hb, hl, hdue⟩
      rcases hno with h | h | h
      · rw [h] at hb; cases hb
      · rw [h] at hl; cases hl
      · omega
    rw [exec_grantLapse, Body.grantLapse, if_neg hno]

end Sys2Proof.Proofs
end

section
/-!
PROOFS. Barriers (11, R267 to R271, R442): arrival, the own notices, and the decision of the one barrier that is open.
-/

namespace Sys2Proof.Proofs

open Sys2Proof Sys2Proof.Machine Sys2Proof.Laws

/-! ## The rows -/

theorem exec_barrierArrival (s : State) (part id : Nat) (hp : part < 4) :
    exec (.barrierArrival part id) s = .next { s with body := s.body.barrierArrives s.vault part id } :=
  onBody_of _ s _ (by simp [hp])

theorem exec_lateNotice (s : State) (part id x : Nat) (hp : part < 4) :
    exec (.lateNotice part id x) s = .next { s with body := s.body.lateNotice s.vault part id x } :=
  onBody_of _ s _ (by simp [hp])

theorem exec_barrierDecision (s : State) : exec .barrierDecision s = .next { s with body := s.body.barrierDecision s.vault } := rfl

/-! ## Barriers and their notices -/

/-- The barrier of a partition's identifier, after a change of it that keeps both. -/
theorem find_alterBarrier (b : Body) (k : BarrierInfo) (part id : Nat) (f : BarrierInfo → BarrierInfo)
    (hpart : ∀ x, (f x).part = x.part) (hid : ∀ x, (f x).id = x.id)
    (h : b.sched.barriers.find? (fun x => decide (x.part = part ∧ x.id = id)) = some k) :
    (b.alterBarrier part id f).sched.barriers.find? (fun x => decide (x.part = part ∧ x.id = id)) = some (f k) := by
  have hk : k.part = part ∧ k.id = id := by simpa using List.find?_some h
  have hsame : ((fun x : BarrierInfo => decide (x.part = part ∧ x.id = id)) ∘ fun x => if x.part = part ∧ x.id = id then f x else x) =
      fun x => decide (x.part = part ∧ x.id = id) := by
    funext x
    simp only [Function.comp_apply]
    split
    · rw [hpart, hid]
    · rfl
  rw [Body.alterBarrier, List.find?_map, hsame, h]
  exact congrArg some (if_pos hk)

/-- The module's own notice, where it is a member. -/
def ownNotices (b : Body) (serial : Word64) (k : BarrierInfo) (kind : NoticeKind) : List Notice :=
  ((b.ownMember serial).map (fun m => ⟨k.id, m, kind, b.clock.beat, b.tickNow⟩)).toList

/-- R268: an own notice is counted here, and sent. -/
theorem ownNotice_form (b : Body) (v : Vault) (k : BarrierInfo) (e : SchedEntry) (kind : NoticeKind) (he : b.barrierEntry k = some e) :
    Traffic (b.alterBarrier k.part k.id (fun x => { x with notices := x.notices ++ ownNotices b v.serial k kind }))
      (b.ownNotice v k kind) := by
  unfold Body.ownNotice ownNotices
  rw [he]
  cases b.ownMember v.serial with
  | none =>
    have hkept : b.alterBarrier k.part k.id (fun x => { x with notices := x.notices ++ [] }) = b := by simp [Body.alterBarrier]
    show Traffic (b.alterBarrier k.part k.id (fun x => { x with notices := x.notices ++ [] })) b
    rw [hkept]
    exact .refl b
  | some m =>
    dsimp only
    split
    · exact Traffic.foldl _ (fun _ _ => sendEdge_traffic _ _ _ _) _ _
    · exact .refl _

/-- Where the module is the member `m` its notice is one of `m`. -/
theorem ownNotices_member (b : Body) (serial : Word64) (k : BarrierInfo) (kind : NoticeKind) (m : Nat) (hm : b.ownMember serial = some m) :
    ownNotices b serial k kind = [⟨k.id, m, kind, b.clock.beat, b.tickNow⟩] := by
  rw [ownNotices, hm]
  rfl

theorem barrier_arrives (s : State) (k : BarrierInfo) (e : SchedEntry) (hp : k.part < 4)
    (hk : s.body.sched.barriers.find? (fun x => decide (x.part = k.part ∧ x.id = k.id)) = some k) (he : s.body.barrierEntry k = some e)
    (hnew : k.arrived = false) (harr : (s.body.part k.part).arrived e.token = true) : ∃ t : State,
    exec (.barrierArrival k.part k.id) s = .next t ∧ t.body.parts = s.body.parts ∧ t.body.sched.entries = s.body.sched.entries ∧
    t.body.power.rallyLevel = some (s.body.rallyHeld.getD s.body.rallyMean) ∧
    ∃ j, t.body.sched.barriers.find? (fun x => decide (x.part = k.part ∧ x.id = k.id)) = some j ∧ j.arrived = true ∧
      (∀ m, s.body.ownMember s.vault.serial = some m →
        j.notices = k.notices ++ [⟨k.id, m, .ready, s.body.clock.beat, s.body.tickNow⟩]) := by
  have hcond : (!k.arrived && (decide (4 ≤ k.part) || (s.body.part k.part).arrived e.token)) = true := by rw [hnew, harr]; simp
  have hmarked := find_alterBarrier s.body k k.part k.id (fun x => { x with arrived := true }) (fun _ => rfl) (fun _ => rfl) hk
  obtain ⟨ls, ks, hnotice⟩ := ownNotice_form (s.body.alterBarrier k.part k.id (fun x => { x with arrived := true })) s.vault k e .ready he
  have hcounted := find_alterBarrier _ _ k.part k.id (fun x => { x with notices := x.notices ++ ownNotices s.body s.vault.serial k .ready })
    (fun _ => rfl) (fun _ => rfl) hmarked
  refine ⟨_, exec_barrierArrival s _ _ hp, ?_⟩
  dsimp only
  rw [Body.barrierArrives, hk]
  dsimp only
  rw [he]
  dsimp only
  rw [if_pos hcond, hnotice]
  refine ⟨rfl, rfl, rfl, _, hcounted, rfl, fun m hm => ?_⟩
  dsimp only
  rw [ownNotices_member _ _ _ _ m hm]

theorem late_noticed (s : State) (k : BarrierInfo) (e : SchedEntry) (x : Nat) (hp : k.part < 4)
    (hk : s.body.sched.barriers.find? (fun y => decide (y.part = k.part ∧ y.id = k.id)) = some k) (he : s.body.barrierEntry k = some e)
    (hnew : k.arrived = false) (hx : (if k.noticed = 0 then e.beat else k.noticed) < x) : ∃ t : State,
    exec (.lateNotice k.part k.id x) s = .next t ∧ t.body.parts = s.body.parts ∧ t.body.sched.entries = s.body.sched.entries ∧
    ∃ j, t.body.sched.barriers.find? (fun y => decide (y.part = k.part ∧ y.id = k.id)) = some j ∧ j.noticed = x ∧
      (∀ m, s.body.ownMember s.vault.serial = some m →
        j.notices = k.notices ++ [⟨k.id, m, .late x, s.body.clock.beat, s.body.tickNow⟩]) := by
  have hcond : (!k.arrived && decide ((if k.noticed = 0 then e.beat else k.noticed) < x)) = true := by
    rw [hnew, decide_eq_true hx]
    rfl
  have hcounted := find_alterBarrier s.body k k.part k.id (fun y => { y with notices := y.notices ++ ownNotices s.body s.vault.serial k (.late x) })
    (fun _ => rfl) (fun _ => rfl) hk
  obtain ⟨ls, ks, hnotice⟩ := ownNotice_form s.body s.vault k e (.late x) he
  refine ⟨_, exec_lateNotice s _ _ _ hp, ?_⟩
  dsimp only
  rw [Body.lateNotice, hk]
  dsimp only
  rw [he]
  dsimp only
  rw [if_pos hcond, hnotice]
  refine ⟨rfl, rfl, _, find_alterBarrier _ _ _ _ (fun y => { y with noticed := x }) (fun _ => rfl) (fun _ => rfl) hcounted, rfl, fun m hm => ?_⟩
  dsimp only
  rw [ownNotices_member _ _ _ _ m hm]

/-! ## Decisions (R270) -/

/-- Notices that forecast no beat leave the release beat as it is. -/
theorem foldl_max_zeros (a : Nat) (xs : List Nat) (h : ∀ x ∈ xs, x = 0) : xs.foldl max a = a := by
  induction xs with
  | nil => rfl
  | cons x xs ih =>
    rw [List.foldl_cons, h x List.mem_cons_self, Nat.max_zero]
    exact ih fun y hy => h y (List.mem_cons_of_mem _ hy)

/-- The notices that count for the decision at beat `d`. -/
def countedNotices (b : Body) (k : BarrierInfo) (d : Nat) : List Notice := k.notices.filter (fun n => b.counts n d)

/-- Members without a READY that counts. -/
def missing (b : Body) (k : BarrierInfo) (g : RouteGroup) (d : Nat) : List Nat :=
  g.members.filter (fun m => !(countedNotices b k d).any (fun n => decide (n.member = m) && isReady n))

/-- Without a forecast only the members that miss decide. -/
theorem decide_ready (b : Body) (serial : Word64) (e : SchedEntry) (k : BarrierInfo) (g : RouteGroup) (d : Nat)
    (hok : b.groupOk serial (barrierGroup e) = true) (hg : b.group? (barrierGroup e) = some g) (hready : ∀ n ∈ k.notices, n.kind = .ready)
    (hd : e.beat ≤ d) : b.decide_ serial e k d =
      if (missing b k g d).isEmpty then .release else if e.beat + barrierSlack e ≤ d then .fail (missing b k g d) else .wait := by
  have hzero : ∀ n ∈ countedNotices b k d, lateBeat n = 0 := fun n hn => by rw [lateBeat, hready n (List.mem_of_mem_filter hn)]
  have hnotLate : (countedNotices b k d).filter (fun n => decide (e.beat + barrierSlack e < lateBeat n)) = [] :=
    List.filter_eq_nil_iff.2 fun n hn => by rw [hzero n hn]; simp
  have heff : ((countedNotices b k d).map lateBeat).foldl max e.beat = e.beat := foldl_max_zeros _ _ (by simpa using hzero)
  unfold Body.decide_
  simp only [hok, hg]
  change (if !(((countedNotices b k d).filter (fun n => decide (e.beat + barrierSlack e < lateBeat n))).map (·.member)).isEmpty then _
    else if ((countedNotices b k d).map lateBeat).foldl max e.beat ≤ d ∧ (missing b k g d).isEmpty = true then _
    else if e.beat + barrierSlack e ≤ d then Decision.fail (missing b k g d) else Decision.wait) = _
  rw [hnotLate, heff]
  simp [hd]

/-- With every member's READY none misses. -/
theorem missing_nil (b : Body) (k : BarrierInfo) (g : RouteGroup) (d : Nat) (hready : ∀ n ∈ k.notices, n.kind = .ready)
    (hall : ∀ m ∈ g.members, ∃ n ∈ k.notices, n.member = m ∧ b.counts n d = true) : missing b k g d = [] := by
  refine List.filter_eq_nil_iff.2 fun m hm => ?_
  obtain ⟨n, hn, hmember, hcounts⟩ := hall m hm
  have hany : (countedNotices b k d).any (fun n => decide (n.member = m) && isReady n) = true :=
    List.any_eq_true.2 ⟨n, List.mem_filter.2 ⟨hn, hcounts⟩, by simp [hmember, isReady, hready n hn]⟩
  rw [hany]
  decide

/-- Without a notice all miss. -/
theorem missing_all (b : Body) (k : BarrierInfo) (g : RouteGroup) (d : Nat) (hnone : k.notices = []) : missing b k g d = g.members := by
  simp [missing, countedNotices, hnone]

/-- What the entry of a barrier is. -/
theorem barrierEntry_spec (b : Body) (k : BarrierInfo) (e : SchedEntry) (he : b.barrierEntry k = some e) :
    e ∈ b.sched.entries ∧ e.kind = 2 ∧ k.part = e.part ∧ k.id = barrierId e := by
  have hprop := List.find?_some he
  simp only [Bool.and_eq_true, decide_eq_true_eq] at hprop
  obtain ⟨⟨hkind, hpart⟩, hid⟩ := hprop
  exact ⟨List.mem_of_find?_eq_some he, hkind, hpart.symm, hid.symm⟩

/-- A decision of the one open barrier is taken at the beat in progress. -/
theorem decideOne_taken (v : Vault) (b : Body) (k : BarrierInfo) (e : SchedEntry) (he : b.barrierEntry k = some e)
    (hbeat : e.beat ≤ b.clock.beat) (hdec : k.decided ≠ some b.clock.beat) (hrel : k.releasing = none) : b.decideOne v k =
      match b.decide_ v.serial e k b.clock.beat with
      | .release => b.alterBarrier k.part k.id (fun k => { k with decided := some b.clock.beat, releasing := some b.clock.beat })
      | .fail absent => b.failBarrier e absent
      | .wait => b.alterBarrier k.part k.id (fun k => { k with decided := some b.clock.beat }) := by
  have hcond : ¬(decide (b.clock.beat < e.beat) || decide (k.decided = some b.clock.beat) || k.releasing.isSome) = true := by
    simp [hrel, hdec, hbeat]
  unfold Body.decideOne
  rw [he]
  exact if_neg hcond

/-- The decision row where one barrier is open. -/
theorem barrierDecision_one (v : Vault) (b : Body) (k : BarrierInfo) (hb : b.hasBeat = true)
    (hfirst : b.nextEntry.any (fun x => decide (Machine.firingOrder x.kind < 3)) = false) (hmade : b.clock.made = true)
    (hk : b.sched.barriers = [k]) : b.barrierDecision v = (b.decideOne v k).releases (b.decideOne v k).sched.barriers.length := by
  simp only [Body.barrierDecision, hb, hfirst, hmade, hk, Bool.not_true, Bool.or_self, Bool.false_eq_true, if_false, if_true,
    List.foldl_cons, List.foldl_nil]

/-- The one barrier, released but not yet at its tick. -/
def releasing (b : Body) (k : BarrierInfo) : Body := { b with sched := { b.sched with
  barriers := [{ k with decided := some b.clock.beat, releasing := some b.clock.beat }] } }

/-- R270: with every member's READY the decision is a release. -/
theorem decideOne_releases (v : Vault) (b : Body) (k : BarrierInfo) (e : SchedEntry) (g : RouteGroup) (hk : b.sched.barriers = [k])
    (he : b.barrierEntry k = some e) (hbeat : e.beat ≤ b.clock.beat) (hdec : k.decided ≠ some b.clock.beat) (hrel : k.releasing = none)
    (hok : b.groupOk v.serial (barrierGroup e) = true) (hg : b.group? (barrierGroup e) = some g)
    (hready : ∀ n ∈ k.notices, n.kind = .ready)
    (hall : ∀ m ∈ g.members, ∃ n ∈ k.notices, n.member = m ∧ b.counts n b.clock.beat = true) : b.decideOne v k = releasing b k := by
  rw [decideOne_taken v b k e he hbeat hdec hrel, decide_ready b _ e k g _ hok hg hready hbeat, missing_nil b k g _ hready hall]
  simp [Body.alterBarrier, releasing, hk]

/-- The barrier's entry is due at its release tick. -/
theorem dueAt_releasing (b : Body) (k : BarrierInfo) (e : SchedEntry) (he : b.barrierEntry k = some e) (hbeat : e.beat ≤ b.clock.beat) :
    (releasing b k).dueAt e = some (b.clock.beat, e.tick, 3) := by
  obtain ⟨-, hkind, hpart, hid⟩ := barrierEntry_spec b k e he
  simp [Body.dueAt, releasing, Nat.not_lt.2 hbeat, hkind, hpart, hid]

/-- Any other entry that is due then was due before: another of the same barrier at the beat's own tick 0. -/
theorem dueAt_of_releasing (b : Body) (k : BarrierInfo) (x : SchedEntry) (m : Nat × Nat × Nat) (hk : b.sched.barriers = [k])
    (hmade : b.clock.made = true) (hdec : k.decided ≠ some b.clock.beat) (hrel : k.releasing = none)
    (h : (releasing b k).dueAt x = some m) : b.dueAt x = some m ∨ b.dueAt x = some (b.clock.beat, 0, 3) := by
  by_cases hkind : x.kind = 2
  · by_cases hbeat : b.clock.beat < x.beat
    · simp [Body.dueAt, releasing, hbeat] at h
    · by_cases hx : k.part = x.part ∧ k.id = barrierId x
      · exact .inr (by simp [Body.dueAt, hbeat, hkind, hk, hx, hrel, hmade, hdec])
      · simp [Body.dueAt, releasing, hbeat, hkind, hx] at h
  · rw [Body.dueAt, if_neg hkind] at h
    exact .inl (by rw [Body.dueAt, if_neg hkind]; exact h)

/-- At its tick the barrier leaves the schedule. -/
theorem releaseNext_releasing (b : Body) (k : BarrierInfo) (e : SchedEntry) (he : b.barrierEntry k = some e)
    (hnext : (releasing b k).nextEntry = some e) : (releasing b k).releaseNext =
      some (((releasing b k).until_ (b.clock.beatStart + e.tick)).closeBarrier e (some b.clock.beat) none) := by
  obtain ⟨-, hkind, hpart, hid⟩ := barrierEntry_spec b k e he
  simp only [Body.releaseNext, hnext]
  simp [releasing, hkind, hpart, hid]

/-- Before that an entry of another kind is what comes next. -/
theorem releaseNext_otherKind (b : Body) (x : SchedEntry) (hnext : b.nextEntry = some x) (hkind : x.kind ≠ 2) : b.releaseNext = none := by
  simp only [Body.releaseNext, hnext]
  split
  · exact if_neg fun h => hkind h.1
  · rfl

/-- The one barrier is closed: it is gone from the schedule, its token has completed, and rally is over. -/
theorem closeBarrier_one (b : Body) (k : BarrierInfo) (e : SchedEntry) (d failed : Option Nat) (hk : b.sched.barriers = [k])
    (hkind : e.kind = 2) (hpart : k.part = e.part) (hid : k.id = barrierId e) (hp : e.part < 4) (ht : e.token ≠ 0) :
    (b.closeBarrier e d failed).sched.entries = b.sched.entries.erase e ∧ (b.closeBarrier e d failed).sched.barriers = [] ∧
    (b.closeBarrier e d failed).parts = (b.alterPart e.part (fun x => x.complete e.token failed)).parts ∧
    (b.closeBarrier e d failed).clock = b.clock := by
  have hnone : ((b.sched.remove e).remember (barrierId e) e.part d).barriers = [] := by
    cases d <;> simp [Sched.remember, Sched.remove, hkind, hk, hpart, hid]
  have hentries : ((b.sched.remove e).remember (barrierId e) e.part d).entries = b.sched.entries.erase e := by cases d <;> rfl
  have hidle : ∀ c : Body, c.sched.barriers = [] → c.endRally = { c with power := { c.power with rallyLevel := none } } := fun c hc => by
    simp [Body.endRally, hc]
  rw [Body.closeBarrier, completeBeat_part _ _ _ _ ht hp, hidle _ hnone]
  exact ⟨hentries, hnone, rfl, rfl⟩

theorem barrier_released (s : State) (k : BarrierInfo) (e : SchedEntry) (g : RouteGroup) (hb : s.body.hasBeat = true)
    (hfirst : s.body.nextEntry.any (fun x => decide (Machine.firingOrder x.kind < 3)) = false) (hmade : s.body.clock.made = true)
    (hrel : k.releasing = none) (hk : s.body.sched.barriers = [k]) (he : s.body.barrierEntry k = some e)
    (hbeat : e.beat ≤ s.body.clock.beat) (hdec : k.decided ≠ some s.body.clock.beat)
    (hearliest : ∀ x ∈ s.body.sched.entries, x ≠ e → ∀ m, s.body.dueAt x = some m → earlier (s.body.clock.beat, e.tick, 3) m = true)
    (hok : s.body.groupOk s.vault.serial (barrierGroup e) = true) (hg : s.body.group? (barrierGroup e) = some g)
    (hready : ∀ n ∈ k.notices, n.kind = .ready)
    (hall : ∀ m ∈ g.members, ∃ n ∈ k.notices, n.member = m ∧ s.body.counts n s.body.clock.beat = true)
    (hp : e.part < 4) (hlen : e.part < s.body.parts.length) (ht : e.token ≠ 0) : ∃ t : State,
    exec .barrierDecision s = .next t ∧ t.body.sched.entries = s.body.sched.entries.erase e ∧ t.body.sched.barriers = [] ∧
    (⟨e.token, none⟩ : Done) ∈ (t.body.part e.part).board ∧ (t.body.part e.part).fstate = (s.body.part e.part).fstate ∧
    t.body.clock = { s.body.clock with now := max s.body.clock.now (s.body.clock.beatStart + e.tick) } := by
  obtain ⟨hmem, hkind, hpart, hid⟩ := barrierEntry_spec s.body k e he
  have hnext : (releasing s.body k).nextEntry = some e := by
    refine nextEntry_of_earliest _ e _ hb hmem (dueAt_releasing s.body k e he hbeat) fun x hx hne m hm => ?_
    rcases dueAt_of_releasing s.body k x m hk hmade hdec hrel hm with hdue | hdue
    · exact hearliest x hx hne m hdue
    · have hnot := (earlier_iff _ _).1 (hearliest x hx hne _ hdue)
      exact absurd hnot (by simp)
  have hdone : s.body.barrierDecision s.vault =
      ((releasing s.body k).until_ (s.body.clock.beatStart + e.tick)).closeBarrier e (some s.body.clock.beat) none := by
    rw [barrierDecision_one _ _ k hb hfirst hmade hk, decideOne_releases _ _ k e g hk he hbeat hdec hrel hok hg hready hall]
    show (releasing s.body k).releases 1 = _
    rw [Body.releases, releaseNext_releasing s.body k e he hnext]
    rfl
  obtain ⟨hentries, hnone, hparts, hclock⟩ := closeBarrier_one ((releasing s.body k).until_ (s.body.clock.beatStart + e.tick)) _ e
    (some s.body.clock.beat) none rfl hkind hpart hid hp ht
  have hpartOf : (s.body.barrierDecision s.vault).part e.part = (s.body.part e.part).complete e.token none := by
    rw [hdone, Body.part, hparts]
    exact alterPart_same _ _ _ hlen
  refine ⟨_, exec_barrierDecision s, ?_⟩
  dsimp only
  rw [hpartOf, hdone]
  exact ⟨hentries, hnone, mem_board_complete _ _ _, rfl, hclock⟩

theorem barrier_waitsForTick (s : State) (k : BarrierInfo) (e x : SchedEntry) (g : RouteGroup) (hb : s.body.hasBeat = true)
    (hmade : s.body.clock.made = true) (hrel : k.releasing = none) (hk : s.body.sched.barriers = [k])
    (he : s.body.barrierEntry k = some e) (hbeat : e.beat ≤ s.body.clock.beat) (hdec : k.decided ≠ some s.body.clock.beat)
    (hes : s.body.sched.entries = [e, x]) (hx : x.kind ≠ 2) (horder : 3 < Machine.firingOrder x.kind) (hxb : x.beat = s.body.clock.beat)
    (hxt : x.tick < e.tick) (hok : s.body.groupOk s.vault.serial (barrierGroup e) = true)
    (hg : s.body.group? (barrierGroup e) = some g) (hready : ∀ n ∈ k.notices, n.kind = .ready)
    (hall : ∀ m ∈ g.members, ∃ n ∈ k.notices, n.member = m ∧ s.body.counts n s.body.clock.beat = true) : ∃ t : State,
    exec .barrierDecision s = .next t ∧
    t.body = { s.body with sched := { s.body.sched with
      barriers := [{ k with decided := some s.body.clock.beat, releasing := some s.body.clock.beat }] } } ∧
    t.body.nextEntry = some x := by
  obtain ⟨-, hkind, -, -⟩ := barrierEntry_spec s.body k e he
  have hfirst : s.body.nextEntry.any (fun y => decide (Machine.firingOrder y.kind < 3)) = false := by
    cases hn : s.body.nextEntry with
    | none => rfl
    | some y =>
      obtain ⟨-, m, -, l, r, hsplit, -, -⟩ := nextEntry_firesFirst s.body y hn
      have hy : y ∈ [e, x] := by rw [← hes, hsplit]; simp
      rcases List.mem_pair.1 hy with rfl | rfl
      · simp [hkind, Machine.firingOrder]
      · simpa using horder.le
  have hdue : (releasing s.body k).dueAt x = some (x.beat, x.tick, Machine.firingOrder x.kind) := by
    simp [Body.dueAt, releasing, hxb, hx]
  have hnext : (releasing s.body k).nextEntry = some x := by
    refine nextEntry_of_earliest _ x _ hb (by simp [releasing, hes]) hdue fun y hy hne m hm => ?_
    have hye : y = e := by simpa [releasing, hes, hne] using hy
    subst hye
    rw [dueAt_releasing s.body k y he hbeat] at hm
    exact Option.some.inj hm ▸ (earlier_iff _ _).2 (.inr ⟨hxb, .inl hxt⟩)
  have hdone : s.body.barrierDecision s.vault = releasing s.body k := by
    rw [barrierDecision_one _ _ k hb hfirst hmade hk, decideOne_releases _ _ k e g hk he hbeat hdec hrel hok hg hready hall]
    show (releasing s.body k).releases 1 = _
    rw [Body.releases, releaseNext_otherKind _ x hnext hx]
  refine ⟨_, exec_barrierDecision s, hdone, ?_⟩
  dsimp only
  rw [hdone, hnext]

/-- A message leaves the schedule alone. -/
theorem raise_contained_sched (b : Body) (ty i k a : Nat) : (b.raise ty i .contained k a).sched = b.sched := by
  obtain ⟨ps, wh, mf, sc, dv, hform⟩ := message_contained_form b ty i k a false false
  rw [Body.raise, hform]

/-- R270: the one barrier fails: it leaves the schedule, its token completes FAILED, and the partition's streams stop. -/
theorem failBarrier_one (b : Body) (k : BarrierInfo) (e : SchedEntry) (absent : List Nat) (hk : b.sched.barriers = [k])
    (hkind : e.kind = 2) (hpart : k.part = e.part) (hid : k.id = barrierId e) (hp : e.part < 4) (hlen : e.part < b.parts.length)
    (ht : e.token ≠ 0) (hrun : (b.part e.part).fstate = .running) :
    (b.failBarrier e absent).sched.entries = b.sched.entries.erase e ∧ (b.failBarrier e absent).sched.barriers = [] ∧
    (⟨e.token, some kBarrierAbsent⟩ : Done) ∈ ((b.failBarrier e absent).part e.part).board ∧
    ((b.failBarrier e absent).part e.part).fstate = .stopped := by
  obtain ⟨hentries, hnone, hparts, -⟩ := closeBarrier_one b k e (some b.clock.beat) (some kBarrierAbsent) hk hkind hpart hid hp ht
  have hclosed : (b.closeBarrier e (some b.clock.beat) (some kBarrierAbsent)).part e.part =
      (b.part e.part).complete e.token (some kBarrierAbsent) := by
    rw [Body.part, hparts]
    exact alterPart_same _ _ _ hlen
  unfold Body.failBarrier Body.raiseBarrier
  rw [if_pos hp, if_pos hp]
  generalize b.closeBarrier e (some b.clock.beat) (some kBarrierAbsent) = c at hentries hnone hclosed
  generalize hdetail : barrierId e + (absent.head?.getD 0xFFF) * 2 ^ 16 = detail
  obtain ⟨sn, hraised⟩ := (raise_partition_sameWork c e.part kBarrierAbsent detail hp).part
  have hsched : ((c.raise tPartition e.part .contained kBarrierAbsent detail).faultStop e.part kBarrierAbsent).sched = c.sched :=
    (faultStop_keptTime _ _ _).sched.trans (raise_contained_sched c _ _ _ _)
  obtain ⟨hstopped, hboard, -, -, -⟩ := faultStop_running (c.raise tPartition e.part .contained kBarrierAbsent detail) e.part kBarrierAbsent
    (by rw [hraised, hclosed]; exact hrun)
  rw [hsched, hboard, hraised, hclosed]
  exact ⟨hentries, hnone, mem_board_complete _ _ _, hstopped⟩

theorem barrier_fails (s : State) (k : BarrierInfo) (e : SchedEntry) (g : RouteGroup) (hb : s.body.hasBeat = true)
    (hmade : s.body.clock.made = true) (hrel : k.releasing = none)
    (hfirst : s.body.nextEntry.any (fun x => decide (Machine.firingOrder x.kind < 3)) = false)
    (hk : s.body.sched.barriers = [k]) (he : s.body.barrierEntry k = some e)
    (hlimit : e.beat + barrierSlack e ≤ s.body.clock.beat) (hdec : k.decided ≠ some s.body.clock.beat)
    (hok : s.body.groupOk s.vault.serial (barrierGroup e) = true) (hg : s.body.group? (barrierGroup e) = some g)
    (hmembers : g.members ≠ []) (hsilent : k.notices = []) (hp : e.part < 4) (hlen : e.part < s.body.parts.length) (ht : e.token ≠ 0)
    (hrun : (s.body.part e.part).fstate = .running) : ∃ t : State,
    exec .barrierDecision s = .next t ∧ t.body.sched.entries = s.body.sched.entries.erase e ∧
    (⟨e.token, some kBarrierAbsent⟩ : Done) ∈ (t.body.part e.part).board ∧ (t.body.part e.part).fstate = .stopped := by
  obtain ⟨-, hkind, hpart, hid⟩ := barrierEntry_spec s.body k e he
  have hbeat : e.beat ≤ s.body.clock.beat := Nat.le_of_add_right_le hlimit
  have hfail : s.body.decide_ s.vault.serial e k s.body.clock.beat = .fail g.members := by
    rw [decide_ready _ _ e k g _ hok hg (by simp [hsilent]) hbeat, missing_all _ k g _ hsilent, if_pos hlimit]
    exact if_neg (by simpa using hmembers)
  have hone : s.body.decideOne s.vault k = s.body.failBarrier e g.members := by
    rw [decideOne_taken _ _ k e he hbeat hdec hrel, hfail]
  obtain ⟨hentries, hnone, hboard, hstopped⟩ := failBarrier_one s.body k e g.members hk hkind hpart hid hp hlen ht hrun
  have hdone : s.body.barrierDecision s.vault = s.body.failBarrier e g.members := by
    rw [barrierDecision_one _ _ k hb hfirst hmade hk, hone, hnone]
    rfl
  refine ⟨_, exec_barrierDecision s, ?_⟩
  dsimp only
  rw [hdone]
  exact ⟨hentries, hboard, hstopped⟩

/-- Settles O30: arrival and LATE for the barrier of an identifier, and the decisions of the one barrier that is open. -/
theorem barrierLife : Obligations.BarrierLife :=
  ⟨barrier_arrives, late_noticed, barrier_released, barrier_waitsForTick, barrier_fails, fun _ => rfl⟩

end Sys2Proof.Proofs
end

section
/-!
PROOFS. Droops and die sensors (11, R284, R286, R399): what a droop marks, units that stop for heat and resume, and the fatal path at TRIP_C.
-/

namespace Sys2Proof.Proofs

open Sys2Proof Sys2Proof.Machine Sys2Proof.Laws

/-! ## The rows -/

theorem exec_droopDetected (s : State) (h : Nat) (hh : h < 2) :
    exec (.droopDetected h) s = .next { s with body := s.body.droopDetected h } :=
  onBody_of _ s (fun b => b.droopDetected h) (decide_eq_true hh)

theorem exec_droopRelease (s : State) (h n : Nat) (hh : h < 2) :
    exec (.droopRelease h n) s = .next { s with body := s.body.droopRelease h n } :=
  onBody_of _ s (fun b => b.droopRelease h n) (decide_eq_true hh)

theorem exec_dieOvertemp (s : State) (h i : Nat) (hh : h < 2) :
    exec (.dieOvertemp h i) s = .next { s with body := s.body.dieOvertemp h i } :=
  onBody_of _ s (fun b => b.dieOvertemp h i) (decide_eq_true hh)

theorem exec_dieOvertempResume (s : State) (h : Nat) (hh : h < 2) :
    exec (.dieOvertempResume h) s = .next { s with body := s.body.overtempResume h } :=
  onBody_of _ s (fun b => b.overtempResume h) (decide_eq_true hh)

theorem exec_dieOvertrip (s : State) (h i : Nat) (hh : h < 2) :
    exec (.dieOvertrip h i) s = .next { s with body := s.body.dieOvertrip h i } :=
  onBody_of _ s (fun b => b.dieOvertrip h i) (decide_eq_true hh)

/-! ## Droop (R284) -/

theorem droopDetected_west (b : Body) : b.droopDetected 0 =
    { b with power := { b.power with droopWest := true, lastStretch := some b.clock.now } } := by
  simp [Body.droopDetected]

theorem droopDetected_east (b : Body) : b.droopDetected 1 =
    { b with power := { b.power with droopEast := true, lastStretch := some b.clock.now } } := by
  simp [Body.droopDetected]

theorem droopRelease_west (b : Body) (n : Nat) : b.droopRelease 0 n = if b.power.droopWest then { b with power := { b.power with
    droopWest := false, lastStretch := some b.clock.now, stretched := (b.power.stretched + n) % 2 ^ 64 } } else b := by
  simp [Body.droopRelease, wrap]

theorem droopRelease_east (b : Body) (n : Nat) : b.droopRelease 1 n = if b.power.droopEast then { b with power := { b.power with
    droopEast := false, lastStretch := some b.clock.now, stretched := (b.power.stretched + n) % 2 ^ 64 } } else b := by
  simp [Body.droopRelease, wrap]

/-! ## A hot sensor (R286, R399) -/

/-- A list of temperatures in which the sensor at a place reads at least `t`, as `hotSensor` makes it. -/
def warmed (i t : Nat) (xs : List Int) : List Int := if i < xs.length then xs.modify i (fun x => max x t) else xs ++ [(t : Int)]

theorem mem_warmed (i t : Nat) (xs : List Int) : ∃ x ∈ warmed i t xs, (t : Int) ≤ x := by
  unfold warmed
  split
  · next hi =>
    refine ⟨max xs[i] t, List.mem_of_getElem? (i := i) ?_, Int.le_max_right _ _⟩
    rw [List.getElem?_modify, List.getElem?_eq_getElem hi]
    simp
  · exact ⟨t, by simp, le_refl _⟩

theorem hotSensor_form (b : Body) (h i t : Nat) : ∃ w e, b.hotSensor h i t = { b with power := { b.power with west := w, east := e } } ∧
    ∃ x ∈ if h = 0 then w else e, (t : Int) ≤ x := by
  dsimp only [Body.hotSensor]
  by_cases hw : h = 0
  · exact ⟨warmed (b.sensorPlace h i) t b.power.west, b.power.east, by rw [if_pos hw]; rfl, by rw [if_pos hw]; exact mem_warmed _ _ _⟩
  · exact ⟨b.power.west, warmed (b.sensorPlace h i) t b.power.east, by rw [if_neg hw]; rfl, by rw [if_neg hw]; exact mem_warmed _ _ _⟩

/-! ## Units that stop (R65, R195) -/

theorem pitchStop_state (now : Nat) (x : Pitch) : (x.stop now).state = if x.state = .stopped then .stopped else .stopping := by
  unfold Pitch.stop
  cases hs : x.state <;> simp [hs]

theorem engineStop_state (now : Nat) (x : Engine) : (x.stop now false).state = if x.state = .stopping then .stopping else .stopped := by
  unfold Engine.stop Engine.stopped
  cases hs : x.state <;> simp [hs]

/-- A list of a half's pitches names a pitch if it is of that half. -/
theorem unitsOf_contains (h p : Nat) : (unitsOf h).contains p = decide (p / 2 = h) := by
  rw [Bool.eq_iff_iff]
  simp [unitsOf]
  omega

/-- A unit is asked to stop if it is of the half, and the half is not FENCED. -/
theorem asked_iff (b : Body) (h p : Nat) : ((unitsOf h).contains p && !b.fenced (p / 2)) = true ↔ p / 2 = h ∧ b.fenced h = false := by
  rw [unitsOf_contains, Bool.and_eq_true, decide_eq_true_eq, Bool.not_eq_true']
  exact and_congr_right fun hp => by rw [hp]

theorem stopUnits_pitch (b : Body) (h p : Nat) (hp : p < b.pitches.length) : ((b.stopUnits (unitsOf h)).pitch p).state =
    if p / 2 = h ∧ b.fenced h = false ∧ (b.pitch p).state ≠ .stopped then .stopping else (b.pitch p).state := by
  rw [Body.pitch, Body.stopUnits, zipIdx_map_getD, if_pos hp]
  show (if ((unitsOf h).contains p && !b.fenced (p / 2)) = true then (b.pitch p).stop b.clock.now else b.pitch p).state = _
  by_cases hasked : p / 2 = h ∧ b.fenced h = false
  · rw [if_pos ((asked_iff b h p).2 hasked), pitchStop_state]
    by_cases hs : (b.pitch p).state = .stopped <;> simp [hasked, hs]
  · rw [if_neg (mt (asked_iff b h p).1 hasked), if_neg fun hc => hasked ⟨hc.1, hc.2.1⟩]

theorem stopUnits_engine (b : Body) (h e : Nat) (he : e < b.engines.length) : ((b.stopUnits (unitsOf h)).engine e).state =
    if e / 2 = h ∧ b.fenced h = false ∧ (b.engine e).state ≠ .stopping then .stopped else (b.engine e).state := by
  rw [Body.engine, Body.stopUnits, zipIdx_map_getD, if_pos he]
  show (if ((unitsOf h).contains e && !b.fenced (e / 2)) = true then (b.engine e).stop b.clock.now false else b.engine e).state = _
  by_cases hasked : e / 2 = h ∧ b.fenced h = false
  · rw [if_pos ((asked_iff b h e).2 hasked), engineStop_state]
    by_cases hs : (b.engine e).state = .stopping <;> simp [hasked, hs]
  · rw [if_neg (mt (asked_iff b h e).1 hasked), if_neg fun hc => hasked ⟨hc.1, hc.2.1⟩]

/-! ## STOP_C (R286) -/

/-- The units of a half that is stopped for heat, the half marked. -/
def overheated (b : Body) (h : Nat) : Body :=
  { b.stopUnits (unitsOf h) with power := { b.power with hotStopped := h :: b.power.hotStopped } }

/-- A sensor that is not excluded is hot; its half stops if it has not. -/
theorem dieOvertemp_in (b : Body) (h i : Nat) (hin : b.sensorOut h i = false) : b.dieOvertemp h i =
    if (b.hotSensor h i b.book.tables.power.stopC).sensorOut h i ||
        (b.hotSensor h i b.book.tables.power.stopC).power.hotStopped.contains h then b.hotSensor h i b.book.tables.power.stopC
      else (overheated (b.hotSensor h i b.book.tables.power.stopC) h).raise tHalf h .contained kDieOvertemp i := by
  unfold Body.dieOvertemp
  rw [hin]
  rfl

theorem dieOvertemp_first (b : Body) (h i : Nat) (hin : b.sensorOut h i = false) (hnew : h ∉ b.power.hotStopped) : ∃ w e,
    b.dieOvertemp h i = (overheated { b with power := { b.power with west := w, east := e } } h).raise tHalf h .contained kDieOvertemp i ∧
    ∃ x ∈ if h = 0 then w else e, (b.book.tables.power.stopC : Int) ≤ x := by
  obtain ⟨w, e, hform, hhot⟩ := hotSensor_form b h i b.book.tables.power.stopC
  have hcond : ¬(Body.sensorOut { b with power := { b.power with west := w, east := e } } h i ||
      b.power.hotStopped.contains h) = true := by
    show ¬(b.sensorOut h i || b.power.hotStopped.contains h) = true
    simp [hin, hnew]
  refine ⟨w, e, ?_, hhot⟩
  rw [dieOvertemp_in b h i hin, hform]
  exact if_neg hcond

theorem dieOvertemp_again (b : Body) (h i : Nat) (hin : b.sensorOut h i = false) (hold : h ∈ b.power.hotStopped) : ∃ w e,
    b.dieOvertemp h i = { b with power := { b.power with west := w, east := e } } ∧
    ∃ x ∈ if h = 0 then w else e, (b.book.tables.power.stopC : Int) ≤ x := by
  obtain ⟨w, e, hform, hhot⟩ := hotSensor_form b h i b.book.tables.power.stopC
  have hcond : (Body.sensorOut { b with power := { b.power with west := w, east := e } } h i ||
      b.power.hotStopped.contains h) = true := by simp [hold]
  refine ⟨w, e, ?_, hhot⟩
  rw [dieOvertemp_in b h i hin, hform]
  exact if_pos hcond

theorem pageSlot_half (h : Nat) (hh : h < 2) : ∃ n, pageSlot tHalf h = some n := by
  interval_cases h <;> exact ⟨_, rfl⟩

theorem half_stops (s : State) (h i : Nat) (hh : h < 2) (hin : s.body.sensorOut h i = false) (hnew : h ∉ s.body.power.hotStopped) :
    ∃ t : State, exec (.dieOvertemp h i) s = .next t ∧ t.vault = s.vault ∧ t.pending = s.pending ∧
    (∀ p, p < s.body.pitches.length → (t.body.pitch p).state =
      if p / 2 = h ∧ s.body.fenced h = false ∧ (s.body.pitch p).state ≠ .stopped then .stopping else (s.body.pitch p).state) ∧
    (∀ e, e < s.body.engines.length → (t.body.engine e).state =
      if e / 2 = h ∧ s.body.fenced h = false ∧ (s.body.engine e).state ≠ .stopping then .stopped else (s.body.engine e).state) ∧
    t.body.power = { s.body.power with west := t.body.power.west, east := t.body.power.east, hotStopped := h :: s.body.power.hotStopped } ∧
    (∃ x ∈ if h = 0 then t.body.power.west else t.body.power.east, (s.body.book.tables.power.stopC : Int) ≤ x) ∧
    t.body = ({ s.body with power := t.body.power, pitches := t.body.pitches, engines := t.body.engines } : Body).raise
      tHalf h .contained kDieOvertemp i := by
  obtain ⟨w, e, hform, hhot⟩ := dieOvertemp_first s.body h i hin hnew
  obtain ⟨n, hslot⟩ := pageSlot_half h hh
  obtain ⟨ps, wh, mf, sc, dv, hraise⟩ := raise_contained_form (overheated { s.body with power := { s.body.power with west := w, east := e } } h)
    tHalf h kDieOvertemp i n hslot
  have hpower : (s.body.dieOvertemp h i).power =
      { s.body.power with west := w, east := e, hotStopped := h :: s.body.power.hotStopped } := by rw [hform, hraise]; rfl
  have hpitches : (s.body.dieOvertemp h i).pitches = (s.body.stopUnits (unitsOf h)).pitches := by rw [hform, hraise]; rfl
  have hengines : (s.body.dieOvertemp h i).engines = (s.body.stopUnits (unitsOf h)).engines := by rw [hform, hraise]; rfl
  refine ⟨_, exec_dieOvertemp s h i hh, rfl, rfl, fun p hp => ?_, fun e he => ?_, ?_, ?_, ?_⟩
  · rw [Body.pitch, hpitches]
    exact stopUnits_pitch s.body h p hp
  · rw [Body.engine, hengines]
    exact stopUnits_engine s.body h e he
  · dsimp only
    rw [hpower]
  · dsimp only
    rw [hpower]
    exact hhot
  · dsimp only
    rw [hpower, hpitches, hengines, hform]
    rfl

theorem half_staysStopped (s : State) (h i : Nat) (hh : h < 2) (hin : s.body.sensorOut h i = false) (hold : h ∈ s.body.power.hotStopped) :
    ∃ t : State, exec (.dieOvertemp h i) s = .next t ∧ t = { s with body := { s.body with power := { s.body.power with
      west := t.body.power.west, east := t.body.power.east } } } ∧
    (∃ x ∈ if h = 0 then t.body.power.west else t.body.power.east, (s.body.book.tables.power.stopC : Int) ≤ x) := by
  obtain ⟨w, e, hform, hhot⟩ := dieOvertemp_again s.body h i hin hold
  refine ⟨_, exec_dieOvertemp s h i hh, ?_⟩
  rw [hform]
  exact ⟨rfl, hhot⟩

/-- R399: an excluded sensor neither stops a half nor trips it. -/
theorem excluded_ignored (s : State) (h i : Nat) (hh : h < 2) (hout : s.body.sensorOut h i = true) :
    exec (.dieOvertemp h i) s = .next s ∧ exec (.dieOvertrip h i) s = .next s := by
  have htemp : s.body.dieOvertemp h i = s.body := by
    unfold Body.dieOvertemp
    rw [if_pos hout]
    exact if_pos (by rw [hout]; rfl)
  have htrip : s.body.dieOvertrip h i = s.body := if_pos hout
  rw [exec_dieOvertemp s h i hh, exec_dieOvertrip s h i hh, htemp, htrip]
  exact ⟨rfl, rfl⟩

/-! ## The resume (R67, R196, R286) -/

/-- Once it is no longer hot a half resumes; which of its units do is for `resumable` to say. -/
theorem overtempResume_warm (b : Body) (h : Nat) (hold : h ∈ b.power.hotStopped) (hcool : b.halfWarm h = false) : b.overtempResume h =
    ({ b with power := { b.power with hotStopped := b.power.hotStopped.filter (· != h) } } : Body).resumeUnits
      ((unitsOf h).filter b.resumable) := by
  have hcond : (b.power.hotStopped.contains h && !b.halfWarm h) = true := by simp [hold, hcool]
  exact if_pos hcond

theorem resumed_iff (b : Body) (h p : Nat) (hp : p / 2 = h) :
    (((unitsOf h).filter b.resumable).contains p && !(b.power.hotStopped.filter (· != h)).contains (p / 2)) = b.resumable p := by
  have hmem : p ∈ unitsOf h := by simpa [hp] using unitsOf_contains h p
  rw [Bool.eq_iff_iff]
  simp [hmem, hp]

/-- What a resume makes of a pitch. -/
def resumedPitch (x : Pitch) (go busy : Bool) : Pitch :=
  { (if go then x.resumed else x) with state := nextState (if go then x.resumed else x).state busy }

/-- What a resume makes of a Vector Engine. -/
def resumedEngine (x : Engine) (go busy : Bool) : Engine :=
  { (if go then x.resumed else x) with state := nextState (if go then x.resumed else x).state busy }

theorem resumeUnits_pitch (b : Body) (is_ : List Nat) (i : Nat) : ∃ busy, (b.resumeUnits is_).pitch i = if i < b.pitches.length
    then resumedPitch (b.pitch i) (is_.contains i && !b.power.hotStopped.contains (i / 2)) busy else Pitch.reset := by
  refine ⟨b.parts.any (·.busyPitch i), ?_⟩
  unfold Body.resumeUnits Body.refreshUnits Body.pitch
  dsimp only
  rw [zipIdx_map_getD, zipIdx_map_getD, List.length_map, List.length_zipIdx]
  split <;> rfl

theorem resumeUnits_engine (b : Body) (is_ : List Nat) (i : Nat) : ∃ busy, (b.resumeUnits is_).engine i = if i < b.engines.length
    then resumedEngine (b.engine i) (is_.contains i && !b.power.hotStopped.contains (i / 2)) busy else Engine.reset := by
  refine ⟨b.parts.any (·.busyEngine i), ?_⟩
  unfold Body.resumeUnits Body.refreshUnits Body.engine
  dsimp only
  rw [zipIdx_map_getD, zipIdx_map_getD, List.length_map, List.length_zipIdx]
  split <;> rfl

/-- A unit that resumes and does not flush is neither STOPPED nor STOPPING. -/
theorem nextState_idle (busy : Bool) : nextState .idle busy ≠ .stopped ∧ nextState .idle busy ≠ .stopping := by
  cases busy <;> exact ⟨by decide, by decide⟩

theorem resumedPitch_goes (x : Pitch) (busy : Bool) (h : x.state ≠ .stopping) :
    (resumedPitch x true busy).state ≠ .stopped ∧ (resumedPitch x true busy).state ≠ .stopping := by
  have hidle : x.resumed.state = .idle := by
    unfold Pitch.resumed
    split
    · next hs => exact absurd hs h
    · rfl
  show nextState x.resumed.state busy ≠ .stopped ∧ nextState x.resumed.state busy ≠ .stopping
  rw [hidle]
  exact nextState_idle busy

theorem resumedPitch_flushes (x : Pitch) (busy : Bool) (h : x.state = .stopping) :
    (resumedPitch x true busy).state = .stopping ∧ (resumedPitch x true busy).resume = true := by
  simp [resumedPitch, Pitch.resumed, h, nextState]

theorem resumedEngine_goes (x : Engine) (busy : Bool) (h : x.state ≠ .stopping) :
    (resumedEngine x true busy).state ≠ .stopped ∧ (resumedEngine x true busy).state ≠ .stopping := by
  have hidle : x.resumed.state = .idle := by
    unfold Engine.resumed
    split
    · next hs => exact absurd hs h
    · rfl
  show nextState x.resumed.state busy ≠ .stopped ∧ nextState x.resumed.state busy ≠ .stopping
  rw [hidle]
  exact nextState_idle busy

/-- The pitches of a half that has cooled down. -/
theorem overtempResume_pitch (b : Body) (h p : Nat) (hold : h ∈ b.power.hotStopped) (hcool : b.halfWarm h = false) (hp : p / 2 = h) :
    ∃ busy, (b.overtempResume h).pitch p = if p < b.pitches.length then resumedPitch (b.pitch p) (b.resumable p) busy else Pitch.reset := by
  rw [overtempResume_warm b h hold hcool, ← resumed_iff b h p hp]
  exact resumeUnits_pitch _ _ _

/-- Its Vector Engines. -/
theorem overtempResume_engine (b : Body) (h e : Nat) (hold : h ∈ b.power.hotStopped) (hcool : b.halfWarm h = false) (he : e / 2 = h) :
    ∃ busy, (b.overtempResume h).engine e = if e < b.engines.length then resumedEngine (b.engine e) (b.resumable e) busy
      else Engine.reset := by
  rw [overtempResume_warm b h hold hcool, ← resumed_iff b h e he]
  exact resumeUnits_engine _ _ _

theorem half_resumes (s : State) (h : Nat) (hh : h < 2) (hold : h ∈ s.body.power.hotStopped) (hcool : s.body.halfWarm h = false) :
    ∃ t : State, exec (.dieOvertempResume h) s = .next t ∧ t.vault = s.vault ∧ t.pending = s.pending ∧
    t.body.power = { s.body.power with hotStopped := s.body.power.hotStopped.filter (· != h) } ∧
    (∀ p, p / 2 = h → s.body.resumable p = true → (s.body.pitch p).state ≠ .stopping →
      (t.body.pitch p).state ≠ .stopped ∧ (t.body.pitch p).state ≠ .stopping) ∧
    (∀ p, p / 2 = h → s.body.resumable p = true → (s.body.pitch p).state = .stopping →
      (t.body.pitch p).state = .stopping ∧ (t.body.pitch p).resume = true) ∧
    (∀ p, p / 2 = h → s.body.resumable p = true → (s.body.engine p).state ≠ .stopping →
      (t.body.engine p).state ≠ .stopped ∧ (t.body.engine p).state ≠ .stopping) ∧
    (∀ p, p / 2 = h → s.body.resumable p = false → (s.body.pitch p).state = .stopped → (t.body.pitch p).state = .stopped) ∧
    t.body = { s.body with power := t.body.power, pitches := t.body.pitches, engines := t.body.engines } := by
  have hpitch := fun p => overtempResume_pitch s.body h p hold hcool
  have hengine := fun e => overtempResume_engine s.body h e hold hcool
  have hlen : ∀ p, (s.body.pitch p).state ≠ .idle → p < s.body.pitches.length := fun p hp => by
    by_contra hout
    exact hp (by rw [Body.pitch, List.getD_eq_default _ _ (Nat.le_of_not_lt hout)]; rfl)
  refine ⟨_, exec_dieOvertempResume s h hh, rfl, rfl, ?_, fun p hp hr hs => ?_, fun p hp hr hs => ?_, fun p hp hr hs => ?_,
    fun p hp hr hs => ?_, ?_⟩
  · rw [overtempResume_warm s.body h hold hcool]
    rfl
  · obtain ⟨busy, hform⟩ := hpitch p hp
    dsimp only
    rw [hform, hr]
    split
    · exact resumedPitch_goes _ busy hs
    · exact ⟨by decide, by decide⟩
  · obtain ⟨busy, hform⟩ := hpitch p hp
    dsimp only
    rw [hform, hr, if_pos (hlen p (by rw [hs]; decide))]
    exact resumedPitch_flushes _ busy hs
  · obtain ⟨busy, hform⟩ := hengine p hp
    dsimp only
    rw [hform, hr]
    split
    · exact resumedEngine_goes _ busy hs
    · exact ⟨by decide, by decide⟩
  · obtain ⟨busy, hform⟩ := hpitch p hp
    dsimp only
    rw [hform, hr, if_pos (hlen p (by rw [hs]; decide))]
    show nextState (s.body.pitch p).state busy = .stopped
    rw [hs]
    rfl
  · rw [overtempResume_warm s.body h hold hcool]
    rfl

/-- A half that was not stopped for heat, or is still warm, does not resume. -/
theorem half_waits (s : State) (h : Nat) (hh : h < 2) (hno : h ∉ s.body.power.hotStopped ∨ s.body.halfWarm h = true) :
    exec (.dieOvertempResume h) s = .next s := by
  have hcond : ¬(s.body.power.hotStopped.contains h && !s.body.halfWarm h) = true := by
    rcases hno with hno | hno <;> simp [hno]
  have hstays : s.body.overtempResume h = s.body := if_neg hcond
  rw [exec_dieOvertempResume s h hh, hstays]

/-! ## TRIP_C (R286, R339 to R341, R255) -/

theorem latchMessage_form (b : Body) (m : Word64) (cls : FaultClass) : ∃ ps wh mf,
    b.latchMessage m cls = { b with whistle := { b.whistle with pages := ps, wh := wh, moduleFirst := mf } } := by
  unfold Body.latchMessage Whistle.first
  rw [alterPage_form]
  exact ⟨_, _, _, rfl⟩

/-- Links of a half, FENCED from a moment on. -/
def fencedLinks (b : Body) (h : Nat) : List Link := b.net.links.zipIdx.map (fun (l, i) => if i / 24 = h then l.fence b.clock.now else l)

/-- The halves, one of them with its fatal sequence begun. -/
def fatalFrom (b : Body) (m : Word64) (h : Nat) : List HalfState :=
  alter h (fun x => { x with fatal := some ⟨b.clock.now, m, false⟩ }) b.whistle.halves

/-- Table 14.6: a half that is not in the sequence begins it. -/
theorem startFatal_form (b : Body) (m : Word64) (h : Nat) (hfirst : (b.half h).fatal = none) (hfree : b.fenced h = false) : ∃ ps,
    b.startFatal m h = { b with whistle := { b.whistle with pages := ps, halves := fatalFrom b m h },
                                net := { b.net with links := fencedLinks b h } } := by
  have hbegins : ¬((b.half h).fatal.isSome || b.fenced h) = true := by simp [hfirst, hfree]
  rw [Body.startFatal, if_neg hbegins]
  exact ⟨_, rfl⟩

/-- A fatal message that names such a half begins its sequence. -/
theorem fatalMessage_half (b : Body) (m : Word64) (h : Nat) (hnames : b.fatalHalves (msgType m) (msgInst m) = [h])
    (hfirst : (b.half h).fatal = none) (hfree : b.fenced h = false) : ∃ ps wh mf, b.fatalMessage m = { b with
    whistle := { b.whistle with pages := ps, wh := wh, moduleFirst := mf, halves := fatalFrom b m h },
    net := { b.net with links := fencedLinks b h } } := by
  obtain ⟨ps, wh, mf, hlatch⟩ := latchMessage_form b m .fatal
  have hbegins : ¬([h].all fun h => (b.half h).fatal.isSome || b.fenced h) = true := by simp [hfirst, hfree]
  have hsent := alterPage_form { b.whistle with pages := ps, wh := wh, moduleFirst := mf } (msgType m) (msgInst m)
    (fun p => { p with sent := m :: p.sent })
  generalize (Whistle.alterPage { b.whistle with pages := ps, wh := wh, moduleFirst := mf } (msgType m) (msgInst m)
    (fun p => { p with sent := m :: p.sent })).pages = ps' at hsent
  obtain ⟨ps'', hstart⟩ := startFatal_form { b with whistle := { b.whistle with pages := ps', wh := wh, moduleFirst := mf } } m h
    hfirst hfree
  unfold Body.fatalMessage
  rw [hnames, hlatch]
  dsimp only
  rw [if_neg (by exact hbegins), hsent]
  exact ⟨ps'', wh, mf, hstart⟩

/-- A half's own message names it alone. -/
theorem fatalHalves_half (b : Body) (h : Nat) (hh : h < 2) : b.fatalHalves tHalf h = [h] := by
  interval_cases h <;> rfl

/-- At TRIP_C the sensor's half begins its fatal sequence. -/
theorem dieOvertrip_form (b : Body) (h i : Nat) (hh : h < 2) (hin : b.sensorOut h i = false) (hfirst : (b.half h).fatal = none)
    (hfree : b.fenced h = false) : ∃ w e ps wh mf, b.dieOvertrip h i = { b with
      power := { b.power with west := w, east := e },
      whistle := { b.whistle with pages := ps, wh := wh, moduleFirst := mf,
                                  halves := fatalFrom b (faultWord tHalf h .fatal false false kDieOvertrip i) h },
      net := { b.net with links := fencedLinks b h } } ∧ ∃ x ∈ if h = 0 then w else e, (b.book.tables.power.tripC : Int) ≤ x := by
  obtain ⟨w, e, hform, hhot⟩ := hotSensor_form b h i b.book.tables.power.tripC
  obtain ⟨n, hslot⟩ := pageSlot_half h hh
  obtain ⟨ht, hi⟩ := pageSlot_bounds tHalf h n hslot
  obtain ⟨ps, wh, mf, hfatal⟩ := fatalMessage_half { b with power := { b.power with west := w, east := e } }
    (faultWord tHalf h .fatal false false kDieOvertrip i) h
    (by rw [msgType_faultWord _ _ _ _ _ _ _ ht hi, msgInst_faultWord _ _ _ _ _ _ _ ht hi]; exact fatalHalves_half _ h hh) hfirst hfree
  refine ⟨w, e, ps, wh, mf, ?_, hhot⟩
  rw [Body.dieOvertrip, if_neg (by rw [hin]; decide), hform, raise_fatal _ tHalf h _ _ n ht hi hslot, hfatal]
  rfl

theorem half_trips (s : State) (h i : Nat) (hh : h < 2) (hin : s.body.sensorOut h i = false) (hfirst : (s.body.half h).fatal = none)
    (hfree : s.body.fenced h = false) (hlen : h < s.body.whistle.halves.length) : ∃ t : State,
    exec (.dieOvertrip h i) s = .next t ∧ t.vault = s.vault ∧ t.pending = s.pending ∧
    (t.body.half h).fatal = some ⟨s.body.clock.now, faultWord tHalf h .fatal false false kDieOvertrip i, false⟩ ∧
    (∀ l, l < s.body.net.links.length → l / 24 = h → (t.body.link l).state = .fenced) ∧
    t.body = { s.body with power := t.body.power, whistle := t.body.whistle, net := t.body.net } ∧
    t.body.power = { s.body.power with west := t.body.power.west, east := t.body.power.east } ∧
    (∃ x ∈ if h = 0 then t.body.power.west else t.body.power.east, (s.body.book.tables.power.tripC : Int) ≤ x) := by
  obtain ⟨w, e, ps, wh, mf, hform, hhot⟩ := dieOvertrip_form s.body h i hh hin hfirst hfree
  refine ⟨_, exec_dieOvertrip s h i hh, ?_⟩
  dsimp only
  rw [hform]
  refine ⟨rfl, rfl, ?_, fun l hl hhalf => ?_, rfl, rfl, hhot⟩
  · rw [Body.half, fatalFrom, alter_getD, if_pos ⟨rfl, hlen⟩]
  · rw [Body.link, fencedLinks, zipIdx_map_getD, if_pos hl]
    dsimp only
    rw [if_pos hhalf]
    rfl

end Sys2Proof.Proofs
end

section
/-!
PROOFS. Stack temperatures (09, R225, R226, Table 9.15): the level that follows a temperature, drift retrains, and SHUTDOWN.
-/

namespace Sys2Proof.Proofs

open Sys2Proof Sys2Proof.Machine Sys2Proof.Laws

theorem exec_stackThermalChange (s : State) (k : Nat) (c : Int) (sd : Bool) (hk : k < 12) :
    exec (.stackThermalChange k c sd) s = .next { s with body := s.body.thermalChange s.vault k c sd } :=
  onBody_of _ s (fun b => b.thermalChange s.vault k c sd) (decide_eq_true hk)

/-! ## The level (Table 9.15) -/

/-- Table 9.15: a level is entered at its threshold, and left 3 °C below it. -/
theorem nextLevel_eq (t : InfieldThermal) (l : ThermalLevel) (c : Int) (hl : l ≠ .shutdown) : nextLevel t l c =
    if (t.critC : Int) ≤ c ∨ (l = .critical ∧ (t.critC : Int) - 3 < c) then .critical
    else if (t.hotC : Int) ≤ c ∨ (l ≠ .normal ∧ (t.hotC : Int) - 3 < c) then .hot else .normal := by
  have hkeep : ∀ x : Int, (x ≤ c ∨ x - 3 < c) ↔ x - 3 < c := fun x => by omega
  cases l with
  | shutdown => exact absurd rfl hl
  | critical => simp [nextLevel, hkeep]
  | hot => simp [nextLevel, hkeep]
  | normal => simp [nextLevel]

/-- No temperature by itself shuts a stack down. -/
theorem nextLevel_ne_shutdown (t : InfieldThermal) (l : ThermalLevel) (c : Int) (hl : l ≠ .shutdown) : nextLevel t l c ≠ .shutdown := by
  rw [nextLevel_eq t l c hl]
  split
  · decide
  · split <;> decide

/-- The stack's temperature and level are written, and the hottest is kept. -/
def atTemperature (b : Body) (k : Nat) (c : Int) (l : ThermalLevel) : Body :=
  { b with store := { b.store with
    hotAt := keepHot b.clock.now (b.store.stackCtl.map (·.temp)) b.store.hotAt,
    stackCtl := alter k (fun m => { m with temp := c, level := l }) b.store.stackCtl } }

/-- The level of a stack. -/
def levelOf (b : Body) (k : Nat) : ThermalLevel := (b.store.stackCtl.getD k MemCtl.reset).level

/-- With a record of the change, if it is one. -/
def recordedAt (b : Body) (k : Nat) (c : Int) (l : ThermalLevel) : Body :=
  if l = levelOf b k then atTemperature b k c l else (atTemperature b k c l).record recThermal (tStack * 64 + k) 0 [k, l.code]

theorem recordedAt_form (b : Body) (k : Nat) (c : Int) (l : ThermalLevel) : recordedAt b k c l = { atTemperature b k c l with
    score := if l = levelOf b k then b.score else (b.record recThermal (tStack * 64 + k) 0 [k, l.code]).score } := by
  unfold recordedAt
  split <;> rfl

theorem thermalChange_eq (v : Vault) (b : Body) (k : Nat) (c : Int) (sd : Bool) (l : ThermalLevel) (hfree : b.fenced (k / 6) = false)
    (hl : (if sd then .shutdown else nextLevel b.book.tables.thermal (levelOf b k) c) = l) : b.thermalChange v k c sd =
      if l = .shutdown then (if levelOf b k = .shutdown then recordedAt b k c l else (recordedAt b k c l).stackDown v k)
      else (recordedAt b k c l).driftRetrains k c := by
  subst hl
  unfold Body.thermalChange
  rw [if_neg (by rw [hfree]; decide)]
  rfl

/-! ## Drift (R223) -/

/-- From `b` to `c` channels and requests for retrains have changed, and no more. -/
def Tended (b c : Body) : Prop := ∃ cs q, c = { b with store := { b.store with channels := cs, retrainQueue := q } }

theorem Tended.refl (b : Body) : Tended b b := ⟨_, _, rfl⟩

theorem Tended.trans {b c d : Body} : Tended b c → Tended c d → Tended b d := by
  rintro ⟨_, _, rfl⟩ ⟨_, _, rfl⟩
  exact ⟨_, _, rfl⟩

theorem alterChan_tended (b : Body) (n : Nat) (f : Channel → Channel) (hn : n < 384) : Tended b (b.alterChan n f) := by
  rw [alterChan_infield b n f hn]
  exact ⟨_, _, rfl⟩

theorem askRetrain_tended (b : Body) (n : Nat) (urgent : Bool) : Tended b (b.askRetrain n urgent) := by
  unfold Body.askRetrain
  split
  · exact .refl b
  · exact ⟨_, _, rfl⟩

theorem tended_foldl (f : Body → Nat → Body) (ns : List Nat) (b : Body) (hf : ∀ b, ∀ n ∈ ns, Tended b (f b n)) :
    Tended b (ns.foldl f b) := by
  induction ns generalizing b with
  | nil => exact .refl b
  | cons n ns ih => exact (hf b n List.mem_cons_self).trans (ih _ fun b m hm => hf b m (List.mem_cons_of_mem _ hm))

/-- Channels of an infield stack. -/
theorem mem_stackChannels (k n : Nat) : n ∈ List.range' (32 * k) 32 ↔ 32 * k ≤ n ∧ n < 32 * k + 32 := List.mem_range'_1

theorem driftRetrains_tended (b : Body) (k : Nat) (c : Int) (hk : k < 12) : Tended b (b.driftRetrains k c) := by
  refine tended_foldl _ _ b fun b n hn => ?_
  have hn := (mem_stackChannels k n).1 hn
  split
  · split
    · exact askRetrain_tended b n false
    · exact .refl b
  · exact alterChan_tended b n _ (by omega)

theorem stack_warms (s : State) (k : Nat) (c : Int) (l : ThermalLevel) (hk : k < 12) (_ : k < s.body.store.stackCtl.length)
    (hfree : s.body.fenced (k / 6) = false) (hup : (s.body.store.stackCtl.getD k MemCtl.reset).level ≠ .shutdown)
    (hl : l = (if (s.body.book.tables.thermal.critC : Int) ≤ c ∨ ((s.body.store.stackCtl.getD k MemCtl.reset).level = .critical ∧
        (s.body.book.tables.thermal.critC : Int) - 3 < c) then .critical
      else if (s.body.book.tables.thermal.hotC : Int) ≤ c ∨ ((s.body.store.stackCtl.getD k MemCtl.reset).level ≠ .normal ∧
        (s.body.book.tables.thermal.hotC : Int) - 3 < c) then .hot else .normal)) : ∃ t : State,
    exec (.stackThermalChange k c false) s = .next t ∧ t.vault = s.vault ∧ t.pending = s.pending ∧
    t.body.store.stackCtl = alter k (fun m => { m with temp := c, level := l }) s.body.store.stackCtl ∧
    t.body.store.cells = s.body.store.cells ∧
    t.body.score = (if l = (s.body.store.stackCtl.getD k MemCtl.reset).level then s.body.score
      else (s.body.record recThermal (tStack * 64 + k) 0 [k, l.code]).score) ∧
    t.body = { s.body with store := t.body.store, score := t.body.score } := by
  have hnext : nextLevel s.body.book.tables.thermal (levelOf s.body k) c = l := (nextLevel_eq _ _ c hup).trans hl.symm
  have hnotDown : l ≠ .shutdown := hnext ▸ nextLevel_ne_shutdown _ _ c hup
  obtain ⟨cs, q, hdrift⟩ := driftRetrains_tended (recordedAt s.body k c l) k c hk
  refine ⟨_, exec_stackThermalChange s k c false hk, rfl, rfl, ?_⟩
  dsimp only
  rw [thermalChange_eq s.vault s.body k c false l hfree hnext, if_neg hnotDown, hdrift, recordedAt_form]
  exact ⟨rfl, rfl, rfl, rfl⟩

/-! ## SHUTDOWN (R226) -/

/-- A channel fails, whether it trained or not. -/
def failedChannel (x : Channel) : Channel := { x with retraining := false, failed := true }

/-- A channel that has failed, and does not train. -/
def OutOfService (x : Channel) : Prop := x.failed = true ∧ x.retraining = false

/-- A channel of a stack in SHUTDOWN fails, and a retrain of it that a command waits for ends. -/
def channelDown (v : Vault) (b : Body) (n : Nat) : Body :=
  if (b.store.chan n).retraining then
    (b.alterChan n failedChannel).endRetrain v n stFailed kStackShutdown (b.store.chan n).attempts
  else b.alterChan n failedChannel

/-- The module with other infield channels. -/
def withChannels (b : Body) (cs : List Channel) : Body := { b with store := { b.store with channels := cs } }

theorem channelDown_eq (v : Vault) (b : Body) (n : Nat) (hn : n < 384) (hidle : b.active = []) : channelDown v b n =
    withChannels b (alter n failedChannel b.store.channels) := by
  unfold channelDown
  rw [alterChan_infield b n _ hn, endRetrain_idle _ v n _ _ _ (by exact hidle), ite_self, withChannels]

theorem channelsDown (v : Vault) (ns : List Nat) (b : Body) (hns : ∀ n ∈ ns, n < 384) (hidle : b.active = []) : ∃ cs,
    ns.foldl (channelDown v) b = withChannels b cs ∧
    ∀ n, n < b.store.channels.length → (n ∈ ns ∨ OutOfService (b.store.channels.getD n Channel.reset)) →
      OutOfService (cs.getD n Channel.reset) := by
  induction ns generalizing b with
  | nil => exact ⟨b.store.channels, rfl, fun n _ h => h.resolve_left List.not_mem_nil⟩
  | cons m ns ih =>
    rw [List.foldl_cons, channelDown_eq v b m (hns m List.mem_cons_self) hidle]
    obtain ⟨cs, hform, hdown⟩ := ih (withChannels b (alter m failedChannel b.store.channels))
      (fun n hn => hns n (List.mem_cons_of_mem _ hn)) hidle
    refine ⟨cs, hform, fun n hlen h => hdown n ((alter_length m failedChannel _).symm ▸ hlen) ?_⟩
    show n ∈ ns ∨ OutOfService ((alter m failedChannel b.store.channels).getD n Channel.reset)
    rw [alter_getD]
    by_cases hn : m = n
    · exact .inr (by rw [if_pos ⟨hn, hlen⟩]; exact ⟨rfl, rfl⟩)
    · rw [if_neg fun hc => hn hc.1]
      exact h.imp_left fun hmem => (List.mem_cons.1 hmem).resolve_left fun he => hn he.symm

theorem stackDown_eq (b : Body) (v : Vault) (k : Nat) : b.stackDown v k =
    ((List.range' (32 * k) 32).foldl (channelDown v) b).raise tStack k .contained kStackShutdown 0 := rfl

theorem pageSlot_stack (k : Nat) (hk : k < 12) : ∃ n, pageSlot tStack k = some n ∧ n < 96 := by
  interval_cases k <;> exact ⟨_, rfl, by decide⟩

theorem noteFault_whistle (b : Body) (m : Word64) : (b.noteFault m).whistle = b.whistle := by
  obtain ⟨dv, hform⟩ := noteFault_form b m
  rw [hform]

/-- R335, R337: a contained message stands on its source's page until it is handled. -/
theorem contained_pages (b : Body) (m : Word64) (n : Nat) (hs : pageSlot (msgType m) (msgInst m) = some n) :
    ∃ f : FaultPage → FaultPage, (b.contained m).whistle.pages = alter n f b.whistle.pages ∧ ∀ p, m ∈ (f p).unhandled := by
  unfold Body.contained
  dsimp only
  rw [noteFault_whistle]
  simp only [Body.record, Whistle.alterWh, Body.latchMessage, Whistle.first, Whistle.alterPage, hs, alter_alter]
  exact ⟨_, rfl, fun p => List.mem_append_right _ List.mem_cons_self⟩

theorem raise_contained_unhandled (b : Body) (ty i k a n : Nat) (hs : pageSlot ty i = some n) (hn : n < b.whistle.pages.length) :
    faultWord ty i .contained false false k a ∈ ((b.raise ty i .contained k a).page ty i).unhandled := by
  obtain ⟨ht, hi⟩ := pageSlot_bounds ty i n hs
  obtain ⟨f, hpages, hmem⟩ := contained_pages b (faultWord ty i .contained false false k a) n
    (by rw [msgType_faultWord _ _ _ _ _ _ _ ht hi, msgInst_faultWord _ _ _ _ _ _ _ ht hi]; exact hs)
  rw [raise_contained b ty i k a n ht hi hs, Body.page, hs]
  dsimp only
  rw [hpages, alter_getD, if_pos ⟨rfl, hn⟩]
  exact hmem _

theorem stack_shutsDown (s : State) (k : Nat) (c : Int) (hk : k < 12) (_ : k < s.body.store.stackCtl.length)
    (hfree : s.body.fenced (k / 6) = false) (hup : (s.body.store.stackCtl.getD k MemCtl.reset).level ≠ .shutdown)
    (hidle : s.body.active = []) (hpages : s.body.whistle.pages.length = 96) : ∃ t : State,
    exec (.stackThermalChange k c true) s = .next t ∧ t.vault = s.vault ∧ t.pending = s.pending ∧
    t.body.store.stackCtl = alter k (fun m => { m with temp := c, level := .shutdown }) s.body.store.stackCtl ∧
    t.body.store.cells = s.body.store.cells ∧
    (∀ n, 32 * k ≤ n → n < 32 * k + 32 → n < s.body.store.channels.length →
      (t.body.store.channels.getD n Channel.reset).failed = true ∧ (t.body.store.channels.getD n Channel.reset).retraining = false) ∧
    faultWord tStack k .contained false false kStackShutdown 0 ∈ (t.body.page tStack k).unhandled ∧
    t.body = { s.body with store := t.body.store, score := t.body.score, whistle := t.body.whistle, doves := t.body.doves } := by
  obtain ⟨slot, hslot, hbound⟩ := pageSlot_stack k hk
  obtain ⟨cs, hdown, hfailed⟩ := channelsDown s.vault (List.range' (32 * k) 32) (recordedAt s.body k c .shutdown)
    (fun n hn => by have := (mem_stackChannels k n).1 hn; omega) (by rw [recordedAt_form]; exact hidle)
  obtain ⟨ps, wh, mf, sc, dv, hraise⟩ := raise_contained_form
    (withChannels (recordedAt s.body k c .shutdown) cs) tStack k kStackShutdown 0 slot hslot
  have hmessage := raise_contained_unhandled
    (withChannels (recordedAt s.body k c .shutdown) cs) tStack k kStackShutdown 0 slot hslot (by rw [recordedAt_form]; exact hpages.symm ▸ hbound)
  have hdone : s.body.thermalChange s.vault k c true =
      (withChannels (recordedAt s.body k c .shutdown) cs).raise tStack k .contained kStackShutdown 0 := by
    rw [thermalChange_eq s.vault s.body k c true .shutdown hfree rfl, if_pos rfl, if_neg (by exact hup), stackDown_eq, hdown]
  rw [← hdone] at hraise hmessage
  rw [recordedAt_form] at hraise hfailed
  refine ⟨_, exec_stackThermalChange s k c true hk, rfl, rfl, ?_⟩
  dsimp only
  refine ⟨?_, ?_, fun n hlo hhi hlen => ?_, hmessage, ?_⟩
  · rw [hraise]; rfl
  · rw [hraise]; rfl
  · rw [hraise]
    exact hfailed n hlen (.inl ((mem_stackChannels k n).2 ⟨hlo, hhi⟩))
  · rw [hraise]; rfl

/-- R226: SHUTDOWN is not left. -/
theorem stack_staysDown (s : State) (k : Nat) (c : Int) (sd : Bool) (hk : k < 12) (hfree : s.body.fenced (k / 6) = false)
    (hdown : (s.body.store.stackCtl.getD k MemCtl.reset).level = .shutdown) : ∃ t : State,
    exec (.stackThermalChange k c sd) s = .next t ∧ t.body.store.stackCtl =
      alter k (fun m => { m with temp := c, level := .shutdown }) s.body.store.stackCtl ∧
    t = { s with body := { s.body with store := { s.body.store with stackCtl := t.body.store.stackCtl, hotAt := t.body.store.hotAt } } } := by
  have hlevel : levelOf s.body k = .shutdown := hdown
  have hnext : (if sd then .shutdown else nextLevel s.body.book.tables.thermal (levelOf s.body k) c) = ThermalLevel.shutdown := by
    rw [hlevel]
    exact ite_self _
  have hdone : s.body.thermalChange s.vault k c sd = atTemperature s.body k c .shutdown := by
    rw [thermalChange_eq s.vault s.body k c sd .shutdown hfree hnext, if_pos rfl, if_pos hlevel, recordedAt, if_pos hlevel.symm]
  refine ⟨_, exec_stackThermalChange s k c sd hk, ?_⟩
  rw [hdone]
  exact ⟨rfl, rfl⟩

/-- R228: a FENCED half's stacks hold. -/
theorem stack_holds (s : State) (k : Nat) (c : Int) (sd : Bool) (hk : k < 12) (hfenced : s.body.fenced (k / 6) = true) :
    exec (.stackThermalChange k c sd) s = .next s := by
  have hstays : s.body.thermalChange s.vault k c sd = s.body := if_pos hfenced
  rw [exec_stackThermalChange s k c sd hk, hstays]

/-- Settles O33: each row of droops, die sensors and stack temperatures, from the form that its operation gives the body. -/
theorem droopAndHeat : Obligations.DroopAndHeat := by
  refine ⟨fun s => ?_, fun s => ?_, fun s n hw => ?_, fun s n he => ?_, fun s n hw => ?_, fun s n he => ?_, half_stops, half_staysStopped,
    excluded_ignored, half_resumes, half_waits, half_trips, stack_warms, stack_shutsDown, stack_staysDown, stack_holds⟩
  · rw [exec_droopDetected s 0 (by decide), droopDetected_west]
  · rw [exec_droopDetected s 1 (by decide), droopDetected_east]
  · rw [exec_droopRelease s 0 n (by decide), droopRelease_west, if_pos hw]
  · rw [exec_droopRelease s 1 n (by decide), droopRelease_east, if_pos he]
  · rw [exec_droopRelease s 0 n (by decide), droopRelease_west, if_neg (by rw [hw]; decide)]
  · rw [exec_droopRelease s 1 n (by decide), droopRelease_east, if_neg (by rw [he]; decide)]

end Sys2Proof.Proofs
end

section
/-!
PROOFS. Dovecote slots that the host and the management channel reach (11, R281; 12, R300, R301, R303 to R306, Table 12.3).
-/

namespace Sys2Proof.Proofs

open Sys2Proof Sys2Proof.Machine Sys2Proof.Laws

/-! ## Writes and reads by a slot's own agents (R301, R303) -/

theorem writeSlot_empty (b : Body) (k domain : Nat) (w : Word64) (h : (b.slot k).full = false) : b.writeSlot k w domain =
    (b.alterSlot k (fun x => { x with word := w, full := true })).latchWake domain :=
  if_neg (by rw [h]; decide)

theorem writeSlot_full (b : Body) (k domain : Nat) (w : Word64) (h : (b.slot k).full = true) :
    b.writeSlot k w domain = b.alterSlot k (fun x => { x with overrun := true }) := if_pos h

/-- Table 12.3: the host writes the doorbells, and no other slot. -/
theorem hostSlotWrite_doorbell (b : Body) (k : Nat) (w : Word64) (hlo : 16 ≤ k) (hhi : k ≤ 20) :
    b.hostSlotWrite k w = b.writeSlot k w b.leadKeeper := if_pos ⟨hlo, hhi⟩

theorem hostSlotWrite_foreign (b : Body) (k : Nat) (w : Word64) (h : k < 16 ∨ 20 < k) : b.hostSlotWrite k w = b.foreign :=
  if_neg (by omega)

theorem exec_attentionWordRead (s : State) (k : Nat) (hlo : 24 ≤ k) (hhi : k ≤ 28) : exec (.attentionWordRead k) s =
    .next { s with body := (s.body.readSlot k).2.answer (.word (s.body.readSlot k).1) } :=
  onBody_of (decide (24 ≤ k) && decide (k ≤ 28)) s (fun b => (b.readSlot k).2.answer (.word (b.readSlot k).1)) (by simp [hlo, hhi])

theorem exec_replySlotRead (s : State) (k : Nat) (hlo : 8 ≤ k) (hhi : k < 16) : exec (.replySlotRead k) s =
    .next { s with body := (s.body.readSlot k).2.answer (.word (s.body.readSlot k).1) } :=
  onBody_of (decide (8 ≤ k) && decide (k < 16)) s (fun b => (b.readSlot k).2.answer (.word (b.readSlot k).1)) (by simp [hlo, hhi])

/-! ## DOVE_OVERRUN (R306) -/

theorem exec_doveOverrunClear (s : State) (v : Word64) :
    exec (.doveOverrunClear v) s = .next { s with body := s.body.clearOverruns v } := rfl

/-- Each bit clears the flag of the slot of its number; a number that the module has no slot for reads as an empty one. -/
theorem clearOverruns_slot (b : Body) (v : Word64) (k : Nat) : (b.clearOverruns v).slot k =
    if 16 ≤ k ∧ k ≤ 20 ∧ v.getLsbD k = true then { b.slot k with overrun := false } else b.slot k := by
  unfold Body.clearOverruns Body.slot
  rw [zipIdx_map_getD]
  split
  · rfl
  · next hout =>
    rw [List.getD_eq_default _ _ (Nat.le_of_not_lt hout)]
    exact (ite_self _).symm

/-- Settles O11: each access is `writeSlot`, `foreign`, `readSlot` or `clearOverruns` of its slot. -/
theorem slotAccesses : Obligations.SlotAccesses := by
  refine ⟨fun s k w hlo hhi he => ?_, fun s k w hlo hhi hf => ?_, fun s k w hk hout => ?_, exec_attentionWordRead, exec_replySlotRead,
    fun s v => ⟨_, exec_doveOverrunClear s v, rfl, clearOverruns_slot s.body v⟩⟩
  · rw [exec_doorbellWrite s k w (by omega), hostSlotWrite_doorbell _ k w hlo hhi, writeSlot_empty _ k _ w he]
    rfl
  · rw [exec_doorbellWrite s k w (by omega), hostSlotWrite_doorbell _ k w hlo hhi, writeSlot_full _ k _ w hf]
    rfl
  · rw [exec_doorbellWrite s k w hk, hostSlotWrite_foreign _ k w hout]
    rfl

/-! ## Grant messages (R300, R304) -/

theorem exec_grantMessage (s : State) (w : Word64) : exec (.grantMessage w) s = .next { s with body := s.body.forwardGrant w } := rfl

theorem grantSeq_toNat (w : Word64) : grantSeq w = w.toNat % 2 ^ 32 := by
  rw [grantSeq, BitVec.extractLsb'_toNat, Nat.shiftRight_zero]

/-- The router's own slot is emptied at once, and slot 32 is not touched by that. -/
def routed (b : Body) (w : Word64) : Body := b.alterSlot 0 (fun x => { x with word := w, full := false })

theorem routed_slot32 (b : Body) (w : Word64) : (routed b w).slot 32 = b.slot 32 := by
  rw [routed, alterSlot_slot, if_neg (by omega)]

/-- R304: slot 32 is overwritten unless it is full with a SEQ as high. -/
theorem forwardGrant_eq (b : Body) (w : Word64) : b.forwardGrant w =
    if (b.slot 32).full = true ∧ w.toNat % 2 ^ 32 ≤ (b.slot 32).word.toNat % 2 ^ 32 then routed b w
    else { (routed b w).alterSlot 32 (fun x => { x with word := w, full := true }) with doves :=
      { ((routed b w).alterSlot 32 (fun x => { x with word := w, full := true })).doves with grantBeat := b.clock.beat } } := by
  rw [← grantSeq_toNat, ← grantSeq_toNat, ← routed_slot32 b w]
  unfold Body.forwardGrant
  simp only [Bool.and_eq_true, decide_eq_true_eq]
  rfl

/-- Settles O19: both outcomes are `forwardGrant_eq`, by its condition. -/
theorem grantForward : Obligations.GrantForward := by
  refine ⟨fun s w h => ?_, fun s w hf hseq => ?_⟩
  · have hopen : ¬((s.body.slot 32).full = true ∧ w.toNat % 2 ^ 32 ≤ (s.body.slot 32).word.toNat % 2 ^ 32) := by
      rintro ⟨hfull, hle⟩
      rcases h with he | hlt
      · rw [he] at hfull
        cases hfull
      · omega
    rw [exec_grantMessage, forwardGrant_eq, if_neg hopen]
    rfl
  · rw [exec_grantMessage, forwardGrant_eq, if_pos ⟨hf, hseq⟩]
    rfl

end Sys2Proof.Proofs
end

section
/-!
PROOFS. Rulebook images in their slots (12, R310, Table 12.10; 13, Table 13.4): TABLE_LOAD and TABLE_DISCARD.
-/

namespace Sys2Proof.Proofs

open Sys2Proof Sys2Proof.Machine Sys2Proof.Laws

/-- Table 12.10: only an empty or refused slot takes an image. -/
theorem stagingFree_of_or (x : Staging) (h : x = .empty ∨ x = .refused) : stagingFree x = true := by
  rcases h with rfl | rfl <;> rfl

/-- What a staged image leaves: its slot, LAST_RESULT, and the RULEBOOK attention bit. -/
theorem cmdTableLoad_passed (v : Vault) (off len slot : Nat) (img : RulebookImage) (b : Body) (hslot : slot < 4)
    (hlen : len ≤ 64 * 2 ^ 20) (hend : off + len ≤ b.book.tables.outfield.stagingGib * 2 ^ 30)
    (hfree : stagingFree (b.book.staging.getD slot .empty) = true) (hcode : b.stageCode v len img = rbOk) :
    cmdTableLoad v off len slot img b = ((b.setStaging slot (.staged img)).rbResult rbOk, ok) := by
  have hargs : ¬(4 ≤ slot ∨ 64 * 2 ^ 20 < len ∨ b.book.tables.outfield.stagingGib * gib < off + len) := by
    simp only [gib]
    omega
  simp only [cmdTableLoad, if_neg hargs, hfree, Bool.not_true, Bool.false_eq_true, if_false, hcode, if_true]

theorem cmdTableDiscard_free (slot : Nat) (b : Body) (hslot : slot < 4) (hv : b.book.staging.getD slot .empty ≠ .verifying)
    (hs : b.swapNames slot = false) : cmdTableDiscard slot b = (b.setStaging slot .empty, ok) := by
  have hmay : (decide (b.book.staging.getD slot .empty = .verifying) || b.swapNames slot) = false := by
    rw [decide_eq_false hv, hs]
    rfl
  rw [cmdTableDiscard, if_neg (Nat.not_le_of_lt hslot), hmay, if_neg Bool.false_ne_true]

/-- Settles O6: an image that passes is `setStaging` with its result, and a slot that may be emptied is `setStaging` to empty. -/
theorem rulebookStaging : Obligations.RulebookStaging := by
  refine ⟨fun s h off len slot img hr hm hslot hlen hend hfree hbusy hcode => ?_, fun s h slot hr hm hslot hv hs => ?_⟩
  · have hrun := cmdTableLoad_passed s.vault off len slot img (s.body.running h (.tableLoad off len slot img)) hslot hlen hend
      (stagingFree_of_or _ hfree) hcode
    obtain ⟨t, hexec, hframe, hans, hbody⟩ := submit_answers s h (.tableLoad off len slot img) _ stOk 0 .none hr
      (ringRight_module h _ hm rfl) rfl (by rw [hbusy, Bool.and_false]) hrun rfl rfl hr.pcie rfl
    refine ⟨t, (submit_wf h _ s hr.wf).trans hexec, hframe, hans, hbody.trans ?_⟩
    rw [← hr.idle]
    rfl
  · have hrun := cmdTableDiscard_free slot (s.body.running h (.tableDiscard slot)) hslot hv hs
    obtain ⟨t, hexec, hframe, hans, hbody⟩ := submit_answers_of_edit s h (.tableDiscard slot)
      (fun b => b.setStaging slot .empty) stOk 0 .none hr (ringRight_module h _ hm rfl) rfl rfl hrun (fun _ => ⟨rfl, rfl, rfl, rfl⟩)
    refine ⟨t, hexec, hframe, hans, hbody.trans ?_⟩
    rw [← hr.idle]
    rfl

end Sys2Proof.Proofs
end

section
/-!
PROOFS. What the Lodge answers the management channel and the keepers (12, R300, R301, R303, R307, R308, Table 12.7; 16, R383, Table 16.4;
17, R395).
-/

namespace Sys2Proof.Proofs

open Sys2Proof Sys2Proof.Machine Sys2Proof.Laws

/-! ## A request of the management channel (R300, R301, R303) -/

/-- The module with another set of dovecotes, once the word of a request has been drawn. -/
def withDoves (b : Body) (dv : Doves) : Body := { b with doves := dv, free := b.free + 1 }

/-- A slot with a word in it. -/
def filled (w : Word64) (x : Slot) : Slot := { x with word := w, full := true }

/-- R300, R301: the dovecotes with a request in slot 1, and the engine's wake event latched. -/
def requested (b : Body) (m : LodgeMail) : Doves := { b.doves with
  slots := alter 1 (filled (Config.slotWord b.free)) b.doves.slots, mail := b.doves.mail ++ [(1, m)],
  wake := alter 8 (fun _ => true) b.doves.wake }

theorem post_slot1 (b : Body) (m : LodgeMail) (h : (b.slot 1).full = false) :
    b.post (List.range' 1 7) m = (some 1, withDoves b (requested b m)) := by
  have hfirst : (List.range' 1 7).find? (fun s => !(b.slot s).full) = some 1 := by
    rw [List.range'_succ, List.find?_cons, h]
    rfl
  simp only [Body.post, Body.writeFirst, hfirst]
  rfl

/-- R303: with every slot full the request is lost. -/
theorem post_lost (b : Body) (m : LodgeMail) (h : ∀ k < 8, k ≠ 0 → (b.slot k).full = true) : b.post (List.range' 1 7) m =
    (none, withDoves b { b.doves with slots := alter 1 (fun x => { x with overrun := true }) b.doves.slots }) := by
  have hnone : (List.range' 1 7).find? (fun s => !(b.slot s).full) = none := by
    refine List.find?_eq_none.2 fun k hk => ?_
    rw [List.mem_range'_1] at hk
    simp [h k (by omega) (by omega)]
  simp only [Body.post, Body.writeFirst, hnone]
  rfl

/-- R303: while the engine is OFF the request stays in its slot. -/
theorem manage_off (m : LodgeMail) (v : Vault) (b : Body) (h : v.engineOn = false) :
    manage m v b = (v, (b.post (List.range' 1 7) m).2) := if_neg (by rw [h]; decide)

/-- An engine that finds one request, in slot 1, serves it and then its queue. -/
theorem pollEngine_one (v : Vault) (b : Body) (m : LodgeMail) (h : b.doves.mail = [(1, m)]) : pollEngine v b =
    serveLodge (serveMail m v b.takeMail).2.doves.asks.length (serveMail m v b.takeMail).1 (serveMail m v b.takeMail).2 := by
  unfold pollEngine
  rw [h]
  rfl

/-- What an engine with nothing else to serve finds: the slots as they were, and no request left. -/
structure Emptied (b : Body) (dv : Doves) : Prop where
  slots : ∀ k, k ≠ 1 → dv.slots.getD k ⟨0, false, false⟩ = b.slot k
  length : dv.slots.length = b.doves.slots.length
  mail : dv.mail = []
  asks : dv.asks = []

/-- An engine that is free serves the request at once, and has nothing to do after it unless that queues another. -/
theorem manage_on (m : LodgeMail) (s : State) (h : s.lodgeFree) : ∃ dv, Emptied s.body dv ∧ ∀ r,
    serveMail m s.vault (withDoves s.body dv) = r → r.2.doves.asks = [] → manage m s.vault s.body = r := by
  obtain ⟨hon, hslot, hmail, hasks⟩ := h
  have hone : (requested s.body m).mail = [(1, m)] := by rw [requested, hmail, List.nil_append]
  have htaken : (withDoves s.body (requested s.body m)).takeMail.doves.slots =
      alter 1 (fun x => { x with full := false }) (requested s.body m).slots := by
    rw [Body.takeMail, show (withDoves s.body (requested s.body m)).doves.mail = [(1, m)] from hone]
    rfl
  refine ⟨(withDoves s.body (requested s.body m)).takeMail.doves, ⟨fun k hk => ?_, ?_, rfl, hasks⟩, fun r hr hnone => ?_⟩
  · rw [htaken, requested, alter_getD, if_neg fun e => hk e.1.symm, alter_getD, if_neg fun e => hk e.1.symm]
    rfl
  · rw [htaken, requested, alter_length, alter_length]
  · have hserve : serveMail m s.vault (withDoves s.body (requested s.body m)).takeMail = r := hr
    rw [manage, if_pos hon, post_slot1 s.body m hslot, pollEngine_one s.vault _ m hone, hserve, hnone]
    rfl

/-! ## Replies (R300, R307) -/

/-- A reply changes the port and the dovecotes, and no request. -/
theorem reply_form (b : Body) (o : Output) : ∃ dv, dv.mail = b.doves.mail ∧ dv.asks = b.doves.asks ∧
    b.reply o = { b with host := { b.host with last := o }, doves := dv, free := b.free + 1 } := by
  obtain ⟨ss, ws, h⟩ := replyIn_form (b.answer o) (List.range' 8 8) []
  exact ⟨{ b.doves with slots := ss, wake := ws }, rfl, rfl, h⟩

/-- A request that is answered by one reply: the Lodge as its service leaves it, and outside it the port and the dovecotes alone. -/
theorem manage_replies (s : State) (m : LodgeMail) (w : Vault) (o : Output) (h : s.lodgeFree)
    (hserve : ∀ c : Body, c.clock = s.body.clock → serveMail m s.vault c = (w, c.reply o)) :
    ∃ dv fr, manage m s.vault s.body =
      (w, { s.body with doves := dv, host := { s.body.host with last := o }, free := fr }) := by
  obtain ⟨dv, hdv, hmanage⟩ := manage_on m s h
  obtain ⟨dv', -, hasks, hreply⟩ := reply_form (withDoves s.body dv) o
  refine ⟨dv', _, hmanage _ ((hserve (withDoves s.body dv) rfl).trans (congrArg (Prod.mk w) hreply)) (hasks.trans hdv.asks)⟩

/-- What a row of the management channel leaves, once its request is answered by one reply. -/
theorem replies_of_manage {s : State} {c : Instr} {m : LodgeMail} {w : Vault} {o : Output}
    (hexec : exec c s = .next { s with vault := (manage m s.vault s.body).1, body := (manage m s.vault s.body).2 }) (h : s.lodgeFree)
    (hserve : ∀ c : Body, c.clock = s.body.clock → serveMail m s.vault c = (w, c.reply o)) : ∃ t : State,
    exec c s = .next t ∧ t.vault = w ∧ t.body.host = { s.body.host with last := o } ∧
    t.body = { s.body with doves := t.body.doves, host := t.body.host, free := t.body.free } := by
  obtain ⟨dv, fr, hmanage⟩ := manage_replies s m w o h hserve
  rw [hmanage] at hexec
  exact ⟨_, hexec, rfl, rfl, rfl⟩

/-! ## The rows -/

theorem exec_ownerKeySet (s : State) (key : Nat) : exec (.ownerKeySet key) s =
    .next { s with vault := (manage (.ownerKey key) s.vault s.body).1, body := (manage (.ownerKey key) s.vault s.body).2 } := rfl

theorem exec_signingKeyInstall (s : State) (cls : KeyClass) (key : Nat) (signer : Option Nat) :
    exec (.signingKeyInstall cls key signer) s = .next { s with
      vault := (manage (.install cls key signer) s.vault s.body).1, body := (manage (.install cls key signer) s.vault s.body).2 } := rfl

theorem exec_debugNonceRequest (s : State) : exec .debugNonceRequest s =
    .next { s with vault := (manage .nonce s.vault s.body).1, body := (manage .nonce s.vault s.body).2 } := rfl

theorem exec_clearTokenRequest (s : State) (auth : Nat) (signer : Option Nat) (h : auth < 2 ^ 32) :
    exec (.clearTokenRequest auth signer) s = .next { s with
      vault := (manage (.clear auth signer) s.vault s.body).1, body := (manage (.clear auth signer) s.vault s.body).2 } :=
  onAll_of (decide (auth < 2 ^ 32)) s (manage (.clear auth signer)) (decide_eq_true h)

theorem exec_signatureRequest (s : State) (cls : KeyClass) (signer : Option Nat) : exec (.lodgeRequest (.signature cls signer)) s =
    .next { s with vault := (askLodge (.request (.signature cls signer)) s.vault s.body).1,
                   body := (askLodge (.request (.signature cls signer)) s.vault s.body).2 } := rfl

/-! ## Keys (Table 12.7, R308) -/

/-- The owner root key's own signature. -/
theorem ownerSigned_owner (v : Vault) (o : Nat) (h : v.ownerKey = some o) : v.ownerSigned (some o) = true := by
  simp [Vault.ownerSigned, h]

/-- Before the owner key there is no owner, and no other key signs for it. -/
theorem ownerSigned_other (v : Vault) (signer : Option Nat) (h : v.ownerKey = none ∨ signer ≠ v.ownerKey) :
    v.ownerSigned signer = false := by
  rcases h with h | h
  · simp [Vault.ownerSigned, h]
  · simp [Vault.ownerSigned, h]

theorem setOwner_first (key : Nat) (v : Vault) (b : Body) (h : v.ownerKey = none) :
    setOwner key v b = ({ v with ownerKey := some key }, b.reply .accepted) := by
  rw [setOwner, h]

theorem setOwner_again (key o : Nat) (v : Vault) (b : Body) (h : v.ownerKey = some o) : setOwner key v b = (v, b.reply .refused) := by
  rw [setOwner, h]

section Install

variable {v : Vault} {cls : KeyClass} {key : Nat} {signer : Option Nat} (b : Body)

theorem installKey_unsigned (hs : v.ownerSigned signer = false) : installKey cls key signer v b = (v, b.reply .refused) := by
  rw [installKey, hs, if_neg Bool.false_ne_true]

theorem installKey_held (hs : v.ownerSigned signer = true) (hk : key ∈ v.keys cls) :
    installKey cls key signer v b = (v, b.reply .accepted) := by
  rw [installKey, if_pos hs, if_pos (List.contains_iff_mem.2 hk)]

theorem installKey_new (hs : v.ownerSigned signer = true) (hk : key ∉ v.keys cls) (hroom : (v.keys cls).length < 8) :
    installKey cls key signer v b = (v.addKey cls key, b.reply .accepted) := by
  rw [installKey, if_pos hs, if_neg fun e => hk (List.contains_iff_mem.1 e), if_pos hroom]

theorem installKey_full (hs : v.ownerSigned signer = true) (hk : key ∉ v.keys cls) (hfull : 8 ≤ (v.keys cls).length) :
    installKey cls key signer v b = (v, b.reply .refused) := by
  rw [installKey, if_pos hs, if_neg fun e => hk (List.contains_iff_mem.1 e), if_neg (Nat.not_lt.2 hfull)]

end Install

/-- The Lodge as it begins to serve a request. -/
def polled (v : Vault) (b : Body) : Vault := { v with idleSince := b.clock.now }

theorem polled_keys (v : Vault) (b : Body) (cls : KeyClass) : (polled v b).keys cls = v.keys cls := by
  cases cls <;> rfl

/-- A signing key's request, served as `installKey` answers it of the Lodge that has been polled. -/
theorem install_replies (s : State) (cls : KeyClass) (key : Nat) (signer : Option Nat) (w : Vault) (o : Output) (h : s.lodgeFree)
    (hinstall : ∀ c : Body, installKey cls key signer (polled s.vault s.body) c = (w, c.reply o)) : ∃ t : State,
    exec (.signingKeyInstall cls key signer) s = .next t ∧ t.vault = w ∧ t.body.host = { s.body.host with last := o } ∧
    t.body = { s.body with doves := t.body.doves, host := t.body.host, free := t.body.free } :=
  replies_of_manage (exec_signingKeyInstall s cls key signer) h fun c hc => by
    rw [serveMail, hc]
    exact hinstall c

/-- Settles O20: each request is answered by one reply, and `setOwner` and `installKey` say what it does to the keys. -/
theorem keyCustody : Obligations.KeyCustody := by
  refine ⟨fun s k h hn => ?_, fun s k o h ho => ?_, fun s o k h ho hroom hk => ?_, fun s o k h ho hroom hk => ?_,
    fun s cls o k h ho hk => ?_, fun s cls o k h ho hfull hk => ?_, fun s cls k signer h hs => ?_⟩
  · exact replies_of_manage (exec_ownerKeySet s k) h fun c hc => by
      rw [serveMail, hc]
      exact setOwner_first k (polled s.vault s.body) c hn
  · exact replies_of_manage (exec_ownerKeySet s k) h fun c hc => by
      rw [serveMail, hc]
      exact setOwner_again k o (polled s.vault s.body) c ho
  · exact install_replies s .fixture k (some o) _ _ h fun c =>
      installKey_new (v := polled s.vault s.body) (cls := .fixture) c (ownerSigned_owner _ o ho) hk hroom
  · exact install_replies s .rulebook k (some o) _ _ h fun c =>
      installKey_new (v := polled s.vault s.body) (cls := .rulebook) c (ownerSigned_owner _ o ho) hk hroom
  · exact install_replies s cls k (some o) _ _ h fun c =>
      installKey_held c (ownerSigned_owner _ o ho) (by rw [polled_keys]; exact hk)
  · exact install_replies s cls k (some o) _ _ h fun c =>
      installKey_full c (ownerSigned_owner _ o ho) (by rw [polled_keys]; exact hk) (by rw [polled_keys]; exact hfull)
  · exact install_replies s cls k signer _ _ h fun c => installKey_unsigned c (ownerSigned_other _ signer hs)

/-! ## Clear tokens (R383, Table 16.4) -/

theorem alterSlot_length (b : Body) (k : Nat) (f : Slot → Slot) : (b.alterSlot k f).doves.slots.length = b.doves.slots.length :=
  alter_length k f b.doves.slots

/-- A word for a range whose first slot is empty, and that has no receiver to wake. -/
theorem writeFirst_head (b : Body) (k : Nat) (ks : List Nat) (w : Word64) (h : (b.slot k).full = false) :
    b.writeFirst (k :: ks) w [] = (some k, b.alterSlot k (filled w)) := by
  simp only [Body.writeFirst, List.find?_cons, h, Bool.not_false, List.foldl_nil]
  rfl

theorem writeFirst_second (b : Body) (j k : Nat) (ks : List Nat) (w : Word64) (hj : (b.slot j).full = true)
    (hk : (b.slot k).full = false) : b.writeFirst (j :: k :: ks) w [] = (some k, b.alterSlot k (filled w)) := by
  simp only [Body.writeFirst, List.find?_cons, hj, hk, Bool.not_false, Bool.not_true, List.foldl_nil]
  rfl

/-- Log 56: the halves of a token take the first two of the reply slots. -/
theorem replyToken_emptyPair (b : Body) (token : List Byte) (h8 : (b.slot 8).full = false) (h9 : (b.slot 9).full = false)
    (hlen : b.doves.slots.length = 64) : b.replyToken token =
      ((b.answer (.clearToken token)).alterSlot 8 (filled (BitVec.ofNat 64 (leValue (token.take 8))))).alterSlot 9
        (filled (BitVec.ofNat 64 (leValue (token.drop 8)))) := by
  have hslots : List.range' 8 8 = 8 :: 9 :: List.range' 10 6 := rfl
  have htaken : (((b.answer (.clearToken token)).alterSlot 8 (filled (BitVec.ofNat 64 (leValue (token.take 8))))).slot 8).full = true := by
    rw [alterSlot_slot, if_pos ⟨rfl, show 8 < b.doves.slots.length by omega⟩]
    rfl
  have hnext : (((b.answer (.clearToken token)).alterSlot 8 (filled (BitVec.ofNat 64 (leValue (token.take 8))))).slot 9).full = false := by
    rw [alterSlot_slot, if_neg (by omega)]
    exact h9
  rw [Body.replyToken, hslots, writeFirst_head (b.answer (.clearToken token)) 8 _ _ h8]
  dsimp only
  rw [writeFirst_second _ 8 9 _ _ htaken hnext]

/-- Table 16.4: the first 8 bytes of a token are AUTHORISER and CLEAR_NUMBER, the others CODE. -/
theorem tokenBytes_take (auth n code : Nat) : (tokenBytes auth n code).take 8 = leBytes auth 4 ++ leBytes n 4 := rfl

theorem tokenBytes_drop (auth n : Nat) (code : Word64) : BitVec.ofNat 64 (leValue ((tokenBytes auth n code.toNat).drop 8)) = code := by
  have hdrop : (tokenBytes auth n code.toNat).drop 8 = leBytes code.toNat 8 := rfl
  rw [hdrop, leValue_leBytes, Nat.mod_eq_of_lt (show code.toNat < 256 ^ 8 from code.isLt), BitVec.ofNat_toNat, BitVec.setWidth_eq]

/-- The token that the Lodge issues next. -/
def nextToken (s : State) (auth : Nat) : List Byte := tokenBytes auth ((s.body.score.clears + 1) % 2 ^ 32)
  (Config.clearCode s.vault.serial auth ((s.body.score.clears + 1) % 2 ^ 32)).toNat

theorem clearToken_owner (s : State) (b : Body) (auth o : Nat) (h : s.vault.ownerKey = some o) (hscore : b.score = s.body.score) :
    clearToken auth (some o) (polled s.vault s.body) b = (polled s.vault s.body, b.replyToken (nextToken s auth)) := by
  rw [clearToken, ownerSigned_owner (polled s.vault s.body) o h, if_pos rfl, hscore]
  rfl

theorem clearToken_other (v : Vault) (b : Body) (auth : Nat) (signer : Option Nat) (h : v.ownerSigned signer = false) :
    clearToken auth signer v b = (v, b.reply .refused) := by
  rw [clearToken, h, if_neg Bool.false_ne_true]

theorem clearToken_issued (s : State) (auth o : Nat) (h : s.lodgeFree) (ha : auth < 2 ^ 32) (ho : s.vault.ownerKey = some o)
    (hlen : s.body.doves.slots.length = 64) (h8 : (s.body.slot 8).full = false) (h9 : (s.body.slot 9).full = false) : ∃ t : State,
    exec (.clearTokenRequest auth (some o)) s = .next t ∧ t.vault = polled s.vault s.body ∧
    t.body.host = { s.body.host with last := .clearToken (nextToken s auth) } ∧
    (t.body.slot 8).full = true ∧ (t.body.slot 8).word = BitVec.ofNat 64 (leValue ((nextToken s auth).take 8)) ∧
    (t.body.slot 9).full = true ∧ (t.body.slot 9).word = BitVec.ofNat 64 (leValue ((nextToken s auth).drop 8)) ∧
    t.body = { s.body with doves := t.body.doves, host := t.body.host, free := t.body.free } := by
  obtain ⟨dv, hdv, hmanage⟩ := manage_on (.clear auth (some o)) s h
  have hserve : serveMail (.clear auth (some o)) s.vault (withDoves s.body dv) =
      (polled s.vault s.body, (withDoves s.body dv).replyToken (nextToken s auth)) := clearToken_owner s _ auth o ho rfl
  have htoken := replyToken_emptyPair (withDoves s.body dv) (nextToken s auth) (by rw [Body.slot, withDoves, hdv.slots 8 (by decide), h8])
    (by rw [Body.slot, withDoves, hdv.slots 9 (by decide), h9]) (hdv.length.trans hlen)
  have hexec := exec_clearTokenRequest s auth (some o) ha
  rw [hmanage _ (hserve.trans (congrArg (Prod.mk _) htoken)) hdv.asks] at hexec
  have h8in : 8 < dv.slots.length := by rw [hdv.length, hlen]; decide
  have h9in : 9 < dv.slots.length := by rw [hdv.length, hlen]; decide
  refine ⟨_, hexec, rfl, rfl, ?_⟩
  dsimp only
  rw [alterSlot_slot, if_neg (by omega), alterSlot_slot, if_pos ⟨rfl, h8in⟩, alterSlot_slot, if_pos ⟨rfl, by rw [alterSlot_length]; exact h9in⟩]
  exact ⟨rfl, rfl, rfl, rfl, rfl⟩

/-! ## Signatures for the keepers (R308) -/

/-- R308: a key of the class signed, and no debug state is on. -/
theorem verifies_iff (v : Vault) (keys : List Nat) (signer : Option Nat) :
    v.verifies keys signer = true ↔ v.debug = false ∧ ∃ k ∈ keys, signer = some k := by
  cases signer <;> simp [Vault.verifies]

/-- The answer to a signature request. -/
def signatureAnswer (v : Vault) (cls : KeyClass) (signer : Option Nat) : Output :=
  if v.verifies (v.keys cls) signer then .accepted else .refused

theorem signatureAnswer_accepted (v : Vault) (cls : KeyClass) (signer : Option Nat) (hd : v.debug = false)
    (hk : ∃ k ∈ v.keys cls, signer = some k) : signatureAnswer v cls signer = .accepted :=
  if_pos ((verifies_iff v _ signer).2 ⟨hd, hk⟩)

theorem signatureAnswer_refused (v : Vault) (cls : KeyClass) (signer : Option Nat)
    (h : v.debug = true ∨ ∀ k ∈ v.keys cls, signer ≠ some k) : signatureAnswer v cls signer = .refused := by
  refine if_neg fun hv => ?_
  obtain ⟨hd, k, hk, hs⟩ := (verifies_iff v _ signer).1 hv
  rcases h with h | h
  · rw [hd] at h
    cases h
  · exact h k hk hs

/-- A result for the keepers changes the port and the dovecotes. -/
theorem lodgeResult_form (b : Body) (o : Output) : ∃ dv, b.lodgeResult o =
    { b with host := { b.host with last := o }, doves := dv, free := b.free + 1 } := by
  obtain ⟨ss, ws, h⟩ := replyIn_form (b.answer o) (List.range' 33 7) (List.range 8)
  exact ⟨{ b.doves with slots := ss, wake := ws }, h⟩

theorem signature_answered (s : State) (cls : KeyClass) (signer : Option Nat) (hon : s.vault.engineOn = true)
    (hasks : s.body.doves.asks = []) (hslot : (s.body.slot 40).full = false) : ∃ t : State,
    exec (.lodgeRequest (.signature cls signer)) s = .next t ∧ t.vault = polled s.vault s.body ∧
    t.body.host = { s.body.host with last := signatureAnswer s.vault cls signer } ∧
    t.body = { s.body with doves := t.body.doves, host := t.body.host, free := t.body.free } := by
  obtain ⟨dv, -, -, hask⟩ := askLodge_on (.request (.signature cls signer)) hon hslot hasks
  obtain ⟨dv', hresult⟩ := lodgeResult_form (posted s.body (.request (.signature cls signer)) dv)
    (signatureAnswer s.vault cls signer)
  have hsame : signatureAnswer (polled s.vault s.body) cls signer = signatureAnswer s.vault cls signer := by
    rw [signatureAnswer, polled_keys]
    rfl
  rw [← hsame] at hresult ⊢
  have hexec := exec_signatureRequest s cls signer
  rw [hask, show (serveJob { s.vault with idleSince := s.body.clock.now } (posted s.body (.request (.signature cls signer)) dv)
    (.request (.signature cls signer))).getD _ = (polled s.vault s.body, _) from congrArg (Prod.mk (polled s.vault s.body)) hresult] at hexec
  exact ⟨_, hexec, rfl, rfl, rfl⟩

/-- Settles O21: a request that is served is answered by its reply, its token or its result; one that is not served is `requested`, or lost. -/
theorem lodgeAnswers : Obligations.LodgeAnswers := by
  refine ⟨fun s h => ?_, fun s auth o h ha ho hlen h8 h9 => ?_, fun s auth signer h ha hs => ?_, fun s cls signer hon hasks hslot => ?_,
    fun s hoff hslot => ?_, fun s hoff hfull => ?_⟩
  · exact replies_of_manage (exec_debugNonceRequest s) h fun c hc => by
      rw [serveMail, hc]
      rfl
  · have hissued := clearToken_issued s auth o h ha ho hlen h8 h9
    rw [nextToken, tokenBytes_take, tokenBytes_drop] at hissued
    exact hissued
  · exact replies_of_manage (exec_clearTokenRequest s auth signer ha) h fun c hc => by
      rw [serveMail, hc]
      exact clearToken_other (polled s.vault s.body) c auth signer (ownerSigned_other _ signer hs)
  · obtain ⟨t, hexec, hvault, hhost, hbody⟩ := signature_answered s cls signer hon hasks hslot
    refine ⟨t, hexec, hvault, fun hd hk => ?_, fun h => ?_, hbody⟩
    · rw [hhost, signatureAnswer_accepted _ cls signer hd hk]
    · rw [hhost, signatureAnswer_refused _ cls signer h]
  · rw [exec_debugNonceRequest, manage_off _ _ _ hoff, post_slot1 _ _ hslot]
    rfl
  · rw [exec_debugNonceRequest, manage_off _ _ _ hoff, post_lost _ _ hfull]
    rfl

end Sys2Proof.Proofs
end

section
/-!
PROOFS. A SNAPSHOT entry of a fixture that has a backward stream and no updates (11, R350; 15, R349): a fixture that does not serve is cut
behind a rollback of the journal (06, R122, R123), which gives its groups the values of before the step back.
-/

namespace Sys2Proof.Proofs

open Sys2Proof Sys2Proof.Machine Sys2Proof.Laws

/-! ## A journal that holds a layer -/

/-- A group of parameters that is not frozen. -/
def freeGroup : GroupRec where
  id := 0
  rule := 1
  fallback := 1
  flags := 0
  lrPeak := 0
  lrEnd := 0
  warmup := 0
  decaySteps := 0
  weightDecay := 0
  beta1 := 0
  beta2 := 0
  eps := 0
  clip := 0
  matrixScale := 0
  kronBeta := 0
  kronDamping := 0
  kronInterval := 1
  kronDimMax := 0
  rsvdZero := true

/-- The one tensor of layer 0, trained in that group. -/
def layerTensor : TensorRec where
  id := 0
  group := 0
  maskMode := 0
  layer := 0
  shard := 0
  rows := 1
  cols := 1
  baseIndex := 0
  mask := []
  owned := true
  w := ⟨.infield, 0⟩
  c := ⟨.infield, 64⟩
  m := ⟨.infield, 128⟩
  v := ⟨.infield, 192⟩
  g := ⟨.infield, 256⟩
  mBell := ⟨⟨.infield, 320⟩, 0, 0⟩
  vBell := ⟨⟨.infield, 384⟩, 0, 0⟩
  kL := ⟨.infield, 448⟩
  kR := ⟨.infield, 512⟩
  kQL := ⟨.infield, 576⟩
  kQR := ⟨.infield, 640⟩

/-- One backward operation, and no update. -/
def backwardOnly : FixtureImage :=
  { idleImage with bwd := [{ laterUpdate with payload := .dma ⟨.infield, 0⟩ ⟨.infield, 0⟩ 0 }], groups := [freeGroup],
                   tensors := [layerTensor] }

/-- SNAPSHOT of partition 0 to the host (Table 11.5). -/
def hostEntry : SchedEntry := ⟨99, 0, 6, 0, 0, 4, 4096, false⟩

/-- Partition 0 is STOPPED. Its group has P1 and P2 at 1; the journal holds layer 0 with both at 0. -/
def journalled : State where
  pending := []
  vault := Vault.reset
  body := { Body.reset with
    boot := { Boot.reset with start := .ready, step := 9, inputOk := true, standby := true, rails := true, tested := true }
    clock := { Clock.reset with refPresent := true, band := .locked, beat := 100, beatNs := 100000, made := true }
    sched := { Sched.reset with entries := [hostEntry] }
    parts := { Partition.reset with
      pitches := [0]
      fix := some backwardOnly
      fstate := .stopped
      upd := { Upd.reset with groups := [⟨0, 1, 1⟩], journal := [⟨0, 0⟩] } } :: List.replicate 3 Partition.reset }

/-! ## The cut -/

/-- GROUPS sections of an image. -/
def groupSections (ss : List SnapSection) : List (List GroupState) := ss.filterMap (fun s => match s with
  | .groups gs => some gs
  | _ => none)

/-- GROUPS sections of the image that partition 0 copies after a row, where it answers a state. -/
def groupsCut : Host.Outcome State Fault Refusal → List (List GroupState)
  | .next t => ((t.body.part 0).snap.run.map (fun r => groupSections r.image.sections)).getD []
  | _ => []

theorem groupsCut_journalled : groupsCut (exec .snapshotEntry journalled) = [[⟨0, 0, 0⟩]] := by decide +kernel

/-- The sections of the partition as it stands. -/
theorem groupSections_journalled : groupSections (({ journalled.body with sched := journalled.body.sched.remove hostEntry } : Body).sections 0
    backwardOnly ((journalled.body.part 0).layersDue backwardOnly ((journalled.body.part 0).pass.step - 1))) = [[⟨0, 1, 1⟩]] := by
  decide +kernel

/-- Refutes O29: its fourth clause has the image of every fixture without updates hold the sections of the partition as it stands; but the
one of `journalled` has a backward stream, so its cut stands behind a rollback, and the journal is not empty. -/
theorem not_swapAndSnapshotEntries : ¬ Obligations.SwapAndSnapshotEntries := by
  rintro ⟨-, -, -, hcut, -⟩
  obtain ⟨t, r, hexec, -, hrun, -, -, -, -, -, -, -, -, -, -, -, hsections, -⟩ := hcut journalled hostEntry backwardOnly [2, 2, 2, 2, 2]
    (by decide +kernel) rfl (by decide) (by decide) rfl (by decide) (by decide +kernel) rfl (.inl rfl) rfl rfl (by decide +kernel)
  have hgroups := groupsCut_journalled
  rw [hexec, groupsCut, show (t.body.part 0).snap.run = some r from hrun, Option.map_some, Option.getD_some, hsections rfl,
    show hostEntry.part = 0 from rfl, groupSections_journalled] at hgroups
  exact absurd hgroups (by decide)

end Sys2Proof.Proofs
end

section
/-!
PROOFS. A keeper's frame (12, R292 to R294, R296, Tables 12.1 and 12.2): what marking it, reading its slots and its end change.
-/

namespace Sys2Proof.Proofs

open Sys2Proof Sys2Proof.Machine Sys2Proof.Laws

/-- At its own place, present or not, where the change leaves the default. -/
theorem alter_getD_fixed {α : Type} (i : Nat) (f : α → α) (xs : List α) (d : α) (h : f d = d) :
    (alter i f xs).getD i d = f (xs.getD i d) := by
  rw [alter_getD]
  split
  · rfl
  · next hout => rw [List.getD_eq_default _ _ (Nat.le_of_not_lt fun hlt => hout ⟨rfl, hlt⟩), h]

/-- With no request waiting for the Lodge the row is the keeper's frame alone. -/
theorem exec_keeperFrame (s : State) (k : Nat) (x : FrameRun) (hk : k < 8) (hasks : s.body.doves.asks = []) :
    exec (.keeperFrame k x) s = .next { s with body := s.body.keeperFrame s.vault k x } := by
  have hexec : exec (.keeperFrame k x) s = .next { s with
      vault := (serveLodge s.body.doves.asks.length s.vault (s.body.keeperFrame s.vault k x)).1
      body := (serveLodge s.body.doves.asks.length s.vault (s.body.keeperFrame s.vault k x)).2 } :=
    onAll_of (decide (k < 8)) s (fun v b => serveLodge b.doves.asks.length v (b.keeperFrame v k x)) (decide_eq_true hk)
  rw [hexec, hasks]
  rfl

/-! ## The frame start (R292, R293, R296) -/

/-- A keeper that has a state of its own is one of the module's. -/
theorem keeper_lt (b : Body) (k : Nat) (h : (b.keeper k).mode ≠ .off) : k < b.keepers.cores.length := by
  by_contra hn
  exact h (by rw [Body.keeper, List.getD_eq_default _ _ (Nat.le_of_not_lt hn)])

/-- The body once the frame start is marked, late polls counted. -/
def begun (b : Body) (k : Nat) (x : FrameRun) : Body :=
  { b.markFrame k with keepers := { (b.markFrame k).keepers with
    slips := if x.late && decide (k % 4 = 0) then wrap 32 ((b.markFrame k).keepers.slips + 1) else (b.markFrame k).keepers.slips } }

theorem keeperFrame_eq (v : Vault) (b : Body) (k : Nat) (x : FrameRun) (h : b.marksFrames k = true) : b.keeperFrame v k x =
    (((if k % 4 = 0 then (begun b k x).pollPages ((begun b k x).roleHalves k) else begun b k x).readOwnSlots k).roleFrame v k).endFrame k
      x.retain := if_pos h

/-- The keeper of the same role in the other half. -/
theorem otherKeeper_ne (k : Nat) : (k + 4) % 8 ≠ k := by omega

theorem begun_keeper (b : Body) (k j : Nat) (x : FrameRun) : (begun b k x).keeper j =
    if (k + 4) % 8 = j ∧ j < b.keepers.cores.length then
      { (if k = j ∧ j < b.keepers.cores.length then { b.keeper j with
          mode := .on, frameAt := b.frameStart (b.keeper k), covers := b.keeperDown ((k + 4) % 8) } else b.keeper j) with covers := false }
    else if k = j ∧ j < b.keepers.cores.length then
      { b.keeper j with mode := .on, frameAt := b.frameStart (b.keeper k), covers := b.keeperDown ((k + 4) % 8) }
    else b.keeper j := by
  show (alter ((k + 4) % 8) _ (alter k _ b.keepers.cores)).getD j _ = _
  rw [alter_getD, alter_getD, alter_length]
  rfl

theorem begun_keeper_self (b : Body) (k : Nat) (x : FrameRun) (hlen : k < b.keepers.cores.length) :
    (begun b k x).keeper k = { b.keeper k with
      mode := .on, frameAt := b.frameStart (b.keeper k), covers := b.keeperDown ((k + 4) % 8) } := by
  rw [begun_keeper, if_neg fun h => otherKeeper_ne k h.1, if_pos ⟨rfl, hlen⟩]

theorem begun_keeper_other (b : Body) (k : Nat) (x : FrameRun) :
    (begun b k x).keeper ((k + 4) % 8) = { b.keeper ((k + 4) % 8) with covers := false } := by
  show (alter ((k + 4) % 8) _ (alter k _ b.keepers.cores)).getD ((k + 4) % 8) _ = _
  rw [alter_getD_fixed _ _ _ _ rfl, alter_getD, if_neg fun h => otherKeeper_ne k h.1.symm]
  rfl

theorem begun_keeper_rest (b : Body) (k j : Nat) (x : FrameRun) (hj : j ≠ k) (hother : j ≠ (k + 4) % 8) :
    (begun b k x).keeper j = b.keeper j := by
  rw [begun_keeper, if_neg fun h => hother h.1.symm, if_neg fun h => hj h.1.symm]

/-! ## The keeper's own slots (R294, Table 12.2) -/

/-- The module with other slots. -/
def withSlots (b : Body) (ss : List Slot) : Body := { b with doves := { b.doves with slots := ss } }

theorem withSlots_self (b : Body) : withSlots b b.doves.slots = b := rfl

/-- The slots listed are empty, every other slot is as it was. -/
structure Drained (ks : List Nat) (b : Body) (ss : List Slot) : Prop where
  slot : ∀ i, (withSlots b ss).slot i = if i ∈ ks then { b.slot i with full := false } else b.slot i
  length : ss.length = b.doves.slots.length

/-- A frame's read of one slot: a doorbell goes to its ring, any other word to the keeper. -/
def readOwn (b : Body) (s : Nat) : Body := if s < 21 then b.takeDoorbell (s - 16) else (b.readSlot s).2

theorem readOwnSlots_eq (b : Body) (k : Nat) : b.readOwnSlots k = (b.ownSlots k).foldl readOwn b := rfl

/-- An empty doorbell is left as it is. -/
theorem takeDoorbell_empty (b : Body) (r : Nat) (h : (b.slot (16 + r)).full = false) : b.takeDoorbell r = b := by
  have hno : (!(b.doves.slots.getD (16 + r) ⟨0, false, false⟩).full) = true := by
    rw [show b.doves.slots.getD (16 + r) ⟨0, false, false⟩ = b.slot (16 + r) from rfl, h]
    rfl
  exact if_pos hno

theorem emptied_of_empty (x : Slot) (h : x.full = false) : { x with full := false } = x := by
  rw [← h]

theorem readOwn_drained (b : Body) (s : Nat) (h : s < 21 → 16 ≤ s ∧ (b.slot s).full = false) :
    ∃ ss, Drained [s] b ss ∧ readOwn b s = withSlots b ss := by
  unfold readOwn
  split
  · next hd =>
    obtain ⟨hlo, he⟩ := h hd
    have hs : 16 + (s - 16) = s := by omega
    refine ⟨b.doves.slots, ⟨fun i => ?_, rfl⟩, takeDoorbell_empty b (s - 16) (by rw [hs]; exact he)⟩
    rw [withSlots_self]
    split
    · next hi =>
      cases List.mem_singleton.1 hi
      exact (emptied_of_empty _ he).symm
    · rfl
  · refine ⟨alter s (fun x => { x with full := false }) b.doves.slots, ⟨fun i => ?_, alter_length _ _ _⟩, rfl⟩
    by_cases hi : i = s
    · subst hi
      rw [if_pos (List.mem_singleton.2 rfl)]
      exact alter_getD_fixed _ _ _ _ rfl
    · rw [show withSlots b _ = b.alterSlot s (fun x => { x with full := false }) from rfl, alterSlot_slot, if_neg fun e => hi e.1.symm,
        if_neg fun e => hi (List.mem_singleton.1 e)]

/-- R294: read in turn, the slots of a list end up empty, whatever else they hold; no doorbell among them has a word. -/
theorem readOwns_drained (ks : List Nat) (b : Body) (h : ∀ s ∈ ks, s < 21 → 16 ≤ s ∧ (b.slot s).full = false) :
    ∃ ss, Drained ks b ss ∧ ks.foldl readOwn b = withSlots b ss := by
  induction ks generalizing b with
  | nil => exact ⟨b.doves.slots, ⟨fun i => by rw [withSlots_self, if_neg List.not_mem_nil], rfl⟩, rfl⟩
  | cons s ks ih =>
    obtain ⟨ss, hone, hread⟩ := readOwn_drained b s (h s List.mem_cons_self)
    have hempty : ∀ i, (b.slot i).full = false → ((withSlots b ss).slot i).full = false := fun i hi => by
      rw [hone.slot]
      split
      · rfl
      · exact hi
    obtain ⟨ss', hrest, hreads⟩ := ih (withSlots b ss) fun i hi hd =>
      (h i (List.mem_cons_of_mem _ hi) hd).imp_right (hempty i)
    refine ⟨ss', ⟨fun i => ?_, hrest.length.trans hone.length⟩, by rw [List.foldl_cons, hread, hreads]; rfl⟩
    rw [show withSlots b ss' = withSlots (withSlots b ss) ss' from rfl, hrest.slot, hone.slot]
    by_cases hs : i = s
    · subst hs
      rw [if_pos (List.mem_singleton.2 rfl), if_pos List.mem_cons_self]
      exact ite_self _
    · rw [if_neg fun e => hs (List.mem_singleton.1 e)]
      simp only [List.mem_cons, hs, false_or]

/-- The slots of results and messages, of a keeper that does not carry out the lead half's duties. -/
theorem ownSlots_plain (b : Body) (k : Nat) (h : b.leads k = false) :
    b.ownSlots k = [33, 34, 35, 36, 37, 38, 39, 48 + 2 * k, 49 + 2 * k] := by
  rw [Body.ownSlots, h]
  rfl

theorem leadKeeper_cases (b : Body) : b.leadKeeper = 3 ∨ b.leadKeeper = 7 := by
  unfold Body.leadKeeper
  split
  · exact .inl rfl
  · exact .inr rfl

theorem leads_plain (b : Body) (k : Nat) (hk : k < 8) (hrole : k % 4 ≠ 3) : b.leads k = false := by
  have hlead := leadKeeper_cases b
  have h1 : k ≠ b.leadKeeper := by omega
  have h2 : k ≠ (b.leadKeeper + 4) % 8 := by omega
  rw [Body.leads, decide_eq_false h1, decide_eq_false h2]
  rfl

/-- No doorbell is among the slots that such a keeper reads. -/
theorem readOwnSlots_plain (b : Body) (k : Nat) (hk : k < 8) (hrole : k % 4 ≠ 3) : ∃ ss,
    Drained [33, 34, 35, 36, 37, 38, 39, 48 + 2 * k, 49 + 2 * k] b ss ∧ b.readOwnSlots k = withSlots b ss := by
  rw [readOwnSlots_eq, ownSlots_plain b k (leads_plain b k hk hrole)]
  refine readOwns_drained _ b fun s hs hd => ?_
  simp only [List.mem_cons, List.not_mem_nil, or_false] at hs
  omega

/-! ## ISSUE keepers (Table 12.6) -/

theorem roleFrame_issue (b : Body) (v : Vault) (k : Nat) (h : k % 4 = 1) : b.roleFrame v k = b := by
  simp only [Body.roleFrame, h]

theorem endFrame_stays (b : Body) (k : Nat) : b.endFrame k false = b := rfl

/-- The ISSUE keeper's frame is its slots. -/
theorem keeperFrame_issue (v : Vault) (b : Body) (k : Nat) (x : FrameRun) (hk : k < 8) (hrole : k % 4 = 1)
    (hm : b.marksFrames k = true) : ∃ ss, Drained [33, 34, 35, 36, 37, 38, 39, 48 + 2 * k, 49 + 2 * k] (begun b k x) ss ∧
      b.keeperFrame v k x = (withSlots (begun b k x) ss).endFrame k x.retain := by
  obtain ⟨ss, hss, hread⟩ := readOwnSlots_plain (begun b k x) k hk (by omega)
  refine ⟨ss, hss, ?_⟩
  rw [keeperFrame_eq v b k x hm, if_neg (by omega), hread, roleFrame_issue _ v k hrole]

/-- R294: with its slots read the keeper of an idle half may rest (Table 12.6). -/
theorem keeperMayRest_idle (b : Body) (k : Nat) (ss : List Slot) (hk : k < 8) (hrole : k % 4 = 1)
    (hss : Drained [33, 34, 35, 36, 37, 38, 39, 48 + 2 * k, 49 + 2 * k] b ss) (hidle : ∀ x ∈ b.parts, x.fstate ≠ .running)
    (hsched : b.sched.entries = []) (hwake : b.doves.wake.getD k false = false) : (withSlots b ss).keeperMayRest k = true := by
  have hslots : ((withSlots b ss).ownSlots k).any (fun s => ((withSlots b ss).slot s).full) = false := by
    rw [ownSlots_plain _ k (leads_plain _ k hk (by omega))]
    refine List.any_eq_false.2 fun s hs => ?_
    rw [hss.slot, if_pos hs]
    exact Bool.false_ne_true
  have hparts : b.parts.any (fun x => decide (x.fstate = .running) && x.pitches.any (fun i => decide (i / 2 = k / 4))) = false :=
    List.any_eq_false.2 fun x hx => by rw [decide_eq_false (hidle x hx)]; exact Bool.false_ne_true
  have hquiet : (withSlots b ss).doves.wake.getD k false = false := hwake
  rw [Body.keeperMayRest, hslots, hquiet, show (withSlots b ss).parts = b.parts from rfl, hparts,
    show (withSlots b ss).sched.entries = [] from hsched, decide_eq_true (show k % 4 ≠ 0 by omega)]
  rfl

theorem issueFrame (s : State) (k : Nat) (late : Bool) (hk : k < 8) (hrole : k % 4 = 1) (hm : s.body.marksFrames k = true)
    (hasks : s.body.doves.asks = []) (hlen : k < s.body.keepers.cores.length) : ∃ t : State,
    exec (.keeperFrame k ⟨late, false⟩) s = .next t ∧ t.vault = s.vault ∧ t.pending = s.pending ∧
    t.body.clock = { s.body.clock with now := max s.body.clock.now (s.body.frameStart (s.body.keeper k)) } ∧
    t.body.keeper k = { s.body.keeper k with
      mode := .on, frameAt := s.body.frameStart (s.body.keeper k), covers := s.body.keeperDown ((k + 4) % 8) } ∧
    (∀ j, j ≠ k → j ≠ (k + 4) % 8 → t.body.keeper j = s.body.keeper j) ∧
    t.body.keeper ((k + 4) % 8) = { s.body.keeper ((k + 4) % 8) with covers := false } ∧
    (∀ i, i ∈ [33, 34, 35, 36, 37, 38, 39, 48 + 2 * k, 49 + 2 * k] → (t.body.slot i).full = false) ∧
    (∀ i, i < 33 → t.body.slot i = s.body.slot i) ∧
    t.body = { s.body with clock := t.body.clock, keepers := t.body.keepers, doves := t.body.doves, pitches := t.body.pitches,
                           engines := t.body.engines } := by
  obtain ⟨ss, hss, hframe⟩ := keeperFrame_issue s.vault s.body k ⟨late, false⟩ hk hrole hm
  have hexec := exec_keeperFrame s k ⟨late, false⟩ hk hasks
  rw [hframe, endFrame_stays] at hexec
  refine ⟨_, hexec, rfl, rfl, rfl, begun_keeper_self s.body k _ hlen, fun j => begun_keeper_rest s.body k j _, begun_keeper_other s.body k _,
    fun i hi => by rw [hss.slot, if_pos hi], fun i hi => ?_, rfl⟩
  have hnot : i ∉ [33, 34, 35, 36, 37, 38, 39, 48 + 2 * k, 49 + 2 * k] := by
    simp only [List.mem_cons, List.not_mem_nil, or_false]
    omega
  rw [hss.slot, if_neg hnot]
  rfl

theorem issueFrame_rests (s : State) (k : Nat) (late : Bool) (hk : k < 8) (hrole : k % 4 = 1) (hm : s.body.marksFrames k = true)
    (hasks : s.body.doves.asks = []) (hlen : k < s.body.keepers.cores.length) (hidle : ∀ x ∈ s.body.parts, x.fstate ≠ .running)
    (hsched : s.body.sched.entries = []) : ∃ t : State,
    exec (.keeperFrame k ⟨late, true⟩) s = .next t ∧ (t.body.keeper k).mode = .retain := by
  obtain ⟨ss, hss, hframe⟩ := keeperFrame_issue s.vault s.body k ⟨late, true⟩ hk hrole hm
  have hwake : (begun s.body k ⟨late, true⟩).doves.wake.getD k false = false := alter_getD_fixed k _ s.body.doves.wake false rfl
  have hrests := keeperMayRest_idle (begun s.body k ⟨late, true⟩) k ss hk hrole hss hidle hsched hwake
  have hcores : k < (withSlots (begun s.body k ⟨late, true⟩) ss).keepers.cores.length := by
    show k < (alter _ _ (alter _ _ s.body.keepers.cores)).length
    rw [alter_length, alter_length]
    exact hlen
  have hexec := exec_keeperFrame s k ⟨late, true⟩ hk hasks
  rw [hframe] at hexec
  refine ⟨_, hexec, ?_⟩
  dsimp only
  rw [Body.endFrame, hrests, Bool.and_self, if_pos rfl, Body.keeper, alter_getD, if_pos ⟨rfl, hcores⟩]

end Sys2Proof.Proofs
end

section
/-!
PROOFS. A FAULT keeper's poll (12, R294; 14, R337, R341, Tables 14.2 and 14.4) of a page with one cause, lost beats.
-/

namespace Sys2Proof.Proofs

open Sys2Proof Sys2Proof.Machine Sys2Proof.Laws

/-! ## The bandstand's page (R412, Table 14.2) -/

/-- No other source has its place. -/
theorem eq_band_of_pageSlot (a i : Nat) (h : pageSlot a i = some 92) : a = tBand ∧ i = 0 := by
  unfold pageSlot at h
  split at h
  · next hlisted =>
    obtain ⟨hlo, hhi, hi⟩ := hlisted
    interval_cases a <;> simp [sourceInstances, tBand] at h hi ⊢ <;> omega
  · cases h

theorem band_mem_allSources : (tBand, 0) ∈ allSources := by decide +kernel

/-- Every FAULT keeper polls the pages of the module. -/
theorem whistlePage_band (b : Body) (i : Nat) : b.whistlePage tBand i = 2 := rfl

theorem page_timer_none (b : Body) (h : ∀ x ∈ b.whistle.pages, x.timer = none) (a i : Nat) : (b.page a i).timer = none := by
  unfold Body.page
  cases pageSlot a i with
  | none => rfl
  | some n =>
    rcases Nat.lt_or_ge n b.whistle.pages.length with hn | hn
    · refine h (b.whistle.pages.getD n FaultPage.reset) ?_
      rw [List.getD_eq_getElem _ _ hn]
      exact List.getElem_mem hn
    · exact congrArg FaultPage.timer (List.getD_eq_default _ FaultPage.reset hn)

/-! ## One page (R337) -/

/-- A page without a cause and without a timer. -/
def Quiet (b : Body) (s : Nat × Nat) : Prop := (b.page s.1 s.2).timer = none ∧ (b.page s.1 s.2).unhandled = []

theorem pollPage_noTimer (b : Body) (s : Nat × Nat) (h : (b.page s.1 s.2).timer = none) : b.pollPage s = b.acknowledge s.1 s.2 := by
  unfold Body.pollPage
  rw [h]

theorem pollPage_quiet (b : Body) (s : Nat × Nat) (h : Quiet b s) : b.pollPage s = b := by
  rw [pollPage_noTimer b s h.1]
  unfold Body.acknowledge
  dsimp only
  rw [h.2]

/-- What an acknowledgement makes of the page. -/
def acked (x : FaultPage) : FaultPage := { x with timer := none, unhandled := [], expired := false }

theorem acked_noTimer (x : FaultPage) (h : x.timer = none) : acked x = { x with unhandled := [], expired := false } := by
  rw [acked, ← h]

/-- The Whistle once the bandstand's page is acknowledged, late or in time. -/
def withAck (b : Body) (wh : List WhistlePage) : Body :=
  { b with whistle := { b.whistle with pages := alter 92 acked b.whistle.pages, wh := wh } }

/-- Table 14.9: no chapter has a keeper do more about lost beats, and the module's own attention word was set as they were latched. -/
theorem handle_beatLost (b : Body) (m : Word64) (hk : msgKind m = kBeatLost) (ht : msgType m = tBand) :
    (b.tellAffected m).handle m = b := by
  have htold : b.tellAffected m = b := by
    have hnamed : b.attentionOf m = some 4 := by
      unfold Body.attentionOf
      rw [ht, whistlePage_band, if_neg (by decide), if_pos rfl]
    unfold Body.tellAffected
    rw [hnamed]
    rfl
  rw [htold]
  unfold Body.handle
  rw [hk]
  rfl

theorem acknowledge_beatLost (b : Body) (m : Word64) (hu : (b.page tBand 0).unhandled = [m]) (hk : msgKind m = kBeatLost)
    (ht : msgType m = tBand) : ∃ wh, b.acknowledge tBand 0 = withAck b wh := by
  unfold Body.acknowledge
  dsimp only
  rw [hu]
  dsimp only [List.foldl]
  rw [handle_beatLost _ m hk ht]
  split
  · exact ⟨_, rfl⟩
  · exact ⟨b.whistle.wh, rfl⟩

theorem withAck_page_other (b : Body) (wh : List WhistlePage) (a i : Nat) (h : (a, i) ≠ (tBand, 0)) :
    (withAck b wh).page a i = b.page a i := by
  unfold Body.page
  cases hs : pageSlot a i with
  | none => rfl
  | some n =>
    have hne : ¬92 = n := fun e => by
      subst e
      obtain ⟨rfl, rfl⟩ := eq_band_of_pageSlot a i hs
      exact h rfl
    show (alter 92 acked b.whistle.pages).getD n _ = _
    rw [alter_getD, if_neg fun e => hne e.1]

theorem withAck_page_band (b : Body) (wh : List WhistlePage) (h : (b.page tBand 0).unhandled ≠ []) :
    (withAck b wh).page tBand 0 = acked (b.page tBand 0) := by
  have hin : 92 < b.whistle.pages.length := by
    by_contra hn
    refine h ?_
    have hno : b.page tBand 0 = FaultPage.reset := List.getD_eq_default _ FaultPage.reset (Nat.le_of_not_lt hn)
    rw [hno]
    rfl
  show (alter 92 acked b.whistle.pages).getD 92 _ = _
  rw [alter_getD, if_pos ⟨rfl, hin⟩]
  rfl

/-! ## Every page that a keeper polls -/

theorem pollPages_quiet (ss : List (Nat × Nat)) (b : Body) (h : ∀ s, Quiet b s) : ss.foldl Body.pollPage b = b := by
  induction ss with
  | nil => rfl
  | cons s ss ih => rw [List.foldl_cons, pollPage_quiet b s (h s), ih]

/-- Of pages of which the bandstand's alone has a cause, its acknowledgement is what a poll leaves. -/
theorem polls_band (ss : List (Nat × Nat)) (b : Body) (m : Word64) (hmem : (tBand, 0) ∈ ss) (htimer : ∀ a i, (b.page a i).timer = none)
    (hu : (b.page tBand 0).unhandled = [m]) (hk : msgKind m = kBeatLost) (ht : msgType m = tBand)
    (hothers : ∀ a i, (a, i) ≠ (tBand, 0) → (b.page a i).unhandled = []) : ∃ wh, ss.foldl Body.pollPage b = withAck b wh := by
  induction ss with
  | nil => exact absurd hmem List.not_mem_nil
  | cons s ss ih =>
    rw [List.foldl_cons]
    by_cases hs : s = (tBand, 0)
    · obtain ⟨wh, hack⟩ := acknowledge_beatLost b m hu hk ht
      have hpage := withAck_page_band b wh (by rw [hu]; exact List.cons_ne_nil m [])
      refine ⟨wh, ?_⟩
      subst hs
      rw [pollPage_noTimer b (tBand, 0) (htimer _ _), hack]
      refine pollPages_quiet ss _ fun x => ?_
      by_cases hx : x = (tBand, 0)
      · subst hx
        unfold Quiet
        rw [hpage]
        exact ⟨rfl, rfl⟩
      · unfold Quiet
        rw [withAck_page_other b wh x.1 x.2 hx]
        exact ⟨htimer _ _, hothers _ _ hx⟩
    · rw [pollPage_quiet b s ⟨htimer _ _, hothers _ _ hs⟩]
      exact ih ((List.mem_cons.1 hmem).resolve_left fun e => hs e.symm)

theorem pollPages_band (b : Body) (hs : List Nat) (m : Word64) (htimer : ∀ a i, (b.page a i).timer = none)
    (hu : (b.page tBand 0).unhandled = [m]) (hk : msgKind m = kBeatLost) (ht : msgType m = tBand)
    (hothers : ∀ a i, (a, i) ≠ (tBand, 0) → (b.page a i).unhandled = []) : ∃ wh, b.pollPages hs = withAck b wh :=
  polls_band _ b m (List.mem_filter.2 ⟨band_mem_allSources, by rw [whistlePage_band]; exact Bool.or_true _⟩) htimer hu hk ht hothers

/-! ## The frame -/

/-- R339, R340: with no fatal sequence open there is nothing to record. -/
theorem roleFrame_fault (b : Body) (v : Vault) (k : Nat) (h : k % 4 = 0) (hno : ∀ n, (b.half n).fatal = none) : b.roleFrame v k = b := by
  have hreport : ∀ n, Body.reportHalf k b n = b := fun n => by
    unfold Body.reportHalf
    rw [hno n]
  simp only [Body.roleFrame, h, List.foldl_cons, List.foldl_nil, hreport]

/-- Table 12.6: a FAULT keeper never rests. -/
theorem endFrame_fault (b : Body) (k : Nat) (want : Bool) (h : k % 4 = 0) : b.endFrame k want = b := by
  have hno : b.keeperMayRest k = false := by
    rw [Body.keeperMayRest, decide_eq_false fun hne : k % 4 ≠ 0 => hne h]
    rfl
  rw [Body.endFrame, hno, Bool.and_false, if_neg Bool.false_ne_true]

theorem faultFrame (s : State) (m : Word64) (x : FrameRun) (hm : s.body.marksFrames 0 = true) (hasks : s.body.doves.asks = [])
    (hu : (s.body.page tBand 0).unhandled = [m]) (hk : msgKind m = kBeatLost) (ht : msgType m = tBand)
    (htimers : ∀ x ∈ s.body.whistle.pages, x.timer = none)
    (hothers : ∀ a i, (a, i) ≠ (tBand, 0) → (s.body.page a i).unhandled = []) (hno : ∀ h, (s.body.half h).fatal = none) : ∃ t : State,
    exec (.keeperFrame 0 x) s = .next t ∧
    t.body.page tBand 0 = { s.body.page tBand 0 with unhandled := [], expired := false } ∧
    (∀ a i, (a, i) ≠ (tBand, 0) → t.body.page a i = s.body.page a i) ∧ t.body.parts = s.body.parts ∧ t.body.store = s.body.store := by
  have htimer := page_timer_none s.body htimers
  obtain ⟨wh, hpoll⟩ := pollPages_band (begun s.body 0 x) ((begun s.body 0 x).roleHalves 0) m htimer hu hk ht hothers
  obtain ⟨ss, -, hread⟩ := readOwnSlots_plain (withAck (begun s.body 0 x) wh) 0 (by decide) (by decide)
  have hexec := exec_keeperFrame s 0 x (by decide) hasks
  rw [keeperFrame_eq s.vault s.body 0 x hm, if_pos rfl, hpoll, hread, roleFrame_fault (withSlots (withAck (begun s.body 0 x) wh) ss) s.vault 0 rfl hno,
    endFrame_fault _ 0 x.retain rfl] at hexec
  refine ⟨_, hexec, ?_, fun a i => withAck_page_other (begun s.body 0 x) wh a i, rfl, rfl⟩
  have hcause : ((begun s.body 0 x).page tBand 0).unhandled ≠ [] := fun e => List.cons_ne_nil m [] (hu.symm.trans e)
  exact (withAck_page_band (begun s.body 0 x) wh hcause).trans (acked_noTimer _ (htimer tBand 0))

end Sys2Proof.Proofs
end

section
/-!
PROOFS. The lead MODULE keeper's frame over rings with nothing to read (12, R291, R306, Table 12.5; 13, R317): attention words.
-/

namespace Sys2Proof.Proofs

open Sys2Proof Sys2Proof.Machine Sys2Proof.Laws

/-! ## Rings and commands with nothing to do (R317) -/

theorem serveRings_unread (v : Vault) (b : Body) (h : ∀ r < 5, (b.ring r).entries = []) : b.serveRings v = b := by
  have hone : ∀ r < 5, b.serveRing v r = b := fun r hr => by
    unfold Body.serveRing
    rw [readRing_unread v r 16 b (h r hr)]
    exact ite_self b
  have hfold : ∀ rs : List Nat, (∀ r ∈ rs, r < 5) → rs.foldl (fun c r => c.serveRing v r) b = b := fun rs => by
    induction rs with
    | nil => exact fun _ => rfl
    | cons r rs ih =>
      intro hrs
      rw [List.foldl_cons, hone r (hrs r List.mem_cons_self), ih fun q hq => hrs q (List.mem_cons_of_mem _ hq)]
  exact hfold (List.range 5) fun r hr => List.mem_range.1 hr

/-- A new frame changes what has been read in it, and no entry. -/
theorem newFrame_entries (b : Body) (r : Nat) (h : (b.ring r).entries = []) : (b.newFrame.ring r).entries = [] := by
  rw [← h]
  simp only [Body.newFrame, Body.ring, List.getD_eq_getElem?_getD, List.getElem?_map]
  cases b.rings[r]? <;> rfl

/-! ## Attention words (R306) -/

/-- The word of one ring's attention slot, where bits are pending and the slot is empty. -/
def sendOne (b : Body) (i : Nat) : Body :=
  if b.doves.attn.getD i 0 ≠ 0 ∧ (b.slot (24 + i)).full = false then
    { b with doves := { b.doves with
      slots := alter (24 + i) (fun x => { x with word := BitVec.ofNat 64 (b.doves.attn.getD i 0), full := true }) b.doves.slots,
      attn := alter i (fun _ => 0) b.doves.attn } }
  else b

theorem sendAttention_eq (b : Body) : b.sendAttention = (List.range 5).foldl sendOne b := rfl

/-- What sending other words leaves of the module, and of word `i`. -/
structure Sends (i : Nat) (b c : Body) : Prop where
  form : ∃ ss at_, c = { b with doves := { b.doves with slots := ss, attn := at_ } }
  slot : c.slot (24 + i) = b.slot (24 + i)
  attn : c.doves.attn.getD i 0 = b.doves.attn.getD i 0
  length : c.doves.slots.length = b.doves.slots.length

theorem Sends.refl (i : Nat) (b : Body) : Sends i b b := ⟨⟨_, _, rfl⟩, rfl, rfl, rfl⟩

theorem Sends.trans {i : Nat} {b c d : Body} (h : Sends i b c) (g : Sends i c d) : Sends i b d where
  form := by
    obtain ⟨ss, at_, hc⟩ := h.form
    obtain ⟨ss', at_', hd⟩ := g.form
    exact ⟨ss', at_', by rw [hd, hc]⟩
  slot := g.slot.trans h.slot
  attn := g.attn.trans h.attn
  length := g.length.trans h.length

theorem sendOne_other (b : Body) (i j : Nat) (h : j ≠ i) : Sends i b (sendOne b j) := by
  unfold sendOne
  split
  · refine ⟨⟨_, _, rfl⟩, ?_, ?_, alter_length _ _ _⟩
    · show (alter (24 + j) _ b.doves.slots).getD (24 + i) _ = _
      rw [alter_getD, if_neg fun e => h (Nat.add_left_cancel e.1)]
      rfl
    · show (alter j _ b.doves.attn).getD i 0 = _
      rw [alter_getD, if_neg fun e => h e.1]
  · exact .refl i b

theorem sends_others (js : List Nat) (b : Body) (i : Nat) (h : i ∉ js) : Sends i b (js.foldl sendOne b) := by
  induction js generalizing b with
  | nil => exact .refl i b
  | cons j js ih =>
    rw [List.mem_cons, not_or] at h
    exact .trans (sendOne_other b i j (Ne.symm h.1)) (ih (sendOne b j) h.2)

/-- R306: the pending bits of word `i` are in its slot, and pending no longer. -/
theorem sendAttention_word (b : Body) (i : Nat) (hi : i < 5) (hw : b.doves.attn.getD i 0 ≠ 0) (hslot : (b.slot (24 + i)).full = false)
    (hlen : b.doves.slots.length = 64) : ∃ ss at_, b.sendAttention = { b with doves := { b.doves with slots := ss, attn := at_ } } ∧
      b.sendAttention.slot (24 + i) = { b.slot (24 + i) with word := BitVec.ofNat 64 (b.doves.attn.getD i 0), full := true } ∧
      b.sendAttention.doves.attn.getD i 0 = 0 := by
  have hbefore := sends_others (List.range i) b i (by simp)
  have hafter := sends_others (List.range' (i + 1) (5 - (i + 1))) (sendOne ((List.range i).foldl sendOne b) i) i (by simp)
  rw [sendAttention_eq, range_around 5 i hi, List.foldl_append, List.foldl_cons]
  generalize (List.range i).foldl sendOne b = c at hbefore hafter ⊢
  have hsent : sendOne c i = { c with doves := { c.doves with
      slots := alter (24 + i) (fun x => { x with word := BitVec.ofNat 64 (c.doves.attn.getD i 0), full := true }) c.doves.slots,
      attn := alter i (fun _ => 0) c.doves.attn } } :=
    if_pos ⟨by rw [hbefore.attn]; exact hw, by rw [hbefore.slot]; exact hslot⟩
  obtain ⟨ss, at_, hc⟩ := hbefore.form
  obtain ⟨ss', at_', hd⟩ := hafter.form
  refine ⟨ss', at_', by rw [hd, hsent, hc], hafter.slot.trans ?_, hafter.attn.trans ?_⟩
  · rw [hsent]
    show (alter (24 + i) _ c.doves.slots).getD (24 + i) _ = _
    rw [alter_getD, if_pos ⟨rfl, by rw [hbefore.length, hlen]; omega⟩, hbefore.attn, ← hbefore.slot]
    rfl
  · rw [hsent]
    exact alter_getD_fixed i _ c.doves.attn 0 rfl

/-! ## The frame -/

theorem leads_leadKeeper (b : Body) : b.leads b.leadKeeper = true := by
  rw [Body.leads, decide_eq_true rfl]
  rfl

theorem roleFrame_module (b : Body) (v : Vault) (k : Nat) (h : k % 4 = 3) : b.roleFrame v k = b.moduleFrame v k := by
  simp only [Body.roleFrame, h]

/-- With no entry to read and no command open the lead keeper's own task is its attention words. -/
theorem moduleFrame_idle (b : Body) (v : Vault) (k : Nat) (hk : k = b.leadKeeper) (hactive : b.active = [])
    (hrings : ∀ r < 5, (b.ring r).entries = []) : b.moduleFrame v k = b.newFrame.sendAttention := by
  rw [hk, Body.moduleFrame, if_pos (leads_leadKeeper b), serveRings_unread v _ fun r hr => newFrame_entries b r (hrings r hr),
    start_idle v b.newFrame hactive]

/-- Its slots: no doorbell has a word. -/
theorem readOwnSlots_lead (b : Body) (k : Nat) (hk : k = b.leadKeeper) (hbells : ∀ r < 5, (b.slot (16 + r)).full = false) : ∃ ss,
    Drained (b.ownSlots k) b ss ∧ b.readOwnSlots k = withSlots b ss := by
  rw [readOwnSlots_eq]
  refine readOwns_drained _ b fun s hs hd => ?_
  have hlo : 16 ≤ s := by
    rw [hk, Body.ownSlots, if_pos (leads_leadKeeper b)] at hs
    simp only [List.mem_append, List.mem_range'_1, List.mem_cons, List.not_mem_nil, or_false] at hs
    omega
  have hbell := hbells (s - 16) (by omega)
  rw [show 16 + (s - 16) = s by omega] at hbell
  exact ⟨hlo, hbell⟩

/-- No attention slot is among the slots that it receives. -/
theorem attention_not_own (b : Body) (k i : Nat) (hk : k = b.leadKeeper) (hi : i < 5) : 24 + i ∉ b.ownSlots k := by
  have hlead := leadKeeper_cases b
  rw [hk, Body.ownSlots, if_pos (leads_leadKeeper b)]
  simp only [List.mem_append, List.mem_range'_1, List.mem_cons, List.not_mem_nil, or_false]
  omega

theorem endFrame_form (b : Body) (k : Nat) (want : Bool) : ∃ ks, b.endFrame k want = { b with keepers := ks } := by
  unfold Body.endFrame
  split
  · exact ⟨_, rfl⟩
  · exact ⟨b.keepers, rfl⟩

/-- The whole frame: slots read, a new frame for the rings, attention words, and the keeper's own state. -/
theorem keeperFrame_lead (v : Vault) (b : Body) (k : Nat) (x : FrameRun) (hk : k = b.leadKeeper) (hm : b.marksFrames k = true)
    (hactive : b.active = []) (hrings : ∀ r < 5, (b.slot (16 + r)).full = false ∧ (b.ring r).entries = []) : ∃ ss ks,
    Drained ((begun b k x).ownSlots k) (begun b k x) ss ∧
    b.keeperFrame v k x = { (withSlots (begun b k x) ss).newFrame.sendAttention with keepers := ks } := by
  have hrole : k % 4 = 3 := by
    have := leadKeeper_cases b
    omega
  have hlead : k = (begun b k x).leadKeeper := hk
  obtain ⟨ss, hss, hread⟩ := readOwnSlots_lead (begun b k x) k hlead fun r hr => (hrings r hr).1
  have hidle := moduleFrame_idle (withSlots (begun b k x) ss) v k hlead hactive fun r hr => (hrings r hr).2
  obtain ⟨ks, hend⟩ := endFrame_form (withSlots (begun b k x) ss).newFrame.sendAttention k x.retain
  refine ⟨ss, ks, hss, ?_⟩
  rw [keeperFrame_eq v b k x hm, if_neg (by omega), hread, roleFrame_module _ v k hrole, hidle, hend]

/-- The attention slots stand as they were when the keeper has read its own. -/
theorem attention_kept (b : Body) (k i : Nat) (ss : List Slot) (hk : k = b.leadKeeper) (hi : i < 5) (h : Drained (b.ownSlots k) b ss) :
    (withSlots b ss).newFrame.slot (24 + i) = b.slot (24 + i) := by
  have hslot := h.slot (24 + i)
  rw [if_neg (attention_not_own b k i hk hi)] at hslot
  exact hslot

theorem moduleFrame_attention (s : State) (w i : Nat) (x : FrameRun) (hm : s.body.marksFrames s.body.leadKeeper = true)
    (hasks : s.body.doves.asks = []) (hactive : s.body.active = [])
    (hrings : ∀ r, r < 5 → (s.body.slot (16 + r)).full = false ∧ (s.body.ring r).entries = []) (hi : i < 5)
    (hw : s.body.doves.attn.getD i 0 = w) (hne : w ≠ 0) (hslot : (s.body.slot (24 + i)).full = false)
    (hlen : s.body.doves.slots.length = 64) : ∃ t : State,
    exec (.keeperFrame s.body.leadKeeper x) s = .next t ∧
    t.body.slot (24 + i) = { s.body.slot (24 + i) with word := BitVec.ofNat 64 w, full := true } ∧
    t.body.doves.attn.getD i 0 = 0 ∧ t.body.rings = s.body.rings.map (fun r => { r with reads := 0 }) ∧ t.body.parts = s.body.parts ∧
    t.body.store = s.body.store := by
  have hlead := leadKeeper_cases s.body
  obtain ⟨ss, ks, hss, hframe⟩ := keeperFrame_lead s.vault s.body s.body.leadKeeper x rfl hm hactive hrings
  have hkept := attention_kept (begun s.body s.body.leadKeeper x) s.body.leadKeeper i ss rfl hi hss
  have hlength := hss.length
  obtain ⟨c, hc⟩ : ∃ c, c = (withSlots (begun s.body s.body.leadKeeper x) ss).newFrame := ⟨_, rfl⟩
  have hstands : c.slot (24 + i) = s.body.slot (24 + i) := hc ▸ hkept
  have hpending : c.doves.attn.getD i 0 = w := hc ▸ hw
  have hslots : c.doves.slots.length = 64 := hc ▸ hlength.trans hlen
  have hreads : c.rings = s.body.rings.map (fun r => { r with reads := 0 }) := hc ▸ rfl
  have hrest : c.parts = s.body.parts ∧ c.store = s.body.store := hc ▸ ⟨rfl, rfl⟩
  rw [← hc] at hframe
  obtain ⟨ss', at_, hsent, hword, hdone⟩ := sendAttention_word c i hi (hpending ▸ hne) (by rw [hstands]; exact hslot) hslots
  rw [hsent] at hframe hword hdone
  rw [hstands, hpending] at hword
  have hexec := exec_keeperFrame s s.body.leadKeeper x (by omega) hasks
  rw [hframe] at hexec
  exact ⟨_, hexec, hword, hdone, hreads, hrest⟩

end Sys2Proof.Proofs
end

section
/-!
PROOFS. A keeper's watchdog (12, R296), the wake events and the Lodge engine's rest (12, R303, Table 12.6).
-/

namespace Sys2Proof.Proofs

open Sys2Proof Sys2Proof.Machine Sys2Proof.Laws

/-! ## The watchdog (R296) -/

theorem exec_keeperWatchdogExpired (s : State) (k : Nat) (hk : k < 8) :
    exec (.keeperWatchdogExpired k) s = .next { s with body := s.body.watchdogExpired k } :=
  onBody_of (decide (k < 8)) s (fun b => b.watchdogExpired k) (decide_eq_true hk)

theorem pageSlot_keeper (k : Nat) (hk : k < 8) : ∃ n, pageSlot tKeeper k = some n := by
  interval_cases k <;> exact ⟨_, rfl⟩

/-- A keeper's message names its half alone. -/
theorem fatalHalves_keeper (b : Body) (k : Nat) (hk : k < 8) : b.fatalHalves tKeeper k = [k / 4] := by
  interval_cases k <;> rfl

theorem keeperRuns_iff (b : Body) (k : Nat) : b.keeperRuns k = true ↔
    (b.keeper k).mode = .on ∧ (b.keeper k).failed = false ∧ b.fenced (k / 4) = false := by
  simp [Body.keeperRuns, and_assoc]

/-- The body once the keeper restarts from ROM, at the time its watchdog expires. -/
def restarting (b : Body) (k : Nat) : Body :=
  { b.until_ ((b.keeper k).frameAt + 25000) with keepers := { b.keepers with
    restarts := wrap 32 (b.keepers.restarts + 1)
    cores := alter k (fun x => { x with
      mode := .restarting, expiredAt := some (max b.clock.now ((b.keeper k).frameAt + 25000)) }) b.keepers.cores } }

/-- A second expiry within 1 s, or the other half is FENCED. -/
def expiresAgain (b : Body) (k : Nat) : Bool :=
  (b.keeper k).expiredAt.any (fun t => decide (max b.clock.now ((b.keeper k).frameAt + 25000) < t + 1000000000)) || b.fenced (1 - k / 4)

theorem watchdogExpired_eq (b : Body) (k : Nat) (hp : b.powered = true) (hr : b.keeperRuns k = true) : b.watchdogExpired k =
    if expiresAgain b k then ((restarting b k).raise tKeeper k .contained kKeeperRestart 0).raise tKeeper k .fatal kKeeperRepeat 0
    else (restarting b k).raise tKeeper k .contained kKeeperRestart 0 := if_pos (by rw [hp, hr]; rfl)

theorem keeper_restarting (b : Body) (k : Nat) (hk : k < b.keepers.cores.length) : (restarting b k).keeper k = { b.keeper k with
    mode := .restarting, expiredAt := some (max b.clock.now ((b.keeper k).frameAt + 25000)) } := by
  show (alter k _ b.keepers.cores).getD k _ = _
  rw [alter_getD, if_pos ⟨rfl, hk⟩]
  rfl

theorem watchdog_restarts (s : State) (k : Nat) (hk : k < 8) (hp : s.body.powered = true) (hr : s.body.keeperRuns k = true)
    (hfirst : (s.body.keeper k).expiredAt = none) (hother : s.body.fenced (1 - k / 4) = false) : ∃ t : State,
    exec (.keeperWatchdogExpired k) s = .next t ∧
    t.body.keeper k = { s.body.keeper k with
      mode := .restarting, expiredAt := some (max s.body.clock.now ((s.body.keeper k).frameAt + 25000)) } ∧
    t.body.keepers.restarts = (s.body.keepers.restarts + 1) % 2 ^ 32 ∧
    (∀ j, t.body.half j = s.body.half j) ∧ t.body.parts = s.body.parts := by
  have honce : ¬expiresAgain s.body k = true := by
    rw [expiresAgain, hfirst, hother]
    exact Bool.false_ne_true
  obtain ⟨hmode, -, -⟩ := (keeperRuns_iff s.body k).1 hr
  have hlen := keeper_lt s.body k (by rw [hmode]; decide)
  obtain ⟨n, hslot⟩ := pageSlot_keeper k hk
  obtain ⟨ps, wh, mf, sc, dv, hraise⟩ := raise_contained_form (restarting s.body k) tKeeper k kKeeperRestart 0 n hslot
  have hexec := exec_keeperWatchdogExpired s k hk
  rw [watchdogExpired_eq s.body k hp hr, if_neg honce, hraise] at hexec
  exact ⟨_, hexec, keeper_restarting s.body k hlen, rfl, fun j => rfl, rfl⟩

theorem watchdog_fatal (s : State) (k a : Nat) (hk : k < 8) (hp : s.body.powered = true) (hr : s.body.keeperRuns k = true)
    (hlast : (s.body.keeper k).expiredAt = some a)
    (hsoon : max s.body.clock.now ((s.body.keeper k).frameAt + 25000) < a + 1000000000) (hnone : (s.body.half (k / 4)).fatal = none)
    (hhalves : s.body.whistle.halves.length = 2) : ∃ t : State,
    exec (.keeperWatchdogExpired k) s = .next t ∧ (t.body.half (k / 4)).fatal.isSome = true := by
  have hagain : expiresAgain s.body k = true := by
    rw [expiresAgain, hlast, Option.any_some, decide_eq_true hsoon]
    rfl
  obtain ⟨-, -, hfree⟩ := (keeperRuns_iff s.body k).1 hr
  obtain ⟨n, hslot⟩ := pageSlot_keeper k hk
  obtain ⟨ht, hi⟩ := pageSlot_bounds tKeeper k n hslot
  obtain ⟨ps, wh, mf, sc, dv, hraise⟩ := raise_contained_form (restarting s.body k) tKeeper k kKeeperRestart 0 n hslot
  have hexec := exec_keeperWatchdogExpired s k hk
  rw [watchdogExpired_eq s.body k hp hr, if_pos hagain, hraise, raise_fatal _ tKeeper k _ _ n ht hi hslot] at hexec
  obtain ⟨ps', wh', mf', hfatal⟩ := fatalMessage_half
    { restarting s.body k with
      whistle := { (restarting s.body k).whistle with pages := ps, wh := wh, moduleFirst := mf }, score := sc, doves := dv }
    (faultWord tKeeper k .fatal false false kKeeperRepeat 0) (k / 4)
    (by rw [msgType_faultWord _ _ _ _ _ _ _ ht hi, msgInst_faultWord _ _ _ _ _ _ _ ht hi]; exact fatalHalves_keeper _ k hk) hnone hfree
  rw [hfatal] at hexec
  refine ⟨_, hexec, ?_⟩
  have hlen : k / 4 < s.body.whistle.halves.length := by omega
  show ((alter (k / 4) _ s.body.whistle.halves).getD (k / 4) _).fatal.isSome = true
  rw [alter_getD, if_pos ⟨rfl, hlen⟩]
  rfl

/-! ## Wake events (R303) -/

theorem exec_wakeEvent_keeper (s : State) (k : Nat) (hk : k < 8) :
    exec (.wakeEvent (.keeper k)) s = .next { s with body := s.body.wakeKeeper k } :=
  onAll_of (WakeDomain.wf (.keeper k)) s (fun v b => (v, b.wakeKeeper k)) (decide_eq_true hk)

theorem exec_wakeEvent_lodge (s : State) : exec (.wakeEvent .lodgeEngine) s =
    .next { s with vault := (wakeEngine s.vault s.body).1, body := (wakeEngine s.vault s.body).2 } := rfl

theorem keeper_wakes (s : State) (k : Nat) (hk : k < 8) (hwake : s.body.doves.wake.getD k false = true)
    (hrests : (s.body.keeper k).mode = .retain ∨ (s.body.keeper k).mode = .off) :
    exec (.wakeEvent (.keeper k)) s = .next { s with body := { s.body with keepers := { s.body.keepers with
      cores := alter k (fun x => { x with mode := .on, frameAt := s.body.clock.now }) s.body.keepers.cores } } } := by
  rw [exec_wakeEvent_keeper s k hk, Body.wakeKeeper, if_pos hwake]
  dsimp only
  rw [alter_congr]
  intro x hx
  have hkeeper : s.body.keeper k = x := by rw [Body.keeper, List.getD_eq_getElem?_getD, hx]; rfl
  rw [hkeeper] at hrests
  rcases hrests with h | h <;> rw [h]

/-- The Lodge as its engine returns to ON. -/
def wokenVault (s : State) : Vault := { s.vault with engineOn := true, idleSince := s.body.clock.now }

/-- The body with the engine's wake event taken. -/
def wokenBody (s : State) : Body :=
  { s.body with doves := { s.body.doves with wake := alter 8 (fun _ => false) s.body.doves.wake } }

theorem wakeEngine_polls (s : State) (h : s.body.doves.wake.getD 8 false = true) :
    wakeEngine s.vault s.body = pollEngine (wokenVault s) (wokenBody s) := if_pos h

/-- An engine that finds no request has nothing to do. -/
theorem pollEngine_none (v : Vault) (b : Body) (hmail : b.doves.mail = []) (hasks : b.doves.asks = []) :
    pollEngine v b = (v, b.takeMail) := by
  have hdue : (List.range 48).flatMap (fun s => (b.doves.mail.filter (fun m => decide (m.1 = s))).map (·.2)) = [] := by
    rw [hmail]
    exact List.flatMap_eq_nil_iff.2 fun s hs => rfl
  unfold pollEngine
  dsimp only
  rw [hdue, List.foldl_nil, show b.takeMail.doves.asks = [] from hasks]
  rfl

theorem lodge_wakes (s : State) (hwake : s.body.doves.wake.getD 8 false = true) (hmail : s.body.doves.mail = [])
    (hasks : s.body.doves.asks = []) : exec (.wakeEvent .lodgeEngine) s = .next { s with
      vault := { s.vault with engineOn := true, idleSince := s.body.clock.now },
      body := { s.body with doves := { s.body.doves with wake := alter 8 (fun _ => false) s.body.doves.wake } } } := by
  have htaken : (wokenBody s).takeMail = wokenBody s := by
    simp only [Body.takeMail, wokenBody, hmail, List.foldl_nil, alter_alter]
  rw [exec_wakeEvent_lodge, wakeEngine_polls s hwake, pollEngine_none (wokenVault s) (wokenBody s) hmail hasks, htaken]
  rfl

/-- A word for a range of slots changes no slot outside it. -/
theorem slot_writeFirst_outside (b : Body) (slots domains : List Nat) (w : Word64) (j : Nat) (hne : slots ≠ []) (hj : j ∉ slots) :
    (b.writeFirst slots w domains).2.slot j = b.slot j := by
  cases hfind : slots.find? (fun s => !(b.slot s).full) with
  | some k =>
    obtain ⟨ws, h⟩ := writeFirst_empty b slots domains w k hfind
    have hkj : k ≠ j := fun e => hj (e ▸ List.mem_of_find?_eq_some hfind)
    rw [h]
    show (alter k _ b.doves.slots).getD j _ = _
    rw [alter_getD, if_neg fun e => hkj e.1]
    rfl
  | none =>
    have hkj : slots.headD 64 ≠ j := fun e => hj (by
      obtain ⟨k, ks, rfl⟩ := List.exists_cons_of_ne_nil hne
      exact e ▸ List.mem_cons_self)
    simp only [Body.writeFirst, hfind]
    show (alter _ _ b.doves.slots).getD j _ = _
    rw [alter_getD, if_neg fun e => hkj e.1]
    rfl

/-- A reply leaves the slots of the requests. -/
theorem slot_reply_request (b : Body) (o : Output) (j : Nat) (hj : j < 8) : (b.reply o).slot j = b.slot j :=
  slot_writeFirst_outside (b.answer o) (List.range' 8 8) [] _ j (by decide) (by
    rw [List.mem_range'_1]
    omega)

theorem nonce_served (s : State) (hwake : s.body.doves.wake.getD 8 false = true) (hmail : s.body.doves.mail = [(1, .nonce)])
    (hasks : s.body.doves.asks = []) : ∃ t : State,
    exec (.wakeEvent .lodgeEngine) s = .next t ∧ t.vault.engineOn = true ∧ t.vault.nonce = some (Config.nonceValue s.vault.drawn).toNat ∧
    t.body.doves.mail = [] ∧ (t.body.slot 1).full = false ∧ t.body.parts = s.body.parts ∧ t.body.net = s.body.net := by
  have hserved : serveMail .nonce (wokenVault s) (wokenBody s).takeMail =
      ({ wokenVault s with nonce := some (Config.nonceValue s.vault.drawn).toNat, drawn := s.vault.drawn + 1 },
        (wokenBody s).takeMail.reply (.nonce (Config.nonceValue s.vault.drawn).toNat)) := rfl
  have hempty : ((wokenBody s).takeMail.slot 1).full = false := by
    simp only [Body.takeMail, Body.slot, wokenBody, hmail, List.foldl_cons, List.foldl_nil]
    rw [alter_getD_fixed _ _ _ _ rfl]
  have hkept := slot_reply_request (wokenBody s).takeMail (.nonce (Config.nonceValue s.vault.drawn).toNat) 1 (by decide)
  obtain ⟨dv, hdmail, hdasks, hreply⟩ := reply_form (wokenBody s).takeMail (.nonce (Config.nonceValue s.vault.drawn).toNat)
  have hexec := exec_wakeEvent_lodge s
  rw [hreply] at hkept
  rw [wakeEngine_polls s hwake, pollEngine_one (wokenVault s) (wokenBody s) .nonce hmail, hserved, hreply] at hexec
  dsimp only at hexec
  rw [show dv.asks = [] from hdasks.trans hasks] at hexec
  exact ⟨_, hexec, rfl, rfl, hdmail, (congrArg Slot.full hkept).trans hempty, rfl, rfl⟩

/-! ## The Lodge engine's rest (Table 12.6) -/

theorem exec_lodgeEngineOff (s : State) : exec .lodgeEngineOff s =
    .next { s with vault := (engineOff s.vault s.body).1, body := (engineOff s.vault s.body).2 } := rfl

theorem lodge_rests (s : State) (hon : s.vault.engineOn = true) (hidle : engineIdle s.body = true) :
    exec .lodgeEngineOff s = .next { s with
      vault := { s.vault with engineOn := false }, body := s.body.until_ (s.vault.idleSince + 1000000) } := by
  rw [exec_lodgeEngineOff, engineOff, if_pos (by rw [hon, hidle]; rfl)]

theorem lodge_stays (s : State) (h : s.vault.engineOn = false ∨ engineIdle s.body = false) : exec .lodgeEngineOff s = .next s := by
  have hbusy : ¬(s.vault.engineOn && engineIdle s.body) = true := by
    rw [Bool.and_eq_true]
    rintro ⟨hon, hidle⟩
    rcases h with h | h
    · exact absurd (h.symm.trans hon) (by decide)
    · exact absurd (h.symm.trans hidle) (by decide)
  rw [exec_lodgeEngineOff, engineOff, if_neg hbusy]

end Sys2Proof.Proofs
end

section
/-!
PROOFS. The keepers' obligation (O55): frames, RETAIN, polls, attention words, watchdogs, wakes and the engine's rest.
-/

namespace Sys2Proof.Proofs

open Sys2Proof Sys2Proof.Machine Sys2Proof.Laws

/-- Settles O55: frames by role, then the watchdog's two expiries, the two wake domains, and the engine's 1 ms. -/
theorem keepers : Obligations.Keepers :=
  ⟨issueFrame, issueFrame_rests, faultFrame, moduleFrame_attention, watchdog_restarts, watchdog_fatal, keeper_wakes, lodge_wakes,
    nonce_served, lodge_rests, lodge_stays⟩

end Sys2Proof.Proofs
end

section
/-!
PROOFS. Writes of the ring registers (13, R329, Table 13.7): ENABLE, the sizes and CPL_HEAD.
-/

namespace Sys2Proof.Proofs

open Sys2Proof Sys2Proof.Machine Sys2Proof.Laws

/-! ## A change of one ring -/

/-- What a ring becomes is read from the ring as it stands. -/
theorem alterRing_congr (b : Body) (i : Nat) (f g : Ring → Ring) (h : f (b.ring i) = g (b.ring i)) :
    b.alterRing i f = b.alterRing i g :=
  congrArg (fun rs => { b with rings := rs }) (alter_congr i f g b.rings (fun r hr => by rwa [ring_of_getElem? b i r hr] at h))

theorem alterRing_eq_self (b : Body) (i : Nat) (f : Ring → Ring) (h : f (b.ring i) = b.ring i) : b.alterRing i f = b :=
  congrArg (fun rs => { b with rings := rs }) (alter_id i f b.rings (fun r hr => by rwa [ring_of_getElem? b i r hr] at h))

theorem alterRing_ring_same (b : Body) (i : Nat) (f : Ring → Ring) (h : i < b.rings.length) :
    (b.alterRing i f).ring i = f (b.ring i) := by
  rw [alterRing_ring, if_pos ⟨rfl, h⟩]

/-! ## ENABLE -/

/-- R329: a ring that was off has its reset values, but for its bases and sizes and its counts of open commands and of entries read. -/
theorem setEnable_of_off (r : Ring) (h : r.enable = false) : r.setEnable true =
    { Ring.reset with enable := true, cmdBase := r.cmdBase, cmdSize := r.cmdSize, cplBase := r.cplBase, cplSize := r.cplSize,
                      open_ := r.open_, reads := r.reads } := by
  simp only [Ring.setEnable, h, if_true, Bool.false_eq_true, if_false]
  rfl

theorem ringEnable_turns_on (s : State) (i : Nat) (v : Word64) (hi : i < 5) (hv : v.getLsbD 0 = true)
    (hoff : (s.body.ring i).enable = false) (hlen : i < s.body.rings.length) : ∃ t : State,
    exec (.ringEnableWrite i v) s = .next t ∧
    t = { s with body := { s.body with rings := alter i (fun _ => t.body.ring i) s.body.rings } } ∧
    t.body.ring i = { Ring.reset with enable := true, cmdBase := (s.body.ring i).cmdBase, cmdSize := (s.body.ring i).cmdSize,
                                      cplBase := (s.body.ring i).cplBase, cplSize := (s.body.ring i).cplSize,
                                      open_ := (s.body.ring i).open_, reads := (s.body.ring i).reads } := by
  have hexec := exec_ringEnableWrite s i v hi
  rw [hv] at hexec
  have hring := alterRing_ring_same s.body i (fun r => r.setEnable true) hlen
  refine ⟨_, hexec, ?_, hring.trans (setEnable_of_off _ hoff)⟩
  have hform := alterRing_congr s.body i (fun r => r.setEnable true)
    (fun _ => (s.body.alterRing i (fun r => r.setEnable true)).ring i) hring.symm
  exact congrArg (fun b => { s with body := b }) hform

/-! ## Sizes -/

/-- Table 13.7: a size is a power of two in its range, and the largest at or below what was written where that is not below the range. -/
theorem ringSize_eq_pow (lo hi x : Nat) (hrange : lo ≤ hi) (hx : x < 2 ^ (hi + 1)) : ∃ n, ringSize (2 ^ lo) (2 ^ hi) x = 2 ^ n ∧
    lo ≤ n ∧ n ≤ hi ∧ (2 ^ lo ≤ x → 2 ^ n ≤ x ∧ x < 2 ^ (n + 1)) := by
  by_cases hlow : x < 2 ^ lo
  · exact ⟨lo, if_pos hlow, le_rfl, hrange, fun hge => absurd hlow (Nat.not_lt.2 hge)⟩
  · have hge : 2 ^ lo ≤ x := Nat.not_lt.1 hlow
    have hx0 : x ≠ 0 := Nat.ne_of_gt (lt_of_lt_of_le (Nat.two_pow_pos lo) hge)
    have htop : x.log2 ≤ hi := Nat.lt_succ_iff.1 ((Nat.log2_lt hx0).2 hx)
    refine ⟨x.log2, ?_, (Nat.le_log2 hx0).2 hge, htop, fun _ => ⟨Nat.log2_self_le hx0, Nat.lt_log2_self⟩⟩
    rw [ringSize, if_neg hlow, min_eq_right (Nat.pow_le_pow_right two_pos htop)]

/-- R329: while the ring is off, a size takes what `ringSize` makes of the bits written. -/
theorem exec_ringSizeWrite_off (s : State) (i : Nat) (c : Bool) (v : Word64) (hi : i < 5) (hoff : (s.body.ring i).enable = false) :
    exec (.ringSizeWrite i c v) s = .next { s with body := s.body.alterRing i (fun r =>
      if c then { r with cplSize := ringSize 64 65536 (v.extractLsb' 0 17).toNat }
      else { r with cmdSize := ringSize 16 4096 (v.extractLsb' 0 13).toNat }) } := by
  rw [exec_ringSizeWrite s i c v hi]
  congr 2
  exact alterRing_congr _ _ _ _ (by rw [Ring.setSize, if_neg (by rw [hoff]; exact Bool.false_ne_true)])

/-- R329: while it is on, it takes nothing. -/
theorem exec_ringSizeWrite_on (s : State) (i : Nat) (c : Bool) (v : Word64) (hi : i < 5) (hon : (s.body.ring i).enable = true) :
    exec (.ringSizeWrite i c v) s = .next s := by
  rw [exec_ringSizeWrite s i c v hi, alterRing_eq_self _ _ _ (by rw [Ring.setSize, if_pos hon])]

/-! ## CPL_HEAD -/

/-- R320: a ring that holds no record back has none to let go, and one that is not three quarters full draws no attention. -/
theorem flushRing_eq_self (b : Body) (i : Nat) (hheld : (b.ring i).held = []) (hhigh : (b.ring i).high = false) :
    b.flushRing i = b := by
  rw [Body.flushRing, alterRing_eq_self b i _ (by rw [hheld]; rfl), Body.ringAttention,
    if_neg (by rw [hhigh]; exact Bool.false_ne_true)]

theorem exec_cplHeadWrite_noneHeld (s : State) (i : Nat) (v : Word64) (hi : i < 5) (hheld : (s.body.ring i).held = [])
    (hhigh : ({ s.body.ring i with cplHead := (v.extractLsb' 0 32).toNat } : Ring).high = false) (hlen : i < s.body.rings.length) :
    exec (.cplHeadWrite i v) s = .next { s with body := { s.body with
      rings := alter i (fun r => { r with cplHead := (v.extractLsb' 0 32).toNat }) s.body.rings } } := by
  have hring := alterRing_ring_same s.body i (fun r => { r with cplHead := (v.extractLsb' 0 32).toNat }) hlen
  rw [exec_cplHeadWrite s i v hi, Body.setCplHead, flushRing_eq_self _ i (by rw [hring]; exact hheld) (by rw [hring]; exact hhigh)]
  rfl

/-- Settles O14: each write is one `alterRing`, and the ring's ENABLE says what it does there. -/
theorem ringRegisters : Obligations.RingRegisters := by
  refine ⟨ringEnable_turns_on, fun s i v hi hv => ?_, fun s i v hi hoff _ => ?_, exec_ringSizeWrite_on, exec_cplHeadWrite_noneHeld⟩
  · rw [exec_ringEnableWrite s i v hi, hv]
    rfl
  · obtain ⟨n, hn, hnlo, hnhi, hncut⟩ := ringSize_eq_pow 4 12 (v.extractLsb' 0 13).toNat (by decide) (BitVec.isLt _)
    obtain ⟨m, hm, hmlo, hmhi, hmcut⟩ := ringSize_eq_pow 6 16 (v.extractLsb' 0 17).toNat (by decide) (BitVec.isLt _)
    refine ⟨n, m, ?_, ?_, hnlo, hnhi, hmlo, hmhi, hncut, hmcut⟩
    · rw [exec_ringSizeWrite_off s i false v hi hoff, ← hn]
      rfl
    · rw [exec_ringSizeWrite_off s i true v hi hoff, ← hm]
      rfl

end Sys2Proof.Proofs
end

section
/-!
PROOFS. `ABANDON` while another partition's add waits for room in a full ORDERED buffer (09, R214 to R216; 13, R325, Table 13.5): the space
that the partition's window gives up lets the add into memory.
-/

namespace Sys2Proof.Proofs

open Sys2Proof Sys2Proof.Machine Sys2Proof.Laws

/-- Table 13.5 step 2: partition 0's window is discarded, its target unchanged; partition 1's add is taken, completes its own window, and is
applied (R214). -/
theorem memoryAfter_abandon : memoryAfter (exec (.abandon retireHdr) heldBack) = [(outfieldBase + 8 * 2048, 1)] := by decide +kernel

/-- Refutes O10: its first clause has `ABANDON` leave memory as it is, but from `heldBack` the buffer space that the discarded window
releases lets partition 1's add into memory. -/
theorem not_abandonAndUnknown : ¬ Obligations.AbandonAndUnknown := by
  rintro ⟨habandon, -⟩
  obtain ⟨-, -, hempty⟩ := lateAdd_held
  obtain ⟨t, hexec, -, -, -, -, -, -, -, hkept, -⟩ := habandon heldBack retireHdr heldBack_ringReady (.inl ⟨by decide, rfl⟩)
    (by decide +kernel) (by decide +kernel) (by decide +kernel) (by decide +kernel)
  have hwritten := memoryAfter_abandon
  rw [hexec, memoryAfter, hkept, hempty] at hwritten
  exact List.cons_ne_nil _ _ hwritten.symm

end Sys2Proof.Proofs
end

section
/-!
PROOFS. Steps and reset (95; 17, R389 to R391): a step is the command at the front of the queue, or a tick of 1 ns; and what reset leaves.
-/

namespace Sys2Proof.Proofs

open Sys2Proof Sys2Proof.Machine Sys2Proof.Laws

/-! ## Cycles that pass (03, R61; 08, R180) -/

theorem pitchPass_state (x : Pitch) (cycles marks : Nat) : (x.pass cycles marks).state = x.state := by
  cases hx : x.state <;> simp [Pitch.pass, hx]

theorem pitchPass_cycles (x : Pitch) (cycles marks : Nat) : (x.pass cycles marks).cycles = (x.cycles + cycles) % 2 ^ 64 := by
  cases hx : x.state <;> simp [Pitch.pass, wrap, hx]

/-- Duty marks among the cycles that pass up to `t` (R63). -/
def marksUntil (b : Body) (t i : Nat) : Nat :=
  dutyMarks (b.power.halfDuty (i / 2)) (b.cyclesAt (max b.clock.now t)) - dutyMarks (b.power.halfDuty (i / 2)) (b.cyclesAt b.clock.now)

/-- What a unit is once time has passed up to `t`: its clock has passed if its half counts. -/
theorem until_pitch (b : Body) (t i : Nat) : (b.until_ t).pitch i =
    if i < b.pitches.length ∧ b.counting (i / 2) = true
    then (b.pitch i).pass (b.cyclesAt (max b.clock.now t) - b.cyclesAt b.clock.now) (marksUntil b t i) else b.pitch i := by
  refine (zipIdx_map_getD _ b.pitches i Pitch.reset).trans ?_
  by_cases hi : i < b.pitches.length
  · simp only [hi, true_and, if_true]
    rfl
  · simp [hi, Body.pitch]

theorem until_engine (b : Body) (t i : Nat) : (b.until_ t).engine i =
    if i < b.engines.length ∧ b.counting (i / 2) = true
    then (b.engine i).pass (b.cyclesAt (max b.clock.now t) - b.cyclesAt b.clock.now) (marksUntil b t i) else b.engine i := by
  refine (zipIdx_map_getD _ b.engines i Engine.reset).trans ?_
  by_cases hi : i < b.engines.length
  · simp only [hi, true_and, if_true]
    rfl
  · simp [hi, Body.engine]

theorem until_pitch_state (b : Body) (t i : Nat) : ((b.until_ t).pitch i).state = (b.pitch i).state := by
  rw [until_pitch]
  split
  · exact pitchPass_state _ _ _
  · rfl

theorem until_engine_state (b : Body) (t i : Nat) : ((b.until_ t).engine i).state = (b.engine i).state := by
  rw [until_engine]
  split <;> rfl

/-- Units of a half that does not count stay as they are (log 2). -/
theorem until_uncounted (b : Body) (t i : Nat) (hc : b.counting (i / 2) = false) :
    (b.until_ t).pitch i = b.pitch i ∧ (b.until_ t).engine i = b.engine i := by
  rw [until_pitch, until_engine, hc]
  simp

theorem until_pitch_cycles (b : Body) (t i : Nat) (hi : i < b.pitches.length) (hc : b.counting (i / 2) = true) :
    ((b.until_ t).pitch i).cycles =
      ((b.pitch i).cycles + (b.cyclesAt (max b.clock.now t) - b.cyclesAt b.clock.now)) % 2 ^ 64 := by
  rw [until_pitch, if_pos ⟨hi, hc⟩, pitchPass_cycles]

/-- Settles O57: the step's own two cases, and what one tick of the clock leaves of the units. -/
theorem stepRunsFront : Obligations.StepRunsFront := by
  refine ⟨step_front, fun s hidle => ⟨_, step_idle s hidle, hidle, rfl, ?_, fun i => ⟨until_pitch_state _ _ i, until_engine_state _ _ i,
    until_uncounted _ _ i, fun _ hlen hc => ?_⟩, rfl⟩⟩
  · exact congrArg (fun n => { s.body.clock with now := n }) (max_eq_right (Nat.le_succ _))
  · have h := until_pitch_cycles s.body (s.body.clock.now + 1) i hlen hc
    rwa [max_eq_right (Nat.le_succ _)] at h

/-! ## Reset -/

/-- The Lodge at reset holds no key, and no debug state is in force. -/
theorem vault_reset_kept : Vault.reset.Kept where
  fixture := by decide
  rulebook := by decide
  fixtureNodup := List.nodup_nil
  rulebookNodup := List.nodup_nil
  owned := fun _ => ⟨rfl, rfl⟩
  proofs := by decide
  level := by decide
  debug := rfl
  scan := fun h => absurd rfl h

theorem reset_part (p : Nat) : State.reset.body.part p = Partition.reset := List.getElem?_getD_replicate_default_eq _ _ _

theorem reset_link (l : Nat) : State.reset.body.link l = Link.reset := List.getElem?_getD_replicate_default_eq _ _ _

theorem reset_slot (i : Nat) : State.reset.body.slot i = ⟨0, false, false⟩ := List.getElem?_getD_replicate_default_eq _ _ _

theorem reset_ring (i : Nat) : State.reset.body.ring i = Ring.reset := List.getElem?_getD_replicate_default_eq _ _ _

/-- Settles O60: units of one kind are alike at reset, so each clause is the reset row of one unit's table. -/
theorem resetState : Obligations.ResetState := by
  refine ⟨rfl, vault_reset_kept, rfl, fun p _ => ?_, fun b hb => ?_, fun l _ => ?_, fun i _ => ?_, fun i _ => ?_, rfl, rfl, rfl⟩
  · rw [reset_part]
    exact ⟨rfl, rfl, rfl⟩
  · rw [List.eq_of_mem_replicate hb]
  · rw [reset_link]
    rfl
  · rw [reset_slot]
  · rw [reset_ring]
    exact ⟨rfl, rfl, rfl, rfl⟩

end Sys2Proof.Proofs
end

section
/-!
PROOFS. Clears of fault pages and of WH_FIRST (14, R343, R345, Tables 14.7 and 14.8).
-/

namespace Sys2Proof.Proofs

open Sys2Proof Sys2Proof.Machine Sys2Proof.Laws

/-- Every source of Table 14.2 has its page in Table 18.3. -/
theorem pageSlot_assigned (ty i k : Nat) (h : pageSlot ty i = some k) : ty < 16 ∧ i < 256 ∧ assignedPage (ty * 256 + i) = true := by
  unfold pageSlot at h
  split at h
  · rename_i hb
    obtain ⟨h1, h15, hi⟩ := hb
    have hinst : sourceInstances.getD (ty - 1) 0 = pageInstances.getD (ty - 1) 0 ∧ pageInstances.getD (ty - 1) 0 ≤ 48 := by
      have : ty - 1 < 15 := by omega
      interval_cases ty - 1 <;> decide
    obtain ⟨heq, hle⟩ := hinst
    refine ⟨by omega, by omega, ?_⟩
    have hdiv : (ty * 256 + i) / 256 = ty := by omega
    have hmod : (ty * 256 + i) % 256 = i := by omega
    simp only [assignedPage, hdiv, hmod, Bool.and_eq_true, decide_eq_true_eq]
    omega
  · cases h

theorem alterPage_slot (w : Whistle) (ty i k : Nat) (f : FaultPage → FaultPage) (h : pageSlot ty i = some k) :
    w.alterPage ty i f = { w with pages := alter k f w.pages } := by
  rw [Whistle.alterPage, h]

/-! ## Clears of a page (R343) -/

/-- A 1 written to BLK_CLEAR of a fault page is a clear attempt of it. -/
theorem exec_blkClear_page (s : State) (ty i k : Nat) (v : Word64) (hk : pageSlot ty i = some k) (hv : v.getLsbD 0 = true) :
    exec (.blkClear (ty * 256 + i) v) s = .next { s with body := s.body.clearPage ty i } := by
  obtain ⟨hty, hi, hassigned⟩ := pageSlot_assigned ty i k hk
  rw [exec_blkClear s _ v (by omega), Body.blkClear, hassigned, hv, show (ty * 256 + i) / 256 = ty by omega,
    show (ty * 256 + i) % 256 = i by omega]
  rfl

/-- R343: the three reasons that refuse a clear. -/
theorem clearRefused_iff (b : Body) (ty i : Nat) : b.clearRefused ty i = true ↔ b.cause ty i = true ∨ (b.page ty i).timer ≠ none ∨
    ((b.page ty i).latchedClass = some .fatal ∧ ∃ h ∈ b.fatalHalves ty i, b.fenced h = false) := by
  simp only [Body.clearRefused, FaultPage.timing, Bool.or_eq_true, Bool.and_eq_true, decide_eq_true_eq, Bool.not_eq_true',
    List.all_eq_false, Bool.not_eq_true, Option.isSome_iff_ne_none, or_assoc]

theorem clearPage_refused (b : Body) (ty i k : Nat) (hk : pageSlot ty i = some k) (hr : b.clearRefused ty i = true) :
    b.clearPage ty i = { b with whistle := { b.whistle with pages := alter k (fun p => { p with clearRefused := true }) b.whistle.pages } } := by
  obtain ⟨hty, -, -⟩ := pageSlot_assigned ty i k hk
  rw [Body.clearPage, if_neg (by omega), hr, if_pos rfl, alterPage_slot _ _ _ _ _ hk]

theorem clearPage_accepted (b : Body) (ty i k : Nat) (hk : pageSlot ty i = some k) (hr : b.clearRefused ty i = false) :
    b.clearPage ty i = { b with whistle := { b.whistle with
      pages := alter k FaultPage.cleared b.whistle.pages, halves := b.whistle.halves.map (fun x => x.clearedBy ty i) } } := by
  obtain ⟨hty, -, -⟩ := pageSlot_assigned ty i k hk
  rw [Body.clearPage, if_neg (by omega), hr, if_neg Bool.false_ne_true, alterPage_slot _ _ _ _ _ hk]

/-- R369: a clear can do no more to a half than let it return. -/
theorem clearedBy_keeps (x : HalfState) (ty i : Nat) : (x.clearedBy ty i).fenced = x.fenced ∧ (x.clearedBy ty i).fatal = x.fatal := by
  unfold HalfState.clearedBy
  split
  · split <;> exact ⟨rfl, rfl⟩
  · exact ⟨rfl, rfl⟩

theorem clearPage_half (b : Body) (ty i k h : Nat) (hk : pageSlot ty i = some k) (hr : b.clearRefused ty i = false) :
    (b.clearPage ty i).half h = (b.half h).clearedBy ty i := by
  rw [clearPage_accepted b ty i k hk hr]
  exact List.getD_map b.whistle.halves ⟨none, none, false⟩ (fun x => x.clearedBy ty i)

/-! ## Clears of WH_FIRST (R345) -/

theorem exec_whClearFirst (s : State) (i : Nat) (v : Word64) (hi : i < 3) :
    exec (.whClearFirst i v) s = .next { s with body := s.body.whClear i v } :=
  onBody_of (decide (i < 3)) s (fun b => b.whClear i v) (decide_eq_true hi)

theorem whClear_held (b : Body) (i : Nat) (v : Word64) (hh : b.whHolds i = true) : b.whClear i v = b := by
  simp [Body.whClear, hh]

theorem whClear_free (b : Body) (i : Nat) (v : Word64) (hv : v.getLsbD 0 = true) (hh : b.whHolds i = false) :
    b.whClear i v = { b with whistle := { b.whistle with
      wh := alter i (fun g => { g with first := 0 }) b.whistle.wh, moduleFirst := if i = 2 then 0 else b.whistle.moduleFirst } } := by
  rw [Body.whClear, hv, hh, Bool.not_false, Bool.and_true, if_pos rfl]
  split <;> rfl

/-- Settles O12: what refuses a clear decides it, and an accepted one touches its own page, or its Whistle page's first message, alone. -/
theorem clears : Obligations.Clears := by
  refine ⟨fun s ty i k v hk _ hv hcause htimer hfatal => ?_, fun s ty i k v hk _ hv hwhy => ?_, fun s i v hi hv hh => ?_,
    fun s v hv hh => ?_, fun s i v hi hh => ?_⟩
  · have hr : s.body.clearRefused ty i = false := by
      rw [← Bool.not_eq_true, clearRefused_iff]
      rintro (hc | ht | ⟨hl, h, hmem, hf⟩)
      · rw [hcause] at hc
        cases hc
      · exact ht htimer
      · rw [hfatal hl h hmem] at hf
        cases hf
    refine ⟨_, exec_blkClear_page s ty i k v hk hv, ?_, fun h => ?_⟩
    · rw [clearPage_accepted s.body ty i k hk hr]
      rfl
    · rw [clearPage_half s.body ty i k h hk hr]
      exact clearedBy_keeps _ ty i
  · rw [exec_blkClear_page s ty i k v hk hv, clearPage_refused s.body ty i k hk ((clearRefused_iff s.body ty i).2 hwhy)]
  · rw [exec_whClearFirst s i v (by omega), whClear_free s.body i v hv hh, if_neg (by omega)]
  · rw [exec_whClearFirst s 2 v (by omega), whClear_free s.body 2 v hv hh, if_pos rfl]
  · rw [exec_whClearFirst s i v hi, whClear_held s.body i v hh]

end Sys2Proof.Proofs
end

section
/-!
PROOFS. Frozen views and the registers of the BAR2 window (17, R428, Table 17.6; 18, R403, R407, R415, Table 18.5).
-/

namespace Sys2Proof.Proofs

open Sys2Proof Sys2Proof.Machine Sys2Proof.Laws

/-! ## BLK_FREEZE_VIEW (R415) -/

theorem freezeView_capture (vt : Vault) (b : Body) (page : Nat) (v : Word64) (ha : assignedPage page = true) (hv : v.getLsbD 0 = true) :
    b.freezeView vt page v =
      { b with host := { b.host with views := captureView vt b page :: b.host.views.filter (fun w => decide (w.page ≠ page)) } } := by
  simp only [Body.freezeView, ha, hv, Bool.not_true, Bool.false_eq_true, if_false, if_true]

theorem freezeView_release (vt : Vault) (b : Body) (page : Nat) (v : Word64) (ha : assignedPage page = true) (hv : v.getLsbD 0 = false) :
    b.freezeView vt page v = { b with host := { b.host with views := b.host.views.filter (fun w => decide (w.page ≠ page)) } } := by
  simp only [Body.freezeView, ha, hv, Bool.not_true, Bool.false_eq_true, if_false]

/-- What a captured page reads: the register's value at the capture. -/
theorem captureView_read (vt : Vault) (b : Body) (page off : Nat) (ho : off ∈ pageOffsets) :
    ((captureView vt b page).regs.find? (fun r => decide (r.1 = off))).map (·.2) =
      some (BitVec.ofNat 64 (regLive vt b (page / 256) (page % 256) off)) := by
  have hfind : pageOffsets.find? (fun o => decide (o = off)) = some off := by
    obtain ⟨o, hsome⟩ := Option.isSome_iff_exists.1 (List.find?_isSome (p := fun o => decide (o = off)).2 ⟨off, ho, by simp⟩)
    rw [hsome, of_decide_eq_true (List.find?_some (p := fun o => decide (o = off)) hsome)]
  rw [captureView, List.find?_map, show (fun r : Nat × Word64 => decide (r.1 = off)) ∘ _ = fun o : Nat => decide (o = off) from rfl, hfind]
  rfl

theorem readReg_captured (vt : Vault) (b : Body) (page off : Nat) (ws : List View) (u : State) (ha : assignedPage page = true)
    (ho : off ∈ pageOffsets) (hl : staysLive (page / 256) off = false) (hu : u.body.host.views = captureView vt b page :: ws) :
    readReg u page off = BitVec.ofNat 64 (regLive vt b (page / 256) (page % 256) off) := by
  have hlo : ¬off < 0x40 := by
    obtain ⟨i, -, rfl⟩ := List.mem_map.1 ho
    omega
  have hfirst : (captureView vt b page :: ws).find? (fun w => decide (w.page = page) && !staysLive (page / 256) off) =
      some (captureView vt b page) := List.find?_cons_of_pos (by rw [hl]; simp [captureView])
  simp only [readReg, ha, Bool.not_true, Bool.false_eq_true, if_false, if_neg hlo, hu, hfirst, captureView_read vt b page off ho,
    Option.getD_some]

theorem readReg_unfrozen (u : State) (page off : Nat) (ha : assignedPage page = true) (hlo : 0x40 ≤ off)
    (hu : ∀ w ∈ u.body.host.views, w.page ≠ page) :
    readReg u page off = BitVec.ofNat 64 (regLive u.vault u.body (page / 256) (page % 256) off) := by
  have hnone : u.body.host.views.find? (fun w => decide (w.page = page) && !staysLive (page / 256) off) = none := by
    rw [List.find?_eq_none]
    intro w hw
    simp [hu w hw]
  simp only [readReg, ha, Bool.not_true, Bool.false_eq_true, if_false, if_neg (Nat.not_lt.2 hlo), hnone]

/-- Settles O13: the page's newest view is the one that a read meets, and a 0 leaves no view of the page. -/
theorem freezeView : Obligations.FreezeView := by
  refine ⟨fun s page off v hp ha hv => ⟨_, exec_freezeViewWrite s page v hp, ?_, fun ho hl u hu => ?_⟩,
    fun s page off v hp ha hv => ⟨_, exec_freezeViewWrite s page v hp, ?_, fun hlo => ?_⟩⟩
  · rw [freezeView_capture s.vault s.body page v ha hv]
  · rw [freezeView_capture s.vault s.body page v ha hv] at hu
    exact readReg_captured s.vault s.body page off _ u ha ho hl hu
  · rw [freezeView_release s.vault s.body page v ha hv]
  · refine readReg_unfrozen _ page off ha hlo ?_
    rw [freezeView_release s.vault s.body page v ha hv]
    exact fun w hw => of_decide_eq_true (List.mem_filter.1 hw).2

/-! ## BAR2_BASE, BAR2_CTRL, ST_TOUCH (R403, R407, R428) -/

theorem extract_toNat (v : Word64) (lo n : Nat) : (v.extractLsb' lo n).toNat = v.toNat / 2 ^ lo % 2 ^ n := by
  rw [BitVec.extractLsb'_toNat, Nat.shiftRight_eq_div_pow]

theorem setTouch_inDebug (b : Body) (vt : Vault) (v : Word64) (hl : vt.level = 1 ∨ vt.level = 2) : b.setTouch vt v =
    { b with boot := { b.boot with touch := (List.range 8).map (fun p => (v.extractLsb' (8 * p) 8).toNat) } } := if_pos hl

theorem setTouch_outside (b : Body) (vt : Vault) (v : Word64) (h1 : vt.level ≠ 1) (h2 : vt.level ≠ 2) : b.setTouch vt v = b :=
  if_neg (not_or.2 ⟨h1, h2⟩)

theorem exec_stTouchWrite (s : State) (v : Word64) : exec (.stTouchWrite v) s = .next { s with body := s.body.setTouch s.vault v } := rfl

/-- Settles O15: each register's field, cut out of the word written. -/
theorem windowRegisters : Obligations.WindowRegisters := by
  refine ⟨fun s v => ?_, fun s v => rfl, fun s v hl => ⟨_, exec_stTouchWrite s v, ?_, ?_, fun p hp => ?_⟩, fun s v h1 h2 => ?_⟩
  · show Host.Outcome.next { s with body := s.body.setBar2Base v } = _
    rw [Body.setBar2Base, extract_toNat]
  · rw [setTouch_inDebug s.body s.vault v hl]
  · rw [setTouch_inDebug s.body s.vault v hl]
    rfl
  · rw [setTouch_inDebug s.body s.vault v hl]
    simp [List.getD_eq_getElem?_getD, hp, Nat.shiftRight_eq_div_pow]
  · rw [exec_stTouchWrite, setTouch_outside s.body s.vault v h1 h2]

end Sys2Proof.Proofs
end

section
/-!
PROOFS. The BAR2 window (18, R406 to R409, Table 18.2; 17, R392), and a record that the host's link finds held behind as many open commands
as the ring may promise records to (13, R319, R320, R328).
-/

namespace Sys2Proof.Proofs

open Sys2Proof Sys2Proof.Machine Sys2Proof.Laws

/-! ## Accesses through the window -/

theorem exec_bar2Write (s : State) (off : Nat) (vs : List Byte) (es : List CwError) (h : off + vs.length ≤ 2 ^ 36) :
    exec (.bar2Write off vs es) s = .next { s with body := s.body.bar2Write off vs es } :=
  onBody_of (decide (off + vs.length ≤ 2 ^ 36)) s (fun b => b.bar2Write off vs es) (decide_eq_true h)

theorem exec_bar2Read (s : State) (off n : Nat) (es : List CwError) (h : off + n ≤ 2 ^ 36) :
    exec (.bar2Read off n es) s = .next { s with body := s.body.bar2Read off n es } :=
  onBody_of (decide (off + n ≤ 2 ^ 36)) s (fun b => b.bar2Read off n es) (decide_eq_true h)

section Window

variable (b : Body) (off n : Nat) (vs : List Byte) (es : List CwError)

/-- R406: a closed window, or a function that does not answer, passes nothing. -/
theorem bar2Write_closed (hc : b.answersConfig = false ∨ b.host.bar2Enable = false) : b.bar2Write off vs es = b := by
  have hclosed : (b.answersConfig && b.host.bar2Enable) = false := Bool.and_eq_false_iff.2 hc
  rw [Body.bar2Write, hclosed]
  rfl

theorem bar2Read_closed (hc : b.answersConfig = false ∨ b.host.bar2Enable = false) :
    b.bar2Read off n es = b.answer (.bytes (List.replicate n 0xFF) false) := by
  have hclosed : (b.answersConfig && b.host.bar2Enable) = false := Bool.and_eq_false_iff.2 hc
  rw [Body.bar2Read, hclosed]
  rfl

section Open

variable (ha : b.answersConfig = true) (he : b.host.bar2Enable = true)
include ha he

theorem bar2Write_denied (hs : b.host.stagingOnly = true) (hout : b.inStaging (b.bar2Addr off) vs.length = false) :
    b.bar2Write off vs es = { b with host := { b.host with denied := (b.host.denied + 1) % 2 ^ 32 } } := by
  simp only [Body.bar2Write, ha, he, hs, hout, Bool.and_true, Bool.not_true, Bool.not_false, Bool.false_eq_true, if_false, if_true, wrap]

theorem bar2Read_unmapped (hm : b.bar2Mapped (b.bar2Addr off) n = false) :
    b.bar2Read off n es = b.bar2Unmapped.answer (.bytes (List.replicate n 0xFF) false) := by
  simp only [Body.bar2Read, ha, he, hm, Bool.and_true, Bool.not_true, Bool.not_false, Bool.false_eq_true, if_false, if_true]

/-- A read of mapped bytes without an error of the code, and none poisoned: the bytes as they stand. -/
theorem bar2Read_mapped (hm : b.bar2Mapped (b.bar2Addr off) n = true) (hp : b.store.anyPoison (b.bar2Addr off) n = false) :
    b.bar2Read off n [] = { b with host := { b.host with
      readBytes := (b.host.readBytes + n) % 2 ^ 64, last := .bytes (b.store.bytes (b.bar2Addr off) n) false } } := by
  have hread : b.readErrors (errorsIn (b.bar2Addr off) n []) = b := rfl
  simp only [Body.bar2Read, ha, he, hm, hread, hp, Bool.and_true, Bool.not_true, Bool.false_eq_true, if_false, wrap]

/-- A write of mapped bytes that the mode admits, without an error of the code: the bytes are stored. -/
theorem bar2Write_mapped (hs : b.host.stagingOnly = false ∨ b.inStaging (b.bar2Addr off) vs.length = true)
    (hm : b.bar2Mapped (b.bar2Addr off) vs.length = true) : b.bar2Write off vs [] =
    { b with store := b.store.writeBytes (b.bar2Addr off) vs,
             host := { b.host with writtenBytes := (b.host.writtenBytes + vs.length) % 2 ^ 64 } }.editLists (b.bar2Addr off) vs.length := by
  have hread : b.readErrors (mergeErrors (b.bar2Addr off) vs.length []) = b := rfl
  have hadmits : (b.host.stagingOnly && !b.inStaging (b.bar2Addr off) vs.length) = false := by rcases hs with hs | hs <;> simp [hs]
  simp only [Body.bar2Write, ha, he, hm, hread, hadmits, Bool.and_true, Bool.not_true, Bool.false_eq_true, if_false, wrap]

end Open

end Window

/-- Settles O17: each access by the first of its conditions that fails, and what is stored is what `writeBytes` stores. -/
theorem windowAccess : Obligations.WindowAccess := by
  refine ⟨fun s off vs hoff ha he hs hm => ⟨_, exec_bar2Write s off vs [] hoff, ?_⟩, fun s off n hoff ha he hm hp => ?_,
    fun s off vs es hoff ha he hs hout => ?_, fun s off n es hoff ha he hm => ?_, fun s off n vs es hn hvs hc => ⟨?_, ?_⟩⟩
  · rw [bar2Write_mapped s.body off vs ha he hs hm]
    exact ⟨rfl, bytes_writeBytes _ _ _, fun a houtside => (writeBytes_byte _ _ _ _).trans (if_neg houtside)⟩
  · rw [exec_bar2Read s off n [] hoff, bar2Read_mapped s.body off n ha he hm hp]
  · rw [exec_bar2Write s off vs es hoff, bar2Write_denied s.body off vs es ha he hs hout]
  · rw [exec_bar2Read s off n es hoff, bar2Read_unmapped s.body off n es ha he hm]
    rfl
  · rw [exec_bar2Read s off n es hn, bar2Read_closed s.body off n es hc]
    rfl
  · rw [exec_bar2Write s off vs es hvs, bar2Write_closed s.body off vs es hc]

/-! ## A STEP record behind promised records (R319, R320) -/

/-- The STEP record of step 0. -/
def stepRecord : CplRecord := ⟨0, 0x00, stOk, false, kindStep, 0, .step 0 0 0 0⟩

/-- Ring 0 holds that record; with 63 records free, 59 commands are open, as many as R319 admits. The link to the host is down. -/
def promisedOut : State where
  pending := []
  vault := Vault.reset
  body := { Body.reset with
    host := { HostIf.reset with pcieUp := false }
    rings := { Ring.reset with enable := true, open_ := 59, held := [stepRecord] } :: List.replicate 4 Ring.reset }

/-- What a returning link makes of it. -/
def linkBack : Body := (List.range 5).foldl Body.flushRing { promisedOut.body with host := { promisedOut.body.host with pcieUp := true } }

/-- The record waits on: every free record beside the reserve is promised to an open command (log 127). -/
theorem linkBack_held : (linkBack.ring 0).held = [stepRecord] := by decide +kernel

/-- Refutes O18: its last clause has the one held record of a ring leave as the link returns wherever more than 4 records are free; from
`promisedOut`, where 63 are, the open commands' records leave it no room. -/
theorem not_hostLink : ¬ Obligations.HostLink := by
  rintro ⟨-, -, -, hreturn⟩
  obtain ⟨t, hexec, -, hheld, -, -⟩ := hreturn promisedOut 0 stepRecord (by decide) (by decide) rfl (by decide +kernel) rfl
    (by decide +kernel) (by decide +kernel)
  have ht : t = { promisedOut with body := linkBack } := (Host.Outcome.next.inj hexec).symm
  rw [ht, linkBack_held] at hheld
  cases hheld

end Sys2Proof.Proofs
end

section
/-!
PROOFS. Requests for a debug state (17, R394 to R396, Table 17.3; 12, R303, R308): entry at TOUCHLINE, and the refusal of another nonce.
-/

namespace Sys2Proof.Proofs

open Sys2Proof Sys2Proof.Machine Sys2Proof.Laws

theorem exec_debugRequest (s : State) (serial : Word64) (n level halves : Nat) (signer : Option Nat) (hl : level < 4) (hh : halves < 4) :
    exec (.debugRequest serial n level halves signer) s = .next { s with
      vault := (manage (.debug serial n level halves signer) s.vault s.body).1,
      body := (manage (.debug serial n level halves signer) s.vault s.body).2 } :=
  onAll_of (decide (level < 4) && decide (halves < 4)) s (manage (.debug serial n level halves signer)) (by simp [hl, hh])

/-- R395: only the outstanding nonce authorises. -/
theorem debugRequest_otherNonce (serial : Word64) (n level halves : Nat) (signer : Option Nat) (v : Vault) (b : Body) (h : v.nonce ≠ some n) :
    debugRequest serial n level halves signer v b = (v, b.reply .refused) := by
  rw [debugRequest, debugGranted, decide_eq_false h, Bool.and_false, Bool.false_and, Bool.false_and]
  rfl

/-- R394: what grants a request for TOUCHLINE. -/
theorem debugGranted_touchline (v : Vault) (b : Body) (n o : Nat) (hready : b.boot.start = .ready) (hhealthy : v.healthy = true)
    (howner : v.ownerKey = some o) (hnonce : v.nonce = some n) (hlevel : v.level = 0) :
    debugGranted v b v.serial n 1 (some o) = true := by
  simp [debugGranted, hready, hhealthy, ownerSigned_owner v o howner, hnonce, hlevel]

/-- R396: the Lodge is in a debug state, and its record is queued. -/
def debugRecorded (halves : Nat) (b : Body) : Body :=
  ({ b with score := { b.score with testing := true } } : Body).record recDebug (tLodge * 64) 0 [1, 1, halves]

theorem debugRecorded_form (halves : Nat) (b : Body) : ∃ sc, sc.testing = true ∧ debugRecorded halves b = { b with score := sc } := by
  refine ⟨_, ?_, rfl⟩
  unfold Score.enqueue
  split <;> rfl

/-- R396 at TOUCHLINE, with no request waiting: the record, the reply, and nothing fenced. -/
theorem enterDebug_touchline (halves : Nat) (v : Vault) (b : Body) (hasks : b.doves.asks = []) :
    enterDebug 1 halves v b = (v.enterDebug 1 halves, (debugRecorded halves b).reply .accepted) := by
  have hserve : serveLodge b.doves.asks.length (v.enterDebug 1 halves) b = (v.enterDebug 1 halves, b) := by
    rw [hasks]
    rfl
  unfold enterDebug
  dsimp only
  rw [hserve, if_neg (by decide)]
  rfl

/-- Settles O22: the engine serves the request at once, and `debugGranted` decides between entry and refusal. -/
theorem debugEntry : Obligations.DebugEntry := by
  refine ⟨fun s o n halves hfree hh hready hhealthy howner hnonce hlevel => ?_, fun s serial n level halves signer hfree hl hh hnonce => ?_⟩
  · obtain ⟨dv, hdv, hmanage⟩ := manage_on (.debug s.vault.serial n 1 halves (some o)) s hfree
    have hserve : serveMail (.debug s.vault.serial n 1 halves (some o)) s.vault (withDoves s.body dv) =
        enterDebug 1 halves (polled s.vault s.body) (withDoves s.body dv) :=
      if_pos (debugGranted_touchline (polled s.vault s.body) (withDoves s.body dv) n o hready hhealthy howner hnonce hlevel)
    obtain ⟨sc, htesting, hrecorded⟩ := debugRecorded_form halves (withDoves s.body dv)
    obtain ⟨dv', -, hasks, hreply⟩ := reply_form (debugRecorded halves (withDoves s.body dv)) .accepted
    rw [hrecorded] at hasks
    have hexec := exec_debugRequest s s.vault.serial n 1 halves (some o) (by decide) hh
    rw [enterDebug_touchline halves _ _ hdv.asks, hreply, hrecorded] at hserve
    rw [hmanage _ hserve (hasks.trans hdv.asks)] at hexec
    exact ⟨_, hexec, rfl, rfl, htesting, rfl⟩
  · refine replies_of_manage (exec_debugRequest s serial n level halves signer hl hh) hfree fun c hc => ?_
    rw [serveMail, hc]
    exact debugRequest_otherNonce serial n level halves signer (polled s.vault s.body) c hnonce

end Sys2Proof.Proofs
end

section
/-!
PROOFS. Fault messages by their class (14, R335, R337, R340 to R342, Table 14.3): what a contained one leaves on its page, what a fatal one
begins, and a corrected one below its limit.
-/

namespace Sys2Proof.Proofs

open Sys2Proof Sys2Proof.Machine Sys2Proof.Laws

theorem exec_faultMessage (s : State) (w : Word64) : exec (.faultMessage w) s = .next { s with body := s.body.message w } := rfl

/-! ## Latching (R335) -/

theorem page_of_slot (b : Body) (ty i k : Nat) (h : pageSlot ty i = some k) : b.page ty i = b.whistle.pages.getD k FaultPage.reset := by
  rw [Body.page, h]

theorem latchMessage_pages (b : Body) (m : Word64) (cls : FaultClass) (k : Nat) (hk : pageSlot (msgType m) (msgInst m) = some k) :
    (b.latchMessage m cls).whistle.pages = alter k (fun p => p.latch m cls) b.whistle.pages := by
  simp only [Body.latchMessage, Whistle.first, Whistle.alterWh, alterPage_slot _ _ _ _ _ hk]

/-- R335: a page holds its first message, and knows that others followed. -/
def latched (m : Word64) (p : FaultPage) : FaultPage :=
  { p with message := if p.message = 0 then m else p.message, overflow := p.overflow || decide (p.message ≠ 0) }

theorem latched_eq (p : FaultPage) (m : Word64) :
    (if p.message = 0 then { p with message := m } else { p with overflow := true }) = latched m p := by
  by_cases h : p.message = 0
  · rw [if_pos h, latched, if_pos h, decide_eq_false (not_not.2 h), Bool.or_false]
  · rw [if_neg h, latched, if_neg h, decide_eq_true h, Bool.or_true]

theorem latch_contained (p : FaultPage) (m : Word64) :
    p.latch m .contained = { latched m p with contained := satInc 16 p.contained } := by
  rw [FaultPage.latch, latched_eq]
  rfl

theorem latch_corrected (p : FaultPage) (m : Word64) :
    p.latch m .corrected = { latched m p with corrected := satInc 16 p.corrected } := by
  rw [FaultPage.latch, latched_eq]
  rfl

/-! ## A contained message (R337, R341, R342) -/

/-- The page that a contained message has reached: latched, waiting for its keeper, its timer started where the page's class lets it. -/
def messaged (b : Body) (m : Word64) (p : FaultPage) : FaultPage := { latched m p with
  contained := satInc 16 p.contained, unhandled := p.unhandled ++ [m], sent := m :: p.sent,
  timer := if p.startsTimer then some (b.clock.now + b.book.tables.faults.timerNs) else p.timer }

theorem contained_whistlePages (b : Body) (m : Word64) (k : Nat) (hk : pageSlot (msgType m) (msgInst m) = some k) :
    (b.contained m).whistle.pages = alter k (messaged b m) b.whistle.pages := by
  unfold Body.contained
  dsimp only
  rw [noteFault_whistle]
  simp only [Body.record, Whistle.alterWh, alterPage_slot _ _ _ _ _ hk, latchMessage_pages _ _ _ _ hk, alter_alter]
  refine alter_congr _ _ _ _ fun x hx => ?_
  have hpage : b.page (msgType m) (msgInst m) = x := by
    rw [page_of_slot _ _ _ _ hk, List.getD_eq_getElem?_getD, hx, Option.getD_some]
  rw [latch_contained, hpage]
  rfl

/-- FAULT is set in the attention word that the message names, and in no other. -/
theorem contained_doves (b : Body) (m : Word64) :
    (b.contained m).doves = (b.attentionOf m).elim b.doves (fun i => (b.attention i 0).doves) := by
  have hnamed : ∀ (w : Whistle) (sc : Score), ({ b with whistle := w, score := sc } : Body).attentionOf m = b.attentionOf m := fun _ _ => rfl
  unfold Body.contained Body.noteFault
  dsimp only [Body.record, Body.latchMessage]
  rw [hnamed]
  cases b.attentionOf m <;> rfl

/-- The words of Table 12.5 are those of the four partitions and of the module. -/
theorem attentionOf_le (b : Body) (m : Word64) (i : Nat) (h : b.attentionOf m = some i) : i ≤ 4 := by
  unfold Body.attentionOf at h
  split at h
  · injection h with h
    omega
  · split at h
    · injection h with h
      omega
    · cases h

theorem attention_bit (b : Body) (i : Nat) (h : i < b.doves.attn.length) : ((b.attention i 0).doves.attn.getD i 0).testBit 0 = true := by
  rw [Body.attention, alter_getD, if_pos ⟨rfl, h⟩, Nat.testBit_or, Nat.testBit_two_pow_self, Bool.or_true]

theorem contained_reaches (s : State) (w : Word64) (k : Nat) (hk : pageSlot (msgType w) (msgInst w) = some k)
    (hcls : msgClass w = .contained) : exec (.faultMessage w) s = .next { s with body := s.body.contained w } := by
  rw [exec_faultMessage, message_contained s.body w k hk hcls]

theorem contained_page (b : Body) (m : Word64) (k : Nat) (hk : pageSlot (msgType m) (msgInst m) = some k)
    (hlen : k < b.whistle.pages.length) :
    (b.contained m).page (msgType m) (msgInst m) = messaged b m (b.page (msgType m) (msgInst m)) := by
  rw [page_of_slot _ _ _ k hk, page_of_slot _ _ _ k hk, contained_whistlePages b m k hk, alter_getD, if_pos ⟨rfl, hlen⟩]

/-! ## A fatal message (R339, R340) -/

theorem fencedLinks_other (b : Body) (h l : Nat) (hl : l / 24 ≠ h) : (fencedLinks b h).getD l Link.reset = b.link l := by
  rw [fencedLinks, zipIdx_map_getD]
  split
  · exact if_neg hl
  · next hout => simp [Body.link, hout]

theorem fatalFrom_half (b : Body) (m : Word64) (h : Nat) (hlen : h < b.whistle.halves.length) :
    (fatalFrom b m h).getD h ⟨none, none, false⟩ = { b.half h with fatal := some ⟨b.clock.now, m, false⟩ } := by
  rw [fatalFrom, alter_getD, if_pos ⟨rfl, hlen⟩]
  rfl

theorem fatalFrom_other (b : Body) (m : Word64) (h j : Nat) (hj : j ≠ h) :
    (fatalFrom b m h).getD j ⟨none, none, false⟩ = b.half j := by
  rw [fatalFrom, alter_getD, if_neg fun e => hj e.1.symm]
  rfl

/-! ## A corrected message (R336) -/

/-- Below its limit it is counted and latched; beside the Whistle's pages it leaves its mark in the inputs of the risk forecast (R359). -/
theorem corrected_counted (b : Body) (m : Word64) (k : Nat) (hk : pageSlot (msgType m) (msgInst m) = some k)
    (hbelow : (countPromo b.whistle.promo (msgSource m) (msgKind m) b.clock.now
      (promotionOf b.book.tables.faults (msgKind m)).windowNs).1 < (promotionOf b.book.tables.faults (msgKind m)).limit) :
    ∃ st nt wh, b.corrected m = { b with store := st, net := nt, whistle := wh } ∧
      wh.pages = alter k (fun p => p.latch m .corrected) b.whistle.pages := by
  have hinputs : ∃ st nt, b.forecastInput (msgKind m) = { b with store := st, net := nt } := by
    unfold Body.forecastInput
    split
    · exact ⟨_, b.net, rfl⟩
    · split
      · exact ⟨b.store, _, rfl⟩
      · exact ⟨b.store, b.net, rfl⟩
  obtain ⟨st, nt, hform⟩ := hinputs
  unfold Body.corrected
  dsimp only
  rw [hform, if_neg (Nat.not_le.2 hbelow)]
  exact ⟨st, nt, _, rfl, latchMessage_pages _ m .corrected k hk⟩

/-- A source or class that Tables 14.2 and 14.3 do not list. -/
theorem message_unlisted (b : Body) (w : Word64) (h : pageSlot (msgType w) (msgInst w) = none ∨ msgClass w = .reserved) : b.message w = b := by
  unfold Body.message
  rcases h with h | h
  · rw [h]
  · cases pageSlot (msgType w) (msgInst w) with
    | none => rfl
    | some _ => simp only [h]

/-- Settles O53: the class decides, and each class has its own lemma above. -/
theorem faultMessages : Obligations.FaultMessages := by
  refine ⟨fun s w k hk hcls hlen hattn => ⟨_, contained_reaches s w k hk hcls, rfl, rfl, ?_⟩,
    fun s w h k hk hcls hnames hfirst hfree hh => ?_, fun s w k hk hcls hlen hbelow => ?_, fun s w hw => ?_⟩
  · dsimp only
    rw [contained_page s.body w k hk hlen, contained_doves]
    refine ⟨rfl, fun hm => ?_, rfl, rfl, fun hm ht => ?_, fun i hi => ?_, fun hn => ?_, fun j hj => ?_, ?_⟩
    · exact (congrArg (_ || ·) (decide_eq_true hm)).trans (Bool.or_true _)
    · simp [messaged, latched, FaultPage.startsTimer, FaultPage.latchedClass, hm, ht]
    · rw [hi]
      exact attention_bit s.body i (by have := attentionOf_le s.body w i hi; omega)
    · rw [hn]
      rfl
    · rw [contained_whistlePages s.body w k hk, alter_getD, if_neg fun e => hj e.1.symm]
    · obtain ⟨ps, wh, mf, sc, dv, hform⟩ := contained_form s.body w
      rw [← contained_doves, hform]
  · obtain ⟨ps, wh, mf, hform⟩ := fatalMessage_half s.body w h hnames hfirst hfree
    have hexec := exec_faultMessage s w
    rw [message_fatal s.body w k hk hcls, hform] at hexec
    exact ⟨_, hexec, rfl, fatalFrom_half s.body w h hh, fatalFrom_other s.body w h, fencedLinks_other s.body h, rfl, rfl, rfl⟩
  · obtain ⟨st, nt, wh, hform, hpages⟩ := corrected_counted s.body w k hk hbelow
    have hexec := exec_faultMessage s w
    rw [message_corrected s.body w k hk hcls, hform] at hexec
    have hpage : ({ s.body with store := st, net := nt, whistle := wh } : Body).page (msgType w) (msgInst w) =
        (s.body.page (msgType w) (msgInst w)).latch w .corrected := by
      rw [page_of_slot _ _ _ k hk, page_of_slot _ _ _ k hk]
      dsimp only
      rw [hpages, alter_getD, if_pos ⟨rfl, hlen⟩]
    rw [latch_corrected] at hpage
    exact ⟨_, hexec, (congrArg FaultPage.corrected hpage).trans rfl, (congrArg FaultPage.unhandled hpage).trans rfl,
      (congrArg FaultPage.timer hpage).trans rfl, rfl, rfl, rfl⟩
  · rw [exec_faultMessage, message_unlisted s.body w hw]

end Sys2Proof.Proofs
end

section
/-!
PROOFS. Link training, loss of lock and cages (10, R238, R239, R247, Table 10.6; 19, R427).
-/

namespace Sys2Proof.Proofs

open Sys2Proof Sys2Proof.Machine Sys2Proof.Laws

/-! ## Training -/

theorem exec_trainRetry (s : State) (l : Nat) (hl : l < 48) : exec (.trainRetry l) s = .next { s with body := s.body.trainRetry l } :=
  onBody_of (decide (l < 48)) s (fun b => b.trainRetry l) (decide_eq_true hl)

theorem exec_trainComplete (s : State) (l m rtt : Nat) (hl : l < 48) (hm : m < 16) :
    exec (.trainComplete l m rtt) s = .next { s with body := s.body.trainComplete l m rtt } :=
  onBody_of (decide (l < 48) && decide (m < 16)) s (fun b => b.trainComplete l m rtt) (by simp [hl, hm])

theorem exec_trainTimeout (s : State) (l : Nat) (hl : l < 48) : exec (.trainTimeout l) s = .next { s with body := s.body.trainTimeout l } :=
  onBody_of (decide (l < 48)) s (fun b => b.trainTimeout l) (decide_eq_true hl)

theorem exec_lockLoss (s : State) (l : Nat) (hl : l < 48) :
    exec (.lockLoss l) s = .next { s with body := s.body.loseLock (s.body.ownMember s.vault.serial) l } :=
  onBody_of (decide (l < 48)) s (fun b => b.loseLock (b.ownMember s.vault.serial) l) (decide_eq_true hl)

section Training

variable (b : Body) (l : Nat)

theorem trainRetry_down (hs : (b.link l).state = .down) (hm : b.mayTrain l = true) :
    b.trainRetry l = (b.until_ ((b.link l).since + b.book.tables.link.trainRetryNs)).setLink l .train := by
  rw [Body.trainRetry, hs, hm]
  rfl

theorem trainTimeout_train (hs : (b.link l).state = .train) :
    b.trainTimeout l = (b.until_ ((b.link l).since + 200000000)).setLink l .down := by
  rw [Body.trainTimeout, hs]

/-- A training that leaves MIN_WIDTH lanes goes on to AUTH with them, and three AUTH flits leave (log 102). -/
theorem trainComplete_wide (m rtt : Nat) (hs : (b.link l).state = .train)
    (hw : b.book.tables.link.minWidth ≤ ((maskLanes m).filter (fun x => !(b.link l).badLanes.contains x)).length) :
    b.trainComplete l m rtt = b.alterLink l (fun g => { g with
      state := .auth, since := b.clock.now, lanes := (maskLanes m).filter (fun x => !(b.link l).badLanes.contains x),
      rtt := rtt % 2 ^ 32, tx := (g.tx + 3) % 2 ^ 64 }) := by
  simp only [Body.trainComplete, hs, if_pos hw]
  exact alterLink_alterLink b l _ _

theorem trainComplete_narrow (m rtt : Nat) (hs : (b.link l).state = .train)
    (hw : ((maskLanes m).filter (fun x => !(b.link l).badLanes.contains x)).length < b.book.tables.link.minWidth) :
    b.trainComplete l m rtt = b.setLink l .down := by
  simp only [Body.trainComplete, hs, if_neg (Nat.not_le.2 hw)]

end Training

/-- A link that is set to a state, and no other. -/
theorem setLink_link (b : Body) (l : Nat) (st : LinkState) (hl : l < b.net.links.length) :
    (b.setLink l st).link l = { b.link l with state := st, since := b.clock.now } ∧ ∀ k, k ≠ l → (b.setLink l st).link k = b.link k :=
  ⟨alterLink_same b l _ hl, fun k hk => alterLink_other b l k _ hk⟩

theorem train_retries (s : State) (l : Nat) (hl : l < 48) (hlen : l < s.body.net.links.length) (hs : (s.body.link l).state = .down)
    (hm : s.body.mayTrain l = true) : ∃ t : State, exec (.trainRetry l) s = .next t ∧ t.vault = s.vault ∧ t.pending = s.pending ∧
      t.body.clock = { s.body.clock with
        now := max s.body.clock.now ((s.body.link l).since + s.body.book.tables.link.trainRetryNs) } ∧
      t.body.link l = { s.body.link l with state := .train, since := t.body.clock.now } ∧
      (∀ k, k ≠ l → t.body.link k = s.body.link k) ∧
      t.body = { s.body with clock := t.body.clock, net := t.body.net, pitches := t.body.pitches, engines := t.body.engines } := by
  have hexec := exec_trainRetry s l hl
  rw [trainRetry_down s.body l hs hm] at hexec
  obtain ⟨hsame, hothers⟩ := setLink_link (s.body.until_ ((s.body.link l).since + s.body.book.tables.link.trainRetryNs)) l .train hlen
  exact ⟨_, hexec, rfl, rfl, rfl, hsame, hothers, rfl⟩

theorem train_completes (s : State) (l m rtt : Nat) (hl : l < 48) (hm : m < 16) (hs : (s.body.link l).state = .train) : ∃ t : State,
    exec (.trainComplete l m rtt) s = .next t ∧
    (s.body.book.tables.link.minWidth ≤ ((maskLanes m).filter (fun x => !(s.body.link l).badLanes.contains x)).length →
      t.body.link l = { s.body.link l with
        state := .auth, since := s.body.clock.now, rtt := rtt % 2 ^ 32, tx := ((s.body.link l).tx + 3) % 2 ^ 64,
        lanes := (maskLanes m).filter (fun x => !(s.body.link l).badLanes.contains x) }) ∧
    (((maskLanes m).filter (fun x => !(s.body.link l).badLanes.contains x)).length < s.body.book.tables.link.minWidth →
      t.body.link l = { s.body.link l with state := .down, since := s.body.clock.now }) ∧
    (∀ k, k ≠ l → t.body.link k = s.body.link k) ∧ t.body = { s.body with net := t.body.net } := by
  have hlen : l < s.body.net.links.length := link_lt s.body l (by rw [hs]; decide)
  have hexec := exec_trainComplete s l m rtt hl hm
  by_cases hw : s.body.book.tables.link.minWidth ≤ ((maskLanes m).filter (fun x => !(s.body.link l).badLanes.contains x)).length
  · rw [trainComplete_wide s.body l m rtt hs hw] at hexec
    exact ⟨_, hexec, fun _ => alterLink_same s.body l _ hlen, fun hn => absurd hw (Nat.not_le.2 hn),
      fun k hk => alterLink_other s.body l k _ hk, rfl⟩
  · rw [trainComplete_narrow s.body l m rtt hs (Nat.not_le.1 hw)] at hexec
    obtain ⟨hsame, hothers⟩ := setLink_link s.body l .down hlen
    exact ⟨_, hexec, fun hp => absurd hp hw, fun _ => hsame, hothers, rfl⟩

theorem train_timesOut (s : State) (l : Nat) (hl : l < 48) (hs : (s.body.link l).state = .train) : ∃ t : State,
    exec (.trainTimeout l) s = .next t ∧
    t.body.clock = { s.body.clock with now := max s.body.clock.now ((s.body.link l).since + 200000000) } ∧
    t.body.link l = { s.body.link l with state := .down, since := t.body.clock.now } ∧
    (∀ k, k ≠ l → t.body.link k = s.body.link k) ∧
    t.body = { s.body with clock := t.body.clock, net := t.body.net, pitches := t.body.pitches, engines := t.body.engines } := by
  have hexec := exec_trainTimeout s l hl
  rw [trainTimeout_train s.body l hs] at hexec
  obtain ⟨hsame, hothers⟩ := setLink_link (s.body.until_ ((s.body.link l).since + 200000000)) l .down
    (link_lt s.body l (by rw [hs]; decide))
  exact ⟨_, hexec, rfl, hsame, hothers, rfl⟩

/-! ## Loss of lock (R239) -/

/-- States in which a link holds lock. -/
def locks (st : LinkState) : Bool := decide (st ∈ [LinkState.up, .resize, .auth, .train])

theorem loseLock_locked (b : Body) (own : Option Nat) (l : Nat) (hs : locks (b.link l).state = true) :
    b.loseLock own l = b.leaveUp own l .down 0 := by
  unfold Body.loseLock
  cases hst : (b.link l).state <;> simp only <;> simp [locks, hst] at hs

theorem loseLock_unlocked (b : Body) (own : Option Nat) (l : Nat) (hs : locks (b.link l).state = false) : b.loseLock own l = b := by
  unfold Body.loseLock
  cases hst : (b.link l).state <;> simp only <;> simp [locks, hst] at hs

theorem lock_lost (s : State) (l : Nat) (hl : l < 48) (hs : (s.body.link l).state ∈ [LinkState.up, .resize, .auth, .train]) : ∃ t : State,
    exec (.lockLoss l) s = .next t ∧ t.vault = s.vault ∧ t.pending = s.pending ∧ (t.body.link l).state = .down ∧
    (t.body.link l).lanes = [] ∧ (t.body.link l).since = s.body.clock.now ∧
    (∀ k, k ≠ l → (t.body.link k).state = (s.body.link k).state) ∧ t.body.clock = s.body.clock := by
  have hlen : l < s.body.net.links.length := link_lt s.body l (by intro hdown; rw [hdown] at hs; exact absurd hs (by decide))
  have hexec := exec_lockLoss s l hl
  rw [loseLock_locked s.body _ l (decide_eq_true hs)] at hexec
  obtain ⟨⟨_, _, _, _, _, _, _, hlink⟩, hothers, hclock⟩ := leaveUp_leftAs s.body (s.body.ownMember s.vault.serial) l .down 0 hlen
  refine ⟨_, hexec, rfl, rfl, ?_, ?_, ?_, fun k hk => (hothers k hk).state, hclock⟩ <;> exact hlink ▸ rfl

/-! ## Cages (R427) -/

theorem exec_pluggableInsert (s : State) (c : Nat) (hc : c < 8) :
    exec (.pluggableInsert c) s = .next { s with body := (cageLinks c).foldl Body.fit s.body } :=
  onBody_of (decide (c < 8)) s (fun b => (cageLinks c).foldl Body.fit b) (decide_eq_true hc)

theorem exec_pluggableRemove (s : State) (c : Nat) (hc : c < 8) : exec (.pluggableRemove c) s =
    .next { s with body := (cageLinks c).foldl (fun b l => b.unfit (b.ownMember s.vault.serial) l) s.body } :=
  onBody_of (decide (c < 8)) s (fun b => (cageLinks c).foldl (fun b l => b.unfit (b.ownMember s.vault.serial) l) b) (decide_eq_true hc)

/-- The links of a cage are two, and the module has them. -/
theorem cageLinks_pair (c : Nat) (hc : c < 8) : ∃ a, cageLinks c = [a, a + 1] ∧ a + 1 < 48 :=
  ⟨12 * (c / 2) + 8 + 2 * (c % 2), rfl, by omega⟩

theorem mem_pair {a l : Nat} : l ∈ [a, a + 1] ↔ l = a ∨ l = a + 1 := by simp

/-- An insertion changes its own link alone. -/
theorem fit_alters (b : Body) (l : Nat) : ∃ f, b.fit l = b.alterLink l f := by
  have hset : ∀ st, ∃ f, (b.alterLink l (fun g => { g with fitted := true })).setLink l st = b.alterLink l f :=
    fun st => ⟨_, alterLink_alterLink b l _ _⟩
  have hid : ∃ f, b = b.alterLink l f := ⟨fun g => g, by simp [Body.alterLink, alter_id]⟩
  unfold Body.fit
  split
  · exact hid
  · dsimp only
    split
    · split
      · exact hset .down
      · exact ⟨_, rfl⟩
    · split
      · exact hset .train
      · exact ⟨_, rfl⟩
    · exact ⟨_, rfl⟩

section Inserted

variable {b : Body} {l : Nat} (hl : l < b.net.links.length) (hout : (b.link l).fitted = false)
  (hon : b.book.tables.link.enable.getD l false = true)

include hl

/-- A link that is fitted, and then set to a state. -/
theorem fitted_setLink (st : LinkState) : ((b.alterLink l (fun g => { g with fitted := true })).setLink l st).link l =
    { b.link l with fitted := true, state := st, since := b.clock.now } := by
  rw [(setLink_link _ l st (by simpa using hl)).1, alterLink_same b l _ hl]
  rfl

include hout hon

theorem fit_down (hready : b.boot.start = .ready) (hs : (b.link l).state = .down) :
    (b.fit l).link l = { b.link l with fitted := true, state := .train, since := b.clock.now } := by
  have hlink : (b.alterLink l (fun g => { g with fitted := true })).link l = { b.link l with fitted := true } := alterLink_same b l _ hl
  have hmay : (b.alterLink l (fun g => { g with fitted := true })).mayTrain l = true := by
    rw [Body.mayTrain, hlink]
    simp only [alterLink_book, alterLink_boot, hon, hready, decide_true, Bool.and_true]
  rw [← fitted_setLink hl .train, Body.fit, hout]
  simp only [Bool.false_eq_true, if_false, hlink, hs, hmay, if_true]

theorem fit_disabled (halive : b.linkDead l = false) (hs : (b.link l).state = .disabled) :
    (b.fit l).link l = { b.link l with fitted := true, state := .down, since := b.clock.now } := by
  have hlink : (b.alterLink l (fun g => { g with fitted := true })).link l = { b.link l with fitted := true } := alterLink_same b l _ hl
  have hmay : (b.alterLink l (fun g => { g with fitted := true })).linkDead l = false := by
    rw [Body.linkDead, hlink]
    exact halive
  rw [← fitted_setLink hl .down, Body.fit, hout]
  simp only [Bool.false_eq_true, if_false, hlink, hs, hmay, alterLink_book, hon, Bool.not_false, Bool.and_true, if_true]

end Inserted

/-- R427: what an insertion does to one link of a cage it does whatever the cage's other link becomes. -/
theorem cage_fit {b : Body} {c l : Nat} {g : Link} (hc : c < 8) (hmem : l ∈ cageLinks c)
    (hfit : ∀ (k : Nat) (f : Link → Link), (b.alterLink k f).link l = b.link l → ((b.alterLink k f).fit l).link l = g)
    (hself : (b.fit l).link l = g) : ((cageLinks c).foldl Body.fit b).link l = g ∧
      (∀ k, k ∉ cageLinks c → ((cageLinks c).foldl Body.fit b).link k = b.link k) ∧
      (cageLinks c).foldl Body.fit b = { b with net := ((cageLinks c).foldl Body.fit b).net } := by
  obtain ⟨a, hpair, -⟩ := cageLinks_pair c hc
  rw [hpair, mem_pair] at hmem
  obtain ⟨f, hf⟩ := fit_alters b a
  obtain ⟨f', hf'⟩ := fit_alters (b.fit a) (a + 1)
  rw [hpair, show [a, a + 1].foldl Body.fit b = (b.fit a).fit (a + 1) from rfl]
  refine ⟨?_, fun k hk => ?_, by rw [hf', hf]; rfl⟩
  · rcases hmem with rfl | rfl
    · rw [hf', alterLink_other _ _ _ _ (by omega), hself]
    · rw [hf]
      exact hfit a f (alterLink_other _ _ _ _ (by omega))
  · rw [mem_pair] at hk
    rw [hf', alterLink_other _ _ _ _ (by omega), hf, alterLink_other _ _ _ _ (by omega)]

theorem cage_inserted (s : State) (c l : Nat) (hc : c < 8) (hmem : l ∈ cageLinks c) (hlen : s.body.net.links.length = 48)
    (hready : s.body.boot.start = .ready) (hon : s.body.book.tables.link.enable.getD l false = true)
    (hout : (s.body.link l).fitted = false) (hs : (s.body.link l).state = .down) : ∃ t : State, exec (.pluggableInsert c) s = .next t ∧
      t.body.link l = { s.body.link l with fitted := true, state := .train, since := s.body.clock.now } ∧
      (∀ k, k ∉ cageLinks c → t.body.link k = s.body.link k) ∧ t.body = { s.body with net := t.body.net } := by
  have hl : l < s.body.net.links.length := by
    obtain ⟨a, hpair, ha⟩ := cageLinks_pair c hc
    rw [hpair, mem_pair] at hmem
    omega
  refine ⟨_, exec_pluggableInsert s c hc, cage_fit hc hmem (fun k f hk => ?_) (fit_down hl hout hon hready hs)⟩
  rw [← hk]
  exact fit_down (by simpa using hl) (hk ▸ hout) hon hready (hk ▸ hs)

theorem cage_enabled (s : State) (c l : Nat) (hc : c < 8) (hmem : l ∈ cageLinks c) (hlen : s.body.net.links.length = 48)
    (hon : s.body.book.tables.link.enable.getD l false = true) (halive : s.body.linkDead l = false)
    (hout : (s.body.link l).fitted = false) (hs : (s.body.link l).state = .disabled) :
    ∃ t : State, exec (.pluggableInsert c) s = .next t ∧
      t.body.link l = { s.body.link l with fitted := true, state := .down, since := s.body.clock.now } ∧
      (∀ k, k ∉ cageLinks c → t.body.link k = s.body.link k) ∧ t.body = { s.body with net := t.body.net } := by
  have hl : l < s.body.net.links.length := by
    obtain ⟨a, hpair, ha⟩ := cageLinks_pair c hc
    rw [hpair, mem_pair] at hmem
    omega
  refine ⟨_, exec_pluggableInsert s c hc, cage_fit hc hmem (fun k f hk => ?_) (fit_disabled hl hout hon halive hs)⟩
  rw [← hk]
  exact fit_disabled (by simpa using hl) (hk ▸ hout) hon (by rw [Body.linkDead, hk]; exact halive) (hk ▸ hs)

/-! ## A removal -/

theorem sendEdge_length (b : Body) (own dst : Nat) (f : Flit) : (b.sendEdge own dst f).net.links.length = b.net.links.length := by
  unfold Body.sendEdge
  split
  · split
    · exact alterLink_length b _ _
    · split <;> exact alterLink_length b _ _
  · rfl

theorem reroute_length (b : Body) (own : Option Nat) (fs : List Flit) : (b.reroute own fs).net.links.length = b.net.links.length := by
  unfold Body.reroute
  split
  · exact List.foldlRecOn fs _ (motive := fun c => c.net.links.length = b.net.links.length) rfl
      fun c hc f _ => (sendEdge_length c _ _ f).trans hc
  · rfl

theorem leaveUp_length (b : Body) (own : Option Nat) (l : Nat) (st : LinkState) (reason : Nat) :
    (b.leaveUp own l st reason).net.links.length = b.net.links.length := by
  have hdown := (reroute_length (b.alterLink l (fun g => g.leaveAuth.drop st reason b.clock.now)) own ((b.link l).unsent own)).trans
    (alterLink_length b l _)
  unfold Body.leaveUp
  exact (congrArg List.length (SameLinks.ite (recheck_sameLinks _) (.refl _)).1).trans hdown

/-- `c` is what is left of `b` once link `l` is out of its cage: the others keep their states. -/
structure Unfitted (b c : Body) (l : Nat) : Prop where
  out : (c.link l).fitted = false
  down : (b.link l).state = .up → (c.link l).state = .down
  quarantined : (b.link l).state = .quarantine → (c.link l).state = .quarantine
  others : ∀ k, k ≠ l → (c.link k).state = (b.link k).state ∧ (c.link k).fitted = (b.link k).fitted
  length : c.net.links.length = b.net.links.length

theorem Dispatched.fitted {g k : Link} (h : Dispatched g k) : k.fitted = g.fitted := by
  obtain ⟨_, _, _, _, _, _, _, rfl⟩ := h
  rfl

/-- Table 10.6: the lock of a removed link is lost where it had one, and QUARANTINE stands. -/
theorem unfit_unfitted (b : Body) (own : Option Nat) (l : Nat) (hl : l < b.net.links.length) : Unfitted b (b.unfit own l) l := by
  have hothers : ∀ c : Body, ∀ k, k ≠ l → (c.alterLink l (fun g => { g with fitted := false })).link k = c.link k :=
    fun c k hk => alterLink_other c l k _ hk
  cases hlock : locks (b.link l).state
  · rw [Body.unfit, loseLock_unlocked b own l hlock]
    have hsame := alterLink_same b l (fun g => { g with fitted := false }) hl
    exact {
      out := by rw [hsame]
      down := fun hup => by rw [hup] at hlock; cases hlock
      quarantined := fun hq => by rw [hsame]; exact hq
      others := fun k hk => by rw [hothers b k hk]; exact ⟨rfl, rfl⟩
      length := alterLink_length b l _ }
  · rw [Body.unfit, loseLock_locked b own l hlock]
    obtain ⟨⟨_, _, _, _, _, _, _, hlink⟩, hrest, -⟩ := leaveUp_leftAs b own l .down 0 hl
    have hlen := leaveUp_length b own l .down 0
    have hsame := alterLink_same (b.leaveUp own l .down 0) l (fun g => { g with fitted := false }) (by rwa [hlen])
    exact {
      out := by rw [hsame]
      down := fun _ => by rw [hsame, hlink]; rfl
      quarantined := fun hq => by rw [hq] at hlock; cases hlock
      others := fun k hk => by rw [hothers _ k hk]; exact ⟨(hrest k hk).state, (hrest k hk).fitted⟩
      length := (alterLink_length _ l _).trans hlen }

theorem cage_removed (s : State) (c l : Nat) (hc : c < 8) (hmem : l ∈ cageLinks c) (hlen : s.body.net.links.length = 48) : ∃ t : State,
    exec (.pluggableRemove c) s = .next t ∧ t.vault = s.vault ∧ t.pending = s.pending ∧ (t.body.link l).fitted = false ∧
    ((s.body.link l).state = .up → (t.body.link l).state = .down) ∧
    ((s.body.link l).state = .quarantine → (t.body.link l).state = .quarantine) ∧
    (∀ k, k ∉ cageLinks c → (t.body.link k).state = (s.body.link k).state) := by
  obtain ⟨a, hpair, ha⟩ := cageLinks_pair c hc
  have hfirst := unfit_unfitted s.body (s.body.ownMember s.vault.serial) a (by omega)
  have hlast := unfit_unfitted (s.body.unfit (s.body.ownMember s.vault.serial) a)
    ((s.body.unfit (s.body.ownMember s.vault.serial) a).ownMember s.vault.serial) (a + 1) (by rw [hfirst.length]; omega)
  have hexec := exec_pluggableRemove s c hc
  rw [hpair, mem_pair] at hmem
  rw [hpair] at hexec ⊢
  refine ⟨_, hexec, rfl, rfl, ?_⟩
  have hrest : ∀ k, k ∉ [a, a + 1] →
      (([a, a + 1].foldl (fun b l => b.unfit (b.ownMember s.vault.serial) l) s.body).link k).state = (s.body.link k).state := by
    intro k hk
    rw [mem_pair] at hk
    exact (hlast.others k (by omega)).1.trans (hfirst.others k (by omega)).1
  rcases hmem with rfl | rfl
  · obtain ⟨hstate, hfitted⟩ := hlast.others l (by omega)
    exact ⟨hfitted.trans hfirst.out, fun hs => hstate.trans (hfirst.down hs), fun hs => hstate.trans (hfirst.quarantined hs), hrest⟩
  · obtain ⟨hstate, -⟩ := hfirst.others (a + 1) (by omega)
    exact ⟨hlast.out, fun hs => hlast.down (hstate.trans hs), fun hs => hlast.quarantined (hstate.trans hs), hrest⟩

/-- Settles O46: training is its own link's alone, a lock that is lost leaves the others' states, and a cage's two links are fitted, or
removed, one after the other. -/
theorem linkTraining : Obligations.LinkTraining :=
  ⟨train_retries, train_completes, train_timesOut, lock_lost, cage_inserted, cage_enabled, cage_removed⟩

end Sys2Proof.Proofs
end

section
/-!
PROOFS. The fence of a half whose slots have all been retired before (14, R340; 15, R366, R369): nothing is left to retire, so the re-check of
R39 comes with the fence itself, and a fixture that it refuses releases the accumulators of its engines.
-/

namespace Sys2Proof.Proofs

open Sys2Proof Sys2Proof.Machine Sys2Proof.Laws

/-- A fixture with one bank of the west half. -/
def westBank : FixtureImage :=
  { idleImage with header := { idleImage.header with rbMin := 0 }, demands := ⟨1, 0, 0, 0, 0, 2048, 0, [], []⟩ }

/-- A fatal message of the west half, which its keeper has reported. -/
def westReported : FatalSeq := ⟨9000000, faultWord tHalf 0 .fatal false false kControlPath 0, true⟩

/-- The west half's slots are RETIRED, and wait to come back (R369); its fault is reported a second time. Partition 0 owns pitch 0, is STOPPED
with bank 0, and engine 0 holds an accumulator. -/
def fencedAgain : State where
  pending := []
  vault := Vault.reset
  body := { Body.reset with
    boot := { Boot.reset with start := .ready, step := 9, inputOk := true, standby := true, rails := true, tested := true }
    clock := { Clock.reset with refPresent := true, now := 9100000 }
    whistle := { Whistle.reset with halves := [⟨none, some westReported, false⟩, ⟨none, none, false⟩] }
    store := { Store.reset with
      retired := ((halfChannels 0).filter (· < 384)).map Body.reset.chanSlot
      returning := ((halfChannels 0).filter (· < 384)).map Body.reset.chanSlot
      outRetired := ((halfChannels 0).filter (fun c => decide (384 ≤ c))).map Body.reset.chanSlot
      outReturning := ((halfChannels 0).filter (fun c => decide (384 ≤ c))).map Body.reset.chanSlot
      banks := alter 0 (fun x => { x with state := .on }) Store.reset.banks }
    engines := alter 0 (fun x => { x with accs := [⟨0, Arith.XSum.zero⟩] }) Body.reset.engines
    parts := { Partition.reset with
      pitches := [0]
      fix := some westBank
      fstate := .stopped
      grant := ⟨[0], [], [⟨outfieldBase, 2048⟩], [], 0⟩ } :: List.replicate 3 Partition.reset }

/-- Before the fence the fixture passes every check of a re-check. -/
theorem mapChecks_fencedAgain : fencedAgain.body.mapChecks 0 westBank = [] := by decide +kernel

/-- Accumulators of engine 0 after a row, where it answers a state. -/
def accumulators : Host.Outcome State Fault Refusal → Nat
  | .next t => (t.body.engine 0).accs.length
  | _ => 0

theorem accumulators_fencedAgain : accumulators (exec (.halfFence 0) fencedAgain) = 0 := by decide +kernel

/-- Refutes O54: its third clause keeps the accumulators of the fenced half's engines; but in `fencedAgain` the fence leaves no slot to retire, so
the re-check comes at once, refuses the fixture whose bank is gone, and empties its engine. -/
theorem not_timersAndFences : ¬ Obligations.TimersAndFences := by
  rintro ⟨-, -, hfence, -⟩
  obtain ⟨t, hexec, -, -, -, -, -, haccs, -⟩ := hfence fencedAgain 0 westReported (by decide) rfl rfl rfl rfl rfl rfl
  have hempty := accumulators_fencedAgain
  rw [hexec, accumulators, haccs 0 rfl] at hempty
  exact absurd hempty (by decide)

end Sys2Proof.Proofs
end

section
/-!
PROOFS. The command SNAPSHOT of a STOPPED fixture that has a backward stream and no updates (13, Table 13.4; 15, R349, R350): as with a
SNAPSHOT entry of the schedule, it is cut behind a rollback of the journal (06, R122, R123).
-/

namespace Sys2Proof.Proofs

open Sys2Proof Sys2Proof.Machine Sys2Proof.Laws

/-- `journalled` without the entry of its schedule, and with one command announced on each ring. -/
def journalledRinged : State :=
  { journalled with body := { journalled.body with sched := Sched.reset, rings := List.replicate 5 { Ring.reset with enable := true, tail := 1 } } }

/-- The header of a command of partition 0 on its own ring. -/
def ownHdr0 : Hdr := ⟨0, 0, 7, false⟩

theorem journalledRinged_ringReady : RingReady journalledRinged.body ownHdr0 where
  wf := by decide +kernel
  rsvd := rfl
  serves := by decide +kernel
  pcie := by decide +kernel
  idle := by decide +kernel
  on := by decide +kernel
  unread := by decide +kernel
  noHeld := by decide +kernel
  room := by decide +kernel
  ahead := by decide +kernel
  reads := by decide +kernel

theorem groupsCut_journalledRinged : groupsCut (exec (.snapshot ownHdr0 4 4096) journalledRinged) = [[⟨0, 0, 0⟩]] := by decide +kernel

/-- The sections of the partition as it stands when the command is carried out. -/
theorem groupSections_journalledRinged : groupSections ((journalledRinged.body.running ownHdr0 (.snapshot 4 4096)).sections 0 backwardOnly
    ((journalledRinged.body.part 0).layersDue backwardOnly ((journalledRinged.body.part 0).pass.step - 1))) = [[⟨0, 1, 1⟩]] := by
  decide +kernel

/-- Refutes O7: its second clause has the image of every fixture without updates hold the sections of the partition as it stands; but the
one of `journalledRinged` has a backward stream, so its cut stands behind a rollback, and the journal is not empty. -/
theorem not_snapshotCommands : ¬ Obligations.SnapshotCommands := by
  rintro ⟨-, hcut, -⟩
  obtain ⟨t, r, hexec, -, hrun, -, -, -, -, -, -, -, -, -, -, -, -, -, hsections, -⟩ := hcut journalledRinged ownHdr0 backwardOnly 4 4096
    [2, 2, 2, 2, 2] journalledRinged_ringReady ⟨by decide, rfl⟩ (by decide) (by decide) (by decide +kernel) (by decide +kernel) rfl
    (.inl rfl) rfl rfl (by decide +kernel)
  have hgroups := groupsCut_journalledRinged
  rw [hexec, groupsCut, show (t.body.part 0).snap.run = some r from hrun, Option.map_some, Option.getD_some, hsections rfl,
    show ownHdr0.part = 0 from rfl, groupSections_journalledRinged] at hgroups
  exact absurd hgroups (by decide)

end Sys2Proof.Proofs
end

section
/-!
PROOFS. A snapshot that completes (15, R351, R355, R356, R361): every layer has been copied, and no request waits behind it.
-/

namespace Sys2Proof.Proofs

open Sys2Proof Sys2Proof.Machine Sys2Proof.Laws

theorem exec_snapshotComplete (s : State) (p : Nat) (hp : p < 4) :
    exec (.snapshotComplete p) s = .next { s with body := s.body.snapshotComplete s.vault p } :=
  onBody_of (decide (p < 4)) s (fun b => b.snapshotComplete s.vault p) (decide_eq_true hp)

/-! ## The copies -/

/-- Memory and host once an image stands in its own slot and at its host address, where the mask names them (log 78). -/
def imageStore (b : Body) (i : Image) (f : FixtureImage) : Store :=
  if i.dest.testBit 0 then b.store.writeBytes i.ownAt (i.copyBytes f 0) else b.store

def imageHost (b : Body) (i : Image) (f : FixtureImage) : HostIf :=
  if i.dest.testBit 2 then { b.host with snapOut := (i.hostAddr, i.copyBytes f 2) :: b.host.snapOut } else b.host

theorem storeImage_form (b : Body) (p : Nat) (i : Image) (f : FixtureImage) (hf : (b.part p).fix = some f) :
    b.storeImage p i = { b with store := imageStore b i f, host := imageHost b i f } := by
  simp only [Body.storeImage, hf, Body.writeImage, imageStore, imageHost]
  split <;> split <;> rfl

/-- A partition whose snapshot has completed, with C and T as they then stand (R360). -/
def snapped (r : SnapRun) (c t : Nat) (x : Partition) : Partition :=
  { x with snap := { x.snap.complete r x.runsSteps with costC := c, tS := t } }

/-- The module once that snapshot has completed, but for the command that asked for it. -/
def stored (b : Body) (p : Nat) (r : SnapRun) (f : FixtureImage) (c t : Nat) : Body :=
  { b.alterPart p (snapped r c t) with store := imageStore b r.image f, host := imageHost b r.image f, free := b.free + 1 }

/-- The cost field of the record: a free value while steps run (log 130). -/
def snapCostOf (b : Body) (p : Nat) : Nat := if (b.part p).runsSteps then Config.snapCost b.free else 0

theorem refreshCost_sets (b : Body) (p : Nat) :
    ∃ c t, b.refreshCost p = b.alterPart p (fun x => { x with snap := { x.snap with costC := c, tS := t } }) := ⟨_, _, rfl⟩

theorem finishSnapshot_form (b : Body) (p : Nat) (r : SnapRun) (f : FixtureImage)
    (hrun : (b.part p).snap.run = some r) (hf : (b.part p).fix = some f) (hdue : r.layersDue = []) : ∃ c t, b.finishSnapshot p =
      some (stored b p r f c t, r, .snapshot r.image.step (r.image.lengths.foldl (· + ·) 0) (snapCostOf b p) r.image.slot) := by
  obtain ⟨c, t, hcost⟩ := refreshCost_sets (({ b with store := imageStore b r.image f, host := imageHost b r.image f } : Body).alterPart p
    (fun x => { x with snap := x.snap.complete r (b.part p).runsSteps })) p
  refine ⟨c, t, ?_⟩
  have hparts : alter p (fun x => { x with snap := { x.snap with costC := c, tS := t } })
      (alter p (fun x => { x with snap := x.snap.complete r (b.part p).runsSteps }) b.parts) = alter p (snapped r c t) b.parts := by
    rw [alter_alter]
    refine alter_congr p _ _ b.parts fun x hx => ?_
    rw [Body.part, List.getD_eq_getElem?_getD, hx]
    rfl
  simp only [Body.finishSnapshot, hrun, hdue, List.isEmpty_nil, if_true, storeImage_form b p r.image f hf, hcost]
  simp only [Body.alterPart, hparts]
  rfl

section Stored

variable (b : Body) (p : Nat) (r : SnapRun) (f : FixtureImage) (c t : Nat)

theorem stored_part (hp : p < b.parts.length) : (stored b p r f c t).part p = snapped r c t (b.part p) :=
  alterPart_same b p (snapped r c t) hp

theorem stored_other (q : Nat) (hq : q ≠ p) : (stored b p r f c t).part q = b.part q := alterPart_other b p q (snapped r c t) hq

end Stored

/-! ## The row -/

theorem cutWaiting_none (b : Body) (v : Vault) (p : Nat) (h : (b.part p).snap.waiting = none) : b.cutWaiting v p = b := by
  simp only [Body.cutWaiting, h]

theorem snapshotComplete_due (b : Body) (v : Vault) (p : Nat) (h : ∀ r, (b.part p).snap.run = some r → r.layersDue ≠ []) :
    b.snapshotComplete v p = b := by
  have hnone : b.finishSnapshot p = none := by
    unfold Body.finishSnapshot
    split
    · next r hr => rw [if_neg (by simpa using h r hr)]
    · rfl
  rw [Body.snapshotComplete, hnone]

theorem snapshotComplete_entry (b : Body) (v : Vault) (p : Nat) (r : SnapRun) (f : FixtureImage) (hp : p < b.parts.length)
    (hrun : (b.part p).snap.run = some r) (hf : (b.part p).fix = some f) (hdue : r.layersDue = []) (hcmd : r.command = false)
    (hwait : (b.part p).snap.waiting = none) : ∃ c t, b.snapshotComplete v p = stored b p r f c t := by
  obtain ⟨c, t, hform⟩ := finishSnapshot_form b p r f hrun hf hdue
  refine ⟨c, t, ?_⟩
  simp only [Body.snapshotComplete, hform, hcmd, Bool.false_eq_true, if_false]
  exact cutWaiting_none _ v p (by rw [stored_part b p r f c t hp]; exact hwait)

/-- The one command that runs is the one that asked for the snapshot: its record is written, and none starts. -/
theorem snapshotComplete_command (b : Body) (v : Vault) (p : Nat) (r : SnapRun) (f : FixtureImage) (a : Active) (hp : p < b.parts.length)
    (hrun : (b.part p).snap.run = some r) (hf : (b.part p).fix = some f) (hdue : r.layersDue = []) (hcmd : r.command = true)
    (hwait : (b.part p).snap.waiting = none) (hact : b.active = [a]) (hkey : a.key = p) (hgo : a.running = true) (hop : a.cmd.opcode = 0x28) :
    ∃ c t, b.snapshotComplete v p = ({ stored b p r f c t with active := [] }).finish a.ring a.tag a.cmd stOk 0
      (.snapshot r.image.step (r.image.lengths.foldl (· + ·) 0) (snapCostOf b p) r.image.slot) := by
  obtain ⟨c, t, hform⟩ := finishSnapshot_form b p r f hrun hf hdue
  refine ⟨c, t, ?_⟩
  have hfind : (stored b p r f c t).active.find? (fun a => decide (a.key = p) && a.running && isSnapshotCmd a.cmd) = some a := by
    rw [show (stored b p r f c t).active = [a] from hact]
    simp [hkey, hgo, hop, isSnapshotCmd]
  have herase : (stored b p r f c t).active.erase a = [] := by
    rw [show (stored b p r f c t).active = [a] from hact, List.erase_cons_head]
  simp only [Body.snapshotComplete, hform, hcmd, if_true, hfind, Body.endCommand, herase]
  rw [start_idle v _ (by rw [finish_active])]
  refine cutWaiting_none _ v p ?_
  obtain ⟨g, bits, hfinish⟩ := finish_form { stored b p r f c t with active := [] } a.ring a.tag a.cmd stOk 0
    (.snapshot r.image.step (r.image.lengths.foldl (· + ·) 0) (snapCostOf b p) r.image.slot)
  rw [hfinish]
  exact (congrArg (fun x : Partition => x.snap.waiting) (stored_part b p r f c t hp)).trans hwait

/-! ## The obligation -/

theorem entry_completes (s : State) (p : Nat) (r : SnapRun) (f : FixtureImage) (hp4 : p < 4) (hp : p < s.body.parts.length)
    (hrun : (s.body.part p).snap.run = some r) (hf : (s.body.part p).fix = some f) (hdue : r.layersDue = []) (hcmd : r.command = false)
    (hwait : (s.body.part p).snap.waiting = none) : ∃ t : State,
      exec (.snapshotComplete p) s = .next t ∧ t.vault = s.vault ∧ t.pending = s.pending ∧
      (t.body.part p).snap.run = none ∧ (t.body.part p).snap.images.head? = some r.image ∧
      (t.body.part p).snap.snapshots = ((s.body.part p).snap.snapshots + 1) % 2 ^ 32 ∧
      (t.body.part p).pass = (s.body.part p).pass ∧ (t.body.part p).streams = (s.body.part p).streams ∧
      (∀ q, q ≠ p → t.body.part q = s.body.part q) ∧
      t.body.store = (if r.image.dest.testBit 0 then s.body.store.writeBytes r.image.ownAt (r.image.copyBytes f 0) else s.body.store) ∧
      t.body.host = (if r.image.dest.testBit 2
        then { s.body.host with snapOut := (r.image.hostAddr, r.image.copyBytes f 2) :: s.body.host.snapOut } else s.body.host) ∧
      (t.body.part p).snap.costDue = (if (s.body.part p).runsSteps = true then some (r.started, r.meanNs) else none) ∧
      (t.body.part p).snap.costMs = (if (s.body.part p).runsSteps = true then (s.body.part p).snap.costMs else some 0) ∧
      t.body = { s.body with parts := t.body.parts, store := t.body.store, host := t.body.host, free := s.body.free + 1 } := by
  obtain ⟨c, t, hform⟩ := snapshotComplete_entry s.body s.vault p r f hp hrun hf hdue hcmd hwait
  have hpart := stored_part s.body p r f c t hp
  have hexec := exec_snapshotComplete s p hp4
  rw [hform] at hexec
  refine ⟨_, hexec, rfl, rfl, ?_⟩
  dsimp only
  rw [hpart]
  exact ⟨rfl, rfl, rfl, rfl, rfl, stored_other s.body p r f c t, rfl, rfl, rfl, rfl, rfl⟩

theorem command_completes (s : State) (p : Nat) (r : SnapRun) (f : FixtureImage) (a : Active) (hp4 : p < 4) (hp : p < s.body.parts.length)
    (hrun : (s.body.part p).snap.run = some r) (hf : (s.body.part p).fix = some f) (hdue : r.layersDue = []) (hcmd : r.command = true)
    (hwait : (s.body.part p).snap.waiting = none) (hact : s.body.active = [a]) (hkey : a.key = p) (hgo : a.running = true)
    (hop : a.cmd.opcode = 0x28) (hring : a.ring < s.body.rings.length) (hheld : (s.body.ring a.ring).held = [])
    (hroom : (s.body.ring a.ring).hasRoom s.body.host.pcieUp = true) : ∃ t : State,
      exec (.snapshotComplete p) s = .next t ∧ t.vault = s.vault ∧ t.pending = s.pending ∧ t.body.active = [] ∧
      (t.body.part p).snap.run = none ∧ (t.body.part p).snap.images.head? = some r.image ∧
      (t.body.part p).snap.snapshots = ((s.body.part p).snap.snapshots + 1) % 2 ^ 32 ∧
      (∀ q, q ≠ p → t.body.part q = s.body.part q) ∧
      (t.body.ring a.ring).written = (s.body.ring a.ring).written ++ [⟨a.tag, 0x28, stOk, (s.body.ring a.ring).phase, kindCommand, 0,
        .snapshot r.image.step (r.image.lengths.foldl (· + ·) 0)
          (if (s.body.part p).runsSteps = true then Config.snapCost s.body.free else 0) r.image.slot⟩] ∧
      (∀ i, i ≠ a.ring → t.body.ring i = s.body.ring i) ∧
      t.body.store = (if r.image.dest.testBit 0 then s.body.store.writeBytes r.image.ownAt (r.image.copyBytes f 0) else s.body.store) ∧
      t.body = { s.body with parts := t.body.parts, store := t.body.store, host := t.body.host, rings := t.body.rings, free := s.body.free + 1,
                             doves := t.body.doves, active := t.body.active } := by
  obtain ⟨c, t, hform⟩ := snapshotComplete_command s.body s.vault p r f a hp hrun hf hdue hcmd hwait hact hkey hgo hop
  simp only [Ring.hasRoom, Bool.and_eq_true, decide_eq_true_eq] at hroom
  obtain ⟨⟨hon, hup⟩, hfree⟩ := hroom
  have hup' : (imageHost s.body r.image f).pcieUp = true := by
    rw [imageHost]
    split <;> exact hup
  have hwritten := finish_ring { stored s.body p r f c t with active := [] } a.ring a.tag a.cmd stOk 0
    (.snapshot r.image.step (r.image.lengths.foldl (· + ·) 0) (snapCostOf s.body p) r.image.slot)
    (by intro h; rw [h] at hop; exact absurd hop (by decide)) (by rw [hop]; decide) hring hon hup' hheld
    (Nat.lt_of_le_of_lt (Nat.zero_le _) hfree)
  rw [hop] at hwritten
  obtain ⟨g, bits, hfinish⟩ := finish_form { stored s.body p r f c t with active := [] } a.ring a.tag a.cmd stOk 0
    (.snapshot r.image.step (r.image.lengths.foldl (· + ·) 0) (snapCostOf s.body p) r.image.slot)
  have hexec := exec_snapshotComplete s p hp4
  rw [hform] at hexec
  have hpart : (Body.part { { stored s.body p r f c t with active := [] } with
      doves := { (stored s.body p r f c t).doves with attn := bits }, rings := alter a.ring g (stored s.body p r f c t).rings } p) =
      snapped r c t (s.body.part p) := stored_part s.body p r f c t hp
  rw [hfinish] at hexec hwritten
  refine ⟨_, hexec, rfl, rfl, rfl, ?_, ?_, ?_, stored_other s.body p r f c t, ?_, fun i hi => ?_, rfl, rfl⟩
  · exact congrArg (fun x : Partition => x.snap.run) hpart
  · exact congrArg (fun x : Partition => x.snap.images.head?) hpart
  · exact congrArg (fun x : Partition => x.snap.snapshots) hpart
  · exact congrArg Ring.written hwritten
  · exact (alterRing_ring s.body a.ring i g).trans (if_neg fun h => hi h.1.symm)

/-- Settles O45: what `finishSnapshot` leaves, with no request waiting behind it; the command that asked for the snapshot gets its record. -/
theorem snapshotCompletes : Obligations.SnapshotCompletes := by
  refine ⟨entry_completes, command_completes, fun s p r hp hrun hdue => ?_, fun s p hp hrun => ?_⟩
  all_goals rw [exec_snapshotComplete s p hp, snapshotComplete_due]
  · intro r' hr'
    rw [hrun] at hr'
    cases hr'
    exact hdue
  · intro r' hr'
    rw [hrun] at hr'
    cases hr'

end Sys2Proof.Proofs
end

section
/-!
PROOFS. LOG_READ and LOG_CLEAR (16, R376, R381 to R386; 13, Table 13.4).
-/

namespace Sys2Proof.Proofs

open Sys2Proof Sys2Proof.Machine Sys2Proof.Laws

/-! ## An entry that its ring's record answers at once -/

/-- `RingReady` read for the one entry that is put into the ring, of whatever command. -/
theorem readEntry_accepts (s : State) (h : Hdr) (cmd : Cmd) (hr : RingReady s.body h) :
    Body.readEntry (s.body.alterRing h.ring (fun x => { x with entries := x.entries ++ [(⟨h, cmd⟩ : RingCmd)] })) s.vault h.ring =
      some (((s.body.alterRing h.ring (fun x => { x with entries := x.entries ++ [(⟨h, cmd⟩ : RingCmd)] })).alterRing h.ring
        (fun x => { x with entries := [], cmdHead := (x.cmdHead + 1) % x.cmdSize, reads := x.reads + 1 })).accept s.vault ⟨h, cmd⟩) := by
  have hring : (s.body.alterRing h.ring (fun x => { x with entries := x.entries ++ [(⟨h, cmd⟩ : RingCmd)] })).ring h.ring
      = { s.body.ring h.ring with entries := [(⟨h, cmd⟩ : RingCmd)] } := by
    rw [alterRing_ring]; simp [ring_lt s.body h.ring hr.on, hr.unread]
  have hroom : Ring.accepts { s.body.ring h.ring with entries := [(⟨h, cmd⟩ : RingCmd)] } cmd = true := by
    have hlt : (s.body.ring h.ring).open_ < (s.body.ring h.ring).free - cplReserve := by
      have := hr.room
      simp only [cplReserve]; omega
    unfold Ring.accepts
    split
    · rfl
    · exact decide_eq_true hlt
  have hreach : (s.body.alterRing h.ring (fun x => { x with entries := x.entries ++ [(⟨h, cmd⟩ : RingCmd)] })).reachable cmd = true := by
    simp [Body.reachable, hr.pcie]
  unfold Body.readEntry
  simp only [hring]
  exact if_pos (by rw [hreach, hroom]; simp [hr.on, hr.ahead, hr.reads])

theorem entered_ring (b : Body) (h : Hdr) (hr : RingReady b h) : (b.entered h).ring h.ring =
    { b.ring h.ring with cmdHead := ((b.ring h.ring).cmdHead + 1) % (b.ring h.ring).cmdSize, reads := (b.ring h.ring).reads + 1,
                         open_ := (b.ring h.ring).open_ + 1 } :=
  running_ring b h .fixtureStart hr

/-- A command that acceptance itself ends with its record: the whole of what its row does. -/
theorem submit_atOnce (s : State) (h : Hdr) (cmd : Cmd) (b' : Body) (st code : Nat) (d : Detail) (hr : RingReady s.body h)
    (hne : cmd ≠ .abandon) (hop : cmd.opcode ≠ 0)
    (hacc : ∀ b : Body, b.alterRing h.ring (fun x => { x with open_ := x.open_ + 1 }) = s.body.entered h →
      b.accept s.vault ⟨h, cmd⟩ = b'.finish h.ring h.tag cmd st code d)
    (hact : b'.active = []) (hrings : b'.rings = (s.body.entered h).rings) (hup : b'.host.pcieUp = true) (hdoves : b'.doves = s.body.doves) :
    ∃ t : State, submit h.wf ⟨h, cmd⟩ s = .next t ∧ RingFrame s t h ∧ Answered s.body t.body h cmd st code d ∧
      t.body = { b' with doves := t.body.doves, rings := t.body.rings } := by
  have hring : b'.ring h.ring = _ := (congrArg (fun rs : List Ring => rs.getD h.ring Ring.reset) hrings).trans (entered_ring s.body h hr)
  have hfin := finish_ring b' h.ring h.tag cmd st code d hne hop (by rw [hrings]; simpa [Body.entered] using ring_lt s.body h.ring hr.on)
    (by rw [hring]; exact hr.on) hup (by rw [hring]; exact hr.noHeld)
    (by rw [hring]; exact Nat.lt_of_le_of_lt (Nat.zero_le _) hr.room)
  rw [hring] at hfin
  have hexec : submit h.wf ⟨h, cmd⟩ s = .next { s with body := b'.finish h.ring h.tag cmd st code d } := by
    have hserves : ∀ f, (s.body.alterRing h.ring f).serves = true := fun _ => hr.serves
    rw [submit_wf h cmd s hr.wf, submit, onBody_true]
    congr 2
    rw [Body.serveRing, hserves, if_pos rfl, Body.readRing, readEntry_accepts s h cmd hr, hacc _ (entered_eq s.body h cmd hr)]
    exact readRing_unread _ _ _ _ (by rw [hfin]; exact hr.unread)
  have hanswered : Answered s.body (b'.finish h.ring h.tag cmd st code d) h cmd st code d :=
    { record := by rw [hfin]; simp [Ring.write]
      tail := by rw [hfin]; simp [Ring.write]
      head := by rw [hfin]; simp [Ring.write]
      read := by rw [hfin]; simp [Ring.write, hr.unread]
      open_ := by rw [hfin]; simp
      idle := by rw [finish_active]; exact hact }
  obtain ⟨f, bits, hform⟩ := finish_form b' h.ring h.tag cmd st code d
  refine ⟨_, hexec, ⟨rfl, rfl, ?_, fun i hi => ?_⟩, hanswered, by rw [hform]⟩
  · rw [hform, hdoves]
  · rw [hform]
    show (alter h.ring f b'.rings).getD i Ring.reset = _
    rw [alter_getD, if_neg (fun x => hi x.1.symm), hrings]
    exact (alterRing_ring s.body h.ring i _).trans (if_neg fun x => hi x.1.symm)

/-! ## LOG_READ (R382) -/

/-- The valid records from a number on, as many as were asked for. -/
def logRecords (first count : Nat) (k : Score) : List (List Byte) :=
  ((k.flash.filter isRecord).filter (fun q => decide (first ≤ recordSeq q))).take count

/-- The module once those stand in the host's buffer, and the corrupt positions passed are counted. -/
def logHanded (first count buf : Nat) (b : Body) : Body :=
  { b with
    host := { b.host with logOut := (buf, (logRecords first count b.score).flatMap id) :: b.host.logOut }
    score := { b.score with corrupt := (b.score.corrupt + corruptSkipped count (logTail first b.score.flash)) % 2 ^ 32 } }

theorem cmdLogRead_hands (first count buf : Nat) (b : Body) (hlo : 0 < count) (hhi : count ≤ 65536) : cmdLogRead first count buf b =
    (logHanded first count buf b, .done stOk 0 (.counter (logRecords first count b.score).length)) := by
  rw [cmdLogRead, if_neg (by omega)]
  rfl

theorem logRead_hands (s : State) (h : Hdr) (first count buf : Nat) (hr : RingReady s.body h) (hring : ModuleRing h ∨ OwnRing h)
    (hlo : 0 < count) (hhi : count ≤ 65536) : ∃ t : State, exec (.logRead h first count buf) s = .next t ∧ RingFrame s t h ∧
      t.body.score = { s.body.score with
        corrupt := (s.body.score.corrupt + corruptSkipped count (logTail first s.body.score.flash)) % 2 ^ 32 } ∧
      t.body.host.logOut =
        (buf, (((s.body.score.flash.filter isRecord).filter (fun q => decide (first ≤ recordSeq q))).take count).flatMap id) ::
          s.body.host.logOut ∧
      Answered s.body t.body h (.logRead first count buf) stOk 0
        (.counter (((s.body.score.flash.filter isRecord).filter (fun q => decide (first ≤ recordSeq q))).take count).length) ∧
      t.body = { s.body with doves := t.body.doves, rings := t.body.rings, host := t.body.host, score := t.body.score } := by
  have hright : ringRight ⟨h, .logRead first count buf⟩ = true := by
    rcases hring with ⟨hring, hpart⟩ | ⟨hring, hpart⟩
    · simp [ringRight, hring, hpart, Cmd.ringKind]
    · simp [ringRight, hring, hpart, Cmd.ringKind]
  have hacc : ∀ b : Body, b.alterRing h.ring (fun x => { x with open_ := x.open_ + 1 }) = s.body.entered h →
      b.accept s.vault ⟨h, .logRead first count buf⟩ = (logHanded first count buf (s.body.entered h)).finish h.ring h.tag
        (.logRead first count buf) stOk 0 (.counter (logRecords first count s.body.score).length) := by
    intro b hb
    have hhands := cmdLogRead_hands first count buf (s.body.entered h) hlo hhi
    simp only [Body.accept, hb, hright, hr.rsvd, Bool.not_true, Bool.false_eq_true, if_false, hhands]
    rfl
  obtain ⟨t, hexec, hframe, hanswered, hbody⟩ := submit_atOnce s h (.logRead first count buf) (logHanded first count buf (s.body.entered h))
    stOk 0 (.counter (logRecords first count s.body.score).length) hr (fun e => by cases e) (by simp [Cmd.opcode]) hacc hr.idle rfl hr.pcie rfl
  exact ⟨t, hexec, hframe, by rw [hbody]; rfl, by rw [hbody]; rfl, hanswered, by rw [hbody]; rfl⟩

/-! ## LOG_CLEAR (R383 to R386) -/

theorem exec_logClear (s : State) (h : Hdr) (auth number code : Nat) (hwf : h.wf = true) (ha : auth < 2 ^ 32) (hn : number < 2 ^ 32)
    (hc : code < 2 ^ 64) : exec (.logClear h auth number code) s = submit true ⟨h, .logClear auth number code⟩ s := by
  have hrow : exec (.logClear h auth number code) s = submit (h.wf && decide (auth < 2 ^ 32) && decide (number < 2 ^ 32) &&
    decide (code < 2 ^ 64)) ⟨h, .logClear auth number code⟩ s := rfl
  rw [hrow, hwf, decide_eq_true ha, decide_eq_true hn, decide_eq_true hc]
  rfl

/-- Programming a record leaves the count of clears. -/
theorem program_clears (k : Score) : k.program.clears = k.clears := by
  unfold Score.program
  split
  · rfl
  · dsimp only
    split <;> rfl

theorem programAll_clears (n : Nat) (k : Score) : (Score.programAll n k).clears = k.clears := by
  induction n generalizing k with
  | zero => rfl
  | succ n ih => exact (ih k.program).trans (program_clears k)

theorem log_cleared (s : State) (h : Hdr) (auth number : Nat) (hr : RingReady s.body h) (hm : ModuleRing h) (ha : auth < 2 ^ 32)
    (hn : number = (s.body.score.clears + 1) % 2 ^ 32) (hbusy : s.body.lodgeBusy s.vault = false) (hd : s.vault.debug = false) : ∃ t : State,
      exec (.logClear h auth number (Config.clearCode s.vault.serial auth number).toNat) s = .next t ∧ RingFrame s t h ∧
      Answered s.body t.body h (.logClear auth number (Config.clearCode s.vault.serial auth number).toNat) stOk 0 .none ∧
      (∃ r : Record, t.body.score.flash = [r.bytes] ∧ r.seq = 0 ∧ r.type = 8 ∧ r.detail.take 2 = [auth, number]) ∧
      t.body.score.queue = [] ∧ t.body.score.dropped = 0 ∧ t.body.score.full = false ∧ t.body.score.nextSeq = 1 ∧
      t.body.score.clears = number ∧
      t.body = { s.body with doves := t.body.doves, rings := t.body.rings, score := t.body.score } := by
  have hrun : runCmd s.vault (opened h (.logClear auth number (Config.clearCode s.vault.serial auth number).toNat))
      (s.body.running h (.logClear auth number (Config.clearCode s.vault.serial auth number).toNat)) =
      ((s.body.running h (.logClear auth number (Config.clearCode s.vault.serial auth number).toNat)).clearLog auth number, ok) :=
    if_pos ⟨by rw [hd]; rfl, rfl, hn⟩
  obtain ⟨t, hexec, hframe, hanswered, hbody⟩ := submit_answers s h _ _ stOk 0 .none hr (ringRight_module h _ hm rfl) rfl
    (by rw [hbusy, Bool.and_false]) hrun rfl rfl hr.pcie rfl
  rw [← exec_logClear s h auth number _ hr.wf ha (by omega) (BitVec.isLt _)] at hexec
  refine ⟨t, hexec, hframe, hanswered, ?_⟩
  rw [hbody]
  refine ⟨⟨_, rfl, rfl, rfl, rfl⟩, rfl, rfl, rfl, rfl, ?_, ?_⟩
  · rw [hn]
    exact congrArg (fun n => (n + 1) % 2 ^ 32) (programAll_clears _ s.body.score)
  · rw [← hr.idle]
    rfl

theorem log_kept (s : State) (h : Hdr) (auth number code : Nat) (hr : RingReady s.body h) (hm : ModuleRing h) (ha : auth < 2 ^ 32)
    (hn : number < 2 ^ 32) (hc : code < 2 ^ 64) (hbusy : s.body.lodgeBusy s.vault = false)
    (hbad : s.vault.debug = true ∨ code ≠ (Config.clearCode s.vault.serial auth number).toNat ∨ number ≠ (s.body.score.clears + 1) % 2 ^ 32) :
    ∃ t : State, exec (.logClear h auth number code) s = .next t ∧ RingFrame s t h ∧
      Answered s.body t.body h (.logClear auth number code) stTokenBad 0 .none ∧
      t.body = { s.body with doves := t.body.doves, rings := t.body.rings } := by
  have hrun : runCmd s.vault (opened h (.logClear auth number code)) (s.body.running h (.logClear auth number code)) =
      (s.body.running h (.logClear auth number code), fail stTokenBad) := by
    refine if_neg fun ⟨hdebug, hcode, hnumber⟩ => ?_
    rcases hbad with hd | hd | hd
    · rw [hd] at hdebug
      cases hdebug
    · exact hd hcode
    · exact hd hnumber
  obtain ⟨t, hexec, hframe, hanswered, hbody⟩ := submit_answers s h _ _ stTokenBad 0 .none hr (ringRight_module h _ hm rfl) rfl
    (by rw [hbusy, Bool.and_false]) hrun rfl rfl hr.pcie rfl
  rw [← exec_logClear s h auth number code hr.wf ha hn hc] at hexec
  refine ⟨t, hexec, hframe, hanswered, ?_⟩
  rw [hbody, ← hr.idle]
  rfl

/-- Settles O8: LOG_READ is answered as it is accepted; LOG_CLEAR by the code, the number and the debug state. -/
theorem logCommands : Obligations.LogCommands := ⟨logRead_hands, log_cleared, log_kept⟩

end Sys2Proof.Proofs
end

section
/-!
PROOFS. The Scorebook's flash and the supply (16, R374, R376, R379 to R381; 17, R389, R390, R393; 19, R421 to R423).
-/

namespace Sys2Proof.Proofs

open Sys2Proof Sys2Proof.Machine Sys2Proof.Laws

/-! ## Programming a record (R376, R379, R381) -/

section Programmed

variable {k : Score} {r : Record} {rs : List Record} (hq : k.queue = r :: rs)

include hq

theorem program_next (hn : k.flash.length + 1 ≠ recordPositions) : k.program = { k with
    flash := k.flash ++ [Record.bytes { r with seq := k.nextSeq }], nextSeq := k.nextSeq + 1, queue := rs } := by
  simp only [Score.program, hq]
  exact if_neg (by rwa [List.length_append])

/-- R381: the record at the last position fills the log. -/
theorem program_last (hn : k.flash.length + 1 = recordPositions) : k.program = { k with
    flash := k.flash ++ [Record.bytes { r with seq := k.nextSeq }], nextSeq := k.nextSeq + 1, queue := [], full := true,
    dropped := min (2 ^ 32 - 1) (k.dropped + rs.length) } := by
  simp only [Score.program, hq]
  exact if_pos (by rwa [List.length_append])

end Programmed

/-- What programming keeps: the positions programmed before, and the counters of power cycles. -/
structure Programs (n : Nat) (k m : Score) : Prop where
  before : k.flash <+: m.flash
  atMost : m.flash.length ≤ k.flash.length + n
  cycles : m.cycles = k.cycles

theorem Programs.refl (n : Nat) (k : Score) : Programs n k k := ⟨List.prefix_rfl, Nat.le_add_right _ _, rfl⟩

theorem Programs.trans {n i : Nat} {k m l : Score} (h : Programs n k m) (g : Programs i m l) : Programs (n + i) k l where
  before := h.before.trans g.before
  atMost := by
    have := h.atMost
    have := g.atMost
    omega
  cycles := g.cycles.trans h.cycles

theorem program_programs (k : Score) : Programs 1 k k.program := by
  cases hq : k.queue with
  | nil =>
    rw [Score.program, hq]
    exact .refl 1 k
  | cons r rs =>
    by_cases hn : k.flash.length + 1 = recordPositions
    · rw [program_last hq hn]
      exact ⟨List.prefix_append _ _, by rw [List.length_append]; rfl, rfl⟩
    · rw [program_next hq hn]
      exact ⟨List.prefix_append _ _, by rw [List.length_append]; rfl, rfl⟩

theorem programAll_programs (n : Nat) (k : Score) : Programs n k (Score.programAll n k) := by
  induction n generalizing k with
  | zero => exact .refl 0 k
  | succ n ih =>
    have hnext := (program_programs k).trans (ih k.program)
    rwa [Nat.add_comm] at hnext

/-- R380: board hold-up programs no more than what it is good for. -/
theorem holdUp_programs (k : Score) : Programs k.holdLeft k k.holdUp := by
  unfold Score.holdUp
  split
  · obtain ⟨hbefore, hmost, hcycles⟩ := programAll_programs (min k.holdLeft k.queue.length) k
    exact ⟨hbefore, hmost.trans (Nat.add_le_add_left (Nat.min_le_left _ _) _), hcycles⟩
  · exact ⟨List.prefix_rfl, Nat.le_add_right _ _, rfl⟩

theorem exec_scorebookProgram (s : State) (hin : s.body.boot.inputOk = true) (hread : s.body.score.counterRead = true) :
    exec .scorebookProgram s = .next { s with body := { s.body with score := s.body.score.program } } := by
  have hprogram : s.body.programRecord = { s.body with score := s.body.score.program } := by
    rw [Body.programRecord, hread, hin]
    rfl
  exact (onBody_true s Body.programRecord).trans (by rw [hprogram])

theorem record_programmed (s : State) (r : Record) (rs : List Record) (hin : s.body.boot.inputOk = true)
    (hread : s.body.score.counterRead = true) (hq : s.body.score.queue = r :: rs) (hn : s.body.score.flash.length + 1 ≠ recordPositions) :
    exec .scorebookProgram s = .next { s with body := { s.body with score := { s.body.score with
      flash := s.body.score.flash ++ [Record.bytes { r with seq := s.body.score.nextSeq }],
      nextSeq := s.body.score.nextSeq + 1, queue := rs } } } := by
  rw [exec_scorebookProgram s hin hread, program_next hq hn]

theorem log_filled (s : State) (r : Record) (rs : List Record) (hin : s.body.boot.inputOk = true)
    (hread : s.body.score.counterRead = true) (hq : s.body.score.queue = r :: rs) (hn : s.body.score.flash.length + 1 = recordPositions) :
    ∃ t : State, exec .scorebookProgram s = .next t ∧ t.body.score.full = true ∧ t.body.score.queue = [] ∧
      t.body.score.flash = s.body.score.flash ++ [Record.bytes { r with seq := s.body.score.nextSeq }] ∧
      t.body.score.dropped = min (2 ^ 32 - 1) (s.body.score.dropped + rs.length) ∧ t.body = { s.body with score := t.body.score } := by
  have hexec := exec_scorebookProgram s hin hread
  rw [program_last hq hn] at hexec
  exact ⟨_, hexec, rfl, rfl, rfl, rfl, rfl⟩

theorem hours_saved (s : State) (hin : s.body.boot.inputOk = true) (hread : s.body.score.counterRead = true) : ∃ t : State,
    exec .opHoursSave s = .next t ∧
    t.body.clock.now = max s.body.clock.now ((s.body.score.savedMs + 60000 - s.body.score.baseMs) * 1000000) ∧
    t.body.score = { s.body.score with savedMs := s.body.score.baseMs + t.body.clock.now / 1000000 } ∧
    t.body = { s.body with clock := t.body.clock, score := t.body.score, pitches := t.body.pitches, engines := t.body.engines } := by
  have hexec := onBody_true s Body.saveHours
  rw [Body.saveHours, hin, hread] at hexec
  exact ⟨_, hexec, rfl, rfl, rfl⟩

/-! ## The rails go off (R422) -/

theorem railsOff_link (b : Body) (l : Nat) : (b.railsOff.link l).state = .down := by
  show ((b.net.links.map Link.powerUp).getD l Link.reset).state = .down
  rw [List.getD_eq_getElem?_getD, List.getElem?_map]
  cases b.net.links[l]? <;> rfl

/-- With the standby rail go memory, partitions and links; the log keeps what hold-up could program. -/
theorem standbyOff_state (b : Body) : b.standbyOff.boot = { Body.reset.boot with standby := false, eFuseOpen := b.boot.eFuseOpen } ∧
    b.standbyOff.score.queue = [] ∧ b.score.flash <+: b.standbyOff.score.flash ∧
    b.standbyOff.score.flash.length ≤ b.score.flash.length + b.score.holdLeft ∧ b.standbyOff.store = Body.reset.store ∧
    b.standbyOff.parts = Body.reset.parts ∧ ∀ l, (b.standbyOff.link l).state = .down := by
  obtain ⟨hbefore, hmost, -⟩ := holdUp_programs b.score
  exact ⟨rfl, rfl, hbefore, hmost, rfl, rfl, railsOff_link { b with score := b.score.holdUp }⟩

theorem overvoltage_off (s : State) : ∃ t : State, exec .inputOvervoltage s = .next t ∧ t.vault = s.vault ∧
    t.body.boot = { Body.reset.boot with standby := false, eFuseOpen := true } ∧ t.body.score.queue = [] ∧
    s.body.score.flash <+: t.body.score.flash ∧ t.body.score.flash.length ≤ s.body.score.flash.length + s.body.score.holdLeft ∧
    t.body.store = Body.reset.store ∧ t.body.parts = Body.reset.parts ∧ (∀ l, (t.body.link l).state = .down) := by
  obtain ⟨hboot, hrest⟩ := standbyOff_state s.body
  refine ⟨_, onBody_true s (fun b => { b.standbyOff with boot := { b.standbyOff.boot with eFuseOpen := true } }), rfl, ?_, hrest⟩
  dsimp only
  rw [hboot]

theorem holdUp_ends (s : State) (hon : s.body.boot.standby = true) (hin : s.body.boot.inputOk = false) : ∃ t : State,
    exec .holdUpEnded s = .next t ∧ t.vault = s.vault ∧
    t.body.boot = { Body.reset.boot with standby := false, eFuseOpen := s.body.boot.eFuseOpen } ∧
    t.body.score.queue = [] ∧ s.body.score.flash <+: t.body.score.flash ∧
    t.body.score.flash.length ≤ s.body.score.flash.length + s.body.score.holdLeft ∧
    t.body.store = Body.reset.store ∧ t.body.parts = Body.reset.parts ∧ (∀ l, (t.body.link l).state = .down) := by
  have hexec := onBody_true s (fun b => if b.boot.standby && !b.boot.inputOk then b.standbyOff else b)
  rw [hon, hin] at hexec
  exact ⟨_, hexec, rfl, standbyOff_state s.body⟩

theorem holdUp_lasts (s : State) (h : s.body.boot.standby = false ∨ s.body.boot.inputOk = true) : exec .holdUpEnded s = .next s := by
  have hkept : (s.body.boot.standby && !s.body.boot.inputOk) = false := by
    rcases h with h | h <;> simp [h]
  have hexec := onBody_true s (fun b => if b.boot.standby && !b.boot.inputOk then b.standbyOff else b)
  rw [hkept] at hexec
  exact hexec

/-! ## Excursions of the input (R421, R422) -/

theorem exec_inputExcursion (s : State) (v ns : Nat) : exec (.inputExcursion v ns) s = .next { s with body := s.body.inputExcursion v ns } :=
  onBody_true s (fun b => b.inputExcursion v ns)

/-- An excursion that counts. -/
theorem inputExcursion_counts (b : Body) (v ns : Nat) (hin : b.boot.inputOk = true) (hv : v < 400 ∨ 580 < v) (hns : 50000 < ns) :
    b.inputExcursion v ns = if b.boot.readyMs = 0 then Body.railsOff { b with boot := { b.boot with inputOk := false } }
      else (Body.raise { b with boot := { b.boot with inputOk := false } } tInput 0 .fatal kInputPower v).dropRails := by
  have hcounts : (!b.boot.inputOk || decide (400 ≤ v ∧ v ≤ 580) || decide (ns ≤ 50000)) = false := by
    rw [hin, decide_eq_false (by omega), decide_eq_false (by omega)]
    rfl
  simp only [Body.inputExcursion, hcounts, Bool.false_eq_true, if_false]

theorem excursion_ignored (s : State) (v ns : Nat) (h : 400 ≤ v ∧ v ≤ 580 ∨ ns ≤ 50000) : exec (.inputExcursion v ns) s = .next s := by
  have hkept : (!s.body.boot.inputOk || decide (400 ≤ v ∧ v ≤ 580) || decide (ns ≤ 50000)) = true := by
    rcases h with h | h <;> simp [h]
  rw [exec_inputExcursion, Body.inputExcursion, if_pos hkept]

theorem excursion_early (s : State) (v ns : Nat) (hin : s.body.boot.inputOk = true) (hready : s.body.boot.readyMs = 0)
    (hv : v < 400 ∨ 580 < v) (hns : 50000 < ns) : ∃ t : State, exec (.inputExcursion v ns) s = .next t ∧ t.vault = s.vault ∧
      t.body.boot = { Body.reset.boot with standby := s.body.boot.standby, eFuseOpen := s.body.boot.eFuseOpen } ∧
      t.body.store = Body.reset.store ∧ t.body.parts = Body.reset.parts ∧ t.body.score = s.body.score ∧
      (∀ l, (t.body.link l).state = .down) := by
  have hexec := exec_inputExcursion s v ns
  rw [inputExcursion_counts s.body v ns hin hv hns, if_pos hready] at hexec
  exact ⟨_, hexec, rfl, rfl, rfl, rfl, rfl, railsOff_link _⟩

/-- Half `h` has begun the sequence of Table 14.6 with message `m`; beside the Whistle and the links nothing has changed. -/
structure Begun (b c : Body) (m : Word64) (h : Nat) : Prop where
  form : ∃ wh nt, c = { b with whistle := wh, net := nt }
  half : c.half h = { b.half h with fatal := some ⟨b.clock.now, m, false⟩ }
  others : ∀ j, j ≠ h → c.half j = b.half j
  length : c.whistle.halves.length = b.whistle.halves.length

theorem startFatal_begun (b : Body) (m : Word64) (h : Nat) (hfirst : (b.half h).fatal = none) (hfree : b.fenced h = false)
    (hlen : h < b.whistle.halves.length) : Begun b (b.startFatal m h) m h := by
  obtain ⟨ps, hform⟩ := startFatal_form b m h hfirst hfree
  rw [hform]
  exact ⟨⟨_, _, rfl⟩, fatalFrom_half b m h hlen, fatalFrom_other b m h, alter_length _ _ _⟩

/-- R339, R340: a message that names both halves takes both, where both are in service. -/
theorem fatalMessage_module (b : Body) (m : Word64) (hnames : b.fatalHalves (msgType m) (msgInst m) = [0, 1])
    (hfree : ∀ h, h < 2 → (b.half h).fatal = none ∧ b.fenced h = false) (hlen : b.whistle.halves.length = 2) :
    ∃ wh nt, b.fatalMessage m = { b with whistle := wh, net := nt } ∧
      ∀ h, h < 2 → (b.fatalMessage m).half h = { b.half h with fatal := some ⟨b.clock.now, m, false⟩ } := by
  obtain ⟨ps, wh, mf, hlatch⟩ := latchMessage_form b m .fatal
  obtain ⟨hwest, hwestFree⟩ := hfree 0 (by decide)
  obtain ⟨heast, heastFree⟩ := hfree 1 (by decide)
  have hbegins : ¬(([0, 1].all fun h => (b.half h).fatal.isSome || b.fenced h) = true) := by simp [hwest, hwestFree]
  have hsent := alterPage_form { b.whistle with pages := ps, wh := wh, moduleFirst := mf } (msgType m) (msgInst m)
    (fun p => { p with sent := m :: p.sent })
  generalize (Whistle.alterPage { b.whistle with pages := ps, wh := wh, moduleFirst := mf } (msgType m) (msgInst m)
    (fun p => { p with sent := m :: p.sent })).pages = ps' at hsent
  have hfatal : b.fatalMessage m =
      (Body.startFatal { b with whistle := { b.whistle with pages := ps', wh := wh, moduleFirst := mf } } m 0).startFatal m 1 := by
    unfold Body.fatalMessage
    rw [hnames, hlatch]
    dsimp only
    rw [if_neg (by exact hbegins), hsent]
    rfl
  have hfirst := startFatal_begun { b with whistle := { b.whistle with pages := ps', wh := wh, moduleFirst := mf } } m 0 hwest hwestFree
    (by show 0 < b.whistle.halves.length; omega)
  have hother := hfirst.others 1 (by decide)
  have hlast := startFatal_begun _ m 1 (by rw [hother]; exact heast) (by rw [Body.fenced, hother]; exact heastFree)
    (by rw [hfirst.length]; show 1 < b.whistle.halves.length; omega)
  rw [hfatal]
  obtain ⟨wh₀, nt₀, hform⟩ := hfirst.form
  obtain ⟨wh₁, nt₁, hform'⟩ := hlast.form
  refine ⟨wh₁, nt₁, by rw [hform', hform], fun h hh => ?_⟩
  obtain rfl | rfl : h = 0 ∨ h = 1 := by omega
  · rw [hlast.others 0 (by decide), hfirst.half]
    rfl
  · rw [hlast.half, hother, hform]
    rfl

theorem raise_input (b : Body) (v : Nat) : b.raise tInput 0 .fatal kInputPower v =
    b.fatalMessage (faultWord tInput 0 .fatal false false kInputPower v) ∧
    b.fatalHalves (msgType (faultWord tInput 0 .fatal false false kInputPower v))
      (msgInst (faultWord tInput 0 .fatal false false kInputPower v)) = [0, 1] := by
  have hslot : pageSlot tInput 0 = some ((pageSlot tInput 0).getD 0) := by decide
  rw [msgType_faultWord _ _ _ _ _ _ _ (by decide) (by decide), msgInst_faultWord _ _ _ _ _ _ _ (by decide) (by decide)]
  exact ⟨raise_fatal b tInput 0 kInputPower v _ (by decide) (by decide) hslot, rfl⟩

theorem excursion_fatal (s : State) (v ns : Nat) (hin : s.body.boot.inputOk = true) (hready : s.body.boot.readyMs ≠ 0)
    (hv : v < 400 ∨ 580 < v) (hns : 50000 < ns) (hfree : ∀ h, h < 2 → (s.body.half h).fatal = none ∧ s.body.fenced h = false)
    (hlen : s.body.whistle.halves.length = 2) : ∃ t : State,
      exec (.inputExcursion v ns) s = .next t ∧ t.body.boot = { s.body.boot with inputOk := false } ∧
      (∀ h, h < 2 → (t.body.half h).fatal = some ⟨s.body.clock.now, faultWord tInput 0 .fatal false false kInputPower v, false⟩) ∧
      t.body.parts = s.body.parts ∧ t.body.store = s.body.store := by
  obtain ⟨hraise, hnames⟩ := raise_input { s.body with boot := { s.body.boot with inputOk := false } } v
  obtain ⟨wh, nt, hform, hhalves⟩ := fatalMessage_module { s.body with boot := { s.body.boot with inputOk := false } } _ hnames hfree hlen
  have hexec := exec_inputExcursion s v ns
  rw [inputExcursion_counts s.body v ns hin hv hns, if_neg hready, hraise] at hexec
  have hkeeps : ∀ c : Body, c.fenced 0 = false → c.dropRails = c := fun c hc => if_neg (by rw [hc, Bool.and_false, Bool.false_and]; decide)
  rw [hkeeps _ (by rw [Body.fenced, hhalves 0 (by decide)]; exact (hfree 0 (by decide)).2)] at hexec
  refine ⟨_, hexec, ?_, fun h hh => ?_, ?_, ?_⟩
  · rw [hform]
  · rw [hhalves h hh]
  · rw [hform]
  · rw [hform]

/-! ## Power-up begins (R374, R389, R390, R393) -/

/-- R389, R393: what the state is once the input is valid, whatever the tests of the Lodge and the input monitor find. -/
theorem inputValid_powers (v : Vault) (b : Body) (hin : b.boot.inputOk = false) (hfuse : b.boot.eFuseOpen = false) :
    ∃ (ok : Bool) (bt : Boot) (ck : Clock), inputValid v b = ({ v.powerUp with healthy := ok }, { b.powerUp with boot := bt, clock := ck }) ∧
      bt.start = (if lodgePasses b.free = false ∨ inputMonitorPasses b.free = false then .failed
        else if b.clock.refPresent = true then .testing else .waitRef) := by
  unfold inputValid
  rw [hin, hfuse]
  cases hlodge : lodgePasses b.free
  · exact ⟨_, _, _, rfl, rfl⟩
  · cases hmonitor : inputMonitorPasses b.free
    · exact ⟨_, _, _, rfl, rfl⟩
    · exact ⟨_, _, _, rfl, rfl⟩

theorem input_valid (s : State) (hin : s.body.boot.inputOk = false) (hfuse : s.body.boot.eFuseOpen = false) : ∃ t : State,
    exec .inputValid s = .next t ∧ t.pending = s.pending ∧
    t.body.boot.start = (if lodgePasses s.body.free = false ∨ inputMonitorPasses s.body.free = false then .failed
      else if s.body.clock.refPresent = true then .testing else .waitRef) ∧
    t.body.store = Body.reset.store ∧ t.body.parts = Body.reset.parts ∧
    s.body.score.flash <+: t.body.score.flash ∧ t.body.score.flash.length ≤ s.body.score.flash.length + s.body.score.holdLeft ∧
    t.body.score.cycles = (s.body.score.cycles + 1) % 2 ^ 32 ∧ t.body.score.holdLeft = 9 ∧
    t.body.score.queue = [] ∧ t.vault.debug = false ∧ t.vault.nonce = none ∧ t.body.doves.asks = [] ∧ t.body.doves.mail = [] ∧
    t.vault.fixtureKeys = s.vault.fixtureKeys ∧ t.vault.rulebookKeys = s.vault.rulebookKeys ∧ t.vault.ownerKey = s.vault.ownerKey := by
  obtain ⟨ok, bt, ck, hform, hstart⟩ := inputValid_powers s.vault s.body hin hfuse
  obtain ⟨hbefore, hmost, hcycles⟩ := holdUp_programs s.body.score
  have hexec := onAll_of true s inputValid rfl
  rw [hform] at hexec
  refine ⟨_, hexec, rfl, hstart, rfl, rfl, hbefore, hmost, ?_, rfl, rfl, rfl, rfl, rfl, rfl, rfl, rfl, rfl⟩
  exact congrArg (fun n => (n + 1) % 2 ^ 32) hcycles

/-! ## REF and the self-test (R390, R391, R401) -/

theorem exec_refPresent (s : State) (x : SelfTest) : exec (.refPresent x) s =
    .next { s with vault := (refPresent x s.vault s.body).1, body := (refPresent x s.vault s.body).2 } :=
  onAll_of true s (refPresent x) rfl

/-- R261: REF that comes back while the bandstand is FREE. -/
theorem ref_returns (s : State) (x : SelfTest) (hs : s.body.boot.start = .ready) (hb : s.body.clock.band = .free) :
    exec (.refPresent x) s = .next { s with body := { s.body with clock := { s.body.clock with
      refPresent := true, band := .seeking, edgeAt := none, tai := none } } } := by
  simp only [exec_refPresent, refPresent, hs, hb]

end Sys2Proof.Proofs
end

section
/-!
PROOFS. A self-test without a finding (17, R390 steps 4 to 9, R391, R401).
-/

namespace Sys2Proof.Proofs

open Sys2Proof Sys2Proof.Machine Sys2Proof.Laws

/-! ## Steps 5 to 8 -/

/-- The module once its keepers run and the counter store has been read (steps 4 and 5). -/
def counted5 (t : SelfTest) (b : Body) (exitDue : Bool) : Body :=
  ((b.until_ (b.clock.now + 40000000)).testKeepers t [0, 1]).firstRecords exitDue

/-- The module once its units, links and memory have been tested (steps 6 to 8). -/
def tested8 (t : SelfTest) (b : Body) : Body :=
  let c := ((b.testUnits t [0, 1]).testLinks t [0, 1]).testMemory t
  ((({ c with store := c.store.testBanks t [0, 1] }).testExclude t [0, 1]).fenceAtTest t).countTests

/-- The module after steps 5 to 8. -/
def proved8 (t : SelfTest) (b : Body) (exitDue : Bool) : Body :=
  tested8 t ((counted5 t b exitDue).until_ ((counted5 t b exitDue).clock.now + 4010000000))

/-- Tests that find nothing leave alone what they do not test. -/
theorem tested8_form (b : Body) : ∃ ps es st nt bt,
    tested8 cleanTest b = { b with pitches := ps, engines := es, store := st, net := nt, boot := bt } := by
  obtain ⟨sc, oc, hballs⟩ := runBalls_form ((b.testUnits cleanTest [0, 1]).testLinks cleanTest [0, 1]) cleanTest [0, 1]
  have hfences : (List.range 2).filter (SelfTest.fences cleanTest) = [] := by decide
  simp only [tested8, Body.testMemory, hballs, Body.fenceAtTest, hfences, List.foldl_nil]
  exact ⟨_, _, _, _, _, rfl⟩

/-- Step 5: beside the Scorebook nothing changes, and POWER_UP is the first record that waits. -/
theorem firstRecords_powerUp (b : Body) (exitDue : Bool) (hq : b.score.queue = []) (hfull : b.score.full = false) :
    ∃ k, b.firstRecords exitDue = { b with score := k } ∧ ∃ r ∈ k.queue.head?, r.type = 6 := by
  cases exitDue
  · refine ⟨_, rfl, ?_⟩
    simp [Body.record, Score.enqueue, hq, hfull, Body.makeRecord, recPowerUp]
  · refine ⟨_, rfl, ?_⟩
    simp [Body.record, Score.enqueue, hq, hfull, Body.makeRecord, recPowerUp]

/-! ## The keepers -/

/-- The keepers once the tests are over: their frames begin, and the west half leads unless it is FENCED. -/
def led8 (b : Body) : Body :=
  { b with
    boot := { b.boot with tested := true }
    keepers := { b.keepers with cores := b.keepers.cores.map (fun x => { x with frameAt := b.clock.now }), lead := if b.fenced 0 then 1 else 0 } }

/-- R296: every keeper that a test of both halves finds clean leaves reset from ROM. -/
theorem testKeepers_both (b : Body) (k : Nat) (hk : k < 8) (hlen : b.keepers.cores.length = 8) :
    (b.testKeepers cleanTest [0, 1]).keepers.cores[k]? = some ⟨.on, false, b.clock.now, none, false⟩ := by
  have hcov : covers [0, 1] (k / 4) = true := by
    obtain h | h : k / 4 = 0 ∨ k / 4 = 1 := by omega
    · rw [h]; rfl
    · rw [h]; rfl
  show (b.keepers.cores.zipIdx.map _)[k]? = _
  rw [List.getElem?_map, List.getElem?_zipIdx, List.getElem?_eq_getElem (by omega)]
  simp only [Option.map_some, Nat.zero_add, hcov, if_true]
  rfl

theorem led8_roleLost (b : Body) (hrun : ∀ k, k < 8 → ∃ x, b.keepers.cores[k]? = some x ∧ x.failed = false) :
    (led8 b).roleLost = false := by
  simp only [Body.roleLost, List.any_eq_false, List.mem_range, Bool.and_eq_true, not_and, Bool.not_eq_true]
  intro r hr hfail
  obtain ⟨x, hx, hok⟩ := hrun r (by omega)
  have hkeeper : (led8 b).keeper r = { x with frameAt := b.clock.now } := by
    show (b.keepers.cores.map _).getD r _ = _
    rw [List.getD_eq_getElem?_getD, List.getElem?_map, hx]
    rfl
  rw [hkeeper] at hfail
  rw [show x.failed = true from hfail] at hok
  cases hok

/-! ## READY -/

/-- Step 9 (R391). -/
def readied (b : Body) : Body :=
  { b.readyDefaults with boot := { b.readyDefaults.boot with start := .ready, step := 9, readyMs := b.readyDefaults.clock.now / 1000000 } }

theorem serveRings_empty (v : Vault) (b : Body) (h : ∀ r, r < 5 → (b.ring r).entries = []) : b.serveRings v = b := by
  have hring : ∀ r, r < 5 → b.serveRing v r = b := fun r hr => by
    unfold Body.serveRing
    rw [readRing_unread v r 16 b (h r hr), ite_self]
  refine List.foldlRecOn (List.range 5) _ (motive := fun c => c = b) rfl fun c hc r hr => ?_
  rw [hc, hring r (List.mem_range.1 hr)]

/-- Steps 8 and 9 of the module as its tests have left it. -/
def ended8 (v : Vault) (c : Body) : Body :=
  if ((led8 c).fenced 0 && (led8 c).fenced 1) || (led8 c).roleLost then (led8 c).failedAt 8 else (readied (led8 c)).serveRings v

theorem ended8_ready (v : Vault) (c : Body) (hfree : c.fenced 0 = false) (hroles : (led8 c).roleLost = false) :
    ended8 v c = (readied (led8 c)).serveRings v := by
  refine if_neg ?_
  rw [hroles, show (led8 c).fenced 0 = false from hfree, Bool.false_and, Bool.or_false]
  exact Bool.false_ne_true

theorem selfTest_stages (v : Vault) (t : SelfTest) (b : Body) : b.selfTest v t =
    ended8 v ((proved8 (SelfTest.judged t) b v.exitDue).selfTestRecords (marks (SelfTest.judged t))) := by
  unfold Body.selfTest
  extract_lets t' b₅ b₇ b₈ b₉
  have hproved : b₉ = (proved8 (SelfTest.judged t) b v.exitDue).selfTestRecords (marks (SelfTest.judged t)) := rfl
  rw [← hproved]
  clear_value b₉
  rfl

theorem selfTest_clean (v : Vault) (b : Body) : b.selfTest v cleanTest = ended8 v (proved8 cleanTest b v.exitDue) := by
  rw [selfTest_stages, show SelfTest.judged cleanTest = cleanTest from rfl, marks_cleanTest]
  rfl

/-- R390, R391: what a self-test without a finding leaves. -/
theorem selfTest_ready (v : Vault) (b : Body) (hlen : b.keepers.cores.length = 8) (hfree : b.fenced 0 = false) (hq : b.score.queue = [])
    (hfull : b.score.full = false) (hrings : ∀ r, r < 5 → (b.ring r).entries = []) (hparts : 0 < b.parts.length) :
    (b.selfTest v cleanTest).boot.start = .ready ∧ (b.selfTest v cleanTest).boot.step = 9 ∧
    (b.selfTest v cleanTest).clock.refPresent = b.clock.refPresent ∧
    ((b.selfTest v cleanTest).part 0).quotas = Quotas.full ∧
    (∀ p, p ≠ 0 → (b.selfTest v cleanTest).part p = b.part p) ∧
    ∃ r ∈ (b.selfTest v cleanTest).score.queue.head?, r.type = 6 := by
  obtain ⟨k, hcount, hrecord⟩ := firstRecords_powerUp ((b.until_ (b.clock.now + 40000000)).testKeepers cleanTest [0, 1]) v.exitDue hq hfull
  obtain ⟨ps, es, st, nt, bt, htest⟩ :=
    tested8_form ((counted5 cleanTest b v.exitDue).until_ ((counted5 cleanTest b v.exitDue).clock.now + 4010000000))
  have hcounted : counted5 cleanTest b v.exitDue = _ := hcount
  have hproved : proved8 cleanTest b v.exitDue = _ := htest
  rw [hcounted] at hproved
  have hcores := testKeepers_both (b.until_ (b.clock.now + 40000000)) (hlen := hlen)
  have hready : b.selfTest v cleanTest = readied (led8 (proved8 cleanTest b v.exitDue)) := by
    rw [selfTest_clean, ended8_ready v _ (by rw [hproved]; exact hfree)
      (led8_roleLost _ fun r hr => ⟨_, by rw [hproved]; exact hcores r hr, rfl⟩)]
    exact serveRings_empty v _ fun r hr => by rw [hproved]; exact hrings r hr
  rw [hready, hproved]
  refine ⟨rfl, rfl, rfl, ?_, fun p hp => ?_, hrecord⟩
  · exact congrArg Partition.quotas (alterPart_same b 0 _ hparts)
  · exact alterPart_other b 0 p _ hp

theorem ref_ready (s : State) (hs : s.body.boot.start = .waitRef ∨ s.body.boot.start = .testing) (hlen : s.body.keepers.cores.length = 8)
    (hfree : s.body.fenced 0 = false) (hq : s.body.score.queue = []) (hfull : s.body.score.full = false)
    (hrings : ∀ r, r < 5 → (s.body.slot (16 + r)).full = false ∧ (s.body.ring r).entries = []) (hparts : s.body.parts.length = 4) :
    ∃ t : State, exec (.refPresent cleanTest) s = .next t ∧ t.body.boot.start = .ready ∧ t.body.boot.step = 9 ∧
      t.body.clock.refPresent = true ∧ (t.body.part 0).quotas = Quotas.full ∧
      (∀ p, p ≠ 0 → t.body.part p = s.body.part p) ∧ (∃ r ∈ t.body.score.queue.head?, r.type = 6) := by
  have hexec := exec_refPresent s cleanTest
  have htests : refPresent cleanTest s.vault s.body = ({ s.vault with exitDue := false },
      Body.selfTest s.vault cleanTest { s.body with clock := { s.body.clock with refPresent := true } }) := by
    rcases hs with hs | hs
    · simp only [refPresent, hs]
    · simp only [refPresent, hs]
  rw [htests] at hexec
  have hready := selfTest_ready s.vault { s.body with clock := { s.body.clock with refPresent := true } } hlen hfree hq hfull
    (fun r hr => (hrings r hr).2) (by show 0 < s.body.parts.length; omega)
  generalize Body.selfTest s.vault cleanTest { s.body with clock := { s.body.clock with refPresent := true } } = c at hexec hready
  exact ⟨_, hexec, hready⟩

/-- Settles O56: each row of the log, of power-up and of the supply has its lemma above. -/
theorem logAndSupply : Obligations.LogAndSupply :=
  ⟨record_programmed, log_filled, hours_saved, input_valid, ref_ready, ref_returns, excursion_fatal, excursion_early, excursion_ignored,
    overvoltage_off, holdUp_ends, holdUp_lasts⟩

end Sys2Proof.Proofs
end
